-- ==== Sys2Proof/Word.lean ====
section
/-! DEFINITION. The word types of the SN1200 (R8) and their plainest arithmetic. -/

namespace Sys2Proof

/-- A byte is 8 bits (R8). -/
abbrev Byte := BitVec 8

/-- A 32-bit register. -/
abbrev W32 := BitVec 32

/-- A data word is 64 bits (R8). -/
abbrev W64 := BitVec 64

/-- Host port H0 or H1 (R420). -/
inductive HPort where
  | h0
  | h1
deriving DecidableEq, Repr

/-- The port number that R429 gives as INSTANCE of the command page. -/
def HPort.num : HPort → Nat
  | .h0 => 0
  | .h1 => 1

/-- The other host port. -/
def HPort.other : HPort → HPort
  | .h0 => .h1
  | .h1 => .h0

/-- Context 0 runs the program, context 1 the module's routines (R175). -/
inductive Ctx where
  | c0
  | c1
deriving DecidableEq, Repr

/-- The context's number. -/
def Ctx.num : Ctx → Nat
  | .c0 => 0
  | .c1 => 1

/-- The West and East halves of the wafer (R19). -/
inductive Half where
  | west
  | east
deriving DecidableEq, Repr

/-- The three control replicas (R22): 0 is CCA, 1 is CCB, 2 is CCC. -/
inductive Replica where
  | cca
  | ccb
  | ccc
deriving DecidableEq, Repr

/-- The replica's number (R429, INSTANCE 0 to 2). -/
def Replica.num : Replica → Nat
  | .cca => 0
  | .ccb => 1
  | .ccc => 2

end Sys2Proof
end

