-- ==== Sys2Proof/Syntax.lean ====
section
/-! DEFINITION. The commands of the SN1200: one constructor for each row of spec/opcode_table.json, with its operands. -/

namespace Sys2Proof

/-- CMD_FLAGS and CMD_ARG0 to CMD_ARG7 as the host stages them with a command (R436). -/
structure CmdArgs where
  flags : W32 := 0
  a0 : W64 := 0
  a1 : W64 := 0
  a2 : W64 := 0
  a3 : W64 := 0
  a4 : W64 := 0
  a5 : W64 := 0
  a6 : W64 := 0
  a7 : W64 := 0
deriving DecidableEq, Repr

/-- Header of a received calender message (R381): the port it came by, ATTEMPT, STEP, OFFSET, its SEQ or alive counter
(R363), whether its GCM tag and its check verify (R414, R359), and whether its TYPE is one of R382's; a message whose
TYPE is not comes in place of the row's. Where `wire` gives the bytes that arrive, the receiver finds all of this in them. -/
structure CalHdr where
  port : Nat
  attempt : Nat := 0
  step : Nat := 0
  offset : Nat := 0
  seq : Nat := 0
  ok : Bool := true
  typed : Bool := true
  wire : Option (List Byte) := none
deriving DecidableEq, Repr

/-- Body of a HELLO (R382). -/
structure HelloBody where
  compat : Nat
  chkSel : Nat
  role : Nat
  committed : Nat
  wmark : List Byte
  measurement : List Byte
deriving DecidableEq, Repr

/-- A KX0 frame (R413). -/
structure Kx0Frame where
  idCert : List Byte
  kemCert : List Byte
  secState : W32
  ownerHash : List Byte
deriving DecidableEq, Repr

/-- A KX1 frame (R413). -/
structure Kx1Frame where
  ct : List Byte
  sig : List Byte
deriving DecidableEq, Repr

/-- What the tests of start-up steps 1, 2, 5, 6 and 7 find (R474): fields whose fuse trips in its wave, tile slots
(cluster·17 + slot), clusters, links and port sites that test bad, packages (vat·8 + package) that fail, banks (R452) with
a failing row, one entry for each row, vats left without a repair row, replicas whose own result differs; whether a tamper switch is found operated (R418), whether the
boot ROM or the loader finds a failing image in service flash (R410), and the vat-local stripes of each vat, which R1's
512 GB and R285's 4,608 bytes give. -/
structure StartupReport where
  tripped : List Nat := []
  badSlots : List Nat := []
  badClusters : List Nat := []
  badLinks : List Nat := []
  badSites : List Nat := []
  badPackages : List Nat := []
  failingRows : List Nat := []
  unrepairable : List Nat := []
  dissent : List Replica := []
  tamperOpen : Bool := false
  badImage : Bool := false
  stripes : Nat := 111111111
deriving DecidableEq, Repr

/-- JTAG instructions (R416): the standard ones, and Thontidel's debug instructions by number. -/
inductive JtagIr where
  | idcode
  | bypass
  | standard (n : Nat)
  | debug (n : Nat)
deriving DecidableEq, Repr

/-- The unit a snapshot message reaches (R494). -/
abbrev PageNo := Nat

/-- The commands. `dissent` names a replica whose decision differs in the vote that the command takes (R22). -/
inductive Instr where
  -- Host commands (R440): the port that writes CMD_GO, with the arguments staged.
  | bind (p : HPort) (a : CmdArgs) (dissent : Option Replica := none)
  | unbind (p : HPort) (a : CmdArgs) (dissent : Option Replica := none)
  | loadProgram (p : HPort) (a : CmdArgs) (dissent : Option Replica := none)
  | runSteps (p : HPort) (a : CmdArgs) (dissent : Option Replica)
  | runQuery (p : HPort) (a : CmdArgs) (dissent : Option Replica := none)
  | exportSnapshot (p : HPort) (a : CmdArgs) (dissent : Option Replica := none)
  | importState (p : HPort) (a : CmdArgs) (dissent : Option Replica := none)
  | attest (p : HPort) (a : CmdArgs) (dissent : Option Replica := none)
  | twinJoin (p : HPort) (a : CmdArgs) (dissent : Option Replica := none)
  | twinLeave (p : HPort) (a : CmdArgs) (dissent : Option Replica := none)
  | resetCompute (p : HPort) (a : CmdArgs) (dissent : Option Replica := none)
  | scrub (p : HPort) (a : CmdArgs) (dissent : Option Replica := none)
  -- Key packages (R403): KEY_INSTALL with the package's address and length.
  | ownerSet (p : HPort) (a : CmdArgs) (dissent : Option Replica := none)
  | slotLoad (p : HPort) (a : CmdArgs) (dissent : Option Replica := none)
  | slotClear (p : HPort) (a : CmdArgs) (dissent : Option Replica := none)
  | zeroize (p : HPort) (a : CmdArgs) (dissent : Option Replica := none)
  | unsealMode (p : HPort) (a : CmdArgs) (dissent : Option Replica := none)
  | sealMode (p : HPort) (a : CmdArgs) (dissent : Option Replica := none)
  -- Register accesses: the accessing port and the value written; `same` is what the module does in the same cycle (R12).
  | cmdAbort (p : HPort) (v : W32)
  | leaseClaim (p : HPort) (v : W32)
  | leaseRelease (p : HPort) (v : W32)
  | leaseHeartbeat (p : HPort) (v : W32)
  | leaseTimeout (p : HPort) (v : W32)
  | leaseExpiry
  | latencyTolerance (p : HPort) (v : W32)
  | dumpPeriod (p : HPort) (v : W32)
  | chkSel (p : HPort) (site : Nat) (v : W32)
  | evtWrite (p : HPort) (off : Nat) (v : W32) (same : W32)
  | counterValueWrite (p : HPort) (off : Nat) (size : Nat) (v : W64) (same : Nat)
  | rcRead (p : HPort) (off : Nat) (same : Nat) (size : Nat := 4)
  | registerWrite (p : HPort) (off : Nat) (size : Nat) (v : W64) (dissent : Option Replica := none)
  | bar2Access (p : HPort) (write : Bool) (addr : Nat) (data : List Byte)
  -- Management and PCIe
  | jtagInstruction (ir : JtagIr)
  | smbusBlockWrite (data : List Byte)
  | smbusBlockRead (n : Nat)
  | perstAssert (p : HPort)
  | perstRelease (p : HPort) (rate width : Nat)
  | pcieLinkDown (p : HPort)
  | d3hot (p : HPort)
  -- Power, clocks, start-up
  | suppliesValid (r : StartupReport)
  | powerUpWave (tripped : List Nat)
  | busOutOfRange (h : Half)
  | fuseTrip (fields : List (Nat × Nat))
  | refLost (field : Nat)
  | tamper
  | tamperScrubEnd
  | tempSample (field : Nat) (sensors : List Nat) (dissent : Option Replica := none)
  | throttleRepeat (field : Nat) (dissent : Option Replica := none)
  | coolantSample (inlet outlet flow : Nat)
  | lifeCounterTick
  | pstateEntry (dissent : Option Replica := none)
  | wake
  | wakeComplete (failedLinks : List Nat) (dissent : Option Replica := none)
  | voltageSettled (field : Nat) (dissent : Option Replica := none)
  -- Calender
  | kx0 (port : Nat) (f : Kx0Frame)
  | kx1 (port : Nat) (f : Kx1Frame)
  | hello (h : CalHdr) (b : HelloBody)
  | helloRetry (port : Nat)
  | heartbeat (h : CalHdr) (state phase1 committed : Nat)
  | heartbeatSend
  | calenderPortDown (port : Nat) (dissent : Option Replica := none)
  | leave (h : CalHdr) (reason : Nat) (dissent : Option Replica := none)
  | watermark (h : CalHdr) (w : List Byte) (dissent : Option Replica := none)
  | digest (h : CalHdr) (body : List Byte)
  | watermarkTimeout
  | leaveWaitEnd (dissent : Option Replica := none)
  | joinTimeout
  | region (h : CalHdr) (body : List Byte)
  | steplog (h : CalHdr) (body : List Byte)
  | roundEnd (h : CalHdr) (round left : Nat)
  | switch (h : CalHdr) (first : Nat)
  -- Sequencer words (R179): the logical tile and the context whose next word it is.
  | nop (t : Nat) (c : Ctx)
  | seti (t : Nat) (c : Ctx)
  | addi (t : Nat) (c : Ctx)
  | loop (t : Nat) (c : Ctx)
  | tickWait (t : Nat) (c : Ctx)
  | stepEnd (t : Nat) (c : Ctx)
  | ctrSet (t : Nat) (c : Ctx) (same : Nat)
  | ctrWait (t : Nat) (c : Ctx)
  -- Matrix engine
  | engIssue (t : Nat) (c : Ctx)
  | reamOperation (t : Nat) (c : Ctx)
  | engineCompletion (t : Nat) (e : Nat)
  -- Copy engine
  | copy (t : Nat) (c : Ctx)
  | permute (t : Nat) (c : Ctx)
  | gather (t : Nat) (c : Ctx)
  | scatter (t : Nat) (c : Ctx)
  | scatterAdd (t : Nat) (c : Ctx)
  | copyCompletion (t : Nat)
  | vatResponse (t : Nat) (i : Nat)
  -- Vector engine
  | vconv (t : Nat) (c : Ctx)
  | add (t : Nat) (c : Ctx)
  | sub (t : Nat) (c : Ctx)
  | mul (t : Nat) (c : Ctx)
  | fma (t : Nat) (c : Ctx)
  | max (t : Nat) (c : Ctx)
  | min (t : Nat) (c : Ctx)
  | scale2 (t : Nat) (c : Ctx)
  | maxabs (t : Nat) (c : Ctx)
  | sum (t : Nat) (c : Ctx)
  | move (t : Nat) (c : Ctx)
  | vring (t : Nat) (c : Ctx)
  | adamw (t : Nat) (c : Ctx)
  | sgdm (t : Nat) (c : Ctx)
  | logpack (t : Nat) (c : Ctx)
  | vtopk (t : Nat) (c : Ctx)
  | vcomp (t : Nat) (c : Ctx)
  | censusClear (t : Nat) (c : Ctx)
  | censusStore (t : Nat) (c : Ctx)
  | censusFlags (t : Nat) (c : Ctx)
  | vectorCompletion (t : Nat)
  -- Remote memory operations
  | put (t : Nat) (c : Ctx)
  | get (t : Nat) (c : Ctx)
  | radd (t : Nat) (c : Ctx)
  | rmax (t : Nat) (c : Ctx)
  | rswap (t : Nat) (c : Ctx)
  | mcast (t : Nat) (c : Ctx)
  | convAdd (t : Nat) (c : Ctx)
  | remoteArrival (src : Nat) (c : Ctx) (dst : Nat)
  | getResponse (t : Nat)
  | acknowledgement (t : Nat) (c : Ctx) (dst : Nat)
  -- Ticks, felt, binding
  | tickWaveLaunch (dissent : Option Replica)
  | waveArrival (cluster : Nat)
  | tickArrival (cluster : Nat)
  | replayRequest (link : Nat) (forward good : Bool) (lane : Nat := 0) (seq : Nat := 0)
  | linkRetrainDone (link : Nat) (pass : Bool)
  | bindingApplied (dissent : Option Replica)
  | sramWriteBack (slot : Nat) (addr : Nat)
  -- Vats
  | vatLineRequest (v : Nat)
  | vatWriteBack (v : Nat)
  | patrol (v : Nat)
  -- Steps and queries
  | feedFillPoll (dissent : Option Replica := none)
  | stepBegin (dissent : Option Replica := none)
  | hostReadCompletion (slot : Nat) (entry : Nat) (wire : Bool)
  | streamEntry (slot : Nat) (i : Nat)
  | viewEntry (i : Nat)
  | stepSeal (dissent : Option Replica)
  | phase2Chunk
  | commit (dissent : Option Replica)
  | rollForward (dissent : Option Replica := none)
  | qtabFillPoll (q : Nat) (dissent : Option Replica := none)
  | queryOutput (q : Nat)
  -- Counters
  | counterSnapshot
  | snapshotLatch (page : PageNo)
  | dumpWritten
  -- Rows at the table's end
  | d0 (p : HPort)
  | firmwareUpdate (p : HPort) (image : List Byte) (svn raisedMin : Nat)
  | servicePortPacket (site : Nat) (packet : List Byte) (check : Nat)
  | busRange (h : Half) (mv : Nat)
  | refOk
deriving DecidableEq, Repr

end Sys2Proof
end

