-- ==== Sys2Proof/Machine/Bits.lean ====
section
/-! DEFINITION. Bit fields, little-endian bytes, two's complement and sparse maps, used by every other file. -/

namespace Sys2Proof.Machine

/-- Bits [hi:lo] of a number, both bounds included (R8). -/
def fld (x hi lo : Nat) : Nat := (x >>> lo) % 2 ^ (hi - lo + 1)

/-- Division rounded up. -/
def cdiv (a b : Nat) : Nat := (a + b - 1) / b

/-- `x` rounded up to a multiple of `a`. -/
def alignUp (x a : Nat) : Nat := cdiv x a * a

/-- Saturating count of `w` bits. -/
def satAdd (w x n : Nat) : Nat := min (x + n) (2 ^ w - 1)

/-- Two's-complement reading of the low `w` bits. -/
def sx (w x : Nat) : Int :=
  let y := x % 2 ^ w
  if y < 2 ^ (w - 1) then (y : Int) else (y : Int) - (2 ^ w : Nat)

/-- Two's-complement code of `w` bits. -/
def toTwos (w : Nat) (i : Int) : Nat := (i % ((2 ^ w : Nat) : Int)).toNat

/-- `i` clamped to `lo` to `hi` inclusive. -/
def clampInt (lo hi i : Int) : Int := if i < lo then lo else if hi < i then hi else i

/-- floor(`i` · 2^`k`) for any integer `k`: the arithmetic shift of R105. -/
def shiftFloor (i k : Int) : Int :=
  match k with
  | .ofNat n => i * ((2 ^ n : Nat) : Int)
  | .negSucc n => i >>> (n + 1)

/-- The `n` bytes of a number, least significant first (R8). -/
def leBytes : Nat → Nat → List Byte
  | 0, _ => []
  | n + 1, x => BitVec.ofNat 8 x :: leBytes n (x / 256)

/-- The number that bytes spell, least significant first (R8). -/
def leNat : List Byte → Nat
  | [] => 0
  | b :: r => b.toNat + 256 * leNat r

/-- Bytes `off` to `off + n - 1` of a byte string; bytes past its end read 0. -/
def bytesAt (bs : List Byte) (off n : Nat) : List Byte :=
  let part := (bs.drop off).take n
  part ++ List.replicate (n - part.length) 0

/-- The little-endian number at an offset of a byte string. -/
def leAt (bs : List Byte) (off n : Nat) : Nat := leNat (bytesAt bs off n)

/-- The bytes of an ASCII text. -/
def ascii (t : String) : List Byte := t.toList.map fun c => BitVec.ofNat 8 c.toNat

/-- Exclusive OR of two byte strings of one length. -/
def xorBytes (a b : List Byte) : List Byte := List.zipWith (· ^^^ ·) a b

/-- A byte string is all zero. -/
def allZero (bs : List Byte) : Bool := bs.all (· == 0)

/-- Element `i` of a list, with a default. -/
def nth {α : Type} (d : α) : List α → Nat → α
  | [], _ => d
  | a :: _, 0 => a
  | _ :: r, i + 1 => nth d r i

/-- Replace element `i` of a list. -/
def setNth {α : Type} : List α → Nat → α → List α
  | [], _, _ => []
  | _ :: r, 0, v => v :: r
  | a :: r, i + 1, v => a :: setNth r i v

/-- Every pair of two lists, the first list outermost. -/
def pairs {α β : Type} (xs : List α) (ys : List β) : List (α × β) :=
  xs.flatMap fun x => ys.map fun y => (x, y)

/-- First element that satisfies a test, with its index counted from `i`. -/
def findFrom {α : Type} (p : α → Bool) : List α → Nat → Option Nat
  | [], _ => none
  | a :: r, i => if p a then some i else findFrom p r (i + 1)

/-- Put an element before the first of a larger key. -/
def insertBy {α : Type} (key : α → Nat) (x : α) : List α → List α
  | [] => [x]
  | y :: r => if key x < key y then x :: y :: r else y :: insertBy key x r

/-- A list by rising key; elements of one key keep their order. -/
def ascend {α : Type} (key : α → Nat) (l : List α) : List α := l.foldl (fun r x => insertBy key x r) []

/-- The part of a list split into pieces of `n`, with as many pieces as `fuel` allows. -/
def chunksOf {α : Type} (n : Nat) : Nat → List α → List (List α)
  | 0, _ => []
  | k + 1, xs => xs.take n :: chunksOf n k (xs.drop n)

/-! A sparse map: pairs of strictly rising keys, with no entry that equals the default. -/

/-- Value at a key; an unlisted key holds the default. -/
def sget {α : Type} (d : α) : List (Nat × α) → Nat → α
  | [], _ => d
  | (k, v) :: r, i => if i = k then v else sget d r i

/-- Put an entry before the first greater key. -/
def sins {α : Type} : List (Nat × α) → Nat → α → List (Nat × α)
  | [], i, v => [(i, v)]
  | (k, w) :: r, i, v => if i < k then (i, v) :: (k, w) :: r else (k, w) :: sins r i v

/-- Write a key, keeping the canonical form. -/
def sput {α : Type} [DecidableEq α] (d : α) (m : List (Nat × α)) (i : Nat) (v : α) : List (Nat × α) :=
  let r := m.filter fun kv => kv.1 != i
  if v = d then r else sins r i v

/-- Every key is above `b`, keys rise strictly, and no value is the default. -/
def swfFrom {α : Type} [DecidableEq α] (d : α) : Option Nat → List (Nat × α) → Bool
  | _, [] => true
  | b, (k, v) :: r =>
    (match b with
      | none => true
      | some j => decide (j < k)) && decide (v ≠ d) && swfFrom d (some k) r

/-- The canonical form of a sparse map. -/
def swf {α : Type} [DecidableEq α] (d : α) (m : List (Nat × α)) : Bool := swfFrom d none m

/-- Write consecutive keys from `i`. -/
def sputs {α : Type} [DecidableEq α] (d : α) (m : List (Nat × α)) (i : Nat) :
    List α → List (Nat × α)
  | [] => m
  | v :: r => sputs d (sput d m i v) (i + 1) r

/-- Read `n` consecutive keys from `i`. -/
def sgets {α : Type} (d : α) (m : List (Nat × α)) (i : Nat) : Nat → List α
  | 0 => []
  | n + 1 => sget d m i :: sgets d m (i + 1) n

/-- The keys from `lo` to `hi - 1` set to the default. -/
def sclear {α : Type} (m : List (Nat × α)) (lo hi : Nat) : List (Nat × α) :=
  m.filter fun kv => !(decide (lo ≤ kv.1) && decide (kv.1 < hi))

end Sys2Proof.Machine
end

