-- ==== Sys2Proof/Machine/Crypto.lean ====
section
/-! DEFINITION. SHAKE256 (FIPS 202), AES-256 (FIPS 197), AES-256-GCM with 96-bit IVs (SP 800-38D) and RFC 3394 key wrap,
the algorithms that R394 names by their standards (PRESUMED, log entry 9). -/

namespace Sys2Proof.Machine

/-! SHAKE256 -/

/-- Rotate a 64-bit lane left. -/
def rol64 (x n : Nat) : Nat := ((x <<< (n % 64)) ||| (x >>> (64 - n % 64))) % 2 ^ 64

/-- Round constants of Keccak-f[1600]. -/
def keccakRC : List Nat :=
  [0x0000000000000001, 0x0000000000008082, 0x800000000000808A, 0x8000000080008000,
   0x000000000000808B, 0x0000000080000001, 0x8000000080008081, 0x8000000000008009] ++
  [0x000000000000008A, 0x0000000000000088, 0x0000000080008009, 0x000000008000000A,
   0x000000008000808B, 0x800000000000008B, 0x8000000000008089, 0x8000000000008003] ++
  [0x8000000000008002, 0x8000000000000080, 0x000000000000800A, 0x800000008000000A,
   0x8000000080008081, 0x8000000000008080, 0x0000000080000001, 0x8000000080008008]

/-- Rotation offsets, lane x + 5y. -/
def keccakRot : List Nat :=
  [0, 1, 62, 28, 27, 36, 44, 6, 55, 20, 3, 10, 43, 25, 39, 41, 45, 15, 21, 8, 18, 2, 61, 56, 14]

/-- One round on 25 lanes. -/
def keccakRound (a : List Nat) (rc : Nat) : List Nat :=
  let l := fun (s : List Nat) i => nth 0 s i
  let c := (List.range 5).map fun x => l a x ^^^ l a (x + 5) ^^^ l a (x + 10) ^^^ l a (x + 15) ^^^ l a (x + 20)
  let d := (List.range 5).map fun x => l c ((x + 4) % 5) ^^^ rol64 (l c ((x + 1) % 5)) 1
  let t := (List.range 25).map fun i => l a i ^^^ l d (i % 5)
  let b := (List.range 25).map fun i =>
    let x := i % 5
    let y := i / 5
    let sx := (x + 3 * y) % 5
    let src := sx + 5 * x
    rol64 (l t src) (l keccakRot src)
  let e := (List.range 25).map fun i =>
    let x := i % 5
    let y := i / 5
    l b i ^^^ ((2 ^ 64 - 1 - l b ((x + 1) % 5 + 5 * y)) &&& l b ((x + 2) % 5 + 5 * y))
  match e with
  | h :: r => (h ^^^ rc) :: r
  | [] => []

/-- Keccak-f[1600]. -/
def keccakF (a : List Nat) : List Nat := keccakRC.foldl keccakRound a

/-- Absorb one block of 136 bytes. -/
def shakeAbsorb (st : List Nat) (blk : List Byte) : List Nat :=
  keccakF ((List.range 25).map fun i => nth 0 st i ^^^ (if i < 17 then leAt blk (8 * i) 8 else 0))

/-- Squeeze blocks of 136 bytes. -/
def shakeSqueeze : Nat → List Nat → List Byte
  | 0, _ => []
  | n + 1, st => ((List.range 17).flatMap fun i => leBytes 8 (nth 0 st i)) ++ shakeSqueeze n (keccakF st)

/-- The first `n` bytes of SHAKE256 over a message (R394). -/
def shake256 (msg : List Byte) (n : Nat) : List Byte :=
  let blocks := msg.length / 136 + 1
  let pad := blocks * 136 - msg.length
  let tail : List Byte := if pad = 1 then [0x9F] else 0x1F :: (List.replicate (pad - 2) 0 ++ [0x80])
  let st := (chunksOf 136 blocks (msg ++ tail)).foldl shakeAbsorb (List.replicate 25 0)
  (shakeSqueeze (cdiv n 136) st).take n

/-- A measurement: 64 bytes of SHAKE256 (R394). -/
def measure (msg : List Byte) : List Byte := shake256 msg 64

/-! AES-256 -/

/-- Multiply by x in GF(2^8). -/
def xtime (b : Nat) : Nat := if b < 128 then 2 * b else (2 * b) % 256 ^^^ 0x1B

/-- Product in GF(2^8). -/
def gmul8 : Nat → Nat → Nat → Nat
  | 0, _, _ => 0
  | n + 1, a, b => (if b % 2 = 1 then a else 0) ^^^ gmul8 n (xtime a) (b / 2)

/-- Inverse in GF(2^8): the power 254. -/
def ginv8 (a : Nat) : Nat :=
  let sq := fun x => gmul8 8 x x
  let m := fun x y => gmul8 8 x y
  let a2 := sq a
  let a3 := m a2 a
  let a6 := sq a3
  let a7 := m a6 a
  let a14 := sq a7
  let a15 := m a14 a
  let a30 := sq a15
  let a31 := m a30 a
  let a62 := sq a31
  let a63 := m a62 a
  let a126 := sq a63
  let a127 := m a126 a
  sq a127

/-- The S-box. -/
def sboxOf (a : Nat) : Nat :=
  let b := ginv8 a
  let r := fun k => ((b <<< k) ||| (b >>> (8 - k))) % 256
  b ^^^ r 1 ^^^ r 2 ^^^ r 3 ^^^ r 4 ^^^ 0x63

/-- The S-box as a table. -/
def sbox : List Nat := (List.range 256).map sboxOf

/-- The inverse S-box as a table. -/
def sboxInv : List Nat := (List.range 256).map fun v => (findFrom (· == v) sbox 0).getD 0

/-- Round constants of the key schedule. -/
def rcon : List Nat := [0x01, 0x02, 0x04, 0x08, 0x10, 0x20, 0x40]

/-- The key schedule as words of 4 bytes, the latest first. -/
def aesExpand (key : List Nat) : Nat → List (List Nat)
  | 0 => ((chunksOf 4 8 key)).reverse
  | n + 1 =>
    let ws := aesExpand key n
    let i := 8 + n
    let prev := nth [] ws 0
    let old := nth [] ws 7
    let t := if i % 8 = 0 then
        (match (prev.drop 1 ++ prev.take 1).map (nth 0 sbox) with
          | h :: r => (h ^^^ nth 0 rcon (i / 8 - 1)) :: r
          | [] => [])
      else if i % 8 = 4 then prev.map (nth 0 sbox) else prev
    List.zipWith (· ^^^ ·) old t :: ws

/-- The 15 round keys of 16 bytes. -/
def aesKeys (key : List Byte) : List (List Nat) :=
  chunksOf 16 15 ((aesExpand (key.map fun b => b.toNat) 52).reverse.flatten)

/-- Mix one column. -/
def mixCol (m : List Nat) (c : List Nat) : List Nat :=
  (List.range 4).map fun i =>
    (List.range 4).foldl (fun x j => x ^^^ gmul8 8 (nth 0 c j) (nth 0 m ((j + 4 - i) % 4))) 0

/-- Mix every column with the circulant of `m`. -/
def mixCols (m st : List Nat) : List Nat := (chunksOf 4 4 st).flatMap (mixCol m)

/-- Byte r of column c comes from column c + r (or c − r inverted). -/
def shiftRows (inv : Bool) (st : List Nat) : List Nat :=
  (List.range 16).map fun i =>
    let r := i % 4
    let c := i / 4
    nth 0 st (4 * ((c + (if inv then 4 - r else r)) % 4) + r)

/-- Encrypt one block under round keys. -/
def aesEncK (ks : List (List Nat)) (blk : List Byte) : List Byte :=
  let st := List.zipWith (· ^^^ ·) (blk.map fun b => b.toNat) (nth [] ks 0)
  let st := (List.range 13).foldl (fun s i =>
    List.zipWith (· ^^^ ·) (mixCols [2, 3, 1, 1] (shiftRows false (s.map (nth 0 sbox)))) (nth [] ks (i + 1))) st
  (List.zipWith (· ^^^ ·) (shiftRows false (st.map (nth 0 sbox))) (nth [] ks 14)).map fun x => BitVec.ofNat 8 x

/-- Decrypt one block under round keys. -/
def aesDecK (ks : List (List Nat)) (blk : List Byte) : List Byte :=
  let st := List.zipWith (· ^^^ ·) (blk.map fun b => b.toNat) (nth [] ks 14)
  let st := (List.range 13).foldl (fun s i =>
    mixCols [14, 11, 13, 9] (List.zipWith (· ^^^ ·) ((shiftRows true s).map (nth 0 sboxInv)) (nth [] ks (13 - i)))) st
  (List.zipWith (· ^^^ ·) ((shiftRows true st).map (nth 0 sboxInv)) (nth [] ks 0)).map fun x => BitVec.ofNat 8 x

/-! GCM -/

/-- The big-endian number that bytes spell. -/
def beNat (bs : List Byte) : Nat := bs.foldl (fun x b => x * 256 + b.toNat) 0

/-- The `n` bytes of a number, most significant first. -/
def beBytes (n x : Nat) : List Byte := (leBytes n x).reverse

/-- Product in GF(2^128) with GCM's bit order: bit 127 of a number is its first bit. -/
def gmul128 : Nat → Nat → Nat → Nat
  | 0, _, _ => 0
  | n + 1, x, v =>
    (if x.testBit n then v else 0) ^^^
      gmul128 n x (if v % 2 = 1 then (v >>> 1) ^^^ (0xE1 <<< 120) else v >>> 1)

/-- GHASH over blocks. -/
def ghash (h : Nat) (blocks : List (List Byte)) : Nat :=
  blocks.foldl (fun y b => gmul128 128 (y ^^^ beNat b) h) 0

/-- Bytes padded with zeros to whole 16-byte blocks. -/
def pad16 (bs : List Byte) : List (List Byte) :=
  chunksOf 16 (cdiv bs.length 16) (bs ++ List.replicate (alignUp bs.length 16 - bs.length) 0)

/-- Counter-mode keystream blocks from a counter. -/
def ctrStream (ks : List (List Nat)) (iv : List Byte) : Nat → Nat → List Byte
  | 0, _ => []
  | n + 1, c => aesEncK ks (iv ++ beBytes 4 c) ++ ctrStream ks iv n (c + 1)

/-- The GCM tag over additional data and ciphertext. -/
def gcmTag (ks : List (List Nat)) (iv aad ct : List Byte) : List Byte :=
  let h := beNat (aesEncK ks (List.replicate 16 0))
  let s := ghash h (pad16 aad ++ pad16 ct ++ [beBytes 8 (8 * aad.length) ++ beBytes 8 (8 * ct.length)])
  xorBytes (beBytes 16 s) (aesEncK ks (iv ++ beBytes 4 1))

/-- Encrypt or decrypt with the counter stream. -/
def gcmCrypt (ks : List (List Nat)) (iv data : List Byte) : List Byte :=
  xorBytes data (ctrStream ks iv (cdiv data.length 16) 2)

/-- AES-256-GCM sealing: ciphertext and 16-byte tag. -/
def gcmSeal (key iv aad pt : List Byte) : List Byte × List Byte :=
  let ks := aesKeys key
  let ct := gcmCrypt ks iv pt
  (ct, gcmTag ks iv aad ct)

/-- AES-256-GCM opening: the plaintext when the tag verifies. -/
def gcmOpen (key iv aad ct tag : List Byte) : Option (List Byte) :=
  let ks := aesKeys key
  if gcmTag ks iv aad ct = tag then some (gcmCrypt ks iv ct) else none

/-! RFC 3394 with the default initial value, 256-bit keys (R394) -/

/-- The default initial value. -/
def kwIV : List Byte := List.replicate 8 0xA6

/-- Wrap a 32-byte key into 40 bytes. -/
def kwWrap (kek dek : List Byte) : List Byte :=
  let ks := aesKeys kek
  let step := fun (st : List Byte × List (List Byte)) (t : Nat) =>
    let i := (t - 1) % 4
    let b := aesEncK ks (st.1 ++ nth [] st.2 i)
    (xorBytes (b.take 8) (beBytes 8 t), setNth st.2 i (b.drop 8))
  let r := ((List.range 24).map (· + 1)).foldl step (kwIV, chunksOf 8 4 dek)
  r.1 ++ r.2.flatten

/-- Unwrap 40 bytes; none when the integrity check fails. -/
def kwUnwrap (kek w : List Byte) : Option (List Byte) :=
  let ks := aesKeys kek
  let step := fun (st : List Byte × List (List Byte)) (t : Nat) =>
    let i := (t - 1) % 4
    let b := aesDecK ks (xorBytes st.1 (beBytes 8 t) ++ nth [] st.2 i)
    (b.take 8, setNth st.2 i (b.drop 8))
  let r := ((List.range 24).map (· + 1)).reverse.foldl step (w.take 8, chunksOf 8 4 (w.drop 8))
  if r.1 = kwIV then some r.2.flatten else none

end Sys2Proof.Machine
end

