-- ==== Sys2Proof/Config.lean ====
section
/-! DEFINITION. What one implementation fixes, the free values (log entry 1), and the algorithms that rest on secrets
(log entry 8). No constant here that has no body can be evaluated, so no proof can lean on a value of it. -/

namespace Sys2Proof.Config

/-- A free byte: value number `n` that the spec leaves open. -/
opaque freeByte : Nat → Byte

/-- A free 64-bit value. -/
opaque freeWord : Nat → W64

/-- A free choice. -/
opaque freeBool : Nat → Bool

/-- Output of the security generator (R395): request number and length. -/
opaque entropy : Nat → Nat → List Byte

/-- Falcon-1024 verification: public key, message, signature (R394). -/
opaque falconVerify : List Byte → List Byte → List Byte → Bool

/-- Falcon-1024 signature by the module's identity key: message and generator request (R409, R412, R413). -/
opaque falconSign : List Byte → Nat → List Byte

/-- ML-KEM-1024 decapsulation under the module's KEM key: ciphertext to shared secret, implicit rejection included
(R403, R413). -/
opaque kemDecap : List Byte → List Byte

/-- ML-KEM-1024 encapsulation to a peer's key with generator request `n`: ciphertext and shared secret (R413). -/
opaque kemEncap : List Byte → Nat → List Byte × List Byte

/-- The identity public key, the KEM encapsulation key and the authority's signature over the identity (R409). -/
opaque identityKey : List Byte
/-- The module's ML-KEM encapsulation key (R396). -/
opaque kemKey : List Byte
/-- The authority's signature in the identity certificate (R409). -/
opaque authoritySig : List Byte
/-- The device authority's public key, whose hash the fuses hold (R409). -/
opaque authorityKey : List Byte

/-- Where the BAR2 window lies in vat space (R423 gives its size alone; log entry 10). -/
opaque bar2Map : Nat → Nat

/-- Post-package repair rows of each LPDDR5X bank, by vat·1,024 + channel·32 + bank (R366): fixed by the parts fitted. -/
opaque repairRows : Nat → Nat

/-- The value that JTAG's IDCODE shows, which no rule gives. -/
opaque idcode : W32

/-- The plaintext of a query's output, which no rule locates (R406, R445): a free function of the items of R54, the
program image with the program positions, the committed state at the query's start as (address, byte) pairs, and the
input with its TAG and the seed that it carries. -/
opaque queryOutput : List Byte → List (Nat × Byte) → List Byte → List Byte → Nat → List Byte

end Sys2Proof.Config
end

