-- ==== Sys2Proof/Machine/Float.lean ====
section
/-! DEFINITION. The floating-point formats that share the IEEE pattern (R60 to R69, R91), exact values, and the one
rounding rule of R61 and R62 with the arithmetic built on it. -/

namespace Sys2Proof.Machine

/-- A floating-point format: exponent bits and fraction bits. -/
structure Fmt where
  eb : Nat
  fb : Nat
deriving DecidableEq, Repr

/-- F32 and A32 (R65, R66). -/
def f32 : Fmt := ⟨8, 23⟩
/-- F19 (R67). -/
def f19 : Fmt := ⟨8, 10⟩
/-- W48 (R69). -/
def w48 : Fmt := ⟨11, 36⟩
/-- binary16 (R91). -/
def b16 : Fmt := ⟨5, 10⟩

namespace Fmt

/-- The exponent bias. -/
def bias (f : Fmt) : Nat := 2 ^ (f.eb - 1) - 1
/-- The exponent field of Inf and NaN. -/
def emax (f : Fmt) : Nat := 2 ^ f.eb - 1
/-- The canonical NaN (R63). -/
def nan (f : Fmt) : Nat := f.emax * 2 ^ f.fb + 2 ^ (f.fb - 1)
/-- The sign bit of a code. -/
def signed (f : Fmt) (neg : Bool) (mag : Nat) : Nat := if neg then mag + 2 ^ (f.eb + f.fb) else mag
/-- Inf with a sign. -/
def inf (f : Fmt) (neg : Bool) : Nat := f.signed neg (f.emax * 2 ^ f.fb)
/-- The largest finite value with a sign. -/
def maxFin (f : Fmt) (neg : Bool) : Nat := f.signed neg (f.emax * 2 ^ f.fb - 1)

end Fmt

/-- The value of a code: NaN, a signed Inf, or the exact number ±m·2^e, with signed zero at m = 0. -/
inductive Fp where
  | nan
  | inf (neg : Bool)
  | fin (neg : Bool) (m : Nat) (e : Int)
deriving DecidableEq, Repr

/-- The value is NaN or Inf. -/
def Fp.nonFinite : Fp → Bool
  | .fin _ _ _ => false
  | _ => true

/-- Zero of either sign. -/
def Fp.isZero : Fp → Bool
  | .fin _ 0 _ => true
  | _ => false

/-- The value with the opposite sign. -/
def Fp.neg : Fp → Fp
  | .nan => .nan
  | .inf s => .inf (!s)
  | .fin s m e => .fin (!s) m e

/-- A code is a subnormal encoding. -/
def isSubnormal (f : Fmt) (x : Nat) : Bool :=
  decide (fld x (f.eb + f.fb - 1) f.fb = 0) && decide (x % 2 ^ f.fb ≠ 0)

/-- Read a code; a subnormal is a zero of its sign (R61) unless `keep` is set (R92). -/
def fpRead (f : Fmt) (keep : Bool) (x : Nat) : Fp :=
  let s := x.testBit (f.eb + f.fb)
  let e := fld x (f.eb + f.fb - 1) f.fb
  let q := x % 2 ^ f.fb
  if e = f.emax then (if q = 0 then .inf s else .nan)
  else if e = 0 then
    (if keep then .fin s q (1 - (f.bias : Int) - f.fb) else .fin s 0 0)
  else .fin s (q + 2 ^ f.fb) ((e : Int) - f.bias - f.fb)

/-- A rounded code, with whether it saturated (R62) or was flushed (R61). -/
structure Rnd where
  code : Nat
  sat : Bool := false
  flush : Bool := false
deriving DecidableEq, Repr

/-- Round m·2^e to an integer multiple of 2^(e+k) by nearest even. -/
def rneShift (m k : Nat) : Nat :=
  if k = 0 then m
  else
    let q := m >>> k
    let r := m % 2 ^ k
    let h := 2 ^ (k - 1)
    if h < r ∨ (r = h ∧ q % 2 = 1) then q + 1 else q

/-- Round the exact ±m·2^e by nearest even to the format's precision with an unbounded exponent; then flush below the
smallest normal (R61) and saturate above the largest finite value (R62). -/
def fpRound (f : Fmt) (neg : Bool) (m : Nat) (e : Int) : Rnd :=
  if m = 0 then ⟨f.signed neg 0, false, false⟩
  else
    let l := m.log2
    let k := l - f.fb
    let q := if f.fb ≤ l then rneShift m k else m <<< (f.fb - l)
    let top : Int := (l : Int) + e + (if q = 2 ^ (f.fb + 1) then 1 else 0)
    let frac := if q = 2 ^ (f.fb + 1) then 0 else q - 2 ^ f.fb
    let be : Int := top + f.bias
    if be < 1 then ⟨f.signed neg 0, false, true⟩
    else if (f.emax : Int) ≤ be then ⟨f.maxFin neg, true, false⟩
    else ⟨f.signed neg (be.toNat * 2 ^ f.fb + frac), false, false⟩

/-- Write a value in a format (R61 to R63). -/
def fpWrite (f : Fmt) : Fp → Rnd
  | .nan => ⟨f.nan, false, false⟩
  | .inf s => ⟨f.inf s, false, false⟩
  | .fin s m e => fpRound f s m e

/-- The exact integer of a signed magnitude. -/
def smag (neg : Bool) (m : Nat) : Int := if neg then -(m : Int) else (m : Int)

/-- The exact sum of two values; an exact zero sum is +0 unless both addends are −0 (R119); Inf and NaN as R118. -/
def fpAdd : Fp → Fp → Fp
  | .nan, _ => .nan
  | _, .nan => .nan
  | .inf a, .inf b => if a = b then .inf a else .nan
  | .inf a, _ => .inf a
  | _, .inf b => .inf b
  | .fin sa ma ea, .fin sb mb eb =>
    let e := min ea eb
    let t := smag sa ma * ((2 ^ (ea - e).toNat : Nat) : Int) + smag sb mb * ((2 ^ (eb - e).toNat : Nat) : Int)
    if t = 0 then .fin (decide (ma = 0 ∧ mb = 0) && sa && sb) 0 0
    else .fin (decide (t < 0)) t.natAbs e

/-- The exact product of two values. -/
def fpMul : Fp → Fp → Fp
  | .nan, _ => .nan
  | _, .nan => .nan
  | .inf a, .inf b => .inf (a != b)
  | .inf a, .fin b m _ => if m = 0 then .nan else .inf (a != b)
  | .fin a m _, .inf b => if m = 0 then .nan else .inf (a != b)
  | .fin a ma ea, .fin b mb eb => .fin (a != b) (ma * mb) (ea + eb)

/-- Exact scaling by a power of two. -/
def fpScale (v : Fp) (n : Int) : Fp :=
  match v with
  | .fin s m e => .fin s m (e + n)
  | w => w

/-- Division (R62, R63): zero by zero is NaN, a finite non-zero value by zero saturates, Inf by Inf is NaN. The quotient
keeps 80 bits and a sticky bit, so one rounding to any format is exact. The Bool says that the exact magnitude
exceeds every finite value. -/
def fpDiv : Fp → Fp → Fp × Bool
  | .nan, _ => (.nan, false)
  | _, .nan => (.nan, false)
  | .inf _, .inf _ => (.nan, false)
  | .inf a, .fin b _ _ => (.inf (a != b), false)
  | .fin a _ _, .inf b => (.fin (a != b) 0 0, false)
  | .fin a ma ea, .fin b mb eb =>
    if mb = 0 then (if ma = 0 then (.nan, false) else (.fin (a != b) 1 0, true))
    else
      let k := 80 + mb.log2
      let q := (ma <<< k) / mb
      let r := (ma <<< k) % mb
      (.fin (a != b) (2 * q + (if r = 0 then 0 else 1)) (ea - eb - k - 1), false)

/-- The integer square root of a number below 4^n, bit by bit. -/
def isqrt : Nat → Nat → Nat
  | 0, _ => 0
  | n + 1, x =>
    let r := 2 * isqrt n (x / 4)
    if (r + 1) * (r + 1) ≤ x then r + 1 else r

/-- Square root (R63): of −0 it is −0, of a negative non-zero value NaN. Kept to 80 bits and a sticky bit. -/
def fpSqrt : Fp → Fp
  | .nan => .nan
  | .inf false => .inf false
  | .inf true => .nan
  | .fin s m e =>
    if m = 0 then .fin s 0 0
    else if s then .nan
    else
      let odd : Nat := (e % 2).toNat
      let x := m <<< (160 + odd)
      let r := isqrt (x.log2 / 2 + 1) x
      .fin false (2 * r + (if r * r = x then 0 else 1)) ((e - odd) / 2 - 80 - 1)

/-- Compare two non-NaN values: −1, 0 or 1, with +0 and −0 equal. -/
def fpCmp (a b : Fp) : Int :=
  match a, b with
  | .inf s, .inf t => if s = t then 0 else if s then -1 else 1
  | .inf s, _ => if s then -1 else 1
  | _, .inf t => if t then 1 else -1
  | .fin sa ma ea, .fin sb mb eb =>
    let e := min ea eb
    let x := smag sa ma * ((2 ^ (ea - e).toNat : Nat) : Int)
    let y := smag sb mb * ((2 ^ (eb - e).toNat : Nat) : Int)
    if x < y then -1 else if x = y then 0 else 1
  | _, _ => 0

/-- The sign of a value. -/
def Fp.isNeg : Fp → Bool
  | .nan => false
  | .inf s => s
  | .fin s _ _ => s

/-- R192 MAX: NaN when either is NaN; +0 above −0. -/
def fpMax (a b : Fp) : Fp :=
  if a = .nan ∨ b = .nan then .nan
  else if fpCmp a b = 0 then (if a.isNeg then b else a)
  else if fpCmp a b < 0 then b else a

/-- R192 MIN: NaN when either is NaN; −0 below +0. -/
def fpMin (a b : Fp) : Fp :=
  if a = .nan ∨ b = .nan then .nan
  else if fpCmp a b = 0 then (if a.isNeg then a else b)
  else if fpCmp a b < 0 then a else b

/-- Magnitude. -/
def Fp.abs : Fp → Fp
  | .nan => .nan
  | .inf _ => .inf false
  | .fin _ m e => .fin false m e

/-! F32 operations on codes, each with one rounding (R65). -/

/-- Read an F32 code (R61). -/
def r32 (x : Nat) : Fp := fpRead f32 false x
/-- Write an F32 code. -/
def w32 (v : Fp) : Rnd := fpWrite f32 v
/-- The canonical +0 of F32. -/
def zero32 : Nat := 0
/-- Sum. -/
def add32 (a b : Nat) : Rnd := w32 (fpAdd (r32 a) (r32 b))
/-- Difference. -/
def sub32 (a b : Nat) : Rnd := w32 (fpAdd (r32 a) (r32 b).neg)
/-- Product. -/
def mul32 (a b : Nat) : Rnd := w32 (fpMul (r32 a) (r32 b))
/-- Fused multiply-add, one rounding (R192). -/
def fma32 (a b c : Nat) : Rnd := w32 (fpAdd (fpMul (r32 a) (r32 b)) (r32 c))
/-- Quotient (R62, R63). -/
def div32 (a b : Nat) : Rnd :=
  match fpDiv (r32 a) (r32 b) with
  | (v, true) => ⟨f32.maxFin v.isNeg, true, false⟩
  | (v, false) => w32 v
/-- Square root. -/
def sqrt32 (a : Nat) : Rnd := w32 (fpSqrt (r32 a))
/-- Exact scaling by 2^n, then R61 and R62. -/
def scale32 (a : Nat) (n : Int) : Rnd := w32 (fpScale (r32 a) n)

/-- F32 to F19 (R67, R68): truncation when `rnd` is false, nearest even when it is true; the Bool is SAT. -/
def f32ToF19 (w : Nat) (rnd : Bool) : Nat × Bool :=
  let s := w.testBit 31
  let e := fld w 30 23
  let f := w % 2 ^ 23
  if e = 0 then (f19.signed s 0, false)
  else if e = 255 then (if f = 0 then (f19.inf s, false) else (f19.nan, false))
  else
    let keep := f >>> 13
    let rem := f % 2 ^ 13
    let keep' := if rnd && (decide (0x1000 < rem) || (decide (rem = 0x1000) && decide (keep % 2 = 1))) then keep + 1 else keep
    let k2 := if keep' = 0x400 then 0 else keep'
    let e2 := if keep' = 0x400 then e + 1 else e
    if e2 = 255 then (f19.maxFin s, true) else (f19.signed s (e2 * 2 ^ 10 + k2), false)

end Sys2Proof.Machine
end

