-- ==== Sys2Proof/Machine/Formats.lean ====
section
/-! DEFINITION. Narrow elements, shared scales, gradient and moment formats (R70 to R96), block records, and the census
classes of a conversion. -/

namespace Sys2Proof.Machine

/-- The element formats by their codes in R94; a code outside R94 has none. -/
inductive ElemFmt where
  | f32 | w48 | b16 | e2m3 | e3m2 | e2m1 | g8 | g16 | m8s | m8u | i32 | mask4
deriving DecidableEq, Repr

/-- Format code of R94. -/
def ElemFmt.ofCode : Nat → Option ElemFmt
  | 1 => some .f32
  | 2 => some .w48
  | 3 => some .b16
  | 4 => some .e2m3
  | 5 => some .e3m2
  | 6 => some .e2m1
  | 7 => some .g8
  | 8 => some .g16
  | 9 => some .m8s
  | 10 => some .m8u
  | 11 => some .i32
  | 12 => some .mask4
  | _ => none

namespace ElemFmt

/-- Unit bytes U (R217). -/
def unit : ElemFmt → Nat
  | .f32 => 4 | .w48 => 8 | .b16 => 2 | .e2m3 => 24 | .e3m2 => 24 | .e2m1 => 16
  | .g8 => 128 | .g16 => 128 | .m8s => 32 | .m8u => 32 | .i32 => 4 | .mask4 => 4

/-- Granule g, elements per unit (R217). -/
def gran : ElemFmt → Nat
  | .f32 => 1 | .w48 => 1 | .b16 => 1 | .e2m3 => 32 | .e3m2 => 32 | .e2m1 => 32
  | .g8 => 64 | .g16 => 64 | .m8s => 32 | .m8u => 32 | .i32 => 1 | .mask4 => 32

/-- Base alignment (R217). -/
def align : ElemFmt → Nat
  | .f32 => 4 | .w48 => 8 | .b16 => 2 | .e2m3 => 8 | .e3m2 => 8 | .e2m1 => 8
  | .g8 => 128 | .g16 => 128 | .m8s => 32 | .m8u => 32 | .i32 => 4 | .mask4 => 4

/-- Bytes of the auxiliary entry of a unit, 0 where the format has none (R217). -/
def aux : ElemFmt → Nat
  | .e2m3 => 1 | .e3m2 => 1 | .e2m1 => 1 | .g8 => 2 | .g16 => 2 | .m8s => 1 | .m8u => 1
  | _ => 0

/-- E2M3, E3M2 or E2M1 (R60). -/
def narrow : ElemFmt → Bool
  | .e2m3 => true | .e3m2 => true | .e2m1 => true
  | _ => false

/-- Planes of a block record (R81). -/
def planes : ElemFmt → Nat
  | .e2m1 => 4
  | _ => 6

/-- Mantissa bits, exponent bits and bias of a narrow format (R70). -/
def nparams : ElemFmt → Nat × Nat × Nat
  | .e3m2 => (2, 3, 3)
  | .e2m1 => (1, 2, 1)
  | _ => (3, 2, 1)

end ElemFmt

/-- Census class of one written element (R96). -/
inductive CensusClass where
  | nonFinite | saturation | flushed | zero
deriving DecidableEq, Repr

/-- One element's outcome: its code and its census class, if any. -/
structure Conv where
  code : Nat
  cls : Option CensusClass := none
deriving DecidableEq, Repr

/-- Magnitude of a narrow code without its sign, as m·2^e (R70 to R74). -/
def narrowMag (f : ElemFmt) (c : Nat) : Nat × Int :=
  let (mb, eb, bias) := f.nparams
  let m := c % 2 ^ mb
  let e := (c >>> mb) % 2 ^ eb
  if e = 0 then (m, 1 - (bias : Int) - mb) else (m + 2 ^ mb, (e : Int) - bias - mb)

/-- Sign bit of a narrow code. -/
def narrowNeg (f : ElemFmt) (c : Nat) : Bool := c.testBit (f.planes - 1)

/-- The value of a narrow code under a scale byte; 0xFF makes every element NaN (R75). -/
def narrowVal (f : ElemFmt) (scale c : Nat) : Fp :=
  if scale = 0xFF then .nan
  else
    let (m, e) := narrowMag f c
    .fin (narrowNeg f c) m (e + scale - 127)

/-- The largest magnitude of a narrow format (R70). -/
def narrowMax (f : ElemFmt) : Nat × Int := narrowMag f (2 ^ (f.planes - 1) - 1)

/-- The code of the magnitude nearest to m·2^e, ties to mantissa bit 0 clear; `none` above the largest (R77). Codes of
one exponent step are spaced evenly, so the quotient is rounded to the step of its binade. -/
def narrowRound (f : ElemFmt) (m : Nat) (e : Int) : Option Nat :=
  if m = 0 then some 0
  else
    let (mb, _, bias) := f.nparams
    let top : Int := (m.log2 : Int) + e
    let lo : Int := 1 - (bias : Int)
    let bin := if top < lo then lo else top
    let k := bin - mb - e
    let q := if 0 < k then rneShift m k.toNat else m <<< (-k).toNat
    let code := ((bin - lo).toNat) * 2 ^ mb + q
    let (mm, me) := narrowMax f
    let ee := min e me
    if mm * 2 ^ (me - ee).toNat < m * 2 ^ (e - ee).toNat then none
    else some (min code (2 ^ (f.planes - 1) - 1))

/-- Convert one F32 code into a narrow format under a scale byte below 0xFF (R77, R78). -/
def narrowConv (f : ElemFmt) (scale x : Nat) : Conv :=
  let sgn := 2 ^ (f.planes - 1)
  match r32 x with
  | .fin s m e =>
    let c := narrowRound f m (e - (scale : Int) + 127)
    let code := c.getD (sgn - 1)
    let cls := if c.isNone then some CensusClass.saturation
      else if isSubnormal f32 x then some .flushed
      else if code = 0 then some .zero else none
    ⟨if s then code + sgn else code, cls⟩
  | _ => ⟨0, some .nonFinite⟩

/-- Census class of an element written under a scale byte of 0xFF (R78). -/
def nanBlockClass (x : Nat) : CensusClass :=
  if (r32 x).nonFinite then .nonFinite else if isSubnormal f32 x then .flushed else .zero

/-- m·2^e ≤ a·2^b. -/
def magLe (m : Nat) (e : Int) (a : Nat) (b : Int) : Bool :=
  let k := min e b
  decide (m * 2 ^ (e - k).toNat ≤ a * 2 ^ (b - k).toNat)

/-- The least value from `lo` upward, with `n` tries, for which m·2^e ≤ l·2^(le + s); `lo + n` when none does. -/
def fitFrom (m : Nat) (e : Int) (l : Nat) (le : Int) : Nat → Int → Int
  | 0, s => s
  | n + 1, s => if magLe m e l (le + s) then s else fitFrom m e l le n (s + 1)

/-- R79: the scale fit of a narrow format for a maximum magnitude. -/
def narrowFit (f : ElemFmt) (m : Nat) (e : Int) : Nat :=
  let (mm, me) := narrowMax f
  if m = 0 then 0 else (fitFrom m e mm (me - 127) 254 0).toNat

/-- R87: the G8 scale fit. -/
def g8Fit (m : Nat) (e : Int) : Int :=
  if m = 0 then -128 else fitFrom m e 127 0 255 (-128)

/-- R90: the M8 fit with the largest code Q. -/
def m8Fit (q m : Nat) (e : Int) : Nat :=
  if m = 0 then 0 else (fitFrom m e q (-127) 254 0).toNat

/-- Nearest even integer of ±m·2^e. -/
def rneInt (neg : Bool) (m : Nat) (e : Int) : Int :=
  if e < 0 then smag neg (rneShift m (-e).toNat) else smag neg (m * 2 ^ e.toNat)

/-- A gradient block: its tag fields and its 64 elements as integers (R82, R83). -/
structure GBlock where
  wide : Bool
  clamp : Bool
  s : Int
  q : List Int
deriving DecidableEq, Repr

/-- The block tag (R83). -/
def GBlock.tag (b : GBlock) : Nat :=
  (if b.wide then 0x8000 else 0) + (if b.clamp then 0x4000 else 0) + toTwos 8 b.s

/-- The element bytes of a block as stored: 64 bytes, or 128 when wide. -/
def GBlock.bytes (b : GBlock) : List Byte :=
  if b.wide then b.q.flatMap fun v => leBytes 2 (toTwos 16 v)
  else b.q.map fun v => BitVec.ofNat 8 (toTwos 8 v)

/-- Read a block from its tag and its 128-byte slot (R82). -/
def GBlock.read (tag : Nat) (slot : List Byte) : GBlock :=
  let w := tag.testBit 15
  { wide := w, clamp := tag.testBit 14, s := sx 8 (fld tag 7 0)
    q := (List.range 64).map fun i => if w then sx 16 (leAt slot (2 * i) 2) else sx 8 (leAt slot i 1) }

/-- R84: convert up to 64 F32 values to one block; padding is integer 0 (R503). -/
def g8Convert (s : Int) (forceWide : Bool) (xs : List Nat) : GBlock × List (Option CensusClass) :=
  let qs := xs.map fun x => match r32 x with
    | .nan => (0, some CensusClass.nonFinite)
    | .inf _ => (0, some CensusClass.nonFinite)
    | .fin n m e => (rneInt n m (e - s), if isSubnormal f32 x then some .flushed else none)
  let wide := forceWide || qs.any fun q => decide (q.1 < -127 ∨ 127 < q.1)
  let bound : Int := if wide then 32767 else 127
  let out := List.zipWith (fun x (q : Int × Option CensusClass) =>
    match r32 x with
    | .nan => ((0 : Int), q.2, false)
    | .inf n => (if n then -bound else bound, q.2, false)
    | .fin _ _ _ =>
      if q.1 < -bound ∨ bound < q.1 then (clampInt (-bound) bound q.1, some .saturation, true)
      else (q.1, (if q.2.isSome then q.2 else if q.1 = 0 then some CensusClass.zero else none), false)) xs qs
  ({ wide := wide, clamp := out.any fun o => o.2.2, s := s
     q := out.map (fun o => o.1) ++ List.replicate (64 - xs.length) 0 }, out.map fun o => o.2.1)

/-- The F32 code of an integer element q·2^s (R88). -/
def intTo32 (q s : Int) : Rnd := fpRound f32 (decide (q < 0)) q.natAbs s

/-- R86, R335: the sum of two blocks of equal scale exponent, with the number of clamped elements. -/
def gAdd (a b : GBlock) : GBlock × Nat :=
  let sums := List.zipWith (· + ·) a.q b.q
  let wide := a.wide || b.wide || sums.any fun v => decide (v < -127 ∨ 127 < v)
  let n := (sums.filter fun v => decide (v < -32767 ∨ 32767 < v)).length
  ({ wide := wide, clamp := a.clamp || b.clamp || decide (0 < n), s := a.s
     q := sums.map fun v => clampInt (-32767) 32767 v }, n)

/-- R311, R296: clamp a block to the G8 range, with the number of clamps. -/
def gNarrow (b : GBlock) : GBlock × Nat :=
  ({ b with wide := false, clamp := false, q := b.q.map fun v => clampInt (-127) 127 v },
   (b.q.filter fun v => decide (v < -127 ∨ 127 < v)).length)

/-- Largest finite magnitude of F32 codes, as (m, e), after subnormals are flushed; (0, 0) when there is none. -/
def maxMag (xs : List Nat) : Nat × Int :=
  xs.foldl (fun (a : Nat × Int) x => match r32 x with
    | .fin _ m e => if magLe m e a.1 a.2 then a else (m, e)
    | _ => a) (0, 0)

/-- R90: write one M8 block of up to 32 F32 values: the scale byte, the 32 codes and the census classes. -/
def m8Convert (signed : Bool) (xs : List Nat) : Nat × List Nat × List (Option CensusClass) :=
  let q : Nat := if signed then 127 else 255
  let bad := xs.any fun x => (r32 x).nonFinite
  let (m, e) := maxMag xs
  let s := m8Fit q m e
  let one := fun x => match r32 x with
    | .fin n mm ee =>
      let v := rneInt n mm (ee - (s : Int) + 127)
      let lo : Int := if signed then -127 else 0
      let c := clampInt lo q v
      let cls := if v < lo ∨ (q : Int) < v ∨ (n && !signed && decide (mm ≠ 0)) then some CensusClass.saturation
        else if isSubnormal f32 x then some .flushed
        else if c = 0 then some .zero else none
      (toTwos 8 c, cls)
    | _ => (0, some .nonFinite)
  let out := xs.map one
  (if bad then 0xFF else s, out.map (fun o => o.1) ++ List.replicate (32 - xs.length) 0, out.map fun o => o.2)

/-- The value of an M8 element (R89). DESIGN CHOICE: a signed byte 0x80, which R89 leaves outside −127 to 127, reads as −128
(log entry 48). -/
def m8Val (signed : Bool) (scale c : Nat) : Fp :=
  if scale = 0xFF then .nan
  else
    let q : Int := if signed then sx 8 c else (c : Int)
    .fin (decide (q < 0)) q.natAbs ((scale : Int) - 127)

/-- Bit-plane record of up to 32 codes (R81). -/
def planeRecord (f : ElemFmt) (codes : List Nat) : List Byte :=
  (List.range f.planes).flatMap fun p =>
    leBytes 4 ((List.range 32).foldl (fun w i => if (nth 0 codes i).testBit p then w + 2 ^ i else w) 0)

/-- The code of element `i` of a block record (R81). -/
def planeCode (f : ElemFmt) (rec : List Byte) (i : Nat) : Nat :=
  (List.range f.planes).foldl (fun c p => if (leAt rec (4 * p) 4).testBit i then c + 2 ^ p else c) 0

/-! The SECDED code (R353 to R355) and the checks of R358. -/

/-- The 64 data columns of H (R353). -/
def hCols : List Nat :=
  [0x07, 0x0B, 0x0D, 0x0E, 0x13, 0x15, 0x16, 0x19, 0x1A, 0x1C, 0x23, 0x25, 0x26, 0x29, 0x2A, 0x2C] ++
  [0x31, 0x32, 0x34, 0x38, 0x43, 0x45, 0x46, 0x49, 0x4A, 0x4C, 0x51, 0x52, 0x54, 0x58, 0x61, 0x62] ++
  [0x64, 0x68, 0x70, 0x83, 0x85, 0x86, 0x89, 0x8A, 0x8C, 0x91, 0x92, 0x94, 0x98, 0xA1, 0xA2, 0xA4] ++
  [0xA8, 0xB0, 0xC1, 0xC2, 0xC4, 0xC8, 0xD0, 0xE0, 0x1F, 0x3E, 0x7C, 0xF8, 0xF1, 0xE3, 0xC7, 0x8F]

/-- Check byte of a data word: XOR of the columns of its set bits (R354). -/
def checkByteFrom : List Nat → Nat → Nat → Nat
  | [], _, _ => 0
  | h :: r, d, i => (if d.testBit i then h else 0) ^^^ checkByteFrom r d (i + 1)

/-- Check byte of a 64-bit data word (R354). -/
def checkByte (d : Nat) : Nat := checkByteFrom hCols d 0

/-- What a syndrome means (R355). -/
inductive Syndrome where
  | clean
  | dataBit (i : Nat)
  | checkBit (r : Nat)
  | uncorrectable
deriving DecidableEq, Repr

/-- The meaning of a syndrome (R355). -/
def syndrome (s : Nat) : Syndrome :=
  if s = 0 then .clean
  else match findFrom (· == s) hCols 0 with
    | some i => .dataBit i
    | none => match findFrom (fun r => s == 2 ^ r) (List.range 8) 0 with
      | some r => .checkBit r
      | none => .uncorrectable

/-- A read of a stored word and check byte: the word delivered, if it is deliverable, and whether it was corrected. -/
def secdedRead (d c : Nat) : Option Nat × Bool :=
  match syndrome (c ^^^ checkByte d) with
  | .clean => (some d, false)
  | .dataBit i => (some (d ^^^ 2 ^ i), true)
  | .checkBit _ => (some d, true)
  | .uncorrectable => (none, false)

/-- One bit of a reflected CRC. -/
def crcBit (poly r : Nat) : Nat := if r % 2 = 1 then (r >>> 1) ^^^ poly else r >>> 1

/-- One byte of a reflected CRC. -/
def crcByte (poly r : Nat) (b : Byte) : Nat :=
  let r0 := r ^^^ b.toNat
  (List.range 8).foldl (fun x _ => crcBit poly x) r0

/-- The three checks of R358. -/
inductive Check where
  | crc32c | crc32 | crc64
deriving DecidableEq, Repr

namespace Check

/-- Coding of ACTIVE and CHK_SEL (R364). -/
def ofCode : Nat → Check
  | 1 => .crc32
  | 2 => .crc64
  | _ => .crc32c

/-- Width in bits. -/
def width : Check → Nat
  | .crc64 => 64
  | _ => 32

/-- The polynomial of R358 with its bits reflected. -/
def poly : Check → Nat
  | .crc32c => 0x82F63B78
  | .crc32 => 0xEDB88320
  | .crc64 => 0xC96C5795D7870F42

/-- Initial value and final XOR: all ones. -/
def ones (c : Check) : Nat := 2 ^ c.width - 1

/-- Continue a running register over bytes. -/
def run (c : Check) (r : Nat) (bs : List Byte) : Nat := bs.foldl (crcByte c.poly) r

/-- The check of a message (R358). -/
def of (c : Check) (bs : List Byte) : Nat := c.run c.ones bs ^^^ c.ones

end Check

/-- The fold prefix of a check (R359). -/
def foldPrefix (dest seq unit : Nat) (alive : Bool) : List Byte :=
  leBytes 8 dest ++ leBytes 4 seq ++ leBytes 2 unit ++ leBytes 2 (if alive then 1 else 0)

/-- The digest CRC of R338 continued from a reported value: the register is the value with the final XOR undone. -/
def crc64More (v : Nat) (bs : List Byte) : Nat :=
  Check.crc64.run (v ^^^ Check.crc64.ones) bs ^^^ Check.crc64.ones

end Sys2Proof.Machine
end

