-- ==== Sys2Proof/Machine/Accum.lean ====
section
/-! DEFINITION. The group step, the alignment window, the accumulator with stochastic rounding, the spill and J-mode
(R98 to R133). -/

namespace Sys2Proof.Machine

/-- One product of a group step: a non-finite product, or ±m·2^x with its exponent e_p (R102, R103). -/
inductive Product where
  | nan
  | inf (neg : Bool)
  | fin (neg : Bool) (m : Nat) (x ep : Int)
deriving DecidableEq, Repr

/-- A group sum: NaN, Inf, or w·2^e (R106, R118). -/
inductive GroupSum where
  | nan
  | inf (neg : Bool)
  | fin (w e : Int)
deriving DecidableEq, Repr

/-- Product of two F19 operands (R102, R104, R118). -/
def prodF19 (a b : Nat) : Product :=
  match fpRead f19 false a, fpRead f19 false b with
  | .fin sa ma ea, .fin sb mb eb =>
    if ma * mb = 0 then .fin false 0 0 0 else .fin (sa != sb) (ma * mb) (ea + eb) (ea + eb + 21)
  | x, y => match fpMul x y with
    | .inf s => .inf s
    | _ => .nan

/-- A narrow operand with the scale byte of its block. -/
structure NarrowOp where
  fmt : ElemFmt
  code : Nat
  scale : Nat
deriving DecidableEq, Repr

/-- Product of two narrow operands before block scales, with scale excess `ex` (R103, R109). -/
def prodNarrow (a b : NarrowOp) (ex : Nat) : Product :=
  let (ma, ea) := narrowMag a.fmt a.code
  let (mb, eb) := narrowMag b.fmt b.code
  let m := ma * mb
  if m = 0 then .fin false 0 0 0
  else .fin (narrowNeg a.fmt a.code != narrowNeg b.fmt b.code) m (ea + eb + ex) ((m.log2 : Int) + ea + eb + ex)

/-- The largest e_p of the non-zero products, if there is one (R105). -/
def eMax (ps : List Product) : Option Int :=
  ps.foldl (fun a p => match p with
    | .fin _ m _ ep => if m = 0 then a else match a with
      | none => some ep
      | some b => some (max b ep)
    | _ => a) none

/-- The aligned integer of a product in units of 2^(emax − 30) (R105). -/
def alignProduct (emax : Int) : Product → Int
  | .fin s m x _ => shiftFloor (smag s m) (x - (emax - 30))
  | _ => 0

/-- The group sum of finite and non-finite products (R105, R106, R118). -/
def groupSum (ps : List Product) : GroupSum :=
  let pinf := ps.any (· == .inf false)
  let ninf := ps.any (· == .inf true)
  if ps.any (· == .nan) || (pinf && ninf) then .nan
  else if pinf then .inf false
  else if ninf then .inf true
  else match eMax ps with
    | none => .fin 0 0
    | some em => .fin ((ps.map (alignProduct em)).foldl (· + ·) 0) (em - 30)

/-- F19 group sum over pairs of F19 codes. -/
def groupF19 (ps : List (Nat × Nat)) : GroupSum := groupSum (ps.map fun p => prodF19 p.1 p.2)

/-- Narrow group sum over pairs of operands; `none` is a product position that supplies a zero (R109). -/
def groupNarrow (ps : List (NarrowOp × NarrowOp)) : GroupSum :=
  if ps.any (fun p => p.1.scale == 0xFF || p.2.scale == 0xFF) then .nan
  else
    let sums := ps.map fun p => p.1.scale + p.2.scale
    match sums with
    | [] => .fin 0 0
    | h :: r =>
      let smin := r.foldl min h
      match groupSum (ps.map fun p => prodNarrow p.1 p.2 (p.1.scale + p.2.scale - smin)) with
      | .fin w e => .fin w (e + (smin : Int) - 254)
      | g => g

/-- The state of one accumulator slot (R126). -/
structure Slot where
  a32 : Nat := 0
  buf : Nat := 0
  cnt : Nat := 0
  sat : Bool := false
  lfsr : Nat := 1
deriving DecidableEq, Repr

/-- One LFSR step (R113). -/
def lfsrStep (x : Nat) : Nat := if x % 2 = 1 then (x >>> 1) ^^^ 0x80200003 else x >>> 1

/-- Sixteen LFSR steps (R114). -/
def lfsrAdvance (x : Nat) : Nat := (List.range 16).foldl (fun s _ => lfsrStep s) x

/-- The seed of a slot's LFSR (R115). -/
def lfsrSeed (stepSeed stream ptile engine slot : Nat) : Nat :=
  let m := 2 ^ 32
  let x := (stepSeed ^^^ (stepSeed >>> 32)) % m
  let x := (x ^^^ (stream <<< 16)) % m
  let x := (x * 0x7A3DC1E5) % m
  let x := x ^^^ ((ptile <<< 12) ||| (engine <<< 9) ||| slot)
  let x := (x ^^^ (x >>> 15)) % m
  let x := (x * 0x4F6CB38B) % m
  let x := x ^^^ (x >>> 13)
  if x = 0 then 1 else x

/-- Round an exact non-zero total stochastically with the drawn bits (R110). -/
def roundStoch (neg : Bool) (m : Nat) (e : Int) (r : Nat) : Rnd :=
  let top : Int := (m.log2 : Int) + e
  let q := (shiftFloor m (e - (top - 23))).toNat
  let d := (shiftFloor m (e - (top - 39))).toNat % 2 ^ 16
  fpRound f32 neg (if r < d then q + 1 else q) (top - 23)

/-- Add a group sum into a slot: draw, advance, add (R110, R112, R114, R118). -/
def Slot.add (s : Slot) (g : GroupSum) : Slot :=
  let r := s.lfsr >>> 16
  let s := { s with lfsr := lfsrAdvance s.lfsr, cnt := s.cnt + 1 }
  match g with
  | .fin w e =>
    if w = 0 then s
    else match fpAdd (r32 s.a32) (.fin (decide (w < 0)) w.natAbs e) with
      | .fin n m x =>
        if m = 0 then { s with a32 := 0 }
        else
          let o := roundStoch n m x r
          { s with a32 := o.code, sat := s.sat || o.sat }
      | v => { s with a32 := (w32 v).code }
  | .inf n => { s with a32 := (w32 (fpAdd (r32 s.a32) (.inf n))).code }
  | .nan => { s with a32 := f32.nan }

/-- The spill of a slot (R120). -/
def Slot.spill (s : Slot) : Slot :=
  let o := fpWrite w48 (fpAdd (fpRead w48 false s.buf) (r32 s.a32))
  { s with buf := o.code, a32 := 0, sat := s.sat || o.sat }

/-- One group step with the spill that may follow it; `last` says that R120 excepts it. -/
def Slot.step (kspill : Nat) (s : Slot) (g : GroupSum) (last : Bool) : Slot :=
  let s := s.add g
  if kspill ≠ 0 ∧ s.cnt % kspill = 0 ∧ ¬last then s.spill else s

/-- The final rounding of a slot to the output format (R122). -/
def Slot.final (out : Fmt) (s : Slot) : Rnd :=
  fpWrite out (fpAdd (fpRead w48 false s.buf) (r32 s.a32))

/-- A slot at the start of an operation without continuation (R115, R117, R121). -/
def Slot.fresh (seed init48 : Nat) : Slot := { a32 := 0, buf := init48, cnt := 0, sat := false, lfsr := seed }

/-- Census class of a finally rounded element (R124). -/
def finalClass (out : Fmt) (s : Slot) (o : Rnd) : Option CensusClass :=
  if (fpRead out false o.code).nonFinite then some .nonFinite
  else if s.sat || o.sat then some .saturation
  else if o.flush then some .flushed
  else if (fpRead out false o.code).isZero then some .zero else none

/-- One J-mode accumulation (R129, R131): Inf above the largest finite value, no SAT. -/
def jStep (acc a b : Nat) : Nat :=
  match fpAdd (r32 acc) (fpMul (fpRead b16 true a) (fpRead b16 true b)) with
  | .fin s m e =>
    let o := fpRound f32 s m e
    if o.sat then f32.inf s else o.code
  | v => (w32 v).code

/-- Census class of a J-mode output. -/
def jClass (x : Nat) : Option CensusClass :=
  if (r32 x).nonFinite then some .nonFinite
  else if (r32 x).isZero then some .zero else none

end Sys2Proof.Machine
end

