-- ==== Sys2Proof/Machine/State.lean ====
section
/-! DEFINITION. The state of the SN1200 as plain data, and the state right after reset. Sparse maps are lists of rising
keys with no entry that equals the default (Bits.lean). -/

namespace Sys2Proof.Machine

/-- Why the model stops. -/
inductive Fault where
  /-- Raised by every meaning whose operand names a unit that the spec says does not exist: a tile at or above 19,200,
  a vat at or above 40, a field at or above 48, a port site, slot or cluster outside R2's ranges. Safe. -/
  | noSuchUnit
deriving DecidableEq, Repr

/-- Why the model refuses. -/
inductive Refusal where
  /-- Raised by an arm of exec whose meaning is not written. Safe. -/
  | notModelled (mnemonic : String)
  /-- Raised by execJtagInstruction for a debug instruction of Thontidel's in maintenance mode: R416 opens it and no
  rule says what it does to the module. Safe. -/
  | jtagDebug
deriving DecidableEq, Repr

/-- Bytes held sparsely: an unlisted address reads 0. -/
abbrev Mem := List Host.Cell

/-- How a stored word differs from its codeword: data bits and check bits inverted (R353 to R355). `reads` is 0 for an
upset of the stored word, and 1 or 2 for an upset of as many reads of a vat word, after which it reads well (R286). -/
structure WordErr where
  d : Nat := 0
  c : Nat := 0
  reads : Nat := 0
deriving DecidableEq, Repr

/-- A memory under the SECDED code: the bytes written, the words that have changed since, the corrected words whose
write-back is due (R356). -/
structure EccMem where
  cells : Mem := []
  errs : List (Nat × WordErr) := []
  due : List Nat := []
deriving DecidableEq, Repr

/-! The program image (log entry 4): items whose bytes the spec lays out are bytes, the rest are fields. -/

/-- One logical tile's part of an image (R178, R227). -/
structure TileImage where
  ptile : Nat
  codeBase : Nat
  codeLen : Nat
  code : List W64
  entry : Nat
  descBase : Nat
  descLen : Nat
  descs : List (Nat × List Byte)
deriving DecidableEq, Repr

/-- An allocation record (R228): a range of one logical tile or of vat space. -/
structure AllocRec where
  vat : Bool
  ptile : Nat := 0
  base : Nat
  len : Nat
  persistent : Bool := false
  ring : Bool := false
deriving DecidableEq, Repr

/-- A layer of the image: its map of 64 bytes (R302), its initial layer state (R304) and its census mask (R305). -/
structure LayerImage where
  map : List Byte
  lrm : Nat
  wd : Nat
  b1 : Nat
  omb1 : Nat
  b2 : Nat
  omb2 : Nat
  eps : Nat
  k : Nat
  grow : Nat
  census : W32
deriving DecidableEq, Repr

/-- A program image. Trees are a 32-byte header and source entries (R275), streams, views and inputs 32-byte entries
(R299, R332, R506), the reduction header and region records 576 bytes (R323). `offs` holds the byte offsets in the image of the region size,
the class plan, the tick period, the feed count, the context-1 share and COUCH, which failure records name (R441). -/
structure Image where
  raw : List Byte
  w : Nat
  h : Nat
  unused : List (Nat × Nat) := []
  ticks : Nat
  period : Nat
  classPlan : List Nat
  share : Nat := 2048
  feedE : Nat := 1
  ctrlEntry : Nat := 0
  seedOff : Option Nat := none
  couch : Nat := 0
  offs : List Nat := []
  layerTable : Nat := 0
  reload : Nat := 0
  tiles : List TileImage := []
  allocs : List AllocRec := []
  layers : List LayerImage := []
  trees : List (List Byte × List (List Byte)) := []
  streams : List (List Byte) := []
  red : Option (List Byte) := none
  views : List (List Byte) := []
  inputs : List (List Byte) := []
  sizing : Mem := []
deriving DecidableEq, Repr

/-! Host ports -/

/-- Query-table registers of one slot (R436). -/
structure QTab where
  base : W64 := 0
  count : W32 := 0
  fill : W64 := 0
  done : W64 := 0
deriving DecidableEq, Repr

/-- The staging, result and table registers of a command page (R436). -/
structure CmdPage where
  op : Nat := 0
  args : CmdArgs := {}
  resOp : Nat := 0
  status : Nat := 0
  ret0 : W64 := 0
  ret1 : W64 := 0
  ret2 : W64 := 0
  ret3 : W64 := 0
  feedBase : W64 := 0
  feedCount : W32 := 0
  feedFill : W64 := 0
  q1 : QTab := {}
  q2 : QTab := {}
  q3 : QTab := {}
deriving DecidableEq, Repr

/-- The configuration space of a port's function (R420, R421): its identity, whose Vendor ID is the identity page's, the
payload and read-request sizes that the host has configured, the status of Advanced Error Reporting, and MSI-X Enable and
Function Mask (R447). -/
structure PcieFn where
  deviceId : Nat := 0x1200
  classCode : Nat := 0x120000
  payload : Nat := 128
  readRequest : Nat := 512
  aerCorrectable : W32 := 0
  aerUncorrectable : W32 := 0
  msixOn : Bool := true
  funcMask : Bool := false
deriving DecidableEq, Repr

/-- One host port: the memory its DMA reaches, its link and power state, its MSI-X structures and per-port registers. -/
structure HostPort where
  mem : Mem := []
  images : List (Nat × Image) := []
  perst : Bool := true
  link : Nat := 0
  rate : Nat := 0
  width : Nat := 0
  d3 : Bool := false
  fn : PcieFn := {}
  msix : Mem := (List.range 64).map fun v => (16 * v + 12, 1)
  pba : W64 := 0
  msgs : List Nat := []
  rlogIndex : W32 := 0
  bindWin : Nat := 0
  cenSel : Nat := 0
  cmd : CmdPage := {}
deriving DecidableEq, Repr

/-- The running command, with what CMD_GO latched (R437), whether its work has begun, the queries it has completed (R440),
and that it no longer waits for a wake (R470). -/
structure Running where
  op : Nat
  port : HPort
  page : CmdPage
  begun : Bool := false
  aborting : Bool := false
  count : Nat := 0
  woken : Bool := true
deriving DecidableEq, Repr

/-! Pages -/

/-- One block counter (R489). -/
structure Counter where
  satd : Bool := false
  mode : Bool := false
  evsel : Nat := 0
  value : Nat := 0
deriving DecidableEq, Repr

/-- The common part of a page (R429) and the counter values latched for a snapshot (R494). -/
structure Page where
  evt : W32 := 0
  evtEn : W32 := 0
  count : Nat := 0
  code : Nat := 0
  info : W32 := 0
  ctrs : List (Nat × Counter) := []
  lost : Bool := false
deriving DecidableEq, Repr

/-- What a cluster page shows of its tiles' SAT bits, its links, its selections and its hold (R161, R282). -/
structure ClusterShown where
  sat : Nat
  links : Nat
  sel : Nat
  hold : Nat
deriving DecidableEq, Repr

/-- Block-specific registers of a cluster page (R161, R216, R240, R282); `engIndex` and `index` say that ENG_FAULT_COL and
COPY_FAULT_VAL hold the value of an INDEX_RANGE, which R416 hides; `last` is what the page of a lost cluster keeps showing
(R427). -/
structure ClusterRegs where
  engRow : W32 := 0
  engCol : W32 := 0
  seqPc : W32 := 0
  seqUnit : W32 := 0
  copyPos : W32 := 0
  copyVal : W32 := 0
  feltSrc : W32 := 0
  feltAddr : W32 := 0
  engIndex : Bool := false
  index : Bool := false
  last : Option ClusterShown := none
deriving DecidableEq, Repr

/-- A field: its page registers (R481), its reference (R466), its throttle and voltage state (R464, R465); `hot` is 1
after one sample at or above 105 °C, 2 once the field has been throttled for it, and `throttleCls` the class of its throttle. -/
structure FieldState where
  fuse : Nat := 0
  tstate : Nat := 0
  classNow : Nat := 0
  classPlan : Nat := 0
  vcore : Nat := 0
  inMa : W32 := 0
  tempMax : Nat := 0
  throttles : Nat := 0
  refLost : Bool := false
  throttled : Bool := false
  throttleCls : Nat := 0
  hot : Nat := 0
  raiseTo : Option Nat := none
deriving DecidableEq, Repr

/-- Check-value registers of a port site (R364), the failed replays in a row of the packet in progress, and the first SEQ
that a calender port lacks and has asked for (R362). -/
structure SiteRegs where
  active : Nat := 0
  chkSel : Nat := 0
  chkFail : Nat := 0
  replays : Nat := 0
  seqTx : Nat := 0
  seqRx : Nat := 0
  fails : Nat := 0
  lacks : Option Nat := none
deriving DecidableEq, Repr

/-! Lease, identity, power, security -/

/-- The lease page (R433): owner 0 none, 1 H0, 2 H1; the timer in ms. -/
structure Lease where
  owner : Nat := 0
  timeout : Nat := 1000
  remain : Nat := 0
deriving DecidableEq, Repr

/-- The identity page (R449). -/
structure Ident where
  stage : Nat := 1
  ready : Bool := false
  serial : Nat := 0
  fwVersion : W32 := 0
  slotId : Nat := 0xFF
  moduleId : Nat := 0xFF
  holes : Nat := 0
  served : Nat := 0
  vendor : Nat := 0
deriving DecidableEq, Repr

/-- The power page (R450, R480) and the module's power sequencing (R458, R469 to R473): the power-up waves that have run,
and what start-up's tests will find. -/
structure Power where
  tolerance : W32 := 0
  pstate : Nat := 0
  watts : W32 := 0
  inlet : W32 := 0
  outlet : W32 := 0
  flow : W32 := 0
  busW : W32 := 0
  busE : W32 := 0
  refOk : Bool := false
  waves : Nat := 0
  report : Option StartupReport := none
  waking : Bool := false
deriving DecidableEq, Repr

/-- A full key slot (R397). -/
structure KeySlot where
  kek : List Byte
  exp : Bool
deriving DecidableEq, Repr

/-- A firmware image in a service-flash bank (R410). -/
structure FwImage where
  bytes : List Byte
  svn : Nat
  raisedMin : Nat
deriving DecidableEq, Repr

/-- Security state (R396, R404, R410 to R419). -/
structure Security where
  isSealed : Bool := true
  owner : Option (List Byte) := none
  slots : List (Nat × Option KeySlot) := []
  installSeq : Nat := 0
  tamperLatch : Bool := false
  scrubBusy : Bool := false
  tamperCount : Nat := 0
  violCount : Nat := 0
  svn : Nat := 0
  svnMin : Nat := 0
  reports : Nat := 0
  loader : List Byte := []
  firmware : FwImage := ⟨[], 0, 0⟩
  inactive : Option FwImage := none
  drawn : Nat := 0
  taintVat : List Nat := []
  taintSram : Bool := false
deriving DecidableEq, Repr

/-! Calender ports and the twin protocol -/

/-- One calender port (R363, R383, R413, R414); `myKx0` is the frame sent at this link-up, `encap` numbers the generator
request of its own encapsulation, `dir` is the direction byte of what it sends, and `aliveFails` counts the failed replays
in a row of an alive-counter message (R362). -/
structure CalPort where
  up : Bool := false
  retired : Bool := false
  myKx0 : Option Kx0Frame := none
  peer : Option Kx0Frame := none
  myKx1 : Option Kx1Frame := none
  encap : Nat := 0
  keyOut : Option (List Byte) := none
  keyIn : Option (List Byte) := none
  ctrOut : Nat := 0
  ctrIn : Nat := 0
  dir : Nat := 0
  aliveFails : Nat := 0
  aliveOut : Nat := 0
  aliveIn : Option Nat := none
  hello : Option HelloBody := none
deriving DecidableEq, Repr

/-- A calender message that the member sent, and its bytes as they travel (R381, R382, R414). -/
structure SentMsg where
  port : Nat
  type : Nat
  attempt : Nat
  step : Nat
  offset : Nat
  seq : Nat
  body : List Byte
  wire : List Byte := []
deriving DecidableEq, Repr

/-- The probe of R377: what was treated as retired, and the binding before it. -/
structure Probe where
  slot : Option Nat := none
  cluster : Option Nat := none
  vatPort : Option Nat := none
deriving DecidableEq, Repr

/-- A join or a moving copy in progress (R385 to R389). Regions are numbered by address div 1 MiB. -/
structure JoinState where
  joiner : Bool
  versions : List (Nat × Nat) := []
  stale : List Nat := []
  dirty : List Nat := []
  todo : List Nat := []
  round : Nat := 0
  left : Nat := 0
  log : List (Nat × List Byte) := []
deriving DecidableEq, Repr

/-- Twin page (R451) and protocol state (R375 to R390). -/
structure Twin where
  st : Nat := 0
  rank : Nat := 0
  compat : Nat := 0
  copyRound : Nat := 0
  copyLeft : Nat := 0
  mismatches : Nat := 0
  partner : Nat := 0
  partnerKey : List Byte := []
  partnerState : Nat := 0
  partnerPh1 : Nat := 0
  partnerCommitted : Nat := 0
  ports : List (Nat × CalPort) := []
  sent : List SentMsg := []
  mism : Nat := 0
  own2 : Option (List Byte) := none
  theirs : Option (Nat × List Byte) := none
  lastWm : List Byte := List.replicate 32 0
  dlog : Mem := []
  dlogGot : Nat := 0
  drec : Mem := []
  drecGot : Nat := 0
  probe : Option Probe := none
  leaveWait : Bool := false
  ignoreLeave : Bool := false
  join : Option JoinState := none
deriving DecidableEq, Repr

/-! Counter reader -/

/-- The registers of R493 that a snapshot works under. -/
structure DumpRegs where
  period : W32 := 0
  port : Bool := false
  dest : Nat := 0
  hostBase : W64 := 0
  hostSlots : W32 := 0
  vatBase : W64 := 0
  vatSlots : W32 := 0
deriving DecidableEq, Repr

/-- A snapshot whose record is not yet written (R494 to R496): what its header and its tag records will hold, and the
pages latched. -/
structure Snapshot where
  seq : Nat
  regs : DumpRegs
  step : Nat
  missed : Nat := 0
  drop : Nat := 0
  tags : List (Nat × List Byte) := []
  latched : List (Nat × List (Nat × Counter)) := []
deriving DecidableEq, Repr

/-- Counter reader page (R493) with its snapshot, the tag records held with their tiles, and the census summary (R495,
R499, R501); `tagOn` and `dumping` are the tagging that the last snapshot put in force. -/
structure CtrReader where
  regs : DumpRegs := {}
  seq : Nat := 0
  missedCnt : Nat := 0
  tagEn : Bool := false
  tagN : Nat := 8
  tagOn : Bool := false
  dumping : Bool := false
  tagDropped : Nat := 0
  access : Bool := false
  cenStep : Nat := 0
  census : List (Nat × Nat) := []
  snap : Option Snapshot := none
  missedSince : Nat := 0
  dropSince : Nat := 0
  tags : List (Nat × List Byte) := []
deriving DecidableEq, Repr

/-! Repair log -/

/-- A repair-log entry (R452). -/
structure RepairEntry where
  code : Nat
  source : Nat
  kind : Nat
  unit : Nat
  time : Nat
deriving DecidableEq, Repr

/-- The repair log, the life counter, and the last time of each unit's transient fault for the 24-hour windows (R365):
the key is the fault code, the unit and the bank in one number. -/
structure Repair where
  entries : List RepairEntry := []
  life : Nat := 0
  windows : List (Nat × Nat) := []
deriving DecidableEq, Repr

/-! Retirement and binding -/

/-- What is retired (R25 to R30, R272, R281, R366): clusters, tile slots (cluster·17 + slot), links, fields lost, vat
ports by vat number, other port sites by site number. -/
structure Retire where
  clusters : List Nat := []
  slots : List Nat := []
  links : List Nat := []
  fields : List Nat := []
  vatPorts : List Nat := []
  sites : List Nat := []
deriving DecidableEq, Repr

/-- A loaded program and its place (R32, R34, R453). -/
structure Prog where
  image : Image
  measurement : List Byte
  bound : Option (Nat × Nat) := none
  stopped : Bool := false
deriving DecidableEq, Repr

/-- A BIND or UNBIND accepted and not yet applied (R36). -/
inductive BindReq where
  | bind (slot x0 y0 : Nat)
  | unbind (slot : Nat)
deriving DecidableEq, Repr

/-- What a router holds of a converging-add tree (R276): for each input and each output port, the ordinals that arrive or
leave on it. -/
structure TreeNode where
  prog : Nat
  tree : Nat
  router : Nat
  ins : List (Nat × List Nat) := []
  outs : List (Nat × List Nat) := []
deriving DecidableEq, Repr

/-- Binding state (R36, R38, R453): the retirement state applied, the one found, a waiting command, the fuse map's bad units
with its packages, vat·8 + package (R475), the program slots, and the routers' tree state that the last binding computation gave (R262, R276). -/
structure Binding where
  gen : Nat := 0
  applied : Retire := {}
  found : Retire := {}
  req : Option BindReq := none
  fused : Retire := {}
  fusedPkgs : List Nat := []
  progs : List (Nat × Option Prog) := []
  trees : List TreeNode := []
deriving DecidableEq, Repr

/-- Control replicas (R22 to R24, R454): REPLICA of each page and the cause of the restricted state. -/
structure Control where
  rep0 : Nat := 0
  rep1 : Nat := 0
  rep2 : Nat := 0
  restricted : Option Nat := none
deriving DecidableEq, Repr

/-! Tiles -/

/-- Whether a context issues words. -/
inductive RunState where
  | idle
  | running
  | tickWait
  | ended
deriving DecidableEq, Repr

/-- A level of the loop stack (R185): first word, end address and iterations left. -/
structure LoopLevel where
  start : Nat
  stop : Nat
  left : Nat
deriving DecidableEq, Repr

/-- A sequencer context (R175). -/
structure CtxState where
  x : List (Nat × W64) := []
  pc : Nat := 0
  loops : List LoopLevel := []
  flags : W32 := 0
  run : RunState := .idle
  codeBase : Nat := 0
  codeLen : Nat := 0
deriving DecidableEq, Repr

/-! Packets and line requests -/

/-- What a packet does at its destination (R200, R245). -/
inductive PacketKind where
  | put | get | radd | rmax | rswap | mcast | conv | copyRead
deriving DecidableEq, Repr

/-- Virtual channel (R263, R265): VC0 control and express signals, VC1 request, VC2 response, VC3 reduction. -/
inductive Chan where
  | request | reduction | express | response
deriving DecidableEq, Repr

/-- A word of a flit that was in error when a router received it: the link that it crossed, in which direction and on which
lane, the flit's 8-bit link sequence number, and how the word differs from its codeword (R249, R251, R353). -/
structure FlitErr where
  link : Nat
  forward : Bool
  err : WordErr
  lane : Nat := 0
  seq : Nat := 0
deriving DecidableEq, Repr

/-- A packet of a remote operation on its way to one destination tile (R250): at most 512 bytes of the operation, numbered
`op` at its issuing tile, with the intermediate cluster and the sub-channel that its head flit carries (R260, R261), for a
MCAST its entry cluster and the tiles whose `copies` the spread has still to deliver (R273), for an operand of a tree its
lane (R263), and for a read of the copy engine its operation `opId` and where the pieces of the line go. Tiles are module
logical indices. -/
structure Packet where
  prog : Nat
  src : Nat
  ctx : Ctx
  dst : Nat
  kind : PacketKind
  chan : Chan := .request
  held : Bool := false
  addr : Nat := 0
  data : List Byte := []
  len : Nat := 0
  rctr : Nat := 0
  ren : Bool := false
  elem : Nat := 0
  ret : Nat := 0
  ctr : Nat := 0
  cen : Bool := false
  tree : Nat := 0
  ord : Nat := 0
  round : Nat := 0
  op : Nat := 0
  opId : Option Nat := none
  last : Bool := true
  mid : Option Nat := none
  sub : Nat := 0
  entry : Option Nat := none
  copies : List Nat := []
  lane : Nat := 0
  dest : List (Nat × Nat × Nat) := []
  errs : List FlitErr := []
deriving DecidableEq, Repr

/-- Who waits for a vat line (R291, R300, R333, R506): a copy operation of a tile, stream entry `i` of a program, view
entry `i`, or sealed input `j` of a program. -/
inductive Asker where
  | tile (t : Nat) (c : Ctx) (opId : Nat)
  | stream (prog i : Nat)
  | view (i : Nat)
  | input (prog j : Nat)
deriving DecidableEq, Repr

/-- A 64 B line request (R291): a read whose pieces go to tile addresses, or a write of bytes at offsets. `fails` says how
often its packet still arrives with a wrong check (R357, R362); a tile's crosses the felt to its port site on VC1, by
the intermediate cluster of its head flit, and a read's data returns on VC2 (R251, R260, R263). -/
structure LineReq where
  addr : Nat
  write : Bool
  data : List (Nat × List Byte) := []
  dest : List (Nat × Nat × Nat) := []
  asker : Asker
  ph1 : Bool := true
  fails : Nat := 0
  chan : Chan := .request
  mid : Option Nat := none
  errs : List FlitErr := []
deriving DecidableEq, Repr

/-- A request of the copy or vector engine that waits until fewer than 64 are outstanding (R241): a vat line, or a read
of another tile's line. -/
inductive UnitReq where
  | line (r : LineReq)
  | tile (p : Packet)
deriving DecidableEq, Repr

/-- An operation that has issued and not yet reported completion: its opcode, counter, context, the lines or responses it
waits for, those of them not yet sent, its number, and its destination extents in the tile and in vat space (R215); a copy
operation that waits for the one before it, and a vector operation whose vat operands are on their way, keep their word,
address, offsets and block (R190, R193). `ext` is what it reads and writes in the tile while it is in flight, and `race`
says that a write of another unit has met it there: then all that it wrote, `lose` (the rest of its destination, R146) and
an engine's `slots` are unspecified. `cont` marks a continuation of the engine's operation before it (R126), and `got`
holds the vat lines that a vector operation has been served (R292). -/
structure UnitOp where
  op : Nat
  ctr : Nat
  cen : Bool
  ctx : Ctx
  left : Nat := 0
  id : Nat := 0
  dst : List (Nat × Nat) := []
  vdst : List (Nat × Nat) := []
  todo : List UnitReq := []
  waiting : Bool := false
  word : Nat := 0
  pc : Nat := 0
  xa : Nat := 0
  xb : Nat := 0
  blk : List Byte := []
  ext : List (Nat × Nat) := []
  race : Bool := false
  lose : List (Nat × Nat) := []
  slots : List Nat := []
  cont : Bool := false
  got : List (Nat × List Byte) := []
deriving DecidableEq, Repr

/-- Modes of a matrix operation (R99, R165). -/
inductive EngMode where
  | f19 | f19s | nar | nars | jmode | ream
deriving DecidableEq, Repr

/-- What a continuation must match (R126, R189). -/
structure LastOp where
  mode : EngMode
  me : Nat
  ne : Nat
  kspill : Nat
deriving DecidableEq, Repr

/-- A matrix engine: operations issued, the unfinished operation, the 512 slots (R125, R145). -/
structure Engine where
  q : List UnitOp := []
  open_ : Option LastOp := none
  slots : List (Nat × Slot) := []
deriving DecidableEq, Repr

/-- A census slot (R198): zero, saturation, non-finite, flushed. -/
structure Census where
  zero : Nat := 0
  sat : Nat := 0
  nonfin : Nat := 0
  flushed : Nat := 0
deriving DecidableEq, Repr

/-- A digest slot (R338): the CRC-64 of no bytes is 0 under R358. -/
structure Digest where
  rx : Nat := 0
  rxn : Nat := 0
  tx : Nat := 0
  txn : Nat := 0
deriving DecidableEq, Repr

/-- A tile slot (R172, R175, R198, R338). -/
structure Tile where
  sram : EccMem := {}
  c0 : CtxState := {}
  c1 : CtxState := {}
  ctrs : List (Nat × Nat) := []
  engines : List (Nat × Engine) := []
  vecQ : List UnitOp := []
  copyQ : List UnitOp := []
  census : List (Nat × Census) := []
  digests : List (Nat × Digest) := []
  seed : Nat := 0
  nextId : Nat := 0
deriving DecidableEq, Repr

/-! Felt -/

/-- A packet of data that returns to the issuing tile `dst` from tile `src` on VC2 (R204, R250, R261, R263): pieces to write,
the remote operation `op` with the counter that its last packet increments, or the copy operation it belongs to, and the
intermediate cluster and the sub-channel of its head flit. -/
structure Response where
  prog : Nat
  dst : Nat
  ctx : Ctx
  pieces : List (Nat × List Byte)
  ctr : Nat := 0
  cen : Bool := false
  opId : Option Nat := none
  op : Nat := 0
  last : Bool := true
  src : Nat := 0
  chan : Chan := .response
  mid : Option Nat := none
  sub : Nat := 0
  errs : List FlitErr := []
deriving DecidableEq, Repr

/-- An operation not yet acknowledged (R265); `acked` says that its acknowledgement is in the felt, one flit of VC2 with the
intermediate cluster `mid`. -/
structure Unacked where
  src : Nat
  ctx : Ctx
  dst : Nat
  chan : Chan
  acked : Bool := false
  op : Nat := 0
  mid : Option Nat := none
  errs : List FlitErr := []
deriving DecidableEq, Repr

/-- An operand of a converging add that has arrived (R206, R277). -/
structure ConvOperand where
  prog : Nat
  tree : Nat
  round : Nat
  ord : Nat
  src : Nat
  ctx : Ctx
  data : List Byte
  op : Nat := 0
  ren : Bool := false
deriving DecidableEq, Repr

/-- The tick wave, on VC0 (R40, R263, R269): the step and tick it carries, the programs with work in flight, those of them
whose first tick it is, the routers reached, the routers that delivered, and its flits in error (R251). -/
structure Wave where
  step : Nat
  tick : Nat
  progs : List Nat
  starts : List Nat
  reached : List Nat := []
  delivered : List Nat := []
  chan : Chan := .express
  errs : List FlitErr := []
deriving DecidableEq, Repr

/-- Felt state. `rounds` counts the CONV_ADD words issued per program, tree and ordinal; `done` the rounds complete, and
`next` the operands of the round in progress that its destination has added (R277). `replays` holds for each lane the
flit whose replay failed last and how often in a row (R280), `gaveUp` the links that retrain and `attemptLinks` those that
have given up since an attempt or a query last began (R281). `holdCls` holds the fields' classes of which the holds H_r
were last computed, and `holdStale` that an emergency throttle came since (R269). -/
structure Felt where
  packets : List Packet := []
  responses : List Response := []
  unacked : List Unacked := []
  conv : List ConvOperand := []
  rounds : List (Nat × Nat) := []
  done : List (Nat × Nat) := []
  next : List (Nat × Nat) := []
  replays : List (Nat × Nat × Nat) := []
  gaveUp : List Nat := []
  attemptLinks : List Nat := []
  wave : Option Wave := none
  holdCls : List Nat := []
  holdStale : Bool := false
deriving DecidableEq, Repr

/-! Vats -/

/-- A vat: its page (R322), its three queues and their turn (R293), whether its port serves the partner next (R289), its
sums (R340, R373). -/
structure VatState where
  ce : Nat := 0
  ue : Nat := 0
  ueAddr : Nat := 0
  patrol : Bool := true
  pkgUp : Nat := 0
  pkgFail : Nat := 0
  port : Nat := 0
  rows : List (Nat × Nat) := []
  qStream : List LineReq := []
  qC1 : List LineReq := []
  qOther : List LineReq := []
  turn : Nat := 0
  alt : Bool := false
  logsum : Nat := 0
  logn : Nat := 0
  viewsum : Nat := 0
  viewn : Nat := 0
deriving DecidableEq, Repr

/-- The weight store (R284). -/
structure Vats where
  mem : EccMem := {}
  stripes : Nat := 0
  vats : List (Nat × VatState) := []
deriving DecidableEq, Repr

/-! Training and queries -/

/-- A sealed input that a step or query takes (R399, R506): its ring index and table entry, and its plaintext once it is
placed and its tag has verified. One that goes to vat space is `coming` while its lines are on their way to their ports, and
`good` keeps what its tag gave. -/
structure Input where
  ring : Nat
  entry : List Byte
  placed : Bool := false
  plain : List Byte := []
  coming : Bool := false
  good : Bool := false
deriving DecidableEq, Repr

/-- A step attempt in phase 1 (R48 to R53): whether STEP_BEGIN has begun it, and the ticks launched. -/
structure Phase1 where
  step : Nat
  attempt : Nat
  started : Bool := false
  tick : Nat := 0
  inputs : List Input := []
  streams : List Nat := []
  views : List Nat := []
deriving DecidableEq, Repr

/-- The coefficients and the new state of a layer, or its skip (R305); F32 codes. -/
structure LayerSeal where
  skip : Bool
  lr : Nat := 0
  wd : Nat := 0
  b1 : Nat := 0
  omb1 : Nat := 0
  b2 : Nat := 0
  omb2 : Nat := 0
  eps : Nat := 0
  c1 : Nat := 0
  c2 : Nat := 0
  k : Int := 0
  dk : Int := 0
  state : List Byte := []
deriving DecidableEq, Repr

/-- A sealed step (R305, R341, R372). -/
structure SealedStep where
  step : Nat
  attempt : Nat
  dlog : List Byte
  record : List Byte
  wmark : List Byte
  layers : List LayerSeal
deriving DecidableEq, Repr

/-- The training run (R46 to R53, R290, R402, R444). `overrun` says that the attempt is the redo of R44, `throttled`
that an emergency throttle fell in it; `stretch` is the class that R43 stretches the period for; `held` that a divergence
holds the sealed step, or that software rejected this member, whose program is idle until TWIN_JOIN (R379, R380); `base` is
what the vats held when phase 2 began, the committed state until it ends (R48, R54). -/
structure Train where
  committed : Nat := 0
  last : Nat := 0
  running : Bool := false
  ending : Option Nat := none
  ph1 : Option Phase1 := none
  sealedStep : Option SealedStep := none
  ph2 : Option SealedStep := none
  redos : Nat := 0
  overrun : Bool := false
  throttled : Bool := false
  stretch : Option Nat := none
  doubled : Bool := false
  feedWait : Bool := false
  invalid : Option Nat := none
  held : Bool := false
  base : Mem := []
deriving DecidableEq, Repr

/-- A query in progress (R47, R445), with the port and the table that it was read from, the persistent vat content at its
start (R54), and the record number of its output when its command has ended and it goes on (R379, R398). -/
structure QRun where
  k : Nat
  entry : List Byte
  input : Input
  tick : Nat := 0
  started : Bool := false
  redos : Nat := 0
  overrun : Bool := false
  throttled : Bool := false
  streams : List Nat := []
  port : HPort := .h0
  tab : QTab := {}
  start : Mem := []
  rseq : Option Nat := none
deriving DecidableEq, Repr

/-- A query slot (R445). -/
structure QSlot where
  served : Bool := false
  next : Nat := 0
  completed : Nat := 0
  run : Option QRun := none
deriving DecidableEq, Repr

/-- SMBus, JTAG and the service ports (R357, R416, R486). -/
structure Service where
  smbusOff : Nat := 0
  smbusOut : List W32 := []
  jtag : JtagIr := .bypass
  served : Nat := 0
deriving DecidableEq, Repr

/-- The state of the module and the queue of waiting commands. `bar2Bad` says that the last BAR2 request completed with
Unsupported Request status (R416). -/
structure State where
  pending : List Instr := []
  h0 : HostPort := {}
  h1 : HostPort := {}
  run : Option Running := none
  readData : W64 := 0
  bar2Bad : Bool := false
  pages : List (Nat × Page) := []
  clusters : List (Nat × ClusterRegs) := []
  fields : List (Nat × FieldState) := []
  sites : List (Nat × SiteRegs) := []
  lease : Lease := {}
  ident : Ident := {}
  power : Power := {}
  sec : Security := {}
  twin : Twin := {}
  ctr : CtrReader := {}
  repair : Repair := {}
  bind : Binding := {}
  cc : Control := {}
  tiles : List (Nat × Tile) := []
  felt : Felt := {}
  vats : Vats := {}
  train : Train := {}
  queries : List (Nat × QSlot) := []
  svc : Service := {}
  free : Nat := 0
deriving DecidableEq, Repr

/-- The machine right after reset: every field at the default above, which is the reset value that the spec gives or
that log entries 2 to 6 name. -/
def State.reset : State := {}

end Sys2Proof.Machine
end

