-- ==== Sys2Proof/WellFormed.lean ====
section
/-! DEFINITION. The operands that name something on the wafer: an ill-formed command names a unit or a register that the
spec does not give (R2 to R4, R175, R425). Every command runs whether or not it is well formed; the model faults where
the unit is none. -/

namespace Sys2Proof

/-- A logical tile: logical cluster · 16 + tile (R2, R3). -/
def tileOk (t : Nat) : Bool := decide (t < 19200)

/-- A physical cluster (R2). -/
def clusterOk (c : Nat) : Bool := decide (c < 1440)

/-- A physical tile slot: cluster · 17 + slot (R2). -/
def slotOk (s : Nat) : Bool := decide (s < 24480)

/-- A field, and the port site of that field (R3, R4). -/
def fieldOk (f : Nat) : Bool := decide (f < 48)

/-- A vat (R4). -/
def vatOk (v : Nat) : Bool := decide (v < 40)

/-- A calender port (R4). -/
def calOk (p : Nat) : Bool := decide (p < 4)

/-- A query slot (R445). -/
def queryOk (q : Nat) : Bool := decide (1 ≤ q) && decide (q ≤ 3)

/-- A link, numbered cluster·8 + kind from its West or upper cluster: 0 E, 1 E2, 2 S, 3 S to column − 1, 4 S to column
+ 1, where no diagonal crosses the seam (R248); 5 PS, at the two wired clusters of a field (R271). -/
def linkOk (l : Nat) : Bool :=
  let x := l / 8 % 48
  let y := l / 8 / 48
  clusterOk (l / 8) && match l % 8 with
    | 0 => decide (x < 47)
    | 1 => decide (x < 46)
    | 2 => decide (y < 29)
    | 3 => decide (y < 29) && decide (0 < x) && decide (x ≠ 24)
    | 4 => decide (y < 29) && decide (x < 47) && decide (x ≠ 23)
    | 5 => decide (y % 5 = 2) && (decide (x % 6 = 2) || decide (x % 6 = 3))
    | _ => false

/-- A naturally aligned 4 or 8 byte access within BAR0 (R423, R426). -/
def accessOk (off size : Nat) : Bool :=
  (decide (size = 4) || decide (size = 8)) && decide (off % size = 0) && decide (off + size ≤ 16777216)

/-- A read of BAR0: of 4 or 8 bytes, naturally aligned, or of fewer bytes within one aligned 4-byte word (R426). -/
def readOk (off size : Nat) : Bool :=
  accessOk off size || (decide (1 ≤ size) && decide (size < 4) && decide (off % 4 + size ≤ 4) && decide (off + size ≤ 16777216))

/-- One of the 1,589 pages of BAR0, by its offset div 0x1000 (R425). -/
def pageOk (k : Nat) : Bool :=
  decide (k < 10) || (decide (0x100 ≤ k) && decide (k < 0x130)) || (decide (0x200 ≤ k) && decide (k < 0x230)) ||
  (decide (0x400 ≤ k) && decide (k < 0x9A0)) || (decide (0xA00 ≤ k) && decide (k < 0xA28)) ||
  (decide (0xC00 ≤ k) && decide (k < 0xC03))

/-- The vat-local stripes of each vat make VAT_END the usable capacity of R1, 18.20 TB and 16.56 TiB to two places (R284),
and their 4,608 bytes each fit its raw 512 GB (R285). -/
def stripesOk (n : Nat) : Bool := decide (111098725 ≤ n) && decide (n ≤ 111111111)

/-- Every operand of a start-up report names something. -/
def StartupReport.wf (r : StartupReport) : Bool :=
  r.tripped.all fieldOk && r.badSlots.all slotOk && r.badClusters.all clusterOk && r.badLinks.all linkOk &&
  r.badSites.all fieldOk && r.badPackages.all (fun p => decide (p < 320)) &&
  r.failingRows.all (fun b => decide (b < 40960)) && r.unrepairable.all vatOk && stripesOk r.stripes

/-- Every operand that names a unit or a register names one that exists. -/
def Instr.wf : Instr → Bool
  | .chkSel _ site _ => fieldOk site
  | .evtWrite _ off _ _ => accessOk off 4
  | .counterValueWrite _ off size _ _ => accessOk off size
  | .rcRead _ off _ size => readOk off size
  | .registerWrite _ off size _ _ => accessOk off size
  | .bar2Access _ _ addr data => decide (addr + data.length ≤ 2 ^ 36)
  | .smbusBlockWrite data => decide (data.length = 3)
  | .smbusBlockRead n => decide (n = 4)
  | .perstRelease _ rate width => (decide (1 ≤ rate) && decide (rate < 4) && [4, 8, 16].contains width) || decide (width < 4)
  | .suppliesValid r => r.wf
  | .powerUpWave tripped => tripped.all fieldOk
  | .fuseTrip fs => fs.all fun f => fieldOk f.1
  | .refLost f => fieldOk f
  | .tempSample f sensors _ => fieldOk f && !sensors.isEmpty
  | .throttleRepeat f _ => fieldOk f
  | .wakeComplete ls _ => ls.all linkOk
  | .voltageSettled f _ => fieldOk f
  | .kx0 p _ => calOk p
  | .kx1 p _ => calOk p
  | .hello h _ => calOk h.port
  | .helloRetry p => calOk p
  | .heartbeat h _ _ _ => calOk h.port
  | .calenderPortDown p _ => calOk p
  | .leave h _ _ => calOk h.port
  | .watermark h _ _ => calOk h.port
  | .digest h _ => calOk h.port
  | .region h _ => calOk h.port
  | .steplog h _ => calOk h.port
  | .roundEnd h _ _ => calOk h.port
  | .switch h _ => calOk h.port
  | .nop t _ => tileOk t
  | .seti t _ => tileOk t
  | .addi t _ => tileOk t
  | .loop t _ => tileOk t
  | .tickWait t _ => tileOk t
  | .stepEnd t _ => tileOk t
  | .ctrSet t _ _ => tileOk t
  | .ctrWait t _ => tileOk t
  | .engIssue t _ => tileOk t
  | .reamOperation t _ => tileOk t
  | .engineCompletion t e => tileOk t && decide (e < 8)
  | .copy t _ => tileOk t
  | .permute t _ => tileOk t
  | .gather t _ => tileOk t
  | .scatter t _ => tileOk t
  | .scatterAdd t _ => tileOk t
  | .copyCompletion t => tileOk t
  | .vatResponse t _ => tileOk t
  | .vconv t _ => tileOk t
  | .add t _ => tileOk t
  | .sub t _ => tileOk t
  | .mul t _ => tileOk t
  | .fma t _ => tileOk t
  | .max t _ => tileOk t
  | .min t _ => tileOk t
  | .scale2 t _ => tileOk t
  | .maxabs t _ => tileOk t
  | .sum t _ => tileOk t
  | .move t _ => tileOk t
  | .vring t _ => tileOk t
  | .adamw t _ => tileOk t
  | .sgdm t _ => tileOk t
  | .logpack t _ => tileOk t
  | .vtopk t _ => tileOk t
  | .vcomp t _ => tileOk t
  | .censusClear t _ => tileOk t
  | .censusStore t _ => tileOk t
  | .censusFlags t _ => tileOk t
  | .vectorCompletion t => tileOk t
  | .put t _ => tileOk t
  | .get t _ => tileOk t
  | .radd t _ => tileOk t
  | .rmax t _ => tileOk t
  | .rswap t _ => tileOk t
  | .mcast t _ => tileOk t
  | .convAdd t _ => tileOk t
  | .remoteArrival src _ dst => tileOk src && tileOk dst
  | .getResponse t => tileOk t
  | .acknowledgement t _ dst => tileOk t && tileOk dst
  | .waveArrival c => clusterOk c
  | .tickArrival c => clusterOk c
  | .replayRequest l _ _ lane seq => linkOk l && decide (lane < 2) && decide (seq < 256)
  | .linkRetrainDone l _ => linkOk l
  | .sramWriteBack s addr => slotOk s && decide (addr < 2621440)
  | .vatLineRequest v => vatOk v
  | .vatWriteBack v => vatOk v
  | .patrol v => vatOk v
  | .hostReadCompletion slot _ _ => decide (slot < 4)
  | .streamEntry slot _ => decide (slot < 4)
  | .qtabFillPoll q _ => queryOk q
  | .queryOutput q => queryOk q
  | .servicePortPacket site _ _ => decide (site = 3) || decide (site = 44)
  | .bind _ _ _ => true
  | .unbind _ _ _ => true
  | .loadProgram _ _ _ => true
  | .runSteps _ _ _ => true
  | .runQuery _ _ _ => true
  | .exportSnapshot _ _ _ => true
  | .importState _ _ _ => true
  | .attest _ _ _ => true
  | .twinJoin _ _ _ => true
  | .twinLeave _ _ _ => true
  | .resetCompute _ _ _ => true
  | .scrub _ _ _ => true
  | .ownerSet _ _ _ => true
  | .slotLoad _ _ _ => true
  | .slotClear _ _ _ => true
  | .zeroize _ _ _ => true
  | .unsealMode _ _ _ => true
  | .sealMode _ _ _ => true
  | .cmdAbort _ _ => true
  | .leaseClaim _ _ => true
  | .leaseRelease _ _ => true
  | .leaseHeartbeat _ _ => true
  | .leaseTimeout _ _ => true
  | .leaseExpiry => true
  | .latencyTolerance _ _ => true
  | .dumpPeriod _ _ => true
  | .jtagInstruction _ => true
  | .perstAssert _ => true
  | .pcieLinkDown _ => true
  | .d3hot _ => true
  | .busOutOfRange _ => true
  | .tamper => true
  | .tamperScrubEnd => true
  | .coolantSample _ _ _ => true
  | .lifeCounterTick => true
  | .pstateEntry _ => true
  | .wake => true
  | .heartbeatSend => true
  | .watermarkTimeout => true
  | .leaveWaitEnd _ => true
  | .joinTimeout => true
  | .tickWaveLaunch _ => true
  | .bindingApplied _ => true
  | .feedFillPoll _ => true
  | .stepBegin _ => true
  | .viewEntry _ => true
  | .stepSeal _ => true
  | .phase2Chunk => true
  | .commit _ => true
  | .rollForward _ => true
  | .counterSnapshot => true
  | .snapshotLatch k => pageOk k
  | .dumpWritten => true
  | .d0 _ => true
  | .firmwareUpdate _ _ _ _ => true
  | .busRange _ _ => true
  | .refOk => true

end Sys2Proof
end

