-- ==== Sys2Proof/Machine/Ops.lean ====
section
/-! DEFINITION. Named operations over the memories, the pages and the tiles. -/

namespace Sys2Proof.Machine

/-- The next state, or a stop where an operand names no unit. -/
abbrev Out := Host.Outcome State Fault Refusal

/-- Answer a next state when the operand names an existing unit. -/
def ifUnit (ok : Bool) (s : State) : Out := if ok then .next s else .fault .noSuchUnit

/-! Memories under the SECDED code (R173, R286, R353 to R356) -/

/-- What a read of a word does with its stored error: the bits to invert in the bytes, or uncorrectable; with whether
it counts a corrected word. The code is linear, so the syndrome is that of the error alone. -/
def WordErr.fix (e : WordErr) : Option Nat × Bool :=
  match syndrome (e.c ^^^ checkByte e.d) with
  | .clean => (some e.d, false)
  | .dataBit i => (some (e.d ^^^ 2 ^ i), true)
  | .checkBit _ => (some e.d, true)
  | .uncorrectable => (none, false)

/-- The byte that a read of an address delivers. -/
def EccMem.byte (m : EccMem) (a : Nat) : Byte :=
  let b := sget 0 m.cells a
  let e := sget {} m.errs (a / 8 * 8)
  b ^^^ BitVec.ofNat 8 ((e.fix.1.getD e.d) >>> (8 * (a % 8)))

/-- `n` bytes from an address. -/
def EccMem.read (m : EccMem) (a : Nat) : Nat → List Byte
  | 0 => []
  | n + 1 => m.byte a :: m.read (a + 1) n

/-- The little-endian number of `n` bytes. -/
def EccMem.le (m : EccMem) (a n : Nat) : Nat := leNat (m.read a n)

/-- A word shares a byte with a range; an empty range holds none (R13). -/
def wordIn (w : Nat) (r : Nat × Nat) : Bool := decide (max w r.1 < min (w + 8) (r.1 + r.2))

/-- The first uncorrectable word of some ranges (R355). -/
def EccMem.bad (m : EccMem) (rs : List (Nat × Nat)) : Option Nat :=
  (m.errs.find? fun e => e.2.fix.1.isNone && rs.any (wordIn e.1)).map fun e => e.1

/-- The words of some ranges that a read corrects (R355). -/
def EccMem.corrected (m : EccMem) (rs : List (Nat × Nat)) : List Nat :=
  (m.errs.filter fun e => e.2.fix.2 && rs.any (wordIn e.1)).map fun e => e.1

/-- A corrected word's write-back falls due (R356). -/
def EccMem.noteDue (m : EccMem) (ws : List Nat) : EccMem :=
  { m with due := m.due ++ ws.filter fun w => !m.due.contains w }

/-- Store the word's delivered bytes and forget its error. -/
def EccMem.settle (m : EccMem) (w : Nat) : EccMem :=
  { m with cells := sputs 0 m.cells w (m.read w 8), errs := m.errs.filter fun e => e.1 != w
           due := m.due.filter (· != w) }

/-- Before a write of a range: a word wholly written loses its error, a word written in part is settled when it is
correctable and keeps its error otherwise; a write-back that is due is dropped (R356). -/
def EccMem.clearFor (m : EccMem) (a n : Nat) : EccMem :=
  m.errs.foldl (fun m e =>
    if !wordIn e.1 (a, n) then m
    else if e.2.fix.1.isSome || (decide (a ≤ e.1) && decide (e.1 + 8 ≤ a + n)) then m.settle e.1 else m)
    { m with due := m.due.filter fun w => !wordIn w (a, n) }

/-- Write bytes from an address. -/
def EccMem.write (m : EccMem) (a : Nat) (bs : List Byte) : EccMem :=
  let m := if m.errs = [] then m else m.clearFor a bs.length
  { m with cells := sputs 0 m.cells a bs }

/-- Write several pieces in order. -/
def EccMem.writes (m : EccMem) (ps : List (Nat × List Byte)) : EccMem :=
  ps.foldl (fun m p => m.write p.1 p.2) m

/-- Zero a range with valid check bytes. -/
def EccMem.zero (m : EccMem) (a n : Nat) : EccMem :=
  { cells := sclear m.cells a (a + n), errs := m.errs.filter fun e => !wordIn e.1 (a, n)
    due := m.due.filter fun w => !wordIn w (a, n) }

/-- The canonical form of a memory (the byte map's). -/
def Mem.wf (m : Mem) : Bool := swf 0 m

/-- `n` bytes of host memory. -/
def memRead (m : Mem) (a n : Nat) : List Byte := sgets 0 m a n

/-- Write bytes of host memory. -/
def memWrite (m : Mem) (a : Nat) (bs : List Byte) : Mem := sputs 0 m a bs

/-! Numbers of the wafer (R2 to R4) -/

/-- Field of a physical cluster index (R3). -/
def fieldOfCluster (c : Nat) : Nat := (c / 48 / 5) * 8 + (c % 48) / 6

/-- Field of a logical cluster index (R3). -/
def fieldOfLogical (l : Nat) : Nat := (l / 40 / 5) * 8 + (l % 40) / 5

/-- Fields of V0 to V39 in order (R4). -/
def vatFields : List Nat :=
  [1, 2, 4, 5, 6, 8, 9, 10, 11, 12, 13, 14, 15, 16, 17, 18, 20, 21, 22, 23] ++
  [24, 25, 26, 27, 29, 30, 31, 32, 33, 34, 35, 36, 37, 38, 39, 41, 42, 43, 45, 46]

/-- Site (field) of a vat's own port. -/
def vatSite (v : Nat) : Nat := nth 0 vatFields v

/-- The vat whose own port lies at a site. -/
def siteVat (f : Nat) : Option Nat := findFrom (· == f) vatFields 0

/-- Site of a host port (R4). -/
def hostSite : HPort → Nat
  | .h0 => 19
  | .h1 => 28

/-- Site of a calender port (R4). -/
def calSite : Nat → Nat
  | 0 => 0
  | 1 => 7
  | 2 => 40
  | _ => 47

/-- Field of a control replica (R4). -/
def replicaField : Replica → Nat
  | .cca => 10
  | .ccb => 13
  | .ccc => 42

/-- A field lies in the West half (R19). -/
def isWest (f : Nat) : Bool := decide (f % 8 < 4)

/-- The fields of a half. -/
def halfFields (h : Half) : List Nat := (List.range 48).filter fun f => isWest f == (h == .west)

/-- The pairs of R288, vat to partner. -/
def vatPairs : List (Nat × Nat) :=
  [(0, 1), (5, 6), (7, 8), (13, 14), (15, 22), (20, 21), (23, 30), (27, 28), (29, 37), (35, 36)] ++
  [(2, 10), (3, 4), (9, 16), (11, 12), (17, 24), (18, 19), (25, 26), (31, 32), (33, 34), (38, 39)]

/-- The pair partner of a vat (R288). -/
def vatPartner (v : Nat) : Nat :=
  match vatPairs.find? fun p => p.1 == v || p.2 == v with
  | some p => if p.1 == v then p.2 else p.1
  | none => v

/-! Page numbers: BAR0 offset div 0x1000 (R425) -/

/-- Identity page. -/
def pgIdent : Nat := 0
/-- Command page of a port. -/
def pgCmd (p : HPort) : Nat := 1 + p.num
/-- Lease page. -/
def pgLease : Nat := 3
/-- Power page. -/
def pgPower : Nat := 4
/-- Security page. -/
def pgSec : Nat := 5
/-- Twin page. -/
def pgTwin : Nat := 6
/-- Counter reader page. -/
def pgCtr : Nat := 7
/-- Repair log page. -/
def pgRlog : Nat := 8
/-- Binding page. -/
def pgBind : Nat := 9
/-- Field page. -/
def pgField (f : Nat) : Nat := 0x100 + f
/-- Port-site page. -/
def pgSite (f : Nat) : Nat := 0x200 + f
/-- Cluster page. -/
def pgCluster (c : Nat) : Nat := 0x400 + c
/-- Vat page. -/
def pgVat (v : Nat) : Nat := 0xA00 + v
/-- Control-complex page. -/
def pgCc (r : Nat) : Nat := 0xC00 + r

/-- A page number is one of the 1,589 pages. -/
def pageExists (k : Nat) : Bool := pageOk k

/-- KIND of a page (R430). -/
def pageKind (k : Nat) : Nat :=
  if k = 0 then 1 else if k < 3 then 2 else if k < 10 then k
  else if k < 0x200 then 0x10 else if k < 0x400 then 0x11 else if k < 0xA00 then 0x12
  else if k < 0xC00 then 0x13 else 0x14

/-- INSTANCE of a page (R429). -/
def pageInstance (k : Nat) : Nat :=
  if k < 10 then (if k = 2 then 1 else 0) else if k < 0x200 then k - 0x100 else if k < 0x400 then k - 0x200
  else if k < 0xA00 then k - 0x400 else if k < 0xC00 then k - 0xA00 else k - 0xC00

/-! Fault codes (R371) -/

def fSRAM_UE : Nat := 0x1002
def fLINK_REPLAY_FAIL : Nat := 0x1003
def fTICK_OVERRUN : Nat := 0x1004
def fTHERMAL_THROTTLE : Nat := 0x1005
def fVAT_UE : Nat := 0x1006
def fCLUSTER_RETIRED : Nat := 0x2001
def fTILE_RETIRED : Nat := 0x2002
def fLINK_RETIRED : Nat := 0x2003
def fFIELD_LOST : Nat := 0x2004
def fVAT_PORT_RETIRED : Nat := 0x2005
def fSPARES_EXHAUSTED : Nat := 0x2006
def fCONTROL_REPLICA_LOST : Nat := 0x2007
def fSPARSE_META : Nat := 0x3001
def fSPARSE_TRANSPOSE : Nat := 0x3002
def fINDEX_RANGE : Nat := 0x3003
def fDESC_RANGE : Nat := 0x3004
def fDESC_INVALID : Nat := 0x3005
def fCOPY_OVERLAP : Nat := 0x3006
def fCMD_BUSY : Nat := 0x3007
def fLEASE_NOT_HELD : Nat := 0x3008
def fBIND_CONFLICT : Nat := 0x3009
def fPLACEMENT_HOLE : Nat := 0x300A
def fSCHEDULE_OVERRUN : Nat := 0x300B
def fAUTH_TAG_FAIL : Nat := 0x4001
def fKEY_UNKNOWN : Nat := 0x4002
def fFW_SIG_FAIL : Nat := 0x4003
def fSEAL_VIOLATION : Nat := 0x4004
def fTAMPER : Nat := 0x4005
def fWATERMARK_MISMATCH : Nat := 0x5001
def fPARTNER_LOST : Nat := 0x5002
def fCALENDER_DEGRADED : Nat := 0x5003
def fPAIR_DIVERGENCE : Nat := 0x5004

/-! Accessors of the sparse parts of State -/

/-- A host port's record. -/
def State.port (s : State) : HPort → HostPort
  | .h0 => s.h0
  | .h1 => s.h1

/-- Replace a host port's record. -/
def State.setPort (s : State) (p : HPort) (v : HostPort) : State :=
  match p with
  | .h0 => { s with h0 := v }
  | .h1 => { s with h1 := v }

/-- Change a command page. -/
def State.modCmd (s : State) (p : HPort) (f : CmdPage → CmdPage) : State :=
  s.setPort p { s.port p with cmd := f (s.port p).cmd }

/-- A page's common part. -/
def State.page (s : State) (k : Nat) : Page := sget {} s.pages k

/-- A cluster page's own registers. -/
def State.cluster (s : State) (c : Nat) : ClusterRegs := sget {} s.clusters c

/-- A field. -/
def State.field (s : State) (f : Nat) : FieldState := sget {} s.fields f

/-- Replace a field. -/
def State.setField (s : State) (f : Nat) (v : FieldState) : State := { s with fields := sput {} s.fields f v }

/-- A port site's check-value registers. -/
def State.site (s : State) (f : Nat) : SiteRegs := sget {} s.sites f

/-- Replace a port site's check-value registers. -/
def State.setSite (s : State) (f : Nat) (v : SiteRegs) : State := { s with sites := sput {} s.sites f v }

/-- A vat. -/
def Vats.vat (v : Vats) (i : Nat) : VatState := sget {} v.vats i

/-- Replace a vat. -/
def Vats.setVat (v : Vats) (i : Nat) (x : VatState) : Vats := { v with vats := sput {} v.vats i x }

/-- A tile slot. -/
def State.tile (s : State) (p : Nat) : Tile := sget {} s.tiles p

/-- Replace a tile slot. -/
def State.setTile (s : State) (p : Nat) (t : Tile) : State := { s with tiles := sput {} s.tiles p t }

/-- A program slot (0 training, 1 to 3 queries). -/
def State.prog (s : State) (i : Nat) : Option Prog := sget none s.bind.progs i

/-- Replace a program slot. -/
def State.setProg (s : State) (i : Nat) (p : Option Prog) : State :=
  { s with bind := { s.bind with progs := sput none s.bind.progs i p } }

/-- A query slot. -/
def State.query (s : State) (i : Nat) : QSlot := sget {} s.queries i

/-- Replace a query slot. -/
def State.setQuery (s : State) (i : Nat) (q : QSlot) : State := { s with queries := sput {} s.queries i q }

/-- A key slot. -/
def Security.slot (x : Security) (i : Nat) : Option KeySlot := sget none x.slots i

/-- Replace a key slot. -/
def Security.setSlot (x : Security) (i : Nat) (v : Option KeySlot) : Security := { x with slots := sput none x.slots i v }

/-- A calender port. -/
def Twin.port (t : Twin) (i : Nat) : CalPort := sget {} t.ports i

/-- Replace a calender port. -/
def Twin.setPort (t : Twin) (i : Nat) (p : CalPort) : Twin := { t with ports := sput {} t.ports i p }

/-- VAT_END (R284). -/
def Vats.vatEnd (v : Vats) : Nat := 163840 * v.stripes

/-- Draw a free byte. -/
def State.drawByte (s : State) : Byte × State := (Config.freeByte s.free, { s with free := s.free + 1 })

/-- `n` free bytes from number `i`. -/
def freeBytes (i : Nat) : Nat → List Byte
  | 0 => []
  | n + 1 => Config.freeByte i :: freeBytes (i + 1) n

end Sys2Proof.Machine
end

