-- ==== Sys2Proof/Machine/Flags.lean ====
section
/-! DEFINITION. Event bits and their MSI-X messages (R446, R447), fault records (R370, R429, R431), block counters
(R489, R490), census counts (R96, R198) and the SAT flag. -/

namespace Sys2Proof.Machine

/-- Event group of a page (R446): the vector, with 10 standing for the command page of H1. -/
def pageGroup (k : Nat) : Nat :=
  if k = 0 then 2 else if k = 1 then 0 else if k = 2 then 10 else if k = 3 then 1
  else if k < 10 then k - 1
  else if k < 0x200 then 16 + (k - 0x100) else if k < 0x400 then 16 + (k - 0x200)
  else if k < 0xA00 then 16 + fieldOfCluster (k - 0x400)
  else if k < 0xC00 then 16 + vatSite (k - 0xA00) else 9

/-- A group is pending (R447). -/
def groupPending (ps : List (Nat × Page)) (g : Nat) : Bool :=
  ps.any fun kp => pageGroup kp.1 == g && kp.2.evt &&& kp.2.evtEn != 0

/-- A vector is masked by its table entry's control bit, or with every other by the Function Mask (R447). -/
def HostPort.masked (h : HostPort) (v : Nat) : Bool := h.fn.funcMask || (sget 0 h.msix (16 * v + 12)).getLsbD 0

/-- Send one MSI-X message from a port, or hold it in the PBA when masked. A function in reset or D3hot sends none, nor one
whose MSI-X is not enabled (R421, R424, R447). -/
def HostPort.send (h : HostPort) (v : Nat) : HostPort :=
  if h.perst || h.d3 || !h.fn.msixOn then h
  else if h.masked v then { h with pba := h.pba ||| BitVec.ofNat 64 (2 ^ v) }
  else { h with msgs := h.msgs ++ [v] }

/-- Send a group's message: a command page in its own port's function, the rest in both (R446). -/
def State.sendGroup (s : State) (g : Nat) : State :=
  if g = 0 then { s with h0 := s.h0.send 0 }
  else if g = 10 then { s with h1 := s.h1.send 0 }
  else { s with h0 := s.h0.send g, h1 := s.h1.send g }

/-- A held message of a vector whose group is no longer pending is dropped: its PBA bit clears (R447). -/
def HostPort.drop (h : HostPort) (v : Nat) : HostPort := { h with pba := h.pba &&& ~~~ (BitVec.ofNat 64 (2 ^ v)) }

/-- Drop a group's held message: a command page's in its own port's function, the rest in both (R446, R447). -/
def State.dropGroup (s : State) (g : Nat) : State :=
  if g = 0 then { s with h0 := s.h0.drop 0 }
  else if g = 10 then { s with h1 := s.h1.drop 0 }
  else { s with h0 := s.h0.drop g, h1 := s.h1.drop g }

/-- Change the common part of a page; a message goes out when its group becomes pending (R447). A lost unit's page keeps
its values (R427). -/
def State.modPage (s : State) (k : Nat) (f : Page → Page) : State :=
  let p := s.page k
  if p.lost then s
  else
    let ps := sput {} s.pages k (f p)
    let g := pageGroup k
    let was := groupPending s.pages g
    let s := { s with pages := ps }
    if !was && groupPending ps g then s.sendGroup g else s

/-- Software writes an EVT or EVT_EN: one further message when the group is still pending, and none stays held when it is
not (R447). -/
def State.writeEvt (s : State) (k : Nat) (f : Page → Page) : State :=
  let p := s.page k
  if p.lost then s
  else
    let s := { s with pages := sput {} s.pages k (f p) }
    if groupPending s.pages (pageGroup k) then s.sendGroup (pageGroup k) else s.dropGroup (pageGroup k)

/-- Set event bits of a page. -/
def State.setEvt (s : State) (k : Nat) (bits : Nat) : State :=
  s.modPage k fun p => { p with evt := p.evt ||| BitVec.ofNat 32 bits }

/-- Add to one counter (R490). -/
def Counter.bump (c : Counter) (n : Nat) : Counter :=
  if 2 ^ 48 ≤ c.value + n then { c with value := 2 ^ 48 - 1, satd := true } else { c with value := c.value + n }

/-- Add `n` occurrences of a "count" event to a page's counters that select it (R490, R491). -/
def Page.bump (p : Page) (ev n : Nat) : Page :=
  if n = 0 then p else { p with ctrs := p.ctrs.map fun kc => if kc.2.evsel = ev then (kc.1, kc.2.bump n) else kc }

/-- Add `n` to a page's edge counters of a signal that went from 0 to 1 in `n` units (R490). -/
def Page.edge (p : Page) (ev n : Nat) : Page :=
  { p with ctrs := p.ctrs.map fun kc => if kc.2.evsel = ev && !kc.2.mode then (kc.1, kc.2.bump n) else kc }

/-- A signal of a unit rises: the page's edge counters of it count one. -/
def State.edge (s : State) (k ev : Nat) : State :=
  let p := s.page k
  if p.lost || p.ctrs.isEmpty then s else { s with pages := sput {} s.pages k (p.edge ev 1) }

/-- What a counter counts with time, or with flits and SRAM lines, on a page of a kind (R491): the edges of 0x17, 0x50 and
0x51 are the model's own events. -/
def Counter.timed (c : Counter) (kind : Nat) : Bool :=
  let ev := c.evsel
  ev == 0x01 ||
  (kind == 0x12 && ((decide (0x11 ≤ ev) && decide (ev ≤ 0x14)) || ev == 0x16 || (ev == 0x17 && c.mode) ||
    (decide (0x18 ≤ ev) && decide (ev ≤ 0x1A)) || (decide (0x20 ≤ ev) && decide (ev ≤ 0x23)) || ev == 0x25)) ||
  (kind == 0x11 && ev == 0x33) || (kind == 0x13 && decide (0x42 ≤ ev) && decide (ev ≤ 0x44)) ||
  (kind == 0x10 && (ev == 0x50 || ev == 0x51) && c.mode)

/-- A counter of a page as it stands now: one that counts with time has gone on by a free amount, and saturates (R489,
R490; log entry 1). -/
def Counter.now (c : Counter) (kind f : Nat) : Counter :=
  if c.timed kind then c.bump (Config.freeWord f).toNat else c

/-- The counters of a page count up to now; those of a lost unit's page stand (R427, R490). -/
def State.countTime (s : State) (k : Nat) : State :=
  let p := s.page k
  if p.lost || p.ctrs.isEmpty then s
  else
    let cs := p.ctrs.zipIdx.map fun c => (c.1.1, c.1.2.now (pageKind k) (s.free + c.2))
    { s with pages := sput {} s.pages k { p with ctrs := cs }, free := s.free + 8 }

/-- Add `n` occurrences of an event on a page. -/
def State.bump (s : State) (k ev n : Nat) : State :=
  let p := s.page k
  if p.lost || p.ctrs.isEmpty then s else { s with pages := sput {} s.pages k (p.bump ev n) }

/-- A check fails at a port site: it is counted with the replay that it asks for, and whether this was the eighth replay of
one packet to fail (R362). -/
def State.checkFailed (s : State) (f : Nat) : Bool × State :=
  let x := s.site f
  let n := x.fails + 1
  let s := s.setSite f { x with
    chkFail := satAdd 32 x.chkFail 1, replays := satAdd 32 x.replays 1, fails := if n < 9 then n else 0 }
  (decide (9 ≤ n), (s.bump (pgSite f) 0x31 1).bump (pgSite f) 0x32 1)

/-- Whether the retraining of a link passes: a free value, since the link decides it (R366; log entry 1). -/
def State.retrains (s : State) : Bool × State := (Config.freeBool s.free, { s with free := s.free + 1 })

/-- Record faults that fall on a page in one cycle: CODE and FAULT_INFO take the first in the order of R371, which is
ascending; COUNT rises by their number; FAULT is set (R370, R429, R431). -/
def State.recordFaults (s : State) (k : Nat) (fs : List (Nat × Nat)) : State :=
  match fs with
  | [] => s
  | h :: r =>
    let m := r.foldl (fun (a : Nat × Nat) b => if b.1 < a.1 then b else a) h
    s.modPage k fun p => { p with
      evt := p.evt ||| 1#32, code := m.1, info := BitVec.ofNat 32 m.2, count := satAdd 16 p.count fs.length
      ctrs := (p.bump 0x03 fs.length).ctrs }

/-- Record one fault on a page. -/
def State.recordFault (s : State) (k code info : Nat) : State := s.recordFaults k [(code, info)]

/-- Mark the page of a unit as lost (R427). -/
def State.losePage (s : State) (k : Nat) : State :=
  let s := s.countTime k
  { s with pages := sput {} s.pages k { s.page k with lost := true } }

/-- Add an entry to the repair log; a full log drops its oldest entry of source 2 (R452), and one that holds none of
source 2 takes no further entry. What start-up finds is of source 1 (R475). -/
def State.logRepair (s : State) (code source kind unit : Nat) : State :=
  let source := if source = 2 ∧ !s.ident.ready then 1 else source
  let es := s.repair.entries
  let e : RepairEntry := ⟨code, source, kind, unit, s.repair.life⟩
  let es := if es.length < 65536 then es ++ [e]
    else match findFrom (fun e => e.source == 2) es 0 with
      | some i => es.eraseIdx i ++ [e]
      | none => es
  { s with repair := { s.repair with entries := es } }

/-- A transient fault of a unit recurs within 24 hours of the life counter (R365); and the window is renewed. -/
def State.recurs (s : State) (key : Nat) : Bool × State :=
  let last := (s.repair.windows.find? fun w => w.1 == key).map fun w => w.2
  let within := match last with
    | some t => decide (s.repair.life ≤ t + 86400)
    | none => false
  (within, { s with repair := { s.repair with
    windows := (key, s.repair.life) :: s.repair.windows.filter fun w => w.1 != key } })

/-- Count one element in its class, saturating (R96, R198). -/
def Census.count (c : Census) : Option CensusClass → Census
  | none => c
  | some .zero => { c with zero := satAdd 32 c.zero 1 }
  | some .saturation => { c with sat := satAdd 32 c.sat 1 }
  | some .nonFinite => { c with nonfin := satAdd 32 c.nonfin 1 }
  | some .flushed => { c with flushed := satAdd 32 c.flushed 1 }

/-- Count several elements in a census slot of a tile. -/
def Tile.countCensus (t : Tile) (slot : Nat) (cs : List (Option CensusClass)) : Tile :=
  { t with census := sput {} t.census slot (cs.foldl Census.count (sget {} t.census slot)) }

/-- The census slot as 16 bytes: zero, saturation, non-finite, flushed (R198). -/
def Census.bytes (c : Census) : List Byte :=
  leBytes 4 c.zero ++ leBytes 4 c.sat ++ leBytes 4 c.nonfin ++ leBytes 4 c.flushed

/-- A context of a tile. -/
def Tile.ctx (t : Tile) : Ctx → CtxState
  | .c0 => t.c0
  | .c1 => t.c1

/-- Replace a context. -/
def Tile.setCtx (t : Tile) (c : Ctx) (x : CtxState) : Tile :=
  match c with
  | .c0 => { t with c0 := x }
  | .c1 => { t with c1 := x }

/-- Set the SAT bit of a context (R62, R198). -/
def Tile.setSat (t : Tile) (c : Ctx) (sat : Bool) : Tile :=
  if sat then t.setCtx c { t.ctx c with flags := (t.ctx c).flags ||| 1#32 } else t

/-- Increment a completion counter, saturating (R186). -/
def Tile.incCtr (t : Tile) (i n : Nat) : Tile := { t with ctrs := sput 0 t.ctrs i (satAdd 32 (sget 0 t.ctrs i) n) }

/-- Increment the local counter of an operation when CEN is 1 (R181). -/
def Tile.complete (t : Tile) (ctr : Nat) (cen : Bool) : Tile := if cen then t.incCtr ctr 1 else t

end Sys2Proof.Machine
end

