-- ==== Sys2Proof/Machine/Fabric.lean ====
section
/-! DEFINITION. From retirement to the logical grid: servers, holes, edges, routes, attach clusters, wave roots and
holds, and binding entries (R25 to R38, R248 to R272). Every function here is of one retirement state, so that the tables
of the last applied binding computation are these functions of it. -/

namespace Sys2Proof.Machine

/-- A physical cluster is living. -/
def Retire.living (r : Retire) (c : Nat) : Bool :=
  !r.clusters.contains c && !r.fields.contains (fieldOfCluster c)

/-- The living clusters of the row segment of field column `fc` in row `y`, ascending (R26). -/
def Retire.segment (r : Retire) (fc y : Nat) : List Nat :=
  ((List.range 6).map fun k => y * 48 + 6 * fc + k).filter r.living

/-- The physical cluster that serves a logical cluster (R26, R28); none is a hole. -/
def Retire.server (r : Retire) (l : Nat) : Option Nat :=
  (r.segment (l % 40 / 5) (l / 40))[l % 40 % 5]?

/-- A logical position is a hole. -/
def Retire.hole (r : Retire) (l : Nat) : Bool := (r.server l).isNone

/-- The logical cluster that a physical cluster serves; none is a spare or a retired cluster. -/
def Retire.serves (r : Retire) (c : Nat) : Option Nat :=
  match findFrom (· == c) (r.segment (c % 48 / 6) (c / 48)) 0 with
  | some k => if k < 5 then some (c / 48 * 40 + 5 * (c % 48 / 6) + k) else none
  | none => none

/-- A living cluster that serves no logical position: the segment's spare (R26). -/
def Retire.spare (r : Retire) (c : Nat) : Bool := r.living c && (r.serves c).isNone

/-- The living tile slots of a cluster, ascending (R25). -/
def Retire.liveSlots (r : Retire) (c : Nat) : List Nat :=
  (List.range 17).filter fun k => !r.slots.contains (c * 17 + k)

/-- The physical tile slot that serves a logical tile (R25, R26). -/
def Retire.tileSlot (r : Retire) (t : Nat) : Option Nat :=
  match r.server (t / 16) with
  | none => none
  | some c => ((r.liveSlots c)[t % 16]?).map fun k => c * 17 + k

/-- The logical tiles of a logical cluster with the slots that serve them. -/
def Retire.tilesAt (r : Retire) (l : Nat) : List (Nat × Nat) :=
  (List.range 16).filterMap fun t => (r.tileSlot (l * 16 + t)).map fun k => (t, k)

/-- TILE_SPARE: slot 16 serves a logical tile (R38). -/
def Retire.usesSpare (r : Retire) (c : Nat) : Bool := ((r.liveSlots c).take 16).contains 16

/-- Links are numbered cluster·8 + kind from their West or upper cluster: 0 E, 1 E2, 2 S, 3 S to column − 1, 4 S to
column + 1, 5 PS (R248). -/
def linkId (c k : Nat) : Nat := c * 8 + k

/-- A link is living: not retired. -/
def Retire.linkUp (r : Retire) (l : Nat) : Bool := !r.links.contains l

/-- How two clusters adjacent in x are joined (R255). -/
inductive EdgeKind where
  | missing
  | direct
  | skip
  | spare
deriving DecidableEq, Repr

/-- The horizontal edge from L(x,y) to L(x+1,y), with `l` the index of L(x,y) (R255). -/
def Retire.eastEdge (r : Retire) (l : Nat) : EdgeKind :=
  if l % 40 = 39 then .missing
  else match r.server l, r.server (l + 1) with
    | some a, some b =>
      if b = a + 1 then (if r.linkUp (linkId a 0) then .direct else .missing)
      else if b = a + 2 then
        (if !r.living (a + 1) then (if r.linkUp (linkId a 1) then .skip else .missing)
         else if r.spare (a + 1) && r.linkUp (linkId a 0) && r.linkUp (linkId (a + 1) 0) then .spare else .missing)
      else .missing
    | _, _ => .missing

/-- The vertical link from L(x,y) down to L(x,y+1): the link number when the edge is linked (R256). No diagonal link
crosses the seam (R248). -/
def Retire.southLink (r : Retire) (l : Nat) : Option Nat :=
  if 29 ≤ l / 40 then none
  else match r.server l, r.server (l + 40) with
    | some a, some b =>
      let ca := a % 48
      let cb := b % 48
      if ca = cb then some (linkId a 2)
      else if ca = cb + 1 ∧ ca ≠ 24 then some (linkId a 3)
      else if cb = ca + 1 ∧ cb ≠ 24 then some (linkId a 4)
      else none
    | _, _ => none

/-- The vertical edge from L(x,y) down is linked (R256). -/
def Retire.southEdge (r : Retire) (l : Nat) : Bool :=
  match r.southLink l with
  | some k => r.linkUp k
  | none => false

/-- All horizontal edges of one row from column `a` to column `b` are linked. -/
def Retire.rowOpen (r : Retire) (y a b : Nat) : Bool :=
  (List.range (Nat.max a b - Nat.min a b)).all fun i => r.eastEdge (y * 40 + Nat.min a b + i) != .missing

/-- All vertical edges of one column from row `a` to row `b` are linked. -/
def Retire.colOpen (r : Retire) (x a b : Nat) : Bool :=
  (List.range (Nat.max a b - Nat.min a b)).all fun i => r.southEdge ((Nat.min a b + i) * 40 + x)

/-- The XY path between two logical clusters is usable (R259). -/
def Retire.usable (r : Retire) (a b : Nat) : Bool :=
  r.rowOpen (a / 40) (a % 40) (b % 40) && r.colOpen (b % 40) (a / 40) (b / 40)

/-- |dx| + |dy|. -/
def gridDist (a b : Nat) : Nat :=
  (Nat.max (a % 40) (b % 40) - Nat.min (a % 40) (b % 40)) + (Nat.max (a / 40) (b / 40) - Nat.min (a / 40) (b / 40))

/-- The intermediate cluster of R260: the least detour, the lowest index among equals. -/
def Retire.intermediate (r : Retire) (a b : Nat) : Option Nat :=
  ((List.range 1200).foldl (fun (best : Option (Nat × Nat)) m =>
    if r.hole m || !(r.usable a m && r.usable m b) then best
    else
      let c := gridDist a m + gridDist m b
      match best with
      | none => some (m, c)
      | some (_, c0) => if c < c0 then some (m, c) else best) none).map fun b => b.1

/-- A route (R260): the clusters that end its one or two XY paths, or unreachable. -/
inductive Route where
  | direct
  | via (m : Nat)
  | unreachable
deriving DecidableEq, Repr

/-- The route from `a` to `b` (R260). -/
def Retire.route (r : Retire) (a b : Nat) : Route :=
  if r.usable a b then .direct
  else match r.intermediate a b with
    | some m => .via m
    | none => .unreachable

/-- Ports of a router, coded as PORT of R282. -/
inductive RouterPort where
  | w | e | w2 | e2 | n | s | ps | ti
deriving DecidableEq, Repr

/-- The code of a port (R282). -/
def RouterPort.code : RouterPort → Nat
  | .w => 0 | .e => 1 | .w2 => 2 | .e2 => 3 | .n => 4 | .s => 5 | .ps => 6 | .ti => 7

/-- One hop of a route: the router that sends and its output, the router that receives and its input, and the sub-channel
(R258, R261). -/
structure Hop where
  src : Nat
  out : RouterPort
  dst : Nat
  inp : RouterPort
  sub : Nat := 0
deriving DecidableEq, Repr

/-- The numbers from `a` to `b`, both included, up or down. -/
def lineTo (a b : Nat) : List Nat :=
  if a ≤ b then (List.range (b - a + 1)).map (a + ·) else (List.range (a - b + 1)).map (a - ·)

/-- The logical clusters of an XY path from its first to its last (R259). -/
def xyPath (a b : Nat) : List Nat :=
  (lineTo (a % 40) (b % 40)).map (a / 40 * 40 + ·) ++ ((lineTo (a / 40) (b / 40)).drop 1).map (· * 40 + b % 40)

/-- The hops of the edge between two adjacent logical clusters: two where a spare forwards (R255, R256). -/
def Retire.edgeHops (r : Retire) (a b : Nat) : List Hop :=
  match r.server a, r.server b with
  | some p, some q =>
    if a / 40 = b / 40 then
      let o := if a < b then RouterPort.e else .w
      let i := if a < b then RouterPort.w else .e
      match r.eastEdge (Nat.min a b) with
      | .direct => [{ src := p, out := o, dst := q, inp := i }]
      | .skip => [{ src := p, out := if a < b then .e2 else .w2, dst := q, inp := if a < b then .w2 else .e2 }]
      | .spare =>
        let m := Nat.min p q + 1
        [{ src := p, out := o, dst := m, inp := i }, { src := m, out := o, dst := q, inp := i }]
      | .missing => []
    else if a < b then [{ src := p, out := .s, dst := q, inp := .n }]
    else [{ src := p, out := .n, dst := q, inp := .s }]
  | _, _ => []

/-- The hops of an XY path on one sub-channel. -/
def Retire.pathHops (r : Retire) (a b sub : Nat) : List Hop :=
  ((xyPath a b).zip ((xyPath a b).drop 1)).flatMap fun e => (r.edgeHops e.1 e.2).map fun h => { h with sub := sub }

/-- The hops of a route: its first path on sub-channel 0, its second on sub-channel 1 (R260, R261). -/
def Retire.routeHops (r : Retire) (a b : Nat) : List Hop :=
  match r.route a b with
  | .direct => r.pathHops a b 0
  | .via m => r.pathHops a m 0 ++ r.pathHops m b 1
  | .unreachable => []

/-- The intermediate cluster that a head flit carries (R250, R260). -/
def Retire.midOf (r : Retire) (a b : Nat) : Option Nat :=
  match r.route a b with
  | .via m => some m
  | _ => none

/-- A living cluster has a usable edge to the rest of the felt (R281): a linked edge of the position that it serves, or
for a spare, which only forwards, a living E or W link to a living neighbour. -/
def Retire.connected (r : Retire) (c : Nat) : Bool :=
  match r.serves c with
  | some l => r.eastEdge l != .missing || (l % 40 != 0 && r.eastEdge (l - 1) != .missing) || r.southEdge l ||
      (decide (40 ≤ l) && r.southEdge (l - 40))
  | none => (c % 48 != 47 && r.linkUp (linkId c 0) && r.living (c + 1)) ||
      (c % 48 != 0 && r.linkUp (linkId (c - 1) 0) && r.living (c - 1))

/-- Clusters whose edges the loss of a cluster or of one of its links can take: those of its row segment, of the segments
beside it, above it and below it. -/
def nearClusters (c : Nat) : List Nat :=
  let fc := c % 48 / 6
  let y := c / 48
  let seg := fun (f row : Nat) => (List.range 6).map fun k => row * 48 + 6 * f + k
  seg fc y ++ (if 0 < fc then seg (fc - 1) y else []) ++ (if fc < 7 then seg (fc + 1) y else []) ++
  (if 0 < y then seg fc (y - 1) else []) ++ (if y < 29 then seg fc (y + 1) else [])

/-! Converging-add trees (R276, R277) -/

/-- Add an ordinal to the set of a port; ports ascend. -/
def addOrd : List (Nat × List Nat) → Nat → Nat → List (Nat × List Nat)
  | [], p, o => [(p, [o])]
  | (k, os) :: r, p, o =>
    if p < k then (p, [o]) :: (k, os) :: r
    else if k = p then (k, if os.contains o then os else os ++ [o]) :: r
    else (k, os) :: addOrd r p o

/-- Where an operand enters and leaves routers on its way: the router, whether it is an input, the port and the ordinal. -/
def Retire.treeEvents (r : Retire) (src dst ord : Nat) : List (Nat × Bool × Nat × Nat) :=
  match r.server src, r.server dst with
  | some a, some b =>
    (a, true, RouterPort.ti.code, ord) ::
    ((r.routeHops src dst).flatMap fun h => [(h.src, false, h.out.code, ord), (h.dst, true, h.inp.code, ord)]) ++
    [(b, false, RouterPort.ti.code, ord)]
  | _, _ => []

/-- The tree state of every router on a tree: the union of the routes of its operands (R276). -/
def Retire.treeNodes (r : Retire) (prog tree dst : Nat) (srcs : List Nat) : List TreeNode :=
  let es := srcs.zipIdx.flatMap fun x => r.treeEvents x.1 dst x.2
  let ports := fun (k : Nat) (i : Bool) =>
    (es.filter fun x => x.1 == k && x.2.1 == i).foldl (fun l x => addOrd l x.2.2.1 x.2.2.2) []
  ((es.map fun x => x.1).eraseDups).map fun k =>
    { prog := prog, tree := tree, router := k, ins := ports k true, outs := ports k false }

/-- The inputs by which an operand reaches its destination, from the destination's router back to its source's: each as
router·8 + port. -/
def Retire.backPath (r : Retire) (src dst : Nat) : List Nat :=
  ((r.routeHops src dst).reverse.map fun h => h.dst * 8 + h.inp.code) ++
  (match r.server src with
    | some c => [c * 8 + RouterPort.ti.code]
    | none => [])

/-- Join the `j`-th sets of two lists for every `j`. -/
def zipCat : List (List Nat) → List (List Nat) → List (List Nat)
  | [], b => b
  | a, [] => a
  | x :: a, y :: b => (x ++ y) :: zipCat a b

/-- The operands of an integer round as a router passes them on, each as the ordinals that it stands for (R277): one
operand of every input that still has one makes one sum where two or more inputs carry the tree. `os` holds each ordinal
with its inputs from this router back. -/
def mergeGroups (merges : Nat → Bool) : Nat → List (Nat × List Nat) → List (List Nat)
  | 0, os => os.map fun o => [o.1]
  | n + 1, os =>
    let heads := (os.filterMap fun o => o.2.head?).eraseDups
    if heads = [] then os.map fun o => [o.1]
    else
      let parts := heads.map fun h =>
        mergeGroups merges n ((os.filter fun o => o.2.head? == some h).map fun o => (o.1, o.2.drop 1))
      if heads.any fun h => merges (h / 8) then parts.foldl zipCat [] else parts.flatten

/-- Routing-table entry of the router of a living cluster for a target logical cluster (R258); a spare names the
direction of the edge that it forwards. -/
def Retire.routeEntry (r : Retire) (c target : Nat) : Option RouterPort :=
  match r.serves c with
  | some l =>
    if l = target then some .ti
    else if l % 40 < target % 40 then
      (match r.eastEdge l with
        | .missing => none
        | .skip => some .e2
        | _ => some .e)
    else if target % 40 < l % 40 then
      (match r.eastEdge (l - 1) with
        | .missing => none
        | .skip => some .w2
        | _ => some .w)
    else if l / 40 < target / 40 then (if r.southEdge l then some .s else none)
    else (if r.southEdge (l - 40) then some .n else none)
  | none =>
    if !r.living c then none
    else
      -- the spare lies between the logical columns 5·fc + 4 and 5·fc + 5 of its row
      if target % 40 ≤ 5 * (c % 48 / 6) + 4 then some .w else some .e

/-- Clusters wired to the port site of a field, first choice first (R271). -/
def wiredClusters (f : Nat) : List Nat :=
  let row := 5 * (f / 8) + 2
  [row * 48 + 6 * (f % 8) + 2, row * 48 + 6 * (f % 8) + 3]

/-- The physical cluster through which a site attaches (R271). -/
def Retire.attachPhys (r : Retire) (f : Nat) : Option Nat :=
  (wiredClusters f).find? fun c => r.living c && r.linkUp (linkId c 5)

/-- The attach cluster of a site (R271). -/
def Retire.attach (r : Retire) (f : Nat) : Option Nat :=
  match r.attachPhys f with
  | some c => r.serves c
  | none => none

/-- A vat port serves: neither retired nor without attachment (R272, R289). -/
def Retire.vatPortUp (r : Retire) (v : Nat) : Bool :=
  !r.vatPorts.contains v && (r.attachPhys (vatSite v)).isSome

/-- The vat whose port serves a vat, if any (R289). -/
def Retire.servingPort (r : Retire) (v : Nat) : Option Nat :=
  if r.vatPortUp v then some v else if r.vatPortUp (vatPartner v) then some (vatPartner v) else none

/-- SERVED of a vat page (R322). -/
def Retire.vatServed (r : Retire) (v : Nat) : Nat :=
  if r.vatPortUp v then 0 else if r.vatPortUp (vatPartner v) then 1 else 2

/-- The wave root of a half: the preferred clusters, then the half in ascending index (R268). -/
def Retire.root (r : Retire) (h : Half) : Option Nat :=
  let pref := match h with
    | .west => [7 * 40 + 12, 27 * 40 + 12]
    | .east => [7 * 40 + 27, 27 * 40 + 27]
  let all := (List.range 1200).filter fun l => decide (l % 40 < 20) == (h == .west)
  (pref ++ all).find? fun l => !r.hole l

/-- The binding entry of a logical cluster (R38), with the program number that owns it. -/
def Retire.entry (r : Retire) (owner l : Nat) : Nat :=
  match r.server l with
  | none => owner * 2 ^ 16 + 2 ^ 12 + 0x7FF
  | some c =>
    (if r.usesSpare c then 2 ^ 24 else 0) + owner * 2 ^ 16 +
    (if r.eastEdge l = .skip then 2 ^ 14 else 0) +
    (if l % 40 ≠ 0 ∧ r.eastEdge (l - 1) = .skip then 2 ^ 13 else 0) + c

/-- Number of holes (R449). -/
def Retire.holes (r : Retire) : Nat := ((List.range 1200).filter r.hole).length

/-- N_SEL or S_SEL: 0 same column, 1 column − 1, 2 column + 1, 3 none (R282). -/
def selCode (own other : Option Nat) : Nat :=
  match own, other with
  | some a, some b =>
    if a % 48 = b % 48 then 0 else if b % 48 + 1 = a % 48 then 1 else if a % 48 + 1 = b % 48 then 2 else 3
  | _, _ => 3

/-- Vertical selections of the router of a physical cluster: N in bits [1:0], S in [3:2]; a spare's are none (R256). -/
def Retire.selections (r : Retire) (c : Nat) : Nat :=
  match r.serves c with
  | none => 15
  | some l =>
    let n := if 40 ≤ l then selCode (some c) (r.server (l - 40)) else 3
    let s := if l / 40 < 29 then selCode (some c) (r.server (l + 40)) else 3
    s * 4 + n

/-! The tick wave's holds (R266, R268, R269), in units of 1/60 of a 1.9 GHz pulse. -/

/-- Length of a cycle of a clock class; a gated field's routers run at 0.38 GHz (R254, R462). -/
def cycleLen (cls : Nat) : Nat :=
  match cls with
  | 0 => 60 | 1 => 75 | 2 => 100 | 3 => 150 | _ => 300

/-- Fixed latency of one hop from cluster `a` to cluster `b` (R266): 4 cycles of the sender, one more for a skip, and a
crossing of the receiver or the seam's in its place. The cycle for a flit in transmission is counted. -/
def hopLen (cls : Nat → Nat) (a b : Nat) : Nat :=
  let fa := fieldOfCluster a
  let fb := fieldOfCluster b
  let la := cycleLen (cls fa)
  let lb := cycleLen (cls fb)
  let skip := if a / 48 = b / 48 ∧ (a + 2 = b ∨ b + 2 = a) then la else 0
  let cross :=
    if fa = fb then 0
    else if isWest fa != isWest fb then 8 * Nat.max la lb + 2 * Nat.min la lb
    else 4 * lb
  5 * la + skip + cross

/-- Latency between two logical neighbours, through a forwarding spare where there is one. -/
def Retire.edgeLen (r : Retire) (cls : Nat → Nat) (a b : Nat) : Nat :=
  match r.server a, r.server b with
  | some p, some q =>
    if p / 48 = q / 48 ∧ r.eastEdge (Nat.min a b) = .spare then
      let m := Nat.min p q + 1
      hopLen cls p m + hopLen cls m q
    else hopLen cls p q
  | _, _ => 0

/-- Latency of an XY path. -/
def Retire.pathLen (r : Retire) (cls : Nat → Nat) (a b : Nat) : Nat :=
  let xa := a % 40
  let xb := b % 40
  let row := (List.range (Nat.max xa xb - Nat.min xa xb)).foldl (fun t i =>
    let x := if xa < xb then xa + i else xa - i
    let x' := if xa < xb then x + 1 else x - 1
    t + r.edgeLen cls (a / 40 * 40 + x) (a / 40 * 40 + x')) 0
  let ya := a / 40
  let yb := b / 40
  (List.range (Nat.max ya yb - Nat.min ya yb)).foldl (fun t i =>
    let y := if ya < yb then ya + i else ya - i
    let y' := if ya < yb then y + 1 else y - 1
    t + r.edgeLen cls (y * 40 + xb) (y' * 40 + xb)) row

/-- Latency of a route with injection and ejection (R266), none when unreachable. -/
def Retire.routeLen (r : Retire) (cls : Nat → Nat) (a b : Nat) : Option Nat :=
  let ends := 2 * cycleLen (cls (fieldOfLogical a)) + 2 * cycleLen (cls (fieldOfLogical b))
  match r.route a b with
  | .direct => some (ends + r.pathLen cls a b)
  | .via m => some (ends + r.pathLen cls a m + r.pathLen cls m b)
  | .unreachable => none

/-- The wave's way from a root to a cluster of its half: the spread along the root's row and then the column when it is
open, the route otherwise (R269). -/
def Retire.waveLen (r : Retire) (cls : Nat → Nat) (root l : Nat) : Nat :=
  if r.usable root l then
    2 * cycleLen (cls (fieldOfLogical root)) + 2 * cycleLen (cls (fieldOfLogical l)) + r.pathLen cls root l
  else (r.routeLen cls root l).getD 0

/-- D_r of R269 for a logical cluster. -/
def Retire.waveDelay (r : Retire) (cls : Nat → Nat) (l : Nat) : Nat :=
  match r.root .west, r.root .east with
  | some w, some e =>
    if l % 40 < 20 then r.waveLen cls w l else (r.routeLen cls w e).getD 0 + r.waveLen cls e l
  | some w, none => r.waveLen cls w l
  | none, _ => 0

/-- H_r of R269 for the router of a logical cluster, in cycles of its field. -/
def Retire.waveHold (r : Retire) (cls : Nat → Nat) (l : Nat) : Nat :=
  let w := ((List.range 1200).filter fun l => !r.hole l).foldl (fun m l => Nat.max m (r.waveDelay cls l)) 0
  cdiv (w - r.waveDelay cls l) (cycleLen (cls (fieldOfLogical l)))

/-- The growth of R40's bound across the seam for two classes, in 0.1 ns rounded up (R270): 16 cycles of the slower side
and 8 of the faster. One unit is 1/60 of a pulse of 1.9 GHz. -/
def seamSkew (west east : Nat) : Nat :=
  let a := cycleLen west
  let b := cycleLen east
  cdiv ((16 * Nat.max a b + 8 * Nat.min a b) * 100) (60 * 19)

end Sys2Proof.Machine
end

