-- ==== Sys2Proof/Machine/Operands.lean ====
section
/-! DEFINITION. Operand forms: tensor descriptors and their creation checks (R217 to R234), local views and their
elements, and where a program position lies on the wafer (R32). -/

namespace Sys2Proof.Machine

/-! Descriptors (R220 to R223) -/

/-- A tensor descriptor as its fields (R220). -/
structure Desc where
  w0 : Nat
  dims : List Nat
  strides : List Nat
  aux : Nat
  shard : Nat
deriving DecidableEq, Repr

/-- An axis entry of the SHARD word (R223). -/
structure Axis where
  cnt : Nat
  org : Nat
  bexp : Nat
  kind : Nat
  dim : Nat
deriving DecidableEq, Repr

namespace Desc

/-- Read the 64 bytes of a descriptor (R220). -/
def parse (bs : List Byte) : Desc where
  w0 := leAt bs 0 8
  dims := (List.range 6).map fun d => leAt bs (8 + 4 * d) 4
  strides := (List.range 5).map fun d => leAt bs (32 + 4 * d) 4
  aux := leAt bs 52 4
  shard := leAt bs 56 8

/-- BASE (R221). -/
def base (d : Desc) : Nat := fld d.w0 44 0
/-- FMT as a code (R221). -/
def fmtCode (d : Desc) : Nat := fld d.w0 48 45
/-- SPACE: in vat space (R221). -/
def vat (d : Desc) : Bool := d.w0.testBit 49
/-- RND (R221). -/
def rnd (d : Desc) : Bool := d.w0.testBit 50
/-- COMP (R221). -/
def comp (d : Desc) : Bool := d.w0.testBit 51
/-- RANK (R221). -/
def rank (d : Desc) : Nat := fld d.w0 54 52
/-- SHARDED (R221). -/
def sharded (d : Desc) : Bool := d.w0.testBit 55

/-- An axis entry: 0 X, 1 Y, 2 T (R223). -/
def axis (d : Desc) (a : Nat) : Axis :=
  let w := d.shard >>> (21 * a)
  { cnt := fld w 20 15, org := fld w 14 9, bexp := fld w 8 5, kind := fld w 4 3, dim := fld w 2 0 }

end Desc

/-- Part and local index of global index `i` of a dimension of size `n` (R225). -/
def partOf (n i kind b c : Nat) : Nat × Nat :=
  if kind = 0 then let bb := cdiv n c; (i / bb, i % bb)
  else if kind = 1 then (i % c, i / c)
  else (i / b % c, i / (b * c) * b + i % b)

/-- Local size of a part (R225). -/
def localSize (n kind b c p : Nat) : Nat :=
  if kind = 0 then let bb := cdiv n c; min n ((p + 1) * bb) - p * bb
  else if kind = 1 then (if p < n then (n - p + c - 1) / c else 0)
  else
    let full := n / (b * c)
    full * b + min b (n - full * b * c - p * b)

/-- Part index of a coordinate along an axis; none outside its range (R224). -/
def Axis.part (a : Axis) (x : Nat) : Option Nat := if a.org ≤ x ∧ x < a.org + a.cnt then some (x - a.org) else none

/-! Local views -/

/-- A tensor as one unit uses it: local sizes in elements, strides of dimensions 1 up in units, the effective base and
the effective start of the auxiliary array (R218, R219, R224, R230). `n0` counts the stored elements of dimension 0,
which are half the positions of a compressed tensor (R234); `dim0` is the descriptor's DIM0, the size of dimension 0 of
the whole tensor (R220). -/
structure View where
  fmt : ElemFmt
  rank : Nat
  dims : List Nat
  n0 : Nat
  strides : List Nat
  base : Nat
  auxBase : Nat
  vat : Bool
  comp : Bool
  rnd : Bool
  aux : Nat
  sharded : Bool
  dim0 : Nat
deriving DecidableEq, Repr

/-- Local sizes of a descriptor at a program position and tile; all zero where the tile holds no part (R224 to
R226). -/
def Desc.localDims (d : Desc) (fmt : ElemFmt) (px py t : Nat) : List Nat :=
  let gl := d.dims.take d.rank
  if !d.sharded then gl
  else
    let axes := [(d.axis 0, px), (d.axis 1, py), (d.axis 2, t)]
    if axes.any fun a => (a.1.part a.2).isNone then gl.map fun _ => 0
    else (List.range d.rank).map fun i =>
      let n := nth 0 gl i
      match axes.find? fun a => a.1.dim == i with
      | none => n
      | some (a, x) =>
        let p := (a.part x).getD 0
        if i = 0 ∧ 1 < fmt.gran then
          let nu := cdiv n fmt.gran
          let lu := localSize nu a.kind (2 ^ a.bexp) a.cnt p
          -- the part that holds the last unit holds the remainder (R226)
          if 0 < nu ∧ (partOf nu (nu - 1) a.kind (2 ^ a.bexp) a.cnt).1 = p
          then (lu - 1) * fmt.gran + (n - (nu - 1) * fmt.gran) else lu * fmt.gran
        else localSize n a.kind (2 ^ a.bexp) a.cnt p

namespace View

/-- Units along dimension 0. -/
def units0 (v : View) : Nat := cdiv v.n0 v.fmt.gran

/-- The view is an empty tensor (R232). -/
def empty (v : View) : Bool := v.dims.any (· == 0)

/-- Span in units (R219). -/
def span (v : View) : Nat :=
  v.units0 + (List.zipWith (fun n s => (n - 1) * s) (v.dims.drop 1) v.strides).foldl (· + ·) 0

/-- Bytes from the base to the end of the extent, auxiliary array included (R219). -/
def extentLen (v : View) : Nat :=
  if v.empty then 0
  else if v.fmt.aux = 0 then v.span * v.fmt.unit else v.auxBase - v.base + v.span * v.fmt.aux

/-- The extent as a range (R219). -/
def extent (v : View) : Nat × Nat := (v.base, v.extentLen)

/-- Unit offsets of the rows of dimension 0, dimension 1 fastest. -/
def rowOffsets : List (Nat × Nat) → List Nat
  | [] => [0]
  | (n, s) :: r => (rowOffsets r).flatMap fun hi => (List.range n).map fun i => hi + i * s

/-- Rows of the view: unit offsets of their first units, in index order with dimension 1 fastest (R218). -/
def rows (v : View) : List Nat := if v.empty then [] else rowOffsets ((v.dims.drop 1).zip v.strides)

/-- Unit offsets of every unit in index order, with the elements of the view that each holds. -/
def units (v : View) : List (Nat × Nat) :=
  v.rows.flatMap fun r => (List.range v.units0).map fun u => (r + u, min v.fmt.gran (v.n0 - u * v.fmt.gran))

/-- Address of a unit. -/
def unitAddr (v : View) (j : Nat) : Nat := v.base + j * v.fmt.unit

/-- Address of a unit's auxiliary entry (R219). -/
def auxAddr (v : View) (j : Nat) : Nat := v.auxBase + j * v.fmt.aux

/-- Unit offset of an element's unit, from its indices (R218). -/
def unitOf (v : View) (idx : List Nat) : Nat :=
  (match idx with | [] => 0 | i :: _ => i / v.fmt.gran) +
  (List.zipWith (· * ·) (idx.drop 1) v.strides).foldl (· + ·) 0

/-- Every byte range that an access to the whole view touches. -/
def ranges (v : View) : List (Nat × Nat) :=
  v.units.flatMap fun j => (v.unitAddr j.1, v.fmt.unit) ::
    (if v.fmt.aux = 0 then [] else [(v.auxAddr j.1, v.fmt.aux)])

/-- Codes of a format without granule, in index order: the low 6 bytes of a W48 entry, whole elements otherwise. -/
def codes (v : View) (m : EccMem) : List Nat :=
  v.units.map fun j => m.le (v.unitAddr j.1) (if v.fmt = .w48 then 6 else v.fmt.unit)

end View

/-- One unit of a grouped format: its bytes, its auxiliary entry and the number of elements of the view in it. -/
structure Blk where
  data : List Byte
  aux : Nat
  n : Nat
deriving DecidableEq, Repr

/-- The units of a view in block order. -/
def View.blks (v : View) (m : EccMem) : List Blk :=
  v.units.map fun j => ⟨m.read (v.unitAddr j.1) v.fmt.unit,
    (if v.fmt.aux = 0 then 0 else m.le (v.auxAddr j.1) v.fmt.aux), j.2⟩

/-- Bytes of an element code as stored: a W48 entry's upper bytes are 0 (R127). -/
def codeBytes (f : ElemFmt) (c : Nat) : List Byte := leBytes f.unit c

/-- Writes that store element codes in index order. -/
def View.putCodes (v : View) (cs : List Nat) : List (Nat × List Byte) :=
  List.zipWith (fun j c => (v.unitAddr j.1, codeBytes v.fmt c)) v.units cs

/-- Writes that store whole units with their auxiliary entries, in block order. -/
def View.putBlks (v : View) (bs : List (List Byte × Nat)) : List (Nat × List Byte) :=
  (List.zipWith (fun j (b : List Byte × Nat) => (v.unitAddr j.1, b.1) ::
    (if v.fmt.aux = 0 then [] else [(v.auxAddr j.1, leBytes v.fmt.aux b.2)])) v.units bs).flatten

/-- The order of R231: dimensions 1 up of size above 1 by ascending stride. -/
def insertStride (x : Nat × Nat) : List (Nat × Nat) → List (Nat × Nat)
  | [] => [x]
  | y :: r => if x.2 ≤ y.2 then x :: y :: r else y :: insertStride x r

/-- No two element positions of a destination share a unit (R231). -/
def View.noAlias (v : View) : Bool :=
  let ds := (((v.dims.drop 1).zip v.strides).filter fun d => decide (1 < d.1)).foldl (fun l d => insertStride d l) []
  (ds.foldl (fun (a : Bool × Nat) d => (a.1 && decide (a.2 ≤ d.2), a.2 + (d.1 - 1) * d.2)) (true, v.units0)).1

/-- The local view of a descriptor that a unit uses with an offset register (R224, R230): the base moves modulo 2^64 and
the auxiliary array with it. -/
def Desc.view (d : Desc) (fmt : ElemFmt) (px py t off : Nat) : View :=
  let dims := d.localDims fmt px py t
  let n0 := if d.comp then nth 0 dims 0 / 2 else nth 0 dims 0
  let strides := d.strides.take (d.rank - 1)
  let v : View := ⟨fmt, d.rank, dims, n0, strides, d.base, 0, d.vat, d.comp, d.rnd, d.aux, d.sharded, nth 0 d.dims 0⟩
  let b := (d.base + off) % 2 ^ 64
  { v with base := b, auxBase := b + (alignUp (d.base + v.span * fmt.unit) 64 - d.base) }

/-- The extent at the unmoved base, for checks 11 and 12 of R229. -/
def Desc.extentAt (d : Desc) (fmt : ElemFmt) (px py t : Nat) : Nat × Nat := (d.view fmt px py t 0).extent

/-! Creation checks (R229, R234) -/

/-- Reserved bits of R220, R221 and R223 are 0 (check 1). -/
def Desc.reservedOk (d : Desc) : Bool :=
  decide (fld d.w0 63 56 = 0) && (d.dims.drop d.rank).all (· == 0) && (d.strides.drop (d.rank - 1)).all (· == 0) &&
  (d.comp || decide (d.aux = 0)) && (if d.sharded then !d.shard.testBit 63 else decide (d.shard = 0))

/-- An axis entry is valid for a rank (check 6). -/
def Axis.ok (a : Axis) (rank : Nat) : Bool :=
  !(a.dim == 6 || (decide (rank ≤ a.dim) && a.dim != 7) || a.kind == 3 || a.cnt == 0 ||
    (a.bexp != 0 && a.kind != 2) || (a.kind != 0 && a.dim == 7))

/-- The three axis entries. -/
def Desc.axes (d : Desc) : List Axis := [d.axis 0, d.axis 1, d.axis 2]

/-- A value descriptor meets R234; `mask` is the descriptor that AUX names in the same region, if it lies there. -/
def Desc.compOk (d : Desc) (mask : Option Desc) : Bool :=
  let cs := nth 0 d.dims 0
  let rs := nth 0 d.dims 1
  ([1, 4, 5, 6].contains d.fmtCode) && d.rank == 2 && cs % 64 == 0 && rs % 4 == 0 &&
  (!d.sharded || d.axes.all fun a =>
    a.dim != 0 && !(a.dim == 1 && a.kind == 1) && !(a.dim == 1 && a.kind == 0 && cdiv rs a.cnt % 4 != 0) &&
    !(a.dim == 1 && a.kind == 2 && decide (a.bexp < 2))) &&
  (d.aux == 0xFFFFFFFF || (d.aux % 64 == 0 && match mask with
    | some m => m.fmtCode == 12 && !m.comp && m.rank == 2 && m.vat == d.vat && m.sharded == d.sharded &&
        nth 0 m.dims 0 == cs && nth 0 m.dims 1 == rs && m.shard == d.shard
    | none => false))

/-- A range lies within one record's range. -/
def within (r rec : Nat × Nat) : Bool := decide (rec.1 ≤ r.1) && decide (r.1 + r.2 ≤ rec.1 + rec.2)

/-- Program positions of an axis range. -/
def Axis.range (a : Axis) : List Nat := (List.range a.cnt).map (a.org + ·)

/-- Every part of a tile-space tensor lies in a record of its tile (check 11); `p` is the tile of the descriptor. -/
def Desc.allocOk (d : Desc) (img : Image) (fmt : ElemFmt) (ptile : Nat) : Bool :=
  let at_ := fun px py t =>
    let e := d.extentAt fmt px py t
    e.2 == 0 || img.allocs.any fun a => !a.vat && a.ptile == (py * img.w + px) * 16 + t && within e (a.base, a.len)
  if d.sharded then
    (d.axis 0).range.all fun px => (d.axis 1).range.all fun py => (d.axis 2).range.all fun t => at_ px py t
  else at_ (ptile / 16 % img.w) (ptile / 16 / img.w) (ptile % 16)

/-- The first fault of the checks of R229, in their order; none when the descriptor is created. -/
def Desc.create (d : Desc) (img : Image) (ptile : Nat) (mask : Option Desc) : Option Nat :=
  if !d.reservedOk then some fDESC_INVALID
  else match ElemFmt.ofCode d.fmtCode with
  | none => some fDESC_INVALID
  | some fmt =>
    if d.rank = 0 ∨ d.rank = 7 then some fDESC_INVALID
    else if d.rnd && d.fmtCode != 1 then some fDESC_INVALID
    else if d.base % fmt.align ≠ 0 then some fDESC_INVALID
    else if d.sharded && d.vat then some fDESC_INVALID
    else if d.sharded && d.axes.any (fun a => !a.ok d.rank) then some fDESC_INVALID
    else if d.sharded && ((d.axes.map Axis.dim).filter (· != 7)).eraseDups.length !=
        ((d.axes.map Axis.dim).filter (· != 7)).length then some fDESC_INVALID
    else if d.comp && !d.compOk mask then some fDESC_INVALID
    else if d.sharded && (decide (img.w < (d.axis 0).org + (d.axis 0).cnt) ||
        decide (img.h < (d.axis 1).org + (d.axis 1).cnt) || decide (16 < (d.axis 2).org + (d.axis 2).cnt)) then
      some fDESC_RANGE
    else if d.sharded && img.unused.any (fun u => (d.axis 0).range.contains u.1 && (d.axis 1).range.contains u.2) then
      some fDESC_INVALID
    else if !d.vat && !d.allocOk img fmt ptile then some fDESC_RANGE
    else if d.vat && (let e := d.extentAt fmt 0 0 0
        e.2 != 0 && !img.allocs.any fun a => a.vat && within e (a.base, a.len)) then some fDESC_RANGE
    else none

/-! Where a program lies (R31, R32) -/

/-- The program whose region holds a logical cluster (R32, R38): 0 training, 1 to 3 queries. -/
def State.owner (s : State) (l : Nat) : Option Nat :=
  (List.range 4).find? fun i => match s.prog i with
    | some p => match p.bound with
      | some (x, y) => decide (x ≤ l % 40) && decide (l % 40 < x + p.image.w) &&
          decide (y ≤ l / 40) && decide (l / 40 < y + p.image.h)
      | none => false
    | none => false

/-- A position is declared unused (R34). -/
def Image.isUnused (i : Image) (px py : Nat) : Bool := i.unused.contains (px, py)

/-- The part of the image for a program tile. -/
def Image.tile? (i : Image) (ptile : Nat) : Option TileImage := i.tiles.find? fun t => t.ptile == ptile

/-- Where a logical tile works: its slot, its program and its place in it, the context and its word. -/
structure Env where
  t : Nat
  c : Ctx
  slot : Nat
  prog : Nat
  px : Nat
  py : Nat
  ptile : Nat
  w : Nat
  h : Nat
  pc : Nat
  word : Nat
deriving DecidableEq, Repr

/-- Tile within its cluster. -/
def Env.tn (e : Env) : Nat := e.t % 16

/-- The environment of a logical tile of a bound program (R32): none for a hole or a tile of no program. -/
def State.env (s : State) (t : Nat) (c : Ctx) : Option Env :=
  match s.owner (t / 16), s.bind.applied.tileSlot t with
  | some i, some slot => match s.prog i with
    | some p => match p.bound with
      | some (x, y) =>
        let px := t / 16 % 40 - x
        let py := t / 16 / 40 - y
        some { t := t, c := c, slot := slot, prog := i, px := px, py := py
               ptile := (py * p.image.w + px) * 16 + t % 16, w := p.image.w, h := p.image.h
               pc := ((s.tile slot).ctx c).pc, word := 0 }
      | none => none
    | none => none
  | _, _ => none

/-- The image of a program slot. -/
def State.image? (s : State) (i : Nat) : Option Image := (s.prog i).map fun p => p.image

/-- The part of the image for the environment's tile. -/
def State.tileImage (s : State) (e : Env) : Option TileImage :=
  match s.image? e.prog with
  | some i => i.tile? e.ptile
  | none => none

/-- The tile SRAM ranges that no unit may write: the code and descriptor regions (R178, R227) of a slot's tile. -/
def State.guarded (s : State) (e : Env) : List (Nat × Nat) :=
  (match s.tileImage e with
    | some t => [(t.codeBase, t.codeLen), (t.descBase, t.descLen)]
    | none => []) ++ [((s.tile e.slot).c1.codeBase, (s.tile e.slot).c1.codeLen)]

/-- Two ranges share a byte; an empty range shares none (R13). -/
def overlap (a b : Nat × Nat) : Bool := decide (max a.1 b.1 < min (a.1 + a.2) (b.1 + b.2))

/-- Logical cluster of a program position (R32). -/
def Env.cluster (e : Env) (px py : Nat) : Nat := (e.t / 16 / 40 - e.py + py) * 40 + (e.t / 16 % 40 - e.px + px)

/-- A scalar register (R175): x0 reads 0. -/
def CtxState.reg (x : CtxState) (i : Nat) : Nat := if i = 0 then 0 else (sget 0 x.x i).toNat

/-- Write a scalar register: x0 ignores writes (R175). -/
def CtxState.setReg (x : CtxState) (i v : Nat) : CtxState :=
  if i = 0 then x else { x with x := sput 0 x.x i (BitVec.ofNat 64 v) }

end Sys2Proof.Machine
end

