-- ==== Sys2Proof/Machine/Images.lean ====
section
/-! DEFINITION. What a program image says: layer maps, log, sizing table and couch addresses, tables of entries, and the
checks that LOAD_PROGRAM makes (R228, R275, R299, R302 to R304, R312, R313, R315, R323, R324, R332, R441, R506). -/

namespace Sys2Proof.Machine

/-! Layers (R302, R303) -/

namespace LayerImage

/-- NPAR. -/
def npar (l : LayerImage) : Nat := leAt l.map 0 8
/-- MASTER. -/
def master (l : LayerImage) : Nat := leAt l.map 8 8
/-- M1. -/
def m1 (l : LayerImage) : Nat := leAt l.map 16 8
/-- M2. -/
def m2 (l : LayerImage) : Nat := leAt l.map 24 8
/-- FP6. -/
def fp6 (l : LayerImage) : Nat := leAt l.map 32 8
/-- LOGB. -/
def logb (l : LayerImage) : Nat := leAt l.map 40 8
/-- LOGR. -/
def logr (l : LayerImage) : Nat := leAt l.map 48 8
/-- CHUNK0. -/
def chunk0 (l : LayerImage) : Nat := leAt l.map 56 4
/-- KIND: 0 ADAMW, 1 SGDM. -/
def kind (l : LayerImage) : Nat := leAt l.map 60 2
/-- Chunks, which are also pages (R303, R326). -/
def chunks (l : LayerImage) : Nat := cdiv l.npar 65536
/-- Gradient blocks (R294). -/
def blocks (l : LayerImage) : Nat := cdiv l.npar 64

/-- Extent of a grouped array with its auxiliary array (R219). -/
def grouped (base n unit : Nat) : Nat × Nat := (base, alignUp (base + n * unit) 64 + n - base)

/-- Extents of the arrays that a map names. -/
def extents (l : LayerImage) : List (Nat × Nat) :=
  let n := cdiv l.npar 32
  [(l.master, 4 * l.npar), grouped l.m1 n 32] ++ (if l.kind = 0 then [grouped l.m2 n 32] else []) ++
  [grouped l.fp6 n 24, (l.logb, 64 * l.blocks), (l.logr, 128 * l.chunks)]

end LayerImage

/-- A byte lies in a range. -/
def inRange (a : Nat) (r : Nat × Nat) : Bool := decide (r.1 ≤ a) && decide (a < r.1 + r.2)

/-- A tile address and its extent lie in the SRAM; the address itself does even where the extent is empty (R172, R182). -/
def tileRange (a n : Nat) : Bool := decide (a < 0x280000) && decide (a + n ≤ 0x280000)

namespace Image

/-- Number of chunks G + 1 (R303). -/
def chunkCount (i : Image) : Nat := (i.layers.map LayerImage.chunks).foldl (· + ·) 0

/-- The layer of a global chunk, with the layer's number and the chunk's number in it. -/
def layerOf (i : Image) (g : Nat) : Option (Nat × LayerImage × Nat) :=
  match findFrom (fun l => decide (l.chunk0 ≤ g) && decide (g < l.chunk0 + l.chunks)) i.layers 0 with
  | some k => (i.layers[k]?).map fun l => (k, l, g - l.chunk0)
  | none => none

/-- NREP, BUCKET, LAG (R323). -/
def lag (i : Image) : Nat := leAt (i.red.getD []) 3 1
/-- SIZB (R323). -/
def sizb (i : Image) : Nat := leAt (i.red.getD []) 8 8
/-- DIGB (R323). -/
def digb (i : Image) : Nat := leAt (i.red.getD []) 16 8
/-- The chunk region of a global chunk (R344). -/
def region (i : Image) (g : Nat) : Nat := i.sizb + 0x7000 * g

/-- Tiles of the region (R372). -/
def tilesN (i : Image) : Nat := 16 * i.w * i.h

/-- A byte of the update log or of the notes (R298, R340, R343). -/
def inLog (i : Image) (a : Nat) : Bool :=
  i.layers.any (fun l => inRange a (l.logb, 64 * l.blocks) || inRange a (l.logr, 128 * l.chunks)) ||
  (i.red.isSome && inRange a (i.sizb, 0x7000 * i.chunkCount) && decide (0x6000 ≤ (a - i.sizb) % 0x7000) &&
    decide ((a - i.sizb) % 0x7000 < 0x6080))

/-- A byte of the couch area (R315). -/
def inCouch (i : Image) (a : Nat) : Bool := inRange a (i.couch, 0x1000000000)

/-- A byte of a persistent allocation record (R367). -/
def isPersistent (i : Image) (a : Nat) : Bool := i.allocs.any fun r => r.vat && r.persistent && inRange a (r.base, r.len)

/-- Code and descriptor regions of a program tile. -/
def regions (i : Image) (ptile : Nat) : List (Nat × Nat) :=
  match i.tile? ptile with
  | some t => [(t.codeBase, t.codeLen), (t.descBase, t.descLen)]
  | none => []

/-- Program tiles of a rectangle and tile mask, unused positions left out (R205, R300). -/
def rect (i : Image) (px0 py0 px1 py1 mask : Nat) : List (Nat × Nat × Nat) :=
  (List.range (py1 + 1 - py0)).flatMap fun dy => (List.range (px1 + 1 - px0)).flatMap fun dx =>
    if i.isUnused (px0 + dx) (py0 + dy) then []
    else ((List.range 16).filter fun t => mask.testBit t).map fun t => (px0 + dx, py0 + dy, t)

/-- Program tile index (R115). -/
def ptileOf (i : Image) (px py t : Nat) : Nat := (py * i.w + px) * 16 + t

/-- A vat range lies within one vat allocation record. -/
def vatWithin (i : Image) (r : Nat × Nat) : Bool := i.allocs.any fun a => a.vat && within r (a.base, a.len)

end Image

/-! Entries -/

/-- A destination rectangle of a stream or view entry (R299, R332). -/
structure RectEntry where
  daddr : Nat
  px0 : Nat
  py0 : Nat
  px1 : Nat
  py1 : Nat
  tmask : Nat
  rctr : Nat
  tick : Nat
deriving DecidableEq, Repr

/-- The common part of a stream or view entry. -/
def RectEntry.parse (e : List Byte) : RectEntry where
  daddr := leAt e 12 4
  px0 := leAt e 16 1
  py0 := leAt e 17 1
  px1 := leAt e 18 1
  py1 := leAt e 19 1
  tmask := leAt e 20 2
  rctr := leAt e 22 1
  tick := leAt e 24 4

/-- SRC, LEN and LAYER of a stream entry (R299). -/
def streamSrc (e : List Byte) : Nat := leAt e 0 8
/-- LEN of a stream entry. -/
def streamLen (e : List Byte) : Nat := leAt e 8 4
/-- LAYER of a stream entry. -/
def streamLayer (e : List Byte) : Nat := leAt e 28 2
/-- LAYER of a view entry (R332). -/
def viewLayer (e : List Byte) : Nat := leAt e 0 2
/-- FIRST of a view entry. -/
def viewFirst (e : List Byte) : Nat := leAt e 4 4
/-- NBLK of a view entry. -/
def viewNblk (e : List Byte) : Nat := leAt e 8 4

/-- The range at a tile address meets a code or descriptor region of a destination tile. -/
def Image.meets (i : Image) (r : RectEntry) (len : Nat) : Bool :=
  decide (0 < len) && (i.rect r.px0 r.py0 r.px1 r.py1 r.tmask).any fun p =>
    (i.regions (i.ptileOf p.1 p.2.1 p.2.2)).any (overlap (r.daddr, len))

/-- The checks that stream and view entries share, from DADDR to TICK, in table order. -/
def Image.rectFault (i : Image) (r : RectEntry) (len : Nat) (res : Bool) : Option Nat :=
  if !tileRange r.daddr len || i.meets r len then some fDESC_RANGE
  else if i.w ≤ r.px0 ∨ i.h ≤ r.py0 then some fDESC_RANGE
  else if r.px1 < r.px0 ∨ r.py1 < r.py0 then some fDESC_INVALID
  else if i.w ≤ r.px1 ∨ i.h ≤ r.py1 then some fDESC_RANGE
  else if 47 < r.rctr then some fDESC_INVALID
  else if !res then some fDESC_INVALID
  else if i.ticks ≤ r.tick then some fDESC_INVALID
  else none

/-- The fault of a stream entry (R299). -/
def Image.streamFault (i : Image) (vatEnd : Nat) (e : List Byte) : Option Nat :=
  if 2 ^ 45 ≤ streamSrc e ∨ vatEnd < streamSrc e + streamLen e then some fDESC_RANGE
  else match i.rectFault (RectEntry.parse e) (streamLen e) (leAt e 23 1 == 0) with
  | some f => some f
  | none =>
    if i.layers.length < streamLayer e ∧ streamLayer e ≠ 0xFFFF then some fDESC_INVALID
    else if leAt e 30 2 ≠ 0 then some fDESC_INVALID else none

/-- The fault of a view entry (R332). -/
def Image.viewFault (i : Image) (e : List Byte) : Option Nat :=
  match i.layers[viewLayer e]? with
  | none => some fDESC_INVALID
  | some l =>
    if leAt e 2 2 ≠ 0 then some fDESC_INVALID
    else if l.blocks < viewFirst e + viewNblk e then some fDESC_INVALID
    else if 262144 < viewNblk e then some fDESC_INVALID
    else if leAt e 12 4 % 8 ≠ 0 then some fDESC_INVALID
    else match i.rectFault (RectEntry.parse e) (8 + viewNblk e) (leAt e 23 1 == 0) with
    | some f => some f
    | none => if leAt e 28 4 ≠ 0 then some fDESC_INVALID else none

/-- A position lies in the region. -/
def Image.inside (i : Image) (px py : Nat) : Bool := decide (px < i.w) && decide (py < i.h)

/-- The fault of a tree (R275). -/
def Image.treeFault (i : Image) (t : List Byte × List (List Byte)) : Option Nat :=
  let e := t.1
  let px := leAt e 0 1
  let py := leAt e 1 1
  if !i.inside px py then some fDESC_RANGE
  else if i.isUnused px py then some fDESC_INVALID
  else if 15 < leAt e 2 1 then some fDESC_INVALID
  else if leAt e 3 1 ≠ 1 ∧ leAt e 3 1 ≠ 0xB then some fDESC_INVALID
  else if leAt e 4 4 % 4 ≠ 0 ∨ !tileRange (leAt e 4 4) (4 * leAt e 8 2) then some fDESC_RANGE
  else if 4096 < leAt e 8 2 then some fDESC_INVALID
  else if leAt e 10 2 = 0 ∨ 4096 < leAt e 10 2 then some fDESC_INVALID
  else if 47 < leAt e 12 1 ∨ 7 < leAt e 13 1 ∨ leAt e 14 2 ≠ 0 ∨ leAt e 16 4 % 4 ≠ 0 then some fDESC_INVALID
  else if !allZero (bytesAt e 20 12) then some fDESC_INVALID
  else if t.2.length ≠ leAt e 10 2 then some fDESC_INVALID
  else (t.2.find? fun q => !i.inside (leAt q 0 1) (leAt q 1 1) || i.isUnused (leAt q 0 1) (leAt q 1 1) ||
      decide (15 < leAt q 2 1) || leAt q 3 1 != 0).map fun q =>
    if !i.inside (leAt q 0 1) (leAt q 1 1) then fDESC_RANGE else fDESC_INVALID

/-- The fault of an input-map entry (R506). -/
def Image.inputFault (i : Image) (e : List Byte) : Option Nat :=
  let vat := leAt e 0 1 == 1
  let px := leAt e 2 1
  let py := leAt e 3 1
  let r := (leAt e 8 8, 16 + leAt e 16 8)
  let pt := i.ptileOf px py (leAt e 4 1)
  if 1 < leAt e 0 1 ∨ 47 < leAt e 1 1 then some fDESC_INVALID
  else if !i.inside px py then some fDESC_RANGE
  else if i.isUnused px py ∨ 15 < leAt e 4 1 ∨ leAt e 5 3 ≠ 0 then some fDESC_INVALID
  else if leAt e 8 8 % 64 ≠ 0 ∨ 2 ^ 45 ≤ leAt e 8 8 then some fDESC_INVALID
  else if vat && !i.vatWithin r then some fDESC_RANGE
  else if !vat && (!tileRange r.1 r.2 || (i.regions pt).any (overlap r) ||
      !i.allocs.any fun a => !a.vat && a.ptile == pt && within r (a.base, a.len)) then some fDESC_RANGE
  else if !allZero (bytesAt e 24 8) then some fDESC_INVALID
  else none

/-- The fault of a layer map with its initial state and census mask, given the chunk number that must follow (R302 to
R305). -/
def Image.layerFault (i : Image) (l : LayerImage) (next : Nat) : Option Nat :=
  if l.npar = 0 ∨ 2 ^ 40 < l.npar ∨ l.chunk0 ≠ next ∨ 33554432 < l.chunk0 + l.chunks ∨ 1 < l.kind ∨
      (l.kind = 0 ∧ l.m2 = 2 ^ 64 - 1) ∨ (l.kind = 1 ∧ l.m2 ≠ 2 ^ 64 - 1) ∨ leAt l.map 62 2 ≠ 0 ∨
      l.grow = 0 ∨ 65535 < l.grow ∨ 60 < l.k ∨ l.census.getLsbD 31 then some fDESC_INVALID
  else if l.extents.any fun r => !i.vatWithin r then some fDESC_RANGE
  else none

/-- The first failing layer with its number. -/
def Image.layersFault (i : Image) : List LayerImage → Nat → Nat → Option (Nat × Nat)
  | [], _, _ => none
  | l :: r, k, next =>
    match i.layerFault l next with
    | some f => some (f, k)
    | none => i.layersFault r (k + 1) (next + l.chunks)

/-- Region record `r` of a reduction table: PX0, PY0, PX1, PY1 (R323). -/
def redRec (b : List Byte) (r : Nat) : Nat × Nat × Nat × Nat :=
  (leAt b (64 + 8 * r) 1, leAt b (65 + 8 * r) 1, leAt b (66 + 8 * r) 1, leAt b (67 + 8 * r) 1)

/-- Relative unused positions of a rectangle. -/
def Image.relUnused (i : Image) (q : Nat × Nat × Nat × Nat) : List (Nat × Nat) :=
  (pairs (List.range (q.2.2.2 + 1 - q.2.1)) (List.range (q.2.2.1 + 1 - q.1))).filter fun d =>
    i.isUnused (q.1 + d.2) (q.2.1 + d.1)

/-- The fault of the reduction header (R323). -/
def Image.redHeaderFault (i : Image) (b : List Byte) : Option Nat :=
  let base := fun o => leAt b o 8 % 4096 ≠ 0 ∨ 2 ^ 45 ≤ leAt b o 8
  if leAt b 0 2 = 0 ∨ 64 < leAt b 0 2 ∨ leAt b 2 1 = 0 ∨ 64 < leAt b 2 1 ∨ leAt b 3 1 = 0 ∨ 8 < leAt b 3 1 ∨
      65536 < leAt b 4 4 then some fDESC_INVALID
  else if leAt b 8 8 % 4096 ≠ 0 ∨ 2 ^ 45 ≤ leAt b 8 8 then some fDESC_INVALID
  else if !i.vatWithin (leAt b 8 8, 0x7000 * i.chunkCount) then some fDESC_RANGE
  else if base 16 then some fDESC_INVALID
  else if !i.vatWithin (leAt b 16 8, 0x400 + 256 * i.tilesN) then some fDESC_RANGE
  else if !allZero (bytesAt b 24 40) then some fDESC_INVALID
  else none

/-- The fault of region record `r` (R323, R324). -/
def Image.redRecFault (i : Image) (b : List Byte) (r : Nat) : Option Nat :=
  let q := redRec b r
  if leAt b 0 2 ≤ r then (if allZero (bytesAt b (64 + 8 * r) 8) then none else some fDESC_INVALID)
  else if leAt b (68 + 8 * r) 4 ≠ 0 then some fDESC_INVALID
  else if !i.inside q.1 q.2.1 || !i.inside q.2.2.1 q.2.2.2 then some fDESC_RANGE
  else if q.2.2.1 < q.1 ∨ q.2.2.2 < q.2.1 then some fDESC_INVALID
  else if (List.range r).any fun k =>
      let o := redRec b k
      (decide (o.1 ≤ q.2.2.1) && decide (q.1 ≤ o.2.2.1) && decide (o.2.1 ≤ q.2.2.2) && decide (q.2.1 ≤ o.2.2.2)) ||
      o.2.2.1 - o.1 != q.2.2.1 - q.1 || o.2.2.2 - o.2.1 != q.2.2.2 - q.2.1 ||
      i.relUnused o != i.relUnused q then some fDESC_INVALID
  else none

/-! The load (R228, R441) -/

/-- A load failure: the fault code and the record of R441. -/
structure LoadFail where
  code : Nat
  item : Nat
  ptile : Nat := 0xFFFF
  pos : Nat := 0
deriving DecidableEq, Repr

/-- The record as 64 bits (R441). -/
def LoadFail.record (f : LoadFail) : Nat := f.item * 2 ^ 56 + f.ptile * 2 ^ 32 + f.pos % 2 ^ 32

/-- The first failing element of a list with its index. -/
def firstFault {α : Type} (f : α → Option Nat) : List α → Nat → Option (Nat × Nat)
  | [], _ => none
  | a :: r, k =>
    match f a with
    | some c => some (c, k)
    | none => firstFault f r (k + 1)

/-- Ticks of a class in cycles at a period: 1.9, 1.52, 1.14, 0.76 or 0.38 GHz (R313). -/
def tickCycles (period cls : Nat) : Nat := period * nth 0 [1900, 1520, 1140, 760, 380] cls

/-- Range of context 1 in every tile (R312). -/
def ctx1Range : Nat × Nat := (0x240000, 0x40000)

/-- The header's fault (kind 1 of R228) with its byte offset. -/
def Image.headerFault (i : Image) (train doubled : Bool) : Option LoadFail :=
  let off := fun k => nth 0 i.offs k
  let bad : Nat → Nat → Option LoadFail := fun c k => some { code := c, item := 7, pos := off k }
  if i.w = 0 ∨ 40 < i.w ∨ i.h = 0 ∨ 30 < i.h then bad fDESC_INVALID 0
  else if i.classPlan.length ≠ 48 ∨ i.classPlan.any fun c => decide (5 < c) then bad fDESC_INVALID 1
  else if i.period < 4 ∨ 64 < i.period then bad fDESC_INVALID 2
  else if i.classPlan.any fun c =>
      decide (c < 5) && decide (tickCycles (if doubled then 2 * i.period else i.period) c < 4096) then
    bad fDESC_INVALID 1
  else if train && (decide (i.feedE = 0) || decide (65536 < i.feedE)) then bad fDESC_INVALID 3
  else if i.share ≠ 2048 then bad fDESC_INVALID 4
  else if i.tiles.any fun t => overlap (t.codeBase, t.codeLen) ctx1Range || overlap (t.descBase, t.descLen) ctx1Range ||
      decide (0x280000 < t.codeBase + t.codeLen) || decide (0x280000 < t.descBase + t.descLen) then bad fDESC_RANGE 0
  else if train && i.couch % 0x80000 != 0 then bad fDESC_INVALID 5
  else if train && !i.vatWithin (i.couch, 0x1000000000) then bad fDESC_RANGE 5
  else none

/-- The fault of an allocation record (R228, R312); a training image declares no counter ring (R498). -/
def allocFault (train : Bool) (vatEnd : Nat) (a : AllocRec) : Option Nat :=
  if train && a.ring then some fDESC_INVALID
  else if a.vat then (if vatEnd < a.base + a.len then some fDESC_RANGE else none)
  else if 0x280000 < a.base + a.len ∨ overlap (a.base, a.len) ctx1Range then some fDESC_RANGE
  else none

/-- The first failing descriptor of a tile in ascending address. -/
def Image.descsFault (i : Image) (t : TileImage) : List (Nat × List Byte) → Option LoadFail
  | [] => none
  | (a, bs) :: r =>
    let d := Desc.parse bs
    let mask := (t.descs.find? fun m => m.1 == d.aux).map fun m => Desc.parse m.2
    match d.create i t.ptile mask with
    | some c => some { code := c, item := 0, ptile := t.ptile, pos := a }
    | none => i.descsFault t r

/-- The first failing tile's descriptor, in ascending descriptor address. -/
def Image.tilesFault (i : Image) : List TileImage → Option LoadFail
  | [] => none
  | t :: r =>
    match i.descsFault t (ascend (fun d => d.1) t.descs) with
    | some f => some f
    | none => i.tilesFault r

/-- A table of the image holds more entries than it may, or fewer (R275, R299, R302, R506); the place is the entry that is
too many, or the one that is missing. -/
def countFault {α : Type} (item : Nat) (l : List α) (lo hi : Nat) : Option LoadFail :=
  if l.length < lo then some { code := fDESC_INVALID, item := item, pos := l.length }
  else if hi < l.length then some { code := fDESC_INVALID, item := item, pos := hi }
  else none

/-- The layer table, at LAYER_TABLE in vat space, lies below VAT_END (R284, R302). -/
def Image.tableFault (i : Image) (vatEnd : Nat) : Option LoadFail :=
  if i.layers ≠ [] ∧ vatEnd < i.layerTable + 128 * i.layers.length then
    some { code := fDESC_RANGE, item := 6, pos := (vatEnd - i.layerTable) / 128 }
  else none

/-- The fault of the reduction table: a training image holds one, whose views are NVIEW, and a query image none (R323). -/
def Image.redFault (i : Image) (train : Bool) : Option LoadFail :=
  let head := fun (c : Nat) => ({ code := c, item := 4, pos := 0xFFFFFFFF } : LoadFail)
  match i.red with
  | none => if train then some (head fDESC_INVALID) else none
  | some b =>
    if !train then some (head fDESC_INVALID)
    else match i.redHeaderFault b with
      | some c => some (head c)
      | none =>
        if leAt b 4 4 ≠ i.views.length then some (head fDESC_INVALID)
        else (firstFault (i.redRecFault b) (List.range 64) 0).map fun c => { code := c.1, item := 4, pos := c.2 }

/-- Of failures within one kind, the one at the lowest entry, the earlier in the list among equals (R228). -/
def firstEntry : List (Option LoadFail) → Option LoadFail
  | [] => none
  | none :: r => firstEntry r
  | some f :: r => match firstEntry r with
    | some g => if g.pos < f.pos then some g else some f
    | none => some f

/-- The first failure of a load in the order of R228; none when the image is accepted. A query image may hold no layer (log
entry 45). -/
def Image.loadFail (i : Image) (train doubled : Bool) (vatEnd : Nat) : Option LoadFail :=
  let item := fun k (r : Option (Nat × Nat)) => r.map fun c => ({ code := c.1, item := k, pos := c.2 } : LoadFail)
  (i.headerFault train doubled).or <|
  ((firstFault (allocFault train vatEnd) i.allocs 0).map fun c =>
    ({ code := c.1, item := 1, pos := c.2
       ptile := match i.allocs[c.2]? with
        | some a => if a.vat then 0xFFFF else a.ptile
        | none => 0xFFFF } : LoadFail)).or <|
  (i.tilesFault (ascend (fun t => t.ptile) i.tiles)).or <|
  (firstEntry [countFault 6 i.layers (if train then 1 else 0) 4096, i.tableFault vatEnd,
    item 6 (i.layersFault i.layers 0 0)]).or <|
  (firstEntry [countFault 2 i.trees 1 256, item 2 (firstFault i.treeFault i.trees 0)]).or <|
  (firstEntry [countFault 3 i.streams 0 16384, item 3 (firstFault (i.streamFault vatEnd) i.streams 0)]).or <|
  (i.redFault train).or <|
  (item 5 (firstFault i.viewFault i.views 0)).or <|
  (let n := if train then i.feedE else 1
   firstEntry [countFault 8 i.inputs n n, item 8 (firstFault i.inputFault i.inputs 0)])

/-! The programs' parts in State -/

/-- The training program's image. -/
def State.trainImage (s : State) : Option Image := s.image? 0

end Sys2Proof.Machine
end

