-- ==== Sys2Proof/Machine/Places.lean ====
section
/-! DEFINITION. Where programs lie and what follows from it for fields and pages: the tiles of a program, the classes of
its plan, the state that a field takes when no command uses it, and what a cluster page shows of its tiles and its router
(R33, R34, R161, R248, R281, R282, R427, R440, R445, R462 to R464, R467, R468, R481). -/

namespace Sys2Proof.Machine

/-! A program's place -/

/-- Logical clusters of a program's region with their program positions; none unbound. -/
def State.regionOf (s : State) (i : Nat) : List (Nat × Nat × Nat) :=
  match s.prog i with
  | some p => match p.bound with
    | some (x, y) => (pairs (List.range p.image.h) (List.range p.image.w)).map fun q =>
        ((y + q.1) * 40 + x + q.2, q.2, q.1)
    | none => []
  | none => []

/-- Logical clusters of a region at its used positions (R34). -/
def usedClusters (i : Image) (x y : Nat) : List Nat :=
  ((pairs (List.range i.h) (List.range i.w)).filter fun q => !i.isUnused q.2 q.1).map fun q => (y + q.1) * 40 + x + q.2

/-- The program tiles and logical tiles of a bound program's used positions. -/
def State.tilesOf (s : State) (i : Nat) : List (Nat × Nat) :=
  match s.image? i with
  | none => []
  | some im => ((s.regionOf i).filter fun q => !im.isUnused q.2.1 q.2.2).flatMap fun q =>
      (List.range 16).map fun t => (im.ptileOf q.2.1 q.2.2 t, q.1 * 16 + t)

/-- A program has a step or query in progress. -/
def State.busy (s : State) (i : Nat) : Bool :=
  if i = 0 then s.train.ph1.isSome || s.train.ph2.isSome || s.train.sealedStep.isSome else (s.query i).run.isSome

/-- Programs that the running command serves: 0 for RUN_STEPS, and the query slots in service (R440, R445); a query that
goes on after its RUN_STEPS has ended keeps its slot's (R379). -/
def State.served (s : State) : List Nat :=
  (if s.train.running then [0] else []) ++ [1, 2, 3].filter fun q => (s.query q).served || match (s.query q).run with
    | some a => a.rseq.isSome
    | none => false

/-- Programs that are loaded. -/
def State.loaded (s : State) : List Nat := (List.range 4).filter fun i => (s.prog i).isSome

/-! Classes and voltages (R462 to R465) -/

/-- Core voltage of a class in mV (R462). -/
def classVolt (c : Nat) : Nat := nth 550 [850, 760, 680, 600, 550, 550] c

/-- The classes that the plans of the served programs give a field (R463). -/
def State.plans (s : State) (f : Nat) : List Nat :=
  s.served.filterMap fun i => match s.image? i with
    | none => none
    | some im =>
      let touches := (s.regionOf i).any fun q => fieldOfLogical q.1 == f
      if touches || (i == 0 && (siteVat f).isSome) then some (nth 0 im.classPlan f) else none

/-- Class of a field that no plan names in a power state (R463, R468). -/
def idleClass (pstate : Nat) : Nat := if pstate = 0 then 0 else 5

/-- The class under R463: the highest of the plans, which is the lowest code. -/
def State.plannedClass (s : State) (f : Nat) : Nat :=
  match s.plans f with
  | [] => idleClass s.power.pstate
  | c :: r => r.foldl min c

/-- A field takes a class: a raise waits for the core voltage, a lowering lowers it after the class (R464). -/
def FieldState.takeClass (x : FieldState) (c : Nat) (keepVolt : Bool) : FieldState :=
  if x.vcore < classVolt c then { x with raiseTo := some c }
  else { x with classNow := c, raiseTo := none, tstate := if c = 5 then 1 else 0
                vcore := if keepVolt then x.vcore else classVolt c }

/-- Tiles of an idle field in a power state: 0 running, 1 clock-gated, 2 power-gated, 3 off (R468, R481). -/
def idleTiles (pstate : Nat) : Nat := if pstate < 3 then pstate else 3

/-- A field that no running command uses takes a power state (R468): in P0 it runs at 1.9 GHz, a raise waiting for its
voltage and a throttle holding (R464, R465); deeper, its tiles stop. -/
def FieldState.rest (x : FieldState) (p : Nat) : FieldState :=
  if x.fuse ≠ 0 then x
  else if p = 0 then (if x.classNow = 0 || x.throttled then x else x.takeClass 0 false)
  else { x with classNow := 5, tstate := idleTiles p, vcore := classVolt 5, raiseTo := none }

/-- A roll-forward is pending: a step stands in phase 2 and RUN_STEPS does not go on (R50, R467). -/
def State.rollDue (s : State) : Bool := s.train.ph2.isSome && !s.train.running

/-- A field is idle (R467): no plan of a running command names it, RUN_STEPS does not run with a vat port in it, and no
roll-forward is pending. -/
def State.idleField (s : State) (f : Nat) : Bool :=
  (s.plans f).isEmpty && !s.rollDue && !((siteVat f).isSome && match s.run with
    | some r => r.op == 4 && r.begun
    | none => false)

/-- The fields that the end of a run leaves idle take the power state in force (R468). -/
def State.restFields (s : State) : State :=
  (List.range 48).foldl (fun s f => if s.idleField f then s.setField f ((s.field f).rest s.power.pstate) else s) s

/-! Links, and what a cluster page shows (R161, R248, R282, R427) -/

/-- The two routers of a link, and the port by which each reaches it (R248, R282). -/
def linkEnds (l : Nat) : (Nat × Nat) × (Nat × Nat) :=
  let c := l / 8
  match l % 8 with
  | 0 => ((c, 1), (c + 1, 0))
  | 1 => ((c, 3), (c + 2, 2))
  | 2 => ((c, 5), (c + 48, 4))
  | 3 => ((c, 5), (c + 47, 4))
  | 4 => ((c, 5), (c + 49, 4))
  | _ => ((c, 6), (c, 6))

/-- A mask with a bit for each number below `n` that satisfies a test. -/
def bitsOf (n : Nat) (f : Nat → Bool) : Nat := (List.range n).foldl (fun a i => if f i then a + 2 ^ i else a) 0

/-- The state of a router's link: 0 off, 1 training, 2 up, 3 retired (R248, R281, R282, R468). -/
def State.linkState (s : State) (l : Nat) : Nat :=
  let ((a, _), (b, _)) := linkEnds l
  if !s.ident.ready then 0
  else if s.bind.found.links.contains l then 3
  else if !s.bind.found.living a || !s.bind.found.living b then 0
  else if s.power.pstate = 4 && !(l % 8 == 5 && [3, 10, 13, 19, 28, 42, 44].contains (fieldOfCluster a)) then 0
  else if s.felt.gaveUp.contains l then 1
  else 2

/-- State of the link of a router's port, by the port's number in PORT of R282. -/
def State.portState (s : State) (c port : Nat) : Nat :=
  let x := c % 48
  let sel := s.bind.applied.selections c
  let up := fun (l : Option Nat) => match l with
    | some l => s.linkState l
    | none => 0
  match port with
  | 0 => up (if 0 < x then some (linkId (c - 1) 0) else none)
  | 1 => up (if x < 47 then some (linkId c 0) else none)
  | 2 => up (if 1 < x then some (linkId (c - 2) 1) else none)
  | 3 => up (if x < 46 then some (linkId c 1) else none)
  | 4 => up (match sel % 4 with
    | 0 => some (linkId (c - 48) 2)
    | 1 => some (linkId (c - 49) 4)
    | 2 => some (linkId (c - 47) 3)
    | _ => none)
  | 5 => up (match sel / 4 with
    | 0 => some (linkId c 2)
    | 1 => some (linkId c 3)
    | 2 => some (linkId c 4)
    | _ => none)
  | _ => up (if (wiredClusters (fieldOfCluster c)).contains c then some (linkId c 5) else none)

/-- What a cluster's page shows of its tiles' SAT bits, its links, its vertical selections and its hold of the wave (R161,
R282). -/
def State.clusterNow (s : State) (c : Nat) : ClusterShown :=
  let l := s.bind.applied.serves c
  { sat := match l with
      | none => 0
      | some l => bitsOf 16 fun t => match s.bind.applied.tileSlot (l * 16 + t) with
        | some slot => (s.tile slot).c0.flags.getLsbD 0
        | none => false
    links := s.portState c 0 + s.portState c 1 * 4 + s.portState c 2 * 16 + s.portState c 3 * 64 + s.portState c 4 * 256 +
      s.portState c 5 * 1024 + s.portState c 6 * 4096
    sel := s.bind.applied.selections c
    hold := match l with
      | some l => if s.felt.holdCls.isEmpty then 0 else s.bind.applied.waveHold (fun f => nth 0 s.felt.holdCls f) l % 2 ^ 16
      | none => 0 }

/-- A cluster is lost: its page keeps what it shows (R427). -/
def State.loseClusterPage (s : State) (c : Nat) : State :=
  let r := s.cluster c
  { s with clusters := sput {} s.clusters c { r with last := some (r.last.getD (s.clusterNow c)) } }.losePage (pgCluster c)

end Sys2Proof.Machine
end

