-- ==== Sys2Proof/Machine/Recovery.lean ====
section
/-! DEFINITION. Commands that end, attempts that are discarded and redone, units that are retired, the restricted state,
and the loss of the partner (R22 to R30, R47, R50, R52, R59, R177, R215, R289, R365 to R370, R384, R438, R445). -/

namespace Sys2Proof.Machine

/-! Vat space -/

/-- Mark the 1 MiB regions of a write as tainted (R417). -/
def taint (l : List Nat) (a n : Nat) : List Nat :=
  if n = 0 then l
  else
    let new := (List.range ((a + n - 1) / 1048576 - a / 1048576 + 1)).map (a / 1048576 + ·)
    l ++ new.filter fun r => !l.contains r

/-- Regions that a write dirties for the holder of a moving copy: those that have been copied (R388). -/
def JoinState.dirtied (j : JoinState) (a n : Nat) : JoinState :=
  { j with dirty := (taint j.dirty a n).filter fun r => !j.todo.contains r }

/-- Write bytes into vat space (R286, R417, R388). -/
def State.vatWrite (s : State) (a : Nat) (bs : List Byte) : State :=
  { s with vats := { s.vats with mem := s.vats.mem.write a bs }
           sec := { s.sec with taintVat := taint s.sec.taintVat a bs.length }
           twin := { s.twin with join := s.twin.join.map fun j => if j.joiner then j else j.dirtied a bs.length } }

/-- Vat that holds an address, its channel and bank as the repair log names them (R284, R285, R452). -/
def vatOf (a : Nat) : Nat := a / 4096 % 40

/-- vat·1,024 + channel·32 + bank of an address (R452). -/
def vatBank (a : Nat) : Nat :=
  let j := a / 4096 / 40
  vatOf a * 1024 + j % 32 * 32 + j / 32 % 16

/-- The 64 B lines of a range count under an event at the vats that hold them (R291, R491 events 0x40 and 0x41). -/
def State.countLines (s : State) (ev : Nat) (r : Nat × Nat) : State :=
  if r.2 = 0 then s
  else (List.range ((r.1 + r.2 - 1) / 4096 - r.1 / 4096 + 1)).foldl (fun s i =>
    let p := r.1 / 4096 + i
    let lo := max r.1 (4096 * p)
    let hi := min (r.1 + r.2) (4096 * p + 4096)
    s.bump (pgVat (vatOf lo)) ev ((hi - 1) / 64 - lo / 64 + 1)) s

/-- Write whole lines' worth of bytes into vat space, as its ports count it. -/
def State.vatStore (s : State) (a : Nat) (bs : List Byte) : State := (s.vatWrite a bs).countLines 0x41 (a, bs.length)

/-! The phase-2 frontier (R298, R315, R316, R343) -/

/-- The done byte of a global chunk equals a step modulo 256 (R315, R316). -/
def State.chunkDone (s : State) (i : Image) (n g : Nat) : Bool := (s.vats.mem.byte (i.couch + 0x880000 + g)).toNat == n % 256

/-- Phase 2 has chunks left, so that writes into the log and the notes are held (R298, R343). -/
def State.logHeld (s : State) (i : Image) : Bool :=
  match s.train.ph2 with
  | some x => (List.range i.chunkCount).any fun g => !s.chunkDone i x.step g
  | none => false

/-! Ending a command (R438, R440) -/

/-- RET0 of a command that a fault or an abort ends (R440). -/
def State.ret0 (s : State) (r : Running) : Nat :=
  if r.op = 4 ∨ r.op = 0x0C then s.train.committed else if r.op = 5 then r.count else 0

/-- The running command ends: results and STATUS on its page, BUSY clear, DONE set (R438); the fields that a run leaves idle
take the power state in force (R468). -/
def State.endWith (s : State) (status r0 r1 : Nat) : State :=
  match s.run with
  | none => s
  | some r =>
    let s := { s with run := none, train := { s.train with running := false, ending := none, feedWait := false } }
    let s := s.modCmd r.port fun c => { c with
      resOp := r.op, status := status, ret0 := BitVec.ofNat 64 r0, ret1 := BitVec.ofNat 64 r1, ret2 := 0, ret3 := 0 }
    (if r.op = 4 ∨ r.op = 5 then s.restFields else s).setEvt (pgCmd r.port) 2

/-- The running command ends with a status and the return value of R440. -/
def State.endCommand (s : State) (status : Nat) : State :=
  match s.run with
  | none => s
  | some r => s.endWith status (s.ret0 r) 0

/-! Work in flight -/

/-- Operations that a tile's units have issued and not completed. -/
def Tile.inFlight (t : Tile) : List UnitOp := t.engines.flatMap (fun e => e.2.q) ++ t.vecQ ++ t.copyQ

/-- Fill extents with free bytes from number `f`: the destinations of abandoned operations are unspecified (R215). -/
def fillFree : List (Nat × Nat) → EccMem → Nat → EccMem × Nat
  | [], m, f => (m, f)
  | (a, n) :: r, m, f => fillFree r (m.write a (freeBytes f n)) (f + n)

/-- Who accesses a tile's SRAM: an engine, the vector engine, the copy engine, or the felt and the vat ports. -/
inductive TileUnit where
  | engine (e : Nat)
  | vector
  | copy
  | outside
deriving DecidableEq, Repr

/-- Operations in flight of a tile's units but one. -/
def Tile.others (t : Tile) (u : TileUnit) : List UnitOp :=
  (t.engines.flatMap fun e => if u = .engine e.1 then [] else e.2.q) ++ (if u = .vector then [] else t.vecQ) ++
  (if u = .copy then [] else t.copyQ)

/-- Some ranges meet what an operation in flight reads or writes. -/
def UnitOp.meets (o : UnitOp) (ws : List (Nat × Nat)) : Bool := o.ext.any fun r => ws.any (overlap r)

/-- An operation that issues finds another unit's in flight that writes what it reads or writes, or reads what it writes:
nothing orders the two (R146, R209). -/
def Tile.races (t : Tile) (u : TileUnit) (o : UnitOp) : Bool :=
  (t.others u).any fun x => x.meets o.dst || o.meets x.dst

/-- Some ranges meet what an operation in flight of another unit writes. -/
def Tile.written (t : Tile) (u : TileUnit) (rs : List (Nat × Nat)) : Bool :=
  (t.others u).any fun x => rs.any fun r => x.dst.any (overlap r)

/-- The operations in flight of other units that a write meets are noted. -/
def Tile.note (t : Tile) (u : TileUnit) (ws : List (Nat × Nat)) : Tile :=
  let mark := fun (o : UnitOp) => if o.meets ws then { o with race := true } else o
  { t with engines := t.engines.map fun e => if u = .engine e.1 then e else (e.1, { e.2 with q := e.2.q.map mark })
           vecQ := if u = .vector then t.vecQ else t.vecQ.map mark
           copyQ := if u = .copy then t.copyQ else t.copyQ.map mark }

/-- The bytes that two lists of ranges share. -/
def shared (as bs : List (Nat × Nat)) : List (Nat × Nat) :=
  (pairs as bs).filterMap fun q =>
    if overlap q.1 q.2 then some (max q.1.1 q.2.1, min (q.1.1 + q.1.2) (q.2.1 + q.2.2) - max q.1.1 q.2.1) else none

/-- A unit whose operation reads or writes `ext` reads ranges of a tile: the bytes among them that another unit's operation
in flight writes are unspecified (R209, R210). -/
def State.meetReads (s : State) (slot : Nat) (u : TileUnit) (ext rs : List (Nat × Nat)) : State :=
  let t := s.tile slot
  if t.written u ext then
    let (m, f) := fillFree ((t.others u).flatMap fun x => shared x.dst rs) t.sram s.free
    { s.setTile slot { t with sram := m } with free := f }
  else s

/-- A unit has written ranges of a tile (R146, R209): bytes that another unit's operation in flight reads or writes are
unspecified, and so is what that operation writes, when it completes. -/
def State.conflicts (s : State) (slot : Nat) (u : TileUnit) (ws : List (Nat × Nat)) : State :=
  let t := s.tile slot
  if (t.others u).any fun o => o.meets ws then
    let (m, f) := fillFree ((t.others u).flatMap fun o => shared o.ext ws) t.sram s.free
    { s.setTile slot { t.note u ws with sram := m } with free := f }
  else s

/-- An operation leaves its unit: what it wrote and the rest of its destination are unspecified when a write of another
unit met it (R146, R209). -/
def State.leave (s : State) (slot : Nat) (o : UnitOp) : State :=
  if o.race then
    let t := s.tile slot
    let (m, f) := fillFree (o.dst ++ o.lose) t.sram s.free
    { s.setTile slot { t with sram := m } with free := f }
  else s

/-- Abandon the operations in flight of a tile. -/
def Tile.abandon (t : Tile) (f : Nat) : Tile × Nat :=
  let (m, f) := fillFree (t.inFlight.flatMap fun o => o.dst) t.sram f
  ({ t with sram := m, vecQ := [], copyQ := []
            engines := t.engines.map fun e => (e.1, { e.2 with q := [], open_ := none }) }, f)

/-- The logical tile that a slot serves in a retirement state. -/
def Retire.logicalOf (r : Retire) (slot : Nat) : Option Nat :=
  match r.serves (slot / 17) with
  | none => none
  | some l => match findFrom (· == slot % 17) (r.liveSlots (slot / 17)) 0 with
    | some k => if k < 16 then some (l * 16 + k) else none
    | none => none

/-- The program whose tile a slot serves. -/
def State.slotProg (s : State) (slot : Nat) : Option Nat :=
  match s.bind.applied.logicalOf slot with
  | some t => s.owner (t / 16)
  | none => none

/-- Stop the tiles that satisfy a test: context 0 idle and operations abandoned. -/
def stopTiles (p : Nat → Bool) : List (Nat × Tile) → Nat → List (Nat × Tile) × Nat
  | [], f => ([], f)
  | (k, t) :: r, f =>
    if p k then
      let (t, f) := t.abandon f
      let (r, f) := stopTiles p r f
      ((k, { t with c0 := { t.c0 with run := .idle } }) :: r, f)
    else
      let (r, f) := stopTiles p r f
      ((k, t) :: r, f)

/-- The tree rounds and the waves of a program, and what context 0 of its tiles issued, leave the felt (R177). -/
def Felt.drop (x : Felt) (prog : Nat) (mine : Nat → Bool) : Felt :=
  { x with
    packets := x.packets.filter fun p => !(p.prog == prog && p.ctx == .c0)
    responses := x.responses.filter fun p => !(p.prog == prog && p.ctx == .c0)
    unacked := x.unacked.filter fun u => !(mine u.src && u.ctx == .c0)
    conv := x.conv.filter fun c => c.prog != prog
    rounds := x.rounds.filter fun k => k.1 / 2 ^ 24 != prog
    done := x.done.filter fun k => k.1 / 2 ^ 8 != prog
    next := x.next.filter fun k => k.1 / 2 ^ 8 != prog
    wave := x.wave.map fun w => { w with
      progs := w.progs.filter (· != prog), starts := w.starts.filter (· != prog) } }

/-- A line request belongs to a program's work: context 0 of its tiles, its streams, views and inputs. -/
def Asker.ofProg (prog : Nat) (mine : Nat → Bool) : Asker → Bool
  | .tile t .c0 _ => mine t
  | .tile _ .c1 _ => false
  | .stream p _ => p == prog
  | .view _ => prog == 0
  | .input p _ => p == prog

/-- Drop the waiting line requests of a program's work. -/
def VatState.drop (v : VatState) (prog : Nat) (p : Nat → Bool) : VatState :=
  { v with qStream := v.qStream.filter (fun q => !q.asker.ofProg prog p)
           qC1 := v.qC1.filter (fun q => !q.asker.ofProg prog p)
           qOther := v.qOther.filter fun q => !q.asker.ofProg prog p }

/-- The destination tile of a tree with its address and its bytes (R275). -/
def State.treeDest (s : State) (prog tree : Nat) : Option (Nat × Nat × Nat) :=
  match s.prog prog with
  | some p => match p.bound, p.image.trees[tree]? with
    | some (x, y), some t =>
      some (((y + leAt t.1 1 1) * 40 + x + leAt t.1 0 1) * 16 + leAt t.1 2 1 % 16, leAt t.1 4 4, 4 * leAt t.1 8 2)
    | _, _ => none
  | none => none

/-- The tiles that a packet has still to reach: those of an MCAST whose copies are out (R273), or its one destination. -/
def Packet.dests (p : Packet) : List Nat := if p.kind = .mcast then p.copies else [p.dst]

/-- The tile ranges, each with its logical tile, that a packet in the felt has still to write: at its destination, and at
its source for the data that returns (R202, R203, R206). A read of the copy engine writes into its operation's own
destination. -/
def State.packetRanges (s : State) (p : Packet) : List (Nat × Nat × Nat) :=
  match p.kind with
  | .put | .mcast | .radd | .rmax => p.dests.map fun d => (d, p.addr, p.data.length)
  | .rswap => [(p.dst, p.addr, p.data.length), (p.src, p.ret, p.data.length)]
  | .get => [(p.src, p.ret, p.len)]
  | .copyRead => []
  | .conv => (s.treeDest p.prog p.tree).toList

/-- The tile ranges of packets, of responses and of waiting operands of converging adds. -/
def State.feltRanges (s : State) (ps : List Packet) (rs : List Response) (os : List ConvOperand) :
    List (Nat × Nat × Nat) :=
  ps.flatMap s.packetRanges ++
  (rs.filter fun r => r.opId.isNone).flatMap (fun r => r.pieces.map fun q => (r.dst, q.1, q.2.length)) ++
  os.flatMap fun o => (s.treeDest o.prog o.tree).toList

/-- Fill tile ranges with free bytes: the destinations of abandoned operations are unspecified (R215). A range that meets
a region that no unit may write stays. -/
def State.freeTiles (s : State) (rs : List (Nat × Nat × Nat)) : State :=
  rs.foldl (fun s r => match s.env r.1 .c0 with
    | none => s
    | some e =>
      if r.2.2 = 0 || (s.guarded e).any (overlap r.2) then s
      else
        let t := s.tile e.slot
        { s.setTile e.slot { t with sram := t.sram.write r.2.1 (freeBytes s.free r.2.2) } with
          free := s.free + r.2.2 }) s

/-- Fill vat ranges with free bytes; the fill taints and dirties its regions as a write does (R388, R417). -/
def State.freeVat (s : State) (rs : List (Nat × Nat)) : State :=
  rs.foldl (fun s r => { s with free := s.free + r.2 }.vatWrite r.1 (freeBytes s.free r.2)) s

/-- The bytes of a vat range that the holds of R298 and R343 do not keep back, one range for each 64 B line. -/
def State.notHeld (s : State) (r : Nat × Nat) : List (Nat × Nat) :=
  if r.2 = 0 then []
  else ((List.range ((r.1 + r.2 - 1) / 64 - r.1 / 64 + 1)).map fun i =>
      let lo := max r.1 ((r.1 / 64 + i) * 64)
      (lo, min (r.1 + r.2) ((r.1 / 64 + i + 1) * 64) - lo)).filter fun q =>
    match s.image? 0 with
    | some i => !(s.logHeld i && (List.range q.2).any fun k => i.inLog (q.1 + k))
    | none => true

/-- The vat ranges of the operations of context 0 of a program's tiles that are abandoned, the lines that are held left
out: they are unspecified (R215). -/
def State.droppedRanges (s : State) (prog : Nat) : List (Nat × Nat) :=
  ((s.tiles.filter fun k => s.slotProg k.1 == some prog).flatMap fun k =>
    k.2.inFlight.flatMap fun o => o.vdst).flatMap s.notHeld

/-- Discard what a program has in flight: tiles stop, packets and line requests are dropped, and what they had to write is
unspecified (R50, R177, R212, R215). -/
def State.discard (s : State) (prog : Nat) : State :=
  let mine := fun t => s.owner (t / 16) == some prog
  let s : State := s.freeVat (s.droppedRanges prog)
  let (ts, f) := stopTiles (fun k => s.slotProg k == some prog) s.tiles s.free
  let s : State := { s with tiles := ts, free := f
                            vats := { s.vats with vats := s.vats.vats.map fun kv => (kv.1, kv.2.drop prog mine) } }
  let s : State := s.freeTiles (s.feltRanges (s.felt.packets.filter fun p => p.prog == prog && p.ctx == .c0)
    (s.felt.responses.filter fun p => p.prog == prog && p.ctx == .c0) (s.felt.conv.filter fun c => c.prog == prog))
  { s with felt := s.felt.drop prog mine }

/-- The query's command has ended, and it goes on (R379): its output has a record number of its own. -/
def QRun.orphan (n : Nat) (a : QRun) : QRun := { a with rseq := some (a.rseq.getD n) }

/-- A query of the running command is in progress in a slot. -/
def QSlot.runs (x : QSlot) : Bool := match x.run with
  | some a => a.rseq.isNone
  | none => false

/-- Discard the work of the running command's queries and end their service. -/
def State.stopQueries (s : State) : State :=
  [1, 2, 3].foldl (fun s q =>
    let x := s.query q
    if x.run.isSome && !x.runs then s.setQuery q { x with served := false }
    else if x.run.isSome || x.served then (s.discard q).setQuery q { x with run := none, served := false, next := x.completed }
    else s) s

/-- The query slots start no further query. -/
def State.endService (s : State) : State :=
  { s with queries := s.queries.map fun (q : Nat × QSlot) => (q.1, { q.2 with served := false }) }

/-- The running command ends for want of work: RUN_STEPS at its last step, a command that a fault or an abort ends once
phase 2 has committed, and each when the queries in progress have delivered (R50, R52, R439, R440). -/
def State.settleCommand (s : State) : State :=
  match s.run with
  | none => s
  | some r =>
    let idle := s.train.ph1.isNone && s.train.ph2.isNone && s.train.sealedStep.isNone
    let quiet := [1, 2, 3].all fun q => !(s.query q).runs
    if r.op = 4 then
      match s.train.ending with
      | some c => if s.train.ph2.isNone then s.endService.endCommand c else s
      | none =>
        if idle && (r.aborting || (s.train.running && decide (s.train.last ≤ s.train.committed))) then
          (if quiet then s.endService.endCommand (if r.aborting then 1 else 0) else s.endService)
        else s
    else if r.op = 5 then (if r.aborting && quiet then s.endService.endCommand 1 else s)
    else s

/-- RUN_STEPS ends with a fault: at once, or when the step in phase 2 has committed (R50, R52). -/
def State.endRun (s : State) (code : Nat) : State :=
  let s := s.stopQueries
  let s := { s with train := { s.train with ph1 := none, running := false }, twin := { s.twin with probe := none } }
  match s.run with
  | some r =>
    if r.op = 4 then
      (if s.train.ph2.isSome then { s with train := { s.train with ending := some code } } else s.endCommand code)
    else s
  | none => s

/-- A query fault (R445): it ends RUN_QUERY; under RUN_STEPS it ends the slot's service. A query whose RUN_STEPS has ended
ends alone (R379). -/
def State.queryFault (s : State) (q code : Nat) : State :=
  let s := s.discard q
  let x := s.query q
  let s := s.setQuery q { x with run := none, served := false, next := x.completed }
  match x.run.bind (fun a => a.rseq.map fun _ => a.port), s.run with
  | some port, _ => s.recordFault (pgCmd port) code (q * 2 ^ 28)
  | none, some r =>
    let s := s.recordFault (pgCmd r.port) code (q * 2 ^ 28)
    if r.op = 5 then s.stopQueries.endCommand code else s.settleCommand
  | none, none => s

/-- A program fault (R52, R215, R369). -/
def State.progFault (s : State) (prog code : Nat) : State :=
  if prog = 0 then (s.discard 0).endRun code else s.queryFault prog code

/-- The query of a run as it begins again from its first tick (R47). -/
def QRun.again (r : QRun) : QRun :=
  { r with tick := 0, started := false, streams := [], overrun := false, throttled := false
           input := { ring := r.input.ring, entry := r.input.entry } }

/-- Discard the work of a program that has begun, to take it up again from its first tick; no redo is counted (R52,
R368, R380). -/
def State.restart (s : State) (prog : Nat) : State :=
  if prog = 0 then
    match s.train.ph1 with
    | some a =>
      if !a.started then s
      else
        let s := s.discard 0
        { s with train := { s.train with
          ph1 := some { step := a.step, attempt := a.attempt + 1 }, overrun := false, throttled := false } }
    | none => s
  else
    match (s.query prog).run with
    | some r => if !r.started then s else (s.discard prog).setQuery prog { s.query prog with run := some r.again }
    | none => s

/-- Discard and redo the step attempt of the training program; the fourth fault of a step ends the command (R52). -/
def State.redoStep (s : State) (code : Nat) : State :=
  match s.train.ph1 with
  | none => s
  | some a =>
    let s := s.discard 0
    if 3 ≤ s.train.redos then s.endRun code
    else { s with train := { s.train with
      ph1 := some { step := a.step, attempt := a.attempt + 1 }, redos := s.train.redos + 1
      overrun := false, throttled := false } }

/-- Discard and redo the query of a slot (R47). -/
def State.redoQuery (s : State) (q code : Nat) : State :=
  match (s.query q).run with
  | none => s
  | some r =>
    if 3 ≤ r.redos then s.queryFault q code
    else
      let s := s.discard q
      s.setQuery q { s.query q with run := some { r.again with redos := r.redos + 1 } }

/-- A fault that the module absorbs in the work of one program. -/
def State.absorb (s : State) (prog code : Nat) : State :=
  if prog = 0 then s.redoStep code else s.redoQuery prog code

/-- A fault that the module absorbs in every attempt and query in progress. -/
def State.absorbAll (s : State) (code : Nat) : State :=
  (((s.redoStep code).redoQuery 1 code).redoQuery 2 code).redoQuery 3 code

/-- SCHEDULE_OVERRUN (R43, R44, R290): recorded on a page, and the work of the program ends with it. -/
def State.scheduleOverrun (s : State) (prog page : Nat) : State :=
  (s.recordFault page fSCHEDULE_OVERRUN 0).progFault prog fSCHEDULE_OVERRUN

/-- PLACEMENT_HOLE stops a program until software binds it elsewhere or loads another image (R34). -/
def State.placementHole (s : State) (prog : Nat) : State :=
  match s.prog prog with
  | none => s
  | some p =>
    let s := s.setProg prog (some { p with stopped := true })
    let s := match s.run with
      | some r => s.recordFault (pgCmd r.port) fPLACEMENT_HOLE 0
      | none => s
    if prog = 0 then (if s.train.running then s.progFault 0 fPLACEMENT_HOLE else s.discard 0)
    else if (s.query prog).served then s.progFault prog fPLACEMENT_HOLE else s.discard prog

/-! Calender messages (R363, R381, R382) -/

/-- Calender ports that are up. -/
def Twin.upPorts (t : Twin) : List Nat := (List.range 4).filter fun p => (t.port p).up

/-- A message type that travels under the alive counter (R382). -/
def aliveType (type : Nat) : Bool := decide (type < 0x10)

/-- The header of a message (R381). -/
def SentMsg.header (m : SentMsg) : List Byte :=
  leBytes 1 m.type ++ leBytes 1 m.attempt ++ leBytes 2 0 ++ leBytes 4 m.body.length ++ leBytes 8 m.step ++ leBytes 8 m.offset

/-- A message with the check that follows it, formed over the prefix of R359. -/
def SentMsg.checked (m : SentMsg) (c : Check) : List Byte :=
  let b := m.header ++ m.body
  b ++ leBytes (c.width / 8) (c.of (foldPrefix m.offset m.seq (calSite m.port) (aliveType m.type) ++ b))

/-- The GCM IV of a message of a direction (R414). -/
def calIv (port dir ctr : Nat) : List Byte := leBytes 1 port ++ leBytes 1 dir ++ leBytes 2 0 ++ leBytes 8 ctr

/-- 64 B units of a payload (R491 event 0x30). -/
def payloadUnits (n : Nat) : Nat := cdiv n 64

/-- Bytes that travel encrypted with a body: the header, the body and the check (R359, R381). -/
def calBytes (active n : Nat) : Nat := 24 + n + (Check.ofCode active).width / 8

/-- A message leaves by a port: sealed under the session key, and counted in its direction (R381, R414). -/
def Twin.post (t : Twin) (p active : Nat) (m : SentMsg) : Twin :=
  let c := t.port p
  let plain := m.checked (Check.ofCode active)
  let wire := match c.keyOut with
    | some k => let (ct, tag) := gcmSeal k (calIv p c.dir c.ctrOut) [] plain; ct ++ tag
    | none => plain
  { t.setPort p { c with ctrOut := c.ctrOut + 1 } with sent := t.sent ++ [{ m with wire := wire }] }

/-- A calender port encrypts or decrypts a message with a body of `n` bytes (R491 event 0x30). -/
def State.calUnits (s : State) (p n : Nat) : State :=
  s.bump (pgSite (calSite p)) 0x30 (payloadUnits (calBytes (s.site (calSite p)).active n))

/-- Send an alive-counter message on one port. -/
def State.sendAlive (s : State) (p type : Nat) (body : List Byte) : State :=
  let c := s.twin.port p
  let t := s.twin.setPort p { c with aliveOut := (c.aliveOut + 1) % 16 }
  let m : SentMsg := { port := p, type, attempt := 0, step := 0, offset := 0, seq := c.aliveOut, body }
  { s with twin := t.post p (s.site (calSite p)).active m }.calUnits p body.length

/-- Send an alive-counter message on every port that is up. -/
def State.sendAliveAll (s : State) (type : Nat) (body : List Byte) : State :=
  s.twin.upPorts.foldl (fun s p => s.sendAlive p type body) s

/-- A calender port goes down: the session ends with it, and a port that is retired for good keeps its page as it is
(R383, R396, R427). -/
def State.portOff (s : State) (p : Nat) (retire : Bool) : State :=
  let c := s.twin.port p
  let s := { s with twin := s.twin.setPort p { c with up := false, retired := c.retired || retire, hello := none
                                                      myKx0 := none, peer := none, myKx1 := none, keyOut := none, keyIn := none } }
  let s := s.recordFault (pgSite (calSite p)) fCALENDER_DEGRADED 0
  if retire then s.losePage (pgSite (calSite p)) else s

/-- A direction's message counter of a port that is up has run out (R414). -/
def Twin.runOut (t : Twin) (p : Nat) : Bool :=
  (t.port p).up && (decide (2 ^ 32 ≤ (t.port p).ctrIn) || decide (2 ^ 32 ≤ (t.port p).ctrOut))

/-- Send LEAVE with a reason on every port that is up (R24, R382); a port whose counter has then run out goes down (R414). -/
def State.sendLeave (s : State) (reason : Nat) : State :=
  (List.range 4).foldl (fun s p => if s.twin.runOut p then s.portOff p false else s) (s.sendAliveAll 3 (leBytes 2 reason))

/-- Change TWIN_STATE; a change sets its event bit (R451). -/
def State.setTwin (s : State) (st : Nat) : State :=
  if s.twin.st = st then s else { s with twin := { s.twin with st := st } }.setEvt pgTwin 2

/-- Forget the comparison in progress. -/
def Twin.clear (t : Twin) : Twin :=
  { t with mism := 0, own2 := none, theirs := none, dlog := [], dlogGot := 0, drec := [], drecGot := 0, leaveWait := false }

/-- The member leaves the pair: it sends LEAVE and is unpaired (R367, R380). -/
def State.leavePair (s : State) (reason : Nat) : State :=
  let s := s.sendLeave reason
  let s := { s with twin := { s.twin.clear with join := none, probe := none } }
  s.setTwin 0

/-- The member is one of a pair. -/
def State.paired (s : State) : Bool := s.twin.st == 1 || s.twin.st == 3 || s.twin.st == 4 || s.twin.st == 5

/-! The restricted state (R23, R24) -/

/-- Record the cause of the restricted state on a control-complex page, a retired replica's too (R24). -/
def State.recordCause (s : State) (r cause : Nat) : State :=
  let p := s.page (pgCc r)
  let s := { s with pages := sput {} s.pages (pgCc r) { p with lost := false } }
  let s := s.recordFault (pgCc r) cause 0
  if p.lost then s.losePage (pgCc r) else s

/-- Enter the restricted state: every program stops, all work is discarded, the cause is recorded on the three
control-complex pages, a pair member sends LEAVE, and the running command ends with the cause. -/
def State.restrict (s : State) (cause : Nat) : State :=
  if s.cc.restricted.isSome then s
  else
    let s := (((s.discard 0).discard 1).discard 2).discard 3
    let s := { s with
      cc := { s.cc with restricted := some cause }
      bind := { s.bind with req := none }
      train := { s.train with ph1 := none, ph2 := none, sealedStep := none, running := false, ending := none }
      queries := s.queries.map fun (q : Nat × QSlot) =>
        (q.1, { q.2 with run := none, served := false, next := q.2.completed }) }
    let s := ((s.recordCause 0 cause).recordCause 1 cause).recordCause 2 cause
    let s := if s.paired then s.leavePair cause else s
    s.endCommand cause

/-- Whether a replica is retired. -/
def Control.rep (c : Control) : Replica → Nat
  | .cca => c.rep0
  | .ccb => c.rep1
  | .ccc => c.rep2

/-- Set REPLICA of a replica (R454). -/
def Control.setRep (c : Control) (r : Replica) (v : Nat) : Control :=
  match r with
  | .cca => { c with rep0 := v }
  | .ccb => { c with rep1 := v }
  | .ccc => { c with rep2 := v }

/-- The replicas not retired. -/
def Control.voting (c : Control) : List Replica := [Replica.cca, Replica.ccb, Replica.ccc].filter fun r => c.rep r != 2

/-- Retire a control replica (R22, R23): with two left they compare, with one left the module is restricted. -/
def State.loseReplica (s : State) (r : Replica) : State :=
  if s.cc.rep r = 2 then s
  else
    let s := s.recordFault (pgCc r.num) fCONTROL_REPLICA_LOST r.num
    let s := s.logRepair fCONTROL_REPLICA_LOST 2 0x14 r.num
    let cc := s.cc.setRep r 2
    let cc := cc.voting.foldl (fun c v => c.setRep v 1) cc
    let s := { s with cc := cc }.losePage (pgCc r.num)
    if cc.voting.length < 2 then s.restrict fCONTROL_REPLICA_LOST else s

/-- A decision is taken by vote (R491 event 0x60). -/
def State.decided (s : State) : State := ((s.bump (pgCc 0) 0x60 1).bump (pgCc 1) 0x60 1).bump (pgCc 2) 0x60 1

/-- A decision is voted on (R22, R23): whether it takes effect, and the state after the vote. -/
def State.vote (s : State) (dissent : Option Replica) : Bool × State :=
  match dissent with
  | none => (true, s.decided)
  | some r =>
    if s.cc.rep r = 2 then (true, s.decided)
    else if s.cc.voting.length = 3 then (true, s.decided.loseReplica r)
    else (false, s.restrict fCONTROL_REPLICA_LOST)

/-- Take a decision: it takes effect when the vote carries it. -/
def State.voteThen (s : State) (dissent : Option Replica) (k : State → State) : State :=
  let (ok, s) := s.vote dissent
  if ok then k s else s

/-! Phase 2 and simplex (R49, R384) -/

/-- The control complex loads the phase-2 routine into context 1 of the tiles of the vat-port fields, which resets its
state there and counters 48 to 63 (R175, R176, R312). -/
def State.loadRoutine (s : State) : State :=
  (s.tiles.filter fun t => (siteVat (fieldOfCluster (t.1 / 17))).isSome).foldl (fun s t =>
    let x := s.tile t.1
    s.setTile t.1 { x with c1 := {}, ctrs := x.ctrs.filter fun c => decide (c.1 < 48) }) s

/-- Enter phase 2 of the sealed step: PHASE2 of the couch header holds its number (R316, R319). -/
def State.beginPhase2 (s : State) : State :=
  match s.train.sealedStep, s.trainImage with
  | some x, some i =>
    let s := { s with train := { s.train with ph2 := some x, sealedStep := none, held := false, base := s.vats.mem.cells } }
    s.loadRoutine.vatStore (i.couch + 8) (leBytes 8 x.step)
  | _, _ => s

/-- Enter phase 2 by vote (R22). -/
def State.enterPhase2 (s : State) (dissent : Option Replica) : State :=
  if s.train.sealedStep.isSome then s.voteThen dissent State.beginPhase2 else s

/-- A member continues in simplex (R384): PARTNER_LOST, no comparison, and a sealed step goes on to phase 2 by vote (R22). -/
def State.toSimplex (s : State) (dissent : Option Replica := none) : State :=
  let s := (s.recordFault pgTwin fPARTNER_LOST 0).setTwin 2
  let s := { s with twin := { s.twin.clear with join := none } }
  s.enterPhase2 dissent

/-- TWIN_JOIN ends without lockstep: a joiner is unpaired, a holder goes on in simplex (R386, R390). -/
def State.joinFails (s : State) (code info : Nat) : State :=
  let s := if code = 1 then s else s.recordFault pgTwin code info
  let s := { s with twin := { s.twin with join := none } }
  let s := if s.twin.st = 4 then s.setTwin 0 else if s.twin.st = 3 then s.setTwin 2 else s
  match s.run with
  | some r => if r.op = 0x0A then s.endCommand code else s
  | none => s

/-- A TWIN_JOIN that runs ends with a code. -/
def State.endJoin (s : State) (code : Nat) : State :=
  match s.run with
  | some r => if r.op = 0x0A then s.endCommand code else s
  | none => s

/-- The partner is lost: by a LEAVE, or because no port is up, in divergence too (R59, R380, R384, R390). -/
def State.partnerLost (s : State) (dissent : Option Replica := none) : State :=
  if s.twin.st = 1 ∨ s.twin.st = 5 then s.toSimplex dissent
  else if s.twin.st = 3 then (s.toSimplex dissent).endJoin fPARTNER_LOST
  else if s.twin.st = 4 then s.joinFails fPARTNER_LOST 0
  else s

/-- A calender port goes down (R383), and with the last one the partner is lost (R384). -/
def State.calDown (s : State) (p : Nat) (retire : Bool) (dissent : Option Replica := none) : State :=
  let s := s.portOff p retire
  if s.twin.upPorts.isEmpty then s.partnerLost dissent else s

/-- A direction's message counter has run out: the port goes down and repeats the exchange (R414). -/
def State.rekey (s : State) (p : Nat) : State := if s.twin.runOut p then s.calDown p false else s

/-- Send a sequenced message on the lowest-numbered port that is up; with none up, nothing is sent. -/
def State.sendSeq (s : State) (type attempt step offset : Nat) (body : List Byte) : State :=
  match s.twin.upPorts with
  | [] => s
  | p :: _ =>
    let site := s.site (calSite p)
    let s := s.setSite (calSite p) { site with seqTx := (site.seqTx + 1) % 2 ^ 32 }
    let m : SentMsg := { port := p, type, attempt, step, offset, seq := site.seqTx, body }
    ({ s with twin := s.twin.post p site.active m }.calUnits p body.length).rekey p

/-! Retirement (R25 to R30, R272, R281, R289, R366) -/

/-- A vat port is retired, and its port site's page keeps what it holds (R427); a pair with both ports retired restricts the
module (R289). -/
def State.retireVatPort (s : State) (v : Nat) : State :=
  if s.bind.found.vatPorts.contains v then s
  else
    let s := s.recordFault (pgVat v) fVAT_PORT_RETIRED (vatSite v)
    let s := (s.logRepair fVAT_PORT_RETIRED 2 0x11 (vatSite v)).losePage (pgSite (vatSite v))
    let s := { s with bind := { s.bind with found := { s.bind.found with vatPorts := v :: s.bind.found.vatPorts } } }
    let vs := s.vats.vat v
    let s := { s with vats := s.vats.setVat v { vs with port := 2 } }
    if s.bind.found.vatServed v = 2 then s.restrict fVAT_PORT_RETIRED else s

/-- A host port goes down for good: the port is disabled and a lease it holds is released (R272, R434). -/
def State.dropLease (s : State) (p : HPort) : State :=
  if s.lease.owner = p.num + 1 then { s with lease := { s.lease with owner := 0, remain := 0 } }.setEvt pgLease 2 else s

/-- The site of a field is lost, with the effect of R272, and its page keeps what it holds (R427). -/
def State.loseSite (s : State) (f : Nat) (link : Bool) : State :=
  if s.bind.found.sites.contains f then s
  else
    let s := { s with bind := { s.bind with found := { s.bind.found with sites := f :: s.bind.found.sites } } }
    let s := if link then (s.recordFault (pgSite f) fLINK_RETIRED f).logRepair fLINK_RETIRED 2 0x11 f else s
    let s := [HPort.h0, HPort.h1].foldl (fun s p =>
      if hostSite p = f then (s.setPort p { s.port p with link := 3, rate := 0, width := 0 }).dropLease p else s) s
    let s := (List.range 4).foldl (fun s p => if calSite p = f then s.calDown p true else s) s
    let s := match siteVat f with
      | some v => s.retireVatPort v
      | none => s
    s.losePage (pgSite f)

/-- The effects on a site and a replica after clusters or fields were lost (R272). -/
def State.siteEffects (s : State) (f : Nat) : State :=
  if (s.bind.found.attachPhys f).isSome && !s.bind.found.fields.contains f then s
  else
    let s := s.loseSite f (!s.bind.found.fields.contains f)
    [Replica.cca, Replica.ccb, Replica.ccc].foldl (fun s r => if replicaField r = f then s.loseReplica r else s) s

/-- SPARES_EXHAUSTED for a row segment with fewer than five living clusters (R28). -/
def State.segmentEffects (s : State) (fc y : Nat) : State :=
  if (s.bind.found.segment fc y).length < 5 && !s.bind.found.fields.contains (y / 5 * 8 + fc) then
    (s.recordFault (pgField (y / 5 * 8 + fc)) fSPARES_EXHAUSTED (y * 256 + fc)).logRepair fSPARES_EXHAUSTED 2 0x10
      (y / 5 * 8 + fc)
  else s

/-- Retire one cluster (R25, R27, R28). -/
def State.loseCluster (s : State) (c : Nat) : State :=
  if !s.bind.found.living c then s
  else
    let s := s.recordFault (pgCluster c) fCLUSTER_RETIRED c
    let s := s.logRepair fCLUSTER_RETIRED 2 0x12 (c * 32 + 31)
    let s := s.loseClusterPage c
    let s := { s with bind := { s.bind with found := { s.bind.found with clusters := c :: s.bind.found.clusters } } }
    let s := s.segmentEffects (c % 48 / 6) (c / 48)
    s.siteEffects (fieldOfCluster c)

/-- Retire every cluster among some that has no usable edge left, and after it those near it (R281). -/
def State.isolate : Nat → List Nat → State → State
  | 0, _, s => s
  | _, [], s => s
  | n + 1, c :: r, s =>
    if s.bind.found.living c && !s.bind.found.connected c then (s.loseCluster c).isolate n (nearClusters c ++ r)
    else s.isolate n r

/-- Retire a cluster, and the clusters that its loss leaves without an edge (R25 to R28, R281). -/
def State.retireCluster (s : State) (c : Nat) : State :=
  if !s.bind.found.living c then s else (s.loseCluster c).isolate 50000 (nearClusters c)

/-- Retire a tile slot; the second in a cluster retires the cluster (R25). -/
def State.retireSlot (s : State) (p : Nat) : State :=
  if s.bind.found.slots.contains p then s
  else
    let s := s.recordFault (pgCluster (p / 17)) fTILE_RETIRED (p % 17)
    let s := s.logRepair fTILE_RETIRED 2 0x12 (p / 17 * 32 + p % 17)
    let s := { s with bind := { s.bind with found := { s.bind.found with slots := p :: s.bind.found.slots } } }
    if (s.bind.found.liveSlots (p / 17)).length < 16 then s.retireCluster (p / 17) else s

/-- Record a felt fault on the pages of both routers of a link (R280). -/
def State.linkFault (s : State) (l code : Nat) : State :=
  let ((a, pa), (b, pb)) := linkEnds l
  let s := s.recordFault (pgCluster a) code (b * 2 ^ 16 + pa)
  if a = b then s else s.recordFault (pgCluster b) code (a * 2 ^ 16 + pb)

/-- Retire a link, and the clusters that it leaves without an edge (R281, R366). -/
def State.retireLink (s : State) (l : Nat) : State :=
  if s.bind.found.links.contains l then s
  else
    let s := s.linkFault l fLINK_RETIRED
    let ((a, pa), (b, _)) := linkEnds l
    let s := s.logRepair fLINK_RETIRED 2 0x12 (a * 32 + 17 + pa)
    let s := { s with bind := { s.bind with found := { s.bind.found with links := l :: s.bind.found.links } } }
    if l % 8 = 5 then s.siteEffects (fieldOfCluster a)
    else s.isolate 50000 [a, b]

/-- Physical clusters of a field. -/
def fieldClusters (f : Nat) : List Nat :=
  (List.range 30).map fun k => (f / 8 * 5 + k / 6) * 48 + f % 8 * 6 + k % 6

/-- Clusters whose edges the loss of a field can take: the segments that border it. -/
def nearField (f : Nat) : List Nat :=
  let fc := f % 8
  let y := f / 8 * 5
  let seg := fun (c row : Nat) => (List.range 6).map fun k => row * 48 + 6 * c + k
  (List.range 5).flatMap (fun k => (if 0 < fc then seg (fc - 1) (y + k) else []) ++
    (if fc < 7 then seg (fc + 1) (y + k) else [])) ++
  (if 0 < y then seg fc (y - 1) else []) ++ (if y + 5 < 30 then seg fc (y + 5) else [])

/-- A field is lost (R29, R461): FIELD_LOST with its cause, its power stage off, the hole, the site, and the pages of its
units. -/
def State.loseField (s : State) (f cause : Nat) : State :=
  if s.bind.found.fields.contains f then s
  else
    let s := s.recordFault (pgField f) fFIELD_LOST cause
    let s := if cause = 1 ∨ cause = 2 then s.setEvt (pgField f) 8 else s
    let s := s.logRepair fFIELD_LOST 2 0x10 f
    let x := s.field f
    let s := s.setField f { x with
      fuse := if cause = 3 then 2 else if cause = 4 then 3 else 1, tstate := 3, vcore := 0, inMa := 0, raiseTo := none }
    let s := (fieldClusters f).foldl State.loseClusterPage s
    let s := { s with bind := { s.bind with found := { s.bind.found with fields := f :: s.bind.found.fields } } }
    let s := s.siteEffects f
    (s.losePage (pgField f)).isolate 50000 (nearField f)

/-- The retirement state that the next binding computation applies: what is found and the probe (R36, R377). -/
def State.target (s : State) : Retire :=
  match s.twin.probe with
  | none => s.bind.found
  | some p =>
    let r := s.bind.found
    { r with slots := p.slot.toList ++ r.slots, clusters := p.cluster.toList ++ r.clusters
             vatPorts := p.vatPort.toList ++ r.vatPorts }

/-- A binding computation waits to be applied. -/
def State.rebindDue (s : State) : Bool := s.target != s.bind.applied || s.bind.req.isSome

/-! Memory faults (R366, R367) -/

/-- The bytes of the 64 B line of a tile as the image has them: a code or descriptor region, zeros elsewhere (R366). -/
def TileImage.byteAt (t : TileImage) (a : Nat) : Byte :=
  if inRange a (t.codeBase, t.codeLen) then
    BitVec.ofNat 8 ((nth 0 t.code ((a - t.codeBase) / 8)).toNat >>> (8 * ((a - t.codeBase) % 8)))
  else match t.descs.find? fun d => inRange a (d.1, 64) with
    | some d => nth 0 d.2 (a - d.1)
    | none => 0

/-- Bytes `n` from an address as a tile's image has them. -/
def imageBytes (t : Option TileImage) (a n : Nat) : List Byte :=
  match t with
  | some t => (List.range n).map fun i => t.byteAt (a + i)
  | none => List.replicate n 0

/-- An uncorrectable SRAM word was read (R173, R366): the line is rewritten, a second in its bank within 24 h retires the
slot, and the work of the tile's program is redone. -/
def State.sramUe (s : State) (e : Env) (w : Nat) : State :=
  let t := s.tile e.slot
  let line := w / 64 * 64
  let s := s.setTile e.slot { t with sram := t.sram.write line (imageBytes (s.tileImage e) line 64) }
  let (again, s) := s.recurs (fSRAM_UE * 2 ^ 32 + e.slot * 64 + w / 65536)
  let s := if again then s.retireSlot e.slot else s
  s.absorb e.prog fSRAM_UE

/-- Whether a vat address lies in a persistent extent of a program, the log, notes and couch counting from the seal of a
step until it commits (R367). -/
def State.persistentAt (s : State) (a : Nat) : Option Nat :=
  (List.range 4).find? fun k => match s.image? k with
    | none => false
    | some i => i.isPersistent a ||
        (k == 0 && (s.train.sealedStep.isSome || s.train.ph2.isSome) && (i.inLog a || i.inCouch a))

/-- A vat word is lost (R286, R366, R367): it reads zero, a second in its bank within 24 h takes a repair row, and the
loss is handled by the extent it lies in, at the holder of a moving copy as in simplex (R390). -/
def State.vatUe (s : State) (w : Nat) : State :=
  let v := vatOf w
  let x := s.vats.vat v
  let vs := s.vats.setVat v { x with ue := satAdd 16 x.ue 3, ueAddr := w }
  let s := { s with vats := vs }.vatWrite w (List.replicate 8 0)
  let s := s.recordFault (pgVat v) fVAT_UE 0
  let b := vatBank w
  let (again, s) := s.recurs (fVAT_UE * 2 ^ 32 + b)
  let x := s.vats.vat v
  let used := sget 0 x.rows b
  if again && decide (Config.repairRows b ≤ used) then
    ((s.recordFault (pgVat v) fSPARES_EXHAUSTED 0).logRepair fSPARES_EXHAUSTED 2 0x13 b).restrict fSPARES_EXHAUSTED
  else
    let s := if again then
        { s with vats := s.vats.setVat v { x with rows := sput 0 x.rows b (used + 1) } }.logRepair fVAT_UE 3 0x13 b
      else s
    match s.persistentAt w with
    | none => s.absorbAll fVAT_UE
    | some 0 =>
      let s := s.discard 0
      let s := if s.twin.st = 4 then (s.leavePair fVAT_UE).endJoin fVAT_UE
        else if s.twin.st ≠ 3 ∧ s.paired then s.leavePair fVAT_UE else s
      let s := { s with train := { s.train with ph1 := none, ph2 := none, sealedStep := none, running := false } }
      (match s.run with
        | some r => if r.op = 4 then s.stopQueries.endCommand fVAT_UE else s
        | none => s)
    | some q => s.queryFault q fVAT_UE

/-! Faults of tile units (R160, R161, R216, R240, R282) -/

/-- A fault that a tile unit raises: its code, UNIT of R216, the engine's bits of FAULT_INFO below TILE, and the
registers that go with it. For SRAM_UE, `word` is the failing word. -/
structure TFault where
  code : Nat
  unit : Nat
  info : Nat := 0
  row : Nat := 0
  col : Nat := 0
  pos : Nat := 0
  val : Nat := 0
  word : Nat := 0
  inbound : Option (Nat × Nat) := none
deriving DecidableEq, Repr

/-- Record a tile unit's fault on the page of the serving cluster (R216). DESIGN CHOICE: ENG_FAULT_ROW and ENG_FAULT_COL hold
0 at an engine's fault that is no mask fault and no INDEX_RANGE (log entry 49). -/
def State.recordTile (s : State) (e : Env) (f : TFault) : State :=
  let c := e.slot / 17
  if (s.page (pgCluster c)).lost then s
  else
    let r := s.cluster c
    let r := { r with
      seqPc := if f.inbound.isSome then 0xFFFFFFFF else BitVec.ofNat 32 e.pc
      seqUnit := BitVec.ofNat 32 (e.c.num * 16 + f.unit)
      copyPos := BitVec.ofNat 32 f.pos, copyVal := BitVec.ofNat 32 f.val, index := f.code == fINDEX_RANGE }
    let r := if 1 ≤ f.unit ∧ f.unit ≤ 8 then
        { r with engRow := BitVec.ofNat 32 f.row, engCol := BitVec.ofNat 32 f.col, engIndex := f.code == fINDEX_RANGE } else r
    let r := match f.inbound with
      | some (src, addr) => { r with feltSrc := BitVec.ofNat 32 src, feltAddr := BitVec.ofNat 32 addr }
      | none => r
    let s := { s with clusters := sput {} s.clusters c r }
    s.recordFault (pgCluster c) f.code (e.tn * 2 ^ 28 + f.info)

/-- A fault of a tile unit: recorded, and then a program fault or, for SRAM_UE, absorbed (R173, R215). -/
def State.tileFault (s : State) (e : Env) (f : TFault) : State :=
  let s := s.recordTile e f
  if f.code = fSRAM_UE then s.sramUe e f.word else s.progFault e.prog f.code

end Sys2Proof.Machine
end

