-- ==== Sys2Proof/Machine/Sequencer.lean ====
section
/-! DEFINITION. The scalar sequencer: fetching and decoding an operation word, the control words, and what every issue word
does before its unit takes it (R175 to R187, R211 to R213, R216). -/

namespace Sys2Proof.Machine

/-- What a context finds at its program counter. -/
inductive Fetch where
  | idle
  | bad (e : Env) (f : TFault)
  | word (e : Env)
deriving DecidableEq, Repr

/-- Count and remember the words that reads of a tile corrected (R356, R491 event 0x02). -/
def State.tileReads (s : State) (slot : Nat) (rs : List (Nat × Nat)) : State :=
  let t := s.tile slot
  if t.sram.errs = [] then s
  else
    let ws := t.sram.corrected rs
    (s.setTile slot { t with sram := t.sram.noteDue ws }).bump (pgCluster (slot / 17)) 0x02 ws.length

/-- The next word of a context (R175, R178); a tile whose clock is stopped issues none (R462, R465): a fetch outside the code region raises DESC_RANGE, an uncorrectable word
SRAM_UE. -/
def State.fetch (s : State) (t : Nat) (c : Ctx) : Fetch :=
  match s.env t c with
  | none => .idle
  | some e =>
    let x := (s.tile e.slot).ctx c
    let m := (s.tile e.slot).sram
    if x.run ≠ .running ∨ (s.field (fieldOfCluster (e.slot / 17))).tstate ≠ 0 then .idle
    else if !within (x.pc, 8) (x.codeBase, x.codeLen) then .bad e { code := fDESC_RANGE, unit := 0 }
    else match m.bad [(x.pc, 8)] with
      | some w => .bad e { code := fSRAM_UE, unit := 0, word := w }
      | none => .word { e with word := m.le x.pc 8 }

/-- OP of a word (R179). -/
def Env.op (e : Env) : Nat := fld e.word 63 58
/-- CTR (R181). -/
def Env.ctr (e : Env) : Nat := fld e.word 57 52
/-- CEN (R181). -/
def Env.cen (e : Env) : Bool := e.word.testBit 51
/-- XA (R181). -/
def Env.xa (e : Env) : Nat := fld e.word 50 47
/-- XB (R181). -/
def Env.xb (e : Env) : Nat := fld e.word 46 43
/-- BLK (R181). -/
def Env.blk (e : Env) : Nat := fld e.word 15 0

/-- The opcodes of R179. -/
def opcodes : List Nat :=
  [0x00, 0x01, 0x02, 0x03, 0x04, 0x05, 0x06, 0x07, 0x08, 0x09, 0x10, 0x11, 0x12, 0x13, 0x14, 0x15, 0x16] ++
  [0x20, 0x21, 0x22, 0x23, 0x24, 0x25, 0x26]

/-- Raise DESC_INVALID at a unit. -/
def State.invalid (s : State) (e : Env) (unit : Nat) : State := s.tileFault e { code := fDESC_INVALID, unit := unit }

/-- Raise DESC_RANGE at a unit. -/
def State.range (s : State) (e : Env) (unit : Nat) : State := s.tileFault e { code := fDESC_RANGE, unit := unit }

/-- The state of the context of an environment. -/
def State.ctxOf (s : State) (e : Env) : CtxState := (s.tile e.slot).ctx e.c

/-- A row of the sequencer: the context's next word is taken when it is the row's; another row's word changes nothing
(log entry 13), a word of no row raises DESC_INVALID (R179). -/
def seqRow (s : State) (t : Nat) (c : Ctx) (opc : Nat) (k : Env → State → State) : Out :=
  if !tileOk t then .fault .noSuchUnit
  else match s.fetch t c with
    | .idle => .next s
    | .bad e f => .next (s.tileFault e f)
    | .word e =>
      if e.op = opc then .next (k e (s.tileReads e.slot [(e.pc, 8)]))
      else if opcodes.contains e.op then .next s
      else .next (s.invalid e 0)

/-- Continue at an address: the ends of loop bodies that it reaches jump back or are left (R185). -/
def loopBack : Nat → CtxState → CtxState
  | 0, x => x
  | n + 1, x =>
    match x.loops with
    | [] => x
    | l :: r =>
      if x.pc = l.stop then
        (if 1 < l.left then { x with pc := l.start, loops := { l with left := l.left - 1 } :: r }
         else loopBack n { x with loops := r })
      else x

/-- Continue at an address (R185). -/
def CtxState.goto (x : CtxState) (a : Nat) : CtxState := loopBack 4 { x with pc := a }

/-- Continue at the next word. -/
def CtxState.advance (x : CtxState) : CtxState := x.goto (x.pc + 8)

/-- UNIT of R216 for the unit that a word goes to. -/
def Env.unit (e : Env) : Nat :=
  if e.op < 0x08 then 0 else if e.op = 0x08 then 1 + fld e.word 42 40 else if e.op = 0x09 then 10
  else if e.op < 0x20 then 9 else 11

/-- Step or query number and tick index of the work of a program (R500). -/
def State.workIndex (s : State) (prog : Nat) : Nat × Nat :=
  if prog = 0 then (match s.train.ph1 with
    | some a => (a.step, a.tick - 1)
    | none => (0, 0))
  else match (s.query prog).run with
    | some r => (r.k, r.tick - 1)
    | none => (0, 0)

/-- Tick index of the work that a tile does: the last tick launched, or the one before it while the wave has not reached
the tile's router (R269, R500). -/
def State.tileTick (s : State) (e : Env) : Nat :=
  let n := (s.workIndex e.prog).2
  match s.felt.wave with
  | some w => if w.progs.contains e.prog && !w.delivered.contains (e.slot / 17) then n - 1 else n
  | none => n

/-- What sealed mode leaves of a tag record: OP, TICK and the times (R416, R500). -/
def maskTag (r : List Byte) : List Byte :=
  bytesAt r 0 1 ++ List.replicate 15 0 ++ bytesAt r 16 24 ++ List.replicate 24 0

/-- A word reads a source: engines, copies and vector operations but CENSUS, and remote operations with data or a tree
(R198, R200, R206). -/
def State.readsSource (s : State) (e : Env) : Bool :=
  decide (8 ≤ e.op) && e.op != 0x16 &&
  (decide (e.op < 0x20) || e.op == 0x26 || leAt ((s.tile e.slot).sram.read (e.blk * 64) 64) 8 4 != 0)

/-- The tag record of a word (R500): its times in cycles are free values (log entry 1), but that a stage which does not
apply holds 0xFFFF_FFFF; sealed mode keeps OP, TICK and the times. -/
def State.tagRecord (s : State) (e : Env) : List Byte :=
  let none4 := leBytes 4 0xFFFFFFFF
  let time := fun (ok : Bool) i => if ok then freeBytes (s.free + 1 + 4 * i) 4 else none4
  let r := leBytes 1 e.op ++ leBytes 1 (e.c.num * 16 + e.unit) ++ leBytes 2 e.t ++ leBytes 4 e.pc ++
    leBytes 8 (s.workIndex e.prog).1 ++ leBytes 4 (s.tileTick e) ++ time true 0 ++ time (decide (8 ≤ e.op)) 1 ++
    time (s.readsSource e) 2 ++ time (decide (8 ≤ e.op)) 3 ++ time (decide (0x20 ≤ e.op)) 4 ++
    leBytes 1 (s.field (fieldOfCluster (e.slot / 17))).classNow ++ List.replicate 23 0
  if s.sec.isSealed then maskTag r else r

/-- A tag record is held for the next record of R496; beyond 256, or while DUMP_PERIOD is 0 or was so at the last snapshot,
it is dropped and counted (R493, R499). -/
def CtrReader.tag (c : CtrReader) (t : Nat) (r : List Byte) : CtrReader :=
  if c.regs.period = 0 ∨ !c.dumping ∨ 256 ≤ c.tags.length then
    { c with tagDropped := satAdd 32 c.tagDropped 1, dropSince := satAdd 32 c.dropSince 1 }
  else { c with tags := c.tags ++ [(t, r)] }

/-- Tagging of an issued word under the registers that the last snapshot put in force (R493, R499): the generator's choice
is a free value. -/
def State.tagWord (s : State) (e : Env) : State :=
  if !s.ctr.tagOn then s
  else { s with ctr := if Config.freeBool s.free then s.ctr.tag e.t (s.tagRecord e) else s.ctr, free := s.free + 21 }

/-- The word of an environment issues: its context becomes `x`, and the word counts (R491 event 0x15). -/
def State.issue (s : State) (e : Env) (x : CtxState) : State :=
  ((s.setTile e.slot ((s.tile e.slot).setCtx e.c x)).bump (pgCluster (e.slot / 17)) 0x15 1).tagWord e

/-- NOP: one cycle of nothing (R179). -/
def doNop (e : Env) (s : State) : State :=
  if e.word % 2 ^ 58 ≠ 0 then s.invalid e 0 else s.issue e (s.ctxOf e).advance

/-- SETI (R180, R184). -/
def doSeti (e : Env) (s : State) : State :=
  if fld e.word 53 48 ≠ 0 then s.invalid e 0
  else
    let v := toTwos 64 (sx 48 (fld e.word 47 0))
    s.issue e (((s.ctxOf e).setReg (fld e.word 57 54) v).advance)

/-- ADDI (R180, R184). -/
def doAddi (e : Env) (s : State) : State :=
  if fld e.word 49 32 ≠ 0 then s.invalid e 0
  else
    let x := s.ctxOf e
    let v := (x.reg (fld e.word 53 50) + toTwos 64 (sx 32 (fld e.word 31 0))) % 2 ^ 64
    s.issue e ((x.setReg (fld e.word 57 54) v).advance)

/-- LOOP (R180, R185). -/
def doLoop (e : Env) (s : State) : State :=
  let x := s.ctxOf e
  let body := fld e.word 47 36
  let xc := fld e.word 35 32
  let count := if xc ≠ 0 then x.reg xc % 2 ^ 32 else fld e.word 31 0
  let stop := e.pc + 8 + 8 * body
  let outer := match x.loops with
    | [] => stop
    | l :: _ => l.stop
  if fld e.word 57 48 ≠ 0 ∨ body = 0 ∨ x.codeBase + x.codeLen < stop ∨ 4 ≤ x.loops.length ∨ outer < stop then
    s.invalid e 0
  else if count = 0 then s.issue e (x.goto stop)
  else s.issue e { x with pc := e.pc + 8, loops := ⟨e.pc + 8, stop, count⟩ :: x.loops }

/-- TICK_WAIT: the tile's work for the tick ends (R211), and a wait of context 0 begins (R491 event 0x17). -/
def doTickWait (e : Env) (s : State) : State :=
  if e.word % 2 ^ 58 ≠ 0 then s.invalid e 0
  else
    let s := s.issue e { (s.ctxOf e).advance with run := .tickWait }
    if e.c = .c0 then s.edge (pgCluster (e.slot / 17)) 0x17 else s

/-- STEP_END: the tile's work for the step or query ends (R213). -/
def doStepEnd (e : Env) (s : State) : State :=
  if e.word % 2 ^ 58 ≠ 0 then s.invalid e 0
  else s.issue e { (s.ctxOf e).advance with run := .ended }

/-- CTR_SET with `same` increments that reach the counter in its cycle (R175, R186). -/
def doCtrSet (same : Nat) (e : Env) (s : State) : State :=
  if fld e.word 51 32 ≠ 0 ∨ (e.c = .c0 ∧ 48 ≤ e.ctr) then s.invalid e 0
  else
    let s := s.issue e (s.ctxOf e).advance
    let t := s.tile e.slot
    s.setTile e.slot { t with ctrs := sput 0 t.ctrs e.ctr (satAdd 32 (fld e.word 31 0) same) }

/-- CTR_WAIT: the context goes on when the counter is at or above its effective target, and waits otherwise (R180,
R186). -/
def doCtrWait (e : Env) (s : State) : State :=
  if fld e.word 47 32 ≠ 0 then s.invalid e 0
  else
    let x := s.ctxOf e
    let target := (fld e.word 31 0 + x.reg (fld e.word 51 48)) % 2 ^ 32
    if target ≤ sget 0 (s.tile e.slot).ctrs e.ctr then s.issue e x.advance else s

/-- NOP. -/
def execNop (t : Nat) (c : Ctx) (s : State) : Out := seqRow s t c 0x00 doNop
/-- SETI. -/
def execSeti (t : Nat) (c : Ctx) (s : State) : Out := seqRow s t c 0x01 doSeti
/-- ADDI. -/
def execAddi (t : Nat) (c : Ctx) (s : State) : Out := seqRow s t c 0x02 doAddi
/-- LOOP. -/
def execLoop (t : Nat) (c : Ctx) (s : State) : Out := seqRow s t c 0x03 doLoop
/-- TICK_WAIT. -/
def execTickWait (t : Nat) (c : Ctx) (s : State) : Out := seqRow s t c 0x04 doTickWait
/-- STEP_END. -/
def execStepEnd (t : Nat) (c : Ctx) (s : State) : Out := seqRow s t c 0x05 doStepEnd
/-- CTR_SET. -/
def execCtrSet (t : Nat) (c : Ctx) (same : Nat) (s : State) : Out := seqRow s t c 0x06 (doCtrSet same)
/-- CTR_WAIT. -/
def execCtrWait (t : Nat) (c : Ctx) (s : State) : Out := seqRow s t c 0x07 doCtrWait

/-! Issue words -/

/-- What an issue word's unit needs: the block's bytes and the effective offsets of both sides (R181, R182). -/
structure Issue where
  blk : List Byte
  xa : Nat
  xb : Nat
deriving DecidableEq, Repr

/-- Read the operation block of a word: a block outside the SRAM raises DESC_RANGE, an uncorrectable word SRAM_UE
(R173, R181, R182). -/
def State.block (s : State) (e : Env) : Except TFault Issue :=
  let m := (s.tile e.slot).sram
  let a := e.blk * 64
  if 40960 ≤ e.blk then .error { code := fDESC_RANGE, unit := 0 }
  else match m.bad [(a, 64)] with
    | some w => .error { code := fSRAM_UE, unit := 0, word := w }
    | none => .ok ⟨m.read a 64, (s.ctxOf e).reg e.xa, (s.ctxOf e).reg e.xb⟩

/-- An issue word: its block is read, then the unit's part runs. -/
def issueRow (s : State) (t : Nat) (c : Ctx) (opc : Nat) (full : Env → State → Bool)
    (k : Issue → Env → State → State) : Out :=
  seqRow s t c opc fun e s =>
    -- a word whose unit queue is full stalls its context (R187)
    if full e s then s
    else match s.block e with
      | .error f => s.tileFault e f
      | .ok b => k b e (s.tileReads e.slot [(e.blk * 64, 64)])

/-- "None" of an address field (R182). -/
def noneAddr : Nat := 0xFFFFFFFF

/-- A descriptor as a unit reads it at issue (R230): one that the operation needs and that is none raises DESC_INVALID, as
R194 has it; outside the descriptor region or misaligned it raises DESC_RANGE; a
place of the region that holds no descriptor raises DESC_INVALID (log entry 14). -/
def State.descAt (s : State) (e : Env) (unit a : Nat) : Except TFault (Desc × ElemFmt) :=
  let m := (s.tile e.slot).sram
  let ok := match s.tileImage e with
    | some t => within (a, 64) (t.descBase, t.descLen)
    | none => false
  if a = noneAddr then .error { code := fDESC_INVALID, unit := unit }
  else if a % 64 ≠ 0 || !ok then .error { code := fDESC_RANGE, unit := unit }
  else match m.bad [(a, 64)] with
    | some w => .error { code := fSRAM_UE, unit := unit, word := w }
    | none =>
      let d := Desc.parse (m.read a 64)
      match ElemFmt.ofCode d.fmtCode with
      | some f => if d.rank = 0 ∨ d.rank = 7 then .error { code := fDESC_INVALID, unit := unit } else .ok (d, f)
      | none => .error { code := fDESC_INVALID, unit := unit }

/-- The local view of a descriptor in the issuing tile. -/
def State.viewAt (s : State) (e : Env) (unit a off : Nat) : Except TFault View :=
  (s.descAt e unit a).map fun df => df.1.view df.2 e.px e.py e.tn off

/-- The view of an optional descriptor. -/
def State.viewOpt (s : State) (e : Env) (unit a off : Nat) : Except TFault (Option View) :=
  if a = noneAddr then .ok none else (s.viewAt e unit a off).map some

/-- The end of the space that a view lies in (R172, R284). -/
def State.spaceEnd (s : State) (v : View) : Nat := if v.vat then s.vats.vatEnd else 0x280000

/-- The extent check of R230: an empty view has no extent. -/
def State.extentOk (s : State) (v : View) : Bool := v.empty || decide (v.base + v.extentLen ≤ s.spaceEnd v)

/-- Check a condition, raising a fault where it fails. -/
def need (c : Bool) (code unit : Nat) : Except TFault Unit :=
  if c then .ok () else .error { code := code, unit := unit }

/-- No uncorrectable word in the ranges read. -/
def State.clean (s : State) (e : Env) (unit : Nat) (rs : List (Nat × Nat)) : Except TFault Unit :=
  match (s.tile e.slot).sram.bad rs with
  | some w => .error { code := fSRAM_UE, unit := unit, word := w }
  | none => .ok ()

/-- No written range meets a code or descriptor region (R178, R227). -/
def State.writable (s : State) (e : Env) (unit : Nat) (rs : List (Nat × Nat)) : Except TFault Unit :=
  need (!(rs.any fun r => (s.guarded e).any (overlap r))) fDESC_RANGE unit

/-- Tile SRAM pieces read at once. -/
def EccMem.gets (m : EccMem) (rs : List (Nat × Nat)) : List (List Byte) := rs.map fun r => m.read r.1 r.2

/-- The unit operation that a word starts, with the local counter that its completion increments. -/
def Env.unitOp (e : Env) (id : Nat) (dst : List (Nat × Nat)) : UnitOp :=
  { op := e.op, ctr := e.ctr, cen := e.cen, ctx := e.c, id := id, dst := dst }

/-- Byte ranges of writes. -/
def writeRanges (ws : List (Nat × List Byte)) : List (Nat × Nat) := ws.map fun w => (w.1, w.2.length)

/-- An operation of a tile's unit saturated: the SAT bit of the issuing context is set, and a saturation that sets it
counts (R198, R491 event 0x1B). -/
def State.noteSat (s : State) (slot : Nat) (c : Ctx) (sat : Bool) : State :=
  let t := s.tile slot
  if sat && !(t.ctx c).flags.getLsbD 0 then (s.setTile slot (t.setSat c true)).bump (pgCluster (slot / 17)) 0x1B 1 else s

/-- Add to the detail bits of a fault. -/
def withInfo {α : Type} (i : Nat) (x : Except TFault α) : Except TFault α :=
  x.mapError fun f => { f with info := f.info + i }

/-- Where an operation's checks fail its fault is raised and nothing else changes (R183); else it is performed. -/
def State.perform {α : Type} (s : State) (e : Env) (x : Except TFault α) (k : α → State) : State :=
  match x with
  | .error f => s.tileFault e f
  | .ok a => k a

end Sys2Proof.Machine
end

