-- ==== Sys2Proof/Machine/Requests.lean ====
section
/-! DEFINITION. What leaves a tile for the felt and the vats: the packets of an operation, the hold and the channel of a
flow, line requests, and the requests that a unit operation keeps outstanding (R241, R245, R250, R260, R261, R263, R265,
R273, R291). -/

namespace Sys2Proof.Machine

/-! Packets (R250) -/

/-- The packets of an operation that carries data, 512 bytes each; a request and an operation without data are one head
flit. -/
def Packet.split (p : Packet) : List Packet :=
  if p.kind = .get ∨ p.kind = .copyRead ∨ p.data.length ≤ 512 then [p]
  else
    let n := cdiv p.data.length 512
    (List.range n).map fun i =>
      let d := (p.data.drop (512 * i)).take 512
      { p with addr := p.addr + 512 * i, data := d, len := d.length, last := decide (i + 1 = n) }

/-- VC of a channel (R263, R282). -/
def Chan.vc : Chan → Nat
  | .express => 0
  | .request => 1
  | .response => 2
  | .reduction => 3

/-- A flit: 64 bytes in eight words with their check bytes, the link sequence number, the virtual channel and sub-channel,
and the head and tail marks (R249). A head flit carries the fields of its packet, whose layout no rule gives. -/
structure Flit where
  head : Bool
  tail : Bool
  vc : Nat
  sub : Nat
  seq : Nat
  words : List Nat
  checks : List Nat
deriving DecidableEq, Repr

/-- The flits of a packet that leaves by a lane whose next sequence number is `seq`: one head flit and 0 to 8 data flits
(R249, R250). -/
def Packet.flits (p : Packet) (seq : Nat) : List Flit :=
  let n := cdiv p.data.length 64
  { head := true, tail := n == 0, vc := p.chan.vc, sub := p.sub, seq := seq % 256, words := [], checks := [] } ::
  (List.range n).map fun i =>
    let ws := (List.range 8).map fun k => leAt p.data (64 * i + 8 * k) 8
    { head := false, tail := decide (i + 1 = n), vc := p.chan.vc, sub := p.sub, seq := (seq + 1 + i) % 256
      words := ws, checks := ws.map checkByte }

/-- Operations of one context to one destination not yet acknowledged (R265). -/
def Felt.open_ (f : Felt) (src : Nat) (c : Ctx) (dst : Nat) : List Unacked :=
  f.unacked.filter fun u => u.src == src && u.ctx == c && u.dst == dst

/-- Send an operation to one destination tile: its channel, whether its interface holds it, and its packets (R250, R263,
R265). -/
def Felt.send (f : Felt) (p : Packet) : Felt :=
  let mine := f.open_ p.src p.ctx p.dst
  let express := p.len == 0 && p.ren && (p.kind == .put || p.kind == .get) && mine.isEmpty
  let chan := if p.kind = .conv then Chan.reduction else if express then .express else .request
  let held := mine.any fun u => u.chan != chan
  { f with packets := f.packets ++ ({ p with chan := chan, held := held }).split
           unacked := if express then f.unacked
             else f.unacked ++ [{ src := p.src, ctx := p.ctx, dst := p.dst, chan := chan, op := p.op }] }

/-- Send an MCAST: one packet for each 512 bytes goes to the entry cluster, with the tiles that its spread delivers copies
to, and each of them is to acknowledge it (R265, R273). -/
def Felt.cast (f : Felt) (p : Packet) (ds : List Nat) : Felt :=
  if ds.isEmpty then f
  else
    let held := ds.any fun d => (f.open_ p.src p.ctx d).any fun u => u.chan != .request
    { f with packets := f.packets ++ ({ p with chan := .request, held := held, copies := ds }).split
             unacked := f.unacked ++ ds.map fun d => { src := p.src, ctx := p.ctx, dst := d, chan := .request, op := p.op } }

/-- The entry cluster of an MCAST into a rectangle of logical clusters: the one nearest the source, the lower index among
equals (R273). -/
def entryCluster (src : Nat) : List Nat → Option Nat
  | [] => none
  | l :: r => match entryCluster src r with
    | none => some l
    | some m =>
      if gridDist src l < gridDist src m ∨ (gridDist src l = gridDist src m ∧ l < m) then some l else some m

/-! Flits (R249, R251) -/

/-- A flit of a packet has a word that no router can correct: the link replays it, and nothing is delivered. -/
def flitBad (es : List FlitErr) : Bool := es.any fun x => x.err.fix.1.isNone

/-- The router that receives on a link in a direction. -/
def flitRouter (x : FlitErr) : Nat := let ((a, _), (b, _)) := linkEnds x.link; if x.forward then b else a

/-- Every router counts the words that it corrected (R251, R491 event 0x02). -/
def State.flitReads (s : State) (es : List FlitErr) : State :=
  (es.filter fun x => x.err.fix.2).foldl (fun s x => s.bump (pgCluster (flitRouter x)) 0x02 1) s

/-! Line requests (R291) -/

/-- The intermediate cluster by which a line request of a tile reaches the attach cluster of the port that serves its vat
(R260, R271). -/
def State.lineMid (s : State) (r : LineReq) : Option Nat :=
  match r.asker, (s.bind.applied.servingPort (vatOf r.addr)).bind fun p => s.bind.applied.attach (vatSite p) with
  | .tile t _ _, some a => s.bind.applied.midOf (t / 16) a
  | _, _ => none

/-- Put a line request into the queue of its vat: stream reads, context 1's requests and all others (R293). -/
def State.enqueueLine (s : State) (r : LineReq) : State :=
  let v := vatOf r.addr
  let x := s.vats.vat v
  let r := { r with mid := s.lineMid r }
  let x := match r.asker with
    | .stream _ _ => { x with qStream := x.qStream ++ [r] }
    | .view _ => { x with qStream := x.qStream ++ [r] }
    | .tile _ .c1 _ => { x with qC1 := x.qC1 ++ [r] }
    | .tile _ .c0 _ => { x with qOther := x.qOther ++ [r] }
    | .input _ _ => { x with qOther := x.qOther ++ [r] }
  { s with vats := s.vats.setVat v x }

/-- One move of bytes from a source address to a destination address. -/
structure Move where
  src : Nat
  dst : Nat
  len : Nat
deriving DecidableEq, Repr

/-- Split a move into pieces that lie in one 64 B line of the given side. -/
def splitLines (bySrc : Bool) (m : Move) : List Move :=
  let a := if bySrc then m.src else m.dst
  if m.len = 0 then []
  else (List.range ((a + m.len - 1) / 64 - a / 64 + 1)).map fun i =>
    let lo := max a ((a / 64 + i) * 64)
    let hi := min (a + m.len) ((a / 64 + i + 1) * 64)
    { src := m.src + (lo - a), dst := m.dst + (lo - a), len := hi - lo }

/-- Collect a piece under its line, lines ascending. -/
def addPiece {α : Type} : List (Nat × List α) → Nat → α → List (Nat × List α)
  | [], k, p => [(k, [p])]
  | (l, ps) :: r, k, p =>
    if k < l then (k, [p]) :: (l, ps) :: r else if k = l then (l, ps ++ [p]) :: r else (l, ps) :: addPiece r k p

/-- The lines that moves read, ascending: each with its pieces as offset in the line, destination and length. -/
def readPieces (ms : List Move) : List (Nat × List (Nat × Nat × Nat)) :=
  (ms.flatMap (splitLines true)).foldl (fun l m => addPiece l (m.src / 64 * 64) (m.src % 64, m.dst, m.len)) []

/-- The line requests of context 0 of the training program's tiles are phase 1's (R298, R343). -/
def Env.phase1 (e : Env) : Bool := e.prog == 0 && e.c == .c0

/-- Line reads for moves out of vat space (R241, R291). -/
def lineReads (e : Env) (id : Nat) (ms : List Move) : List UnitReq :=
  (readPieces ms).map fun l =>
    .line { addr := l.1, write := false, dest := l.2, asker := .tile e.t e.c id, ph1 := e.phase1 }

/-- Line writes for bytes at vat addresses, ascending. -/
def lineWrites (e : Env) (id : Nat) (ws : List (Nat × List Byte)) : List UnitReq :=
  let ls := ws.foldl (fun l w => (splitLines false ⟨0, w.1, w.2.length⟩).foldl (fun l q =>
    addPiece l (q.dst / 64 * 64) (q.dst % 64, (w.2.drop q.src).take q.len)) l) []
  ls.map fun l => .line { addr := l.1, write := true, data := l.2, asker := .tile e.t e.c id, ph1 := e.phase1 }

/-- Reads of another tile's lines for moves out of it (R245): the bytes of each line that the pieces take. -/
def tileReqs (e : Env) (id d : Nat) (ms : List Move) : List UnitReq :=
  (readPieces ms).map fun l =>
    let lo := l.2.foldl (fun m p => min m p.1) 64
    let hi := l.2.foldl (fun m p => max m (p.1 + p.2.2)) 0
    .tile { prog := e.prog, src := e.t, ctx := e.c, dst := d, kind := .copyRead, addr := l.1 + lo, len := hi - lo
            dest := l.2.map fun p => (p.1 - lo, p.2), opId := some id }

/-! The requests of a unit operation (R241) -/

/-- Change the copy or vector operation of a number. -/
def Tile.modOp (t : Tile) (id : Nat) (f : UnitOp → UnitOp) : Tile :=
  { t with copyQ := t.copyQ.map fun o => if o.id = id then f o else o
           vecQ := t.vecQ.map fun o => if o.id = id then f o else o }

/-- The copy or vector operation of a number. -/
def Tile.opOf (t : Tile) (id : Nat) : Option UnitOp := (t.copyQ ++ t.vecQ).find? fun o => o.id == id

/-- Send a request: a line to its vat's queue, or a read of another tile into the felt as an operation of its own. -/
def State.sendReq (s : State) (slot : Nat) : UnitReq → State
  | .line r => s.enqueueLine r
  | .tile p =>
    let t := s.tile slot
    let p := { p with op := t.nextId, mid := s.bind.applied.midOf (p.src / 16) (p.dst / 16) }
    { s.setTile slot { t with nextId := t.nextId + 1 } with felt := s.felt.send p }

/-- Send an operation's next requests, at most `n` of them, while fewer than 64 are outstanding. -/
def State.pump (slot id : Nat) : Nat → State → State
  | 0, s => s
  | n + 1, s => match (s.tile slot).opOf id with
    | none => s
    | some o => match o.todo with
      | [] => s
      | q :: r =>
        if o.left - o.todo.length < 64 then
          State.pump slot id n ((s.setTile slot ((s.tile slot).modOp id fun o => { o with todo := r })).sendReq slot q)
        else s

/-- An operation has these requests to make, and begins to send them. -/
def State.request (s : State) (slot id : Nat) (qs : List UnitReq) : State :=
  if qs.isEmpty then s
  else State.pump slot id 64 (s.setTile slot ((s.tile slot).modOp id fun o => { o with left := qs.length, todo := qs }))

/-- A request of an operation has been answered, and the next one goes out. -/
def State.answered (s : State) (slot id : Nat) : State :=
  State.pump slot id 1 (s.setTile slot ((s.tile slot).modOp id fun o => { o with left := o.left - 1 }))

/-- A tile slot is not clocked: its field is gated (R254, R462, R465). -/
def State.unclocked (s : State) (slot : Nat) : Bool := (s.field (fieldOfCluster (slot / 17))).tstate != 0

/-- A tile whose clock runs: the tiles of a gated field are not clocked (R254, R462, R465). -/
def State.unitEnv (s : State) (t : Nat) (c : Ctx) : Option Env :=
  match s.env t c with
  | some e => if s.unclocked e.slot then none else some e
  | none => none

end Sys2Proof.Machine
end

