-- ==== Sys2Proof/Machine/CopyEngine.lean ====
section
/-! DEFINITION. The copy engine: COPY, PERMUTE, GATHER, SCATTER and SCATTER_ADD, its line requests and remote reads, and
its completion (R190, R235 to R247, R291, R292). Operations run one at a time in issue order: one that finds another
running waits with its block. -/

namespace Sys2Proof.Machine

/-- Pairs of unit offsets over dimensions given as size, destination stride and source stride, first dimension
fastest. -/
def offs2 : List (Nat × Nat × Nat) → List (Nat × Nat)
  | [] => [(0, 0)]
  | (n, a, b) :: r => (offs2 r).flatMap fun o => (List.range n).map fun i => (o.1 + i * a, o.2 + i * b)

/-- The dimensions of a view in units: size and stride. -/
def View.unitDims (v : View) : List (Nat × Nat) := (v.units0, 1) :: (v.dims.drop 1).zip v.strides

/-- The moves of a unit: its bytes and its auxiliary entry (R237). -/
def unitMoves (src dst : View) (p : Nat × Nat) : List Move :=
  ⟨src.unitAddr p.2, dst.unitAddr p.1, dst.fmt.unit⟩ ::
  (if dst.fmt.aux = 0 then [] else [⟨src.auxAddr p.2, dst.auxAddr p.1, dst.fmt.aux⟩])

/-- The fields of a copy block (R235). -/
structure CopyArgs where
  src : Nat
  dst : Nat
  idx : Nat
  op : Nat
  idim : Nat
  perm : Nat
deriving DecidableEq, Repr

/-- Read the fields. -/
def CopyArgs.parse (b : List Byte) : CopyArgs where
  src := leAt b 0 4
  dst := leAt b 4 4
  idx := leAt b 8 4
  op := leAt b 12 1
  idim := leAt b 13 1
  perm := leAt b 16 4

/-- Reserved fields of the word and block are 0 (R183, R235). -/
def copyReservedOk (w : Nat) (b : List Byte) (x : CopyArgs) : Bool :=
  fld w 42 16 == 0 && leAt b 14 2 == 0 && allZero (bytesAt b 20 44) && decide (x.op < 5) &&
  (decide (2 ≤ x.op) || (x.idim == 0 && x.idx == noneAddr)) &&
  (if x.op = 1 then decide (x.perm < 2 ^ 18) else x.perm == 0)

/-- PERM of a destination dimension (R235). -/
def permOf (p d : Nat) : Nat := fld p (3 * d + 2) (3 * d)

/-- A sharded source of a gather: where part `p` lies, in program columns, rows and tiles (R245); `base` is the
descriptor's own BASE. -/
structure Parts where
  base : Nat
  n : Nat
  kind : Nat
  b : Nat
  cnt : Nat
  axis : Nat
  org : Nat
  x : Nat
  y : Nat
  t : Nat
deriving DecidableEq, Repr

/-- Coordinate of a replicated axis: the tile's own where the range holds it, ORG otherwise (R245). -/
def replicated (a : Axis) (own : Nat) : Nat := if (a.part own).isSome then own else a.org

/-- The parts of a sharded gather source; `none` when another dimension than IDIM is split (R245). -/
def partsOf (d : Desc) (e : Env) (idim : Nat) : Option Parts :=
  let axs := [d.axis 0, d.axis 1, d.axis 2]
  if axs.any fun a => a.dim != 7 && a.dim != idim then none
  else
    let k := (findFrom (fun (a : Axis) => a.dim == idim) axs 0).getD 3
    let a := if k = 0 then d.axis 0 else if k = 1 then d.axis 1 else d.axis 2
    some { base := d.base, n := nth 0 d.dims idim, kind := if k = 3 then 0 else a.kind, b := 2 ^ a.bexp
           cnt := if k = 3 then 1 else a.cnt, axis := k, org := if k = 3 then 0 else a.org
           x := replicated (d.axis 0) e.px, y := replicated (d.axis 1) e.py, t := replicated (d.axis 2) e.tn }

/-- Part and local index of a global index: dimension 0 splits in units of one element here (R225). -/
def Parts.locate (q : Parts) (i : Nat) : Nat × Nat := partOf q.n i q.kind q.b q.cnt

/-- Program column, row and tile of a part. -/
def Parts.at (q : Parts) (p : Nat) : Nat × Nat × Nat :=
  (if q.axis = 0 then q.org + p else q.x, if q.axis = 1 then q.org + p else q.y, if q.axis = 2 then q.org + p else q.t)

/-- A checked copy operation. -/
structure CopyJob where
  x : CopyArgs
  src : View
  dst : View
  idx : Option View := none
  parts : Option Parts := none
  n : Nat := 0
deriving DecidableEq, Repr

/-- Sizes of a view in the global tensor that a gather's source describes. -/
def Desc.global (d : Desc) : List Nat := d.dims.take d.rank

/-- The extents overlap: whole ranges in one space (R239). -/
def View.overlaps (a b : View) : Bool :=
  a.vat == b.vat && decide (0 < a.extentLen) && decide (0 < b.extentLen) && overlap a.extent b.extent

/-- The source of a gather: in tile space or vat space as its view, or its part in any tile that holds one. -/
def gatherSrc (d : Desc) (f : ElemFmt) (e : Env) (off : Nat) : View :=
  if d.sharded then { d.view f e.px e.py e.tn off with dims := d.global, n0 := nth 0 d.dims 0, sharded := true }
  else d.view f e.px e.py e.tn off

/-- Every part's local view stays within the tile SRAM (R230). -/
def partsInRange (s : State) (d : Desc) (f : ElemFmt) (q : Parts) (off : Nat) : Bool :=
  (List.range q.cnt).all fun p => let (x, y, t) := q.at p; s.extentOk (d.view f x y t off)

/-- A descriptor that a copy operation names: none where its address raises DESC_RANGE, which R239 puts after every check
of DESC_INVALID (log entry 44). -/
def State.copyDesc (s : State) (e : Env) (a : Nat) : Except TFault (Option (Desc × ElemFmt)) :=
  match s.descAt e 10 a with
  | .ok d => .ok (some d)
  | .error f => if f.code = fDESC_RANGE then .ok none else .error f

/-- A check of one descriptor, which one that is not there passes. -/
def opt1 {α : Type} (a : Option α) (f : α → Bool) : Bool := a.all f

/-- A check of two descriptors, which passes where either is not there. -/
def opt2 {α β : Type} (a : Option α) (b : Option β) (f : α → β → Bool) : Bool := a.all fun x => b.all (f x)

/-- The DESC_INVALID checks of COPY and PERMUTE on the views that could be read (R231, R236 to R238). -/
def CopyArgs.moveOk (x : CopyArgs) (src dst : Option View) : Bool :=
  opt2 src dst (fun a b => a.rank == b.rank) &&
  (if x.op = 0 then opt2 src dst fun a b => !(a.vat && b.vat) && a.dims == b.dims
   else
    opt1 dst (fun b => !b.vat && !b.comp) && opt1 src (fun a => !a.comp) &&
    opt1 (dst.or src) (fun b => ((List.range b.rank).map (permOf x.perm)).isPerm (List.range b.rank) &&
      (List.range 6).all fun d => decide (d < b.rank) || permOf x.perm d == 0) &&
    opt1 (src.or dst) (fun a => a.fmt.gran == 1 || permOf x.perm 0 == 0) &&
    opt2 src dst fun a b => (List.range b.rank).all fun d => nth 0 b.dims d == nth 0 a.dims (permOf x.perm d))

/-- The DESC_INVALID checks of GATHER, SCATTER and SCATTER_ADD on the descriptors that could be read (R236, R242, R245). -/
def CopyArgs.indexOk (x : CopyArgs) (e : Env) (ds dd di : Option (Desc × ElemFmt)) : Bool :=
  let big := if x.op = 2 then ds else dd
  let small := if x.op = 2 then dd else ds
  opt1 ds (fun a => a.2 != .mask4 && !a.1.comp) && opt1 dd (fun b => b.2 != .mask4 && !b.1.vat && !b.1.sharded && !b.1.comp) &&
  (x.op == 2 || opt1 ds fun a => !a.1.vat && !a.1.sharded) &&
  (x.op != 4 || opt1 (ds.or dd) fun a => a.2 == .f32 || a.2 == .i32) &&
  opt1 (ds.or dd) (fun a => a.2.gran == 1 || x.idim != 0) &&
  opt1 di (fun i => i.2 == .i32 && i.1.rank == 1 && !i.1.vat && !i.1.sharded) &&
  opt1 big (fun b => decide (x.idim < b.1.rank)) && opt2 ds dd (fun a b => a.1.rank == b.1.rank) &&
  opt2 big small (fun b c => setNth c.1.global x.idim 0 == setNth b.1.global x.idim 0 &&
    opt1 di fun i => nth 0 c.1.global x.idim == nth 0 i.1.dims 0) &&
  opt1 ds fun a => !a.1.sharded || (partsOf a.1 e x.idim).isSome

/-- The checks at issue in the order of R239: DESC_INVALID, DESC_RANGE, COPY_OVERLAP (R231, R236, R238, R242). -/
def State.copyCheck (s : State) (e : Env) (b : Issue) (x : CopyArgs) : Except TFault CopyJob := do
  let inv := fun c => need c fDESC_INVALID 10
  let rng := fun c => need c fDESC_RANGE 10
  let ds ← s.copyDesc e x.src
  let dd ← s.copyDesc e x.dst
  let di ← if x.op ≤ 1 then .ok none else s.copyDesc e x.idx
  let view := fun (d : Desc × ElemFmt) off => d.1.view d.2 e.px e.py e.tn off
  inv (opt1 dd fun d => (view d b.xb).noAlias)
  inv (opt2 ds dd fun a d => a.2 == d.2 && a.1.comp == d.1.comp)
  inv (if x.op ≤ 1 then x.moveOk (ds.map fun d => view d b.xa) (dd.map fun d => view d b.xb) else x.indexOk e ds dd di)
  match ds, dd with
  | some a, some d =>
    let dst := view d b.xb
    if x.op ≤ 1 then
      let src := view a b.xa
      rng (s.extentOk src && s.extentOk dst)
      need (!dst.overlaps src) fCOPY_OVERLAP 10
      return { x := x, src := src, dst := dst }
    else match di with
      | none => .error { code := fDESC_RANGE, unit := 10 }
      | some i =>
        let idx := view i b.xa
        let src := if x.op = 2 then gatherSrc a.1 a.2 e b.xa else view a b.xa
        let parts := if a.1.sharded then partsOf a.1 e x.idim else none
        rng (s.extentOk idx && s.extentOk dst &&
          (match parts with
            | some q => partsInRange s a.1 a.2 q b.xa
            | none => s.extentOk src))
        let own := if a.1.sharded then view a b.xa else src
        need (!dst.overlaps own && !dst.overlaps idx) fCOPY_OVERLAP 10
        return { x := x, src := src, dst := dst, idx := some idx, parts := parts, n := nth 0 i.1.dims 0 }
  | _, _ => .error { code := fDESC_RANGE, unit := 10 }

/-! Moves -/

/-- Stride in units of dimension `d` of a view. -/
def View.strideOf (v : View) (d : Nat) : Nat := if d = 0 then 1 else nth 0 v.strides (d - 1)

/-- The moves of COPY and PERMUTE, in the destination's index order (R237, R238). -/
def CopyJob.moves (j : CopyJob) : List Move :=
  let pm := fun d => if j.x.op = 1 then permOf j.x.perm d else d
  if j.dst.empty || j.src.empty then []
  else
    let ds := (List.range j.dst.rank).map fun d =>
      ((if d = 0 then j.dst.units0 else nth 0 j.dst.dims d), j.dst.strideOf d, j.src.strideOf (pm d))
    (offs2 ds).flatMap (unitMoves j.src j.dst)

/-- The units of one slice: destination offset `k` and source index `i` of the indexed dimension (R244, R246). For a
scatter the roles of `k` and `i` are exchanged by the caller. -/
def CopyJob.slice (j : CopyJob) (di si : Nat) : List (Nat × Nat) :=
  let ds := (List.range j.dst.rank).map fun d =>
    ((if d = j.x.idim then 1 else if d = 0 then j.dst.units0 else nth 0 j.dst.dims d), j.dst.strideOf d, j.src.strideOf d)
  (offs2 ds).map fun p => (p.1 + di * j.dst.strideOf j.x.idim, p.2 + si * j.src.strideOf j.x.idim)

/-- Index `k` of the index tensor as a signed integer (R242). -/
def CopyJob.index (j : CopyJob) (m : EccMem) (k : Nat) : Int :=
  match j.idx with
  | some v => sx 32 (m.le (v.unitAddr k) 4)
  | none => 0

/-- The first index out of range with its position (R243). -/
def CopyJob.badIndex (j : CopyJob) (m : EccMem) : Option Nat :=
  let big := if j.x.op = 2 then j.src else j.dst
  (List.range j.n).find? fun k =>
    let i := j.index m k
    decide (i < 0) || decide (Int.ofNat (nth 0 big.dims j.x.idim) ≤ i)

/-- What a gather reads for one distinct index of one window: the tile whose part holds the slice, none for the issuing
tile or vat space, and the moves to every position of the window that names it. -/
structure SliceRead where
  tile : Option Nat
  moves : List Move
deriving DecidableEq, Repr

/-- The read of a slice that several positions of a window name (R244, R245). -/
def CopyJob.sliceRead (j : CopyJob) (e : Env) (i : Nat) (ks : List Nat) : SliceRead :=
  match j.parts with
  | none => ⟨none, ks.flatMap fun k => (j.slice k i).flatMap (unitMoves j.src j.dst)⟩
  | some p =>
    let (part, li) := p.locate i
    let (x, y, t) := p.at part
    let dst := e.cluster x y * 16 + t
    -- the auxiliary array of a part follows its own units and moves with the base (R219, R230)
    let dims := setNth j.src.dims j.x.idim (localSize p.n p.kind p.b p.cnt part)
    let v := { j.src with dims := dims, n0 := nth 0 dims 0 }
    let v := { v with auxBase := v.base + (alignUp (p.base + v.span * v.fmt.unit) 64 - p.base) }
    ⟨if dst = e.t then none else some dst, ks.flatMap fun k => (j.slice k li).flatMap (unitMoves v j.dst)⟩

/-- The reads of a gather: in each window of 64 positions one for every distinct index, in the order of first occurrence
(R244). -/
def CopyJob.gather (j : CopyJob) (m : EccMem) (e : Env) : List SliceRead :=
  (List.range (cdiv j.n 64)).flatMap fun w =>
    let ks := (List.range (min 64 (j.n - 64 * w))).map fun k => 64 * w + k
    let ixs := ks.map fun k => (k, (j.index m k).toNat)
    ((ixs.map fun p => p.2).eraseDups).map fun i =>
      j.sliceRead e i ((ixs.filter fun p => p.2 == i).map fun p => p.1)

/-- One SCATTER_ADD element: F32 under R203 or I32 modulo 2^32, with saturation. -/
def addElem (f32fmt : Bool) (a b : Nat) : Nat × Bool :=
  if f32fmt then let o := add32 a b; (o.code, o.sat) else ((a + b) % 2 ^ 32, false)

/-- Perform the adds of SCATTER_ADD in ascending position (R247). -/
def scatterAdds (f32fmt : Bool) (m0 : EccMem) : List Move → EccMem → Bool → EccMem × Bool
  | [], m, b => (m, b)
  | q :: r, m, b =>
    let o := addElem f32fmt (m.le q.dst 4) (m0.le q.src 4)
    scatterAdds f32fmt m0 r (m.write q.dst (leBytes 4 o.1)) (b || o.2)

/-- The moves of SCATTER and SCATTER_ADD in ascending position (R246, R247). -/
def CopyJob.scatter (j : CopyJob) (m : EccMem) : List Move :=
  (List.range j.n).flatMap fun k => (j.slice (j.index m k).toNat k).flatMap (unitMoves j.src j.dst)

/-- Source and destination ranges of moves. -/
def srcRanges (ms : List Move) : List (Nat × Nat) := ms.map fun m => (m.src, m.len)
/-- Destination ranges of moves. -/
def dstRanges (ms : List Move) : List (Nat × Nat) := ms.map fun m => (m.dst, m.len)

/-- Copy pieces within a tile, every piece read before any is written where extents do not overlap. -/
def EccMem.moves (m : EccMem) (ms : List Move) : EccMem :=
  ms.foldl (fun m q => m.write q.dst (m.read q.src q.len)) m

/-- The destination ranges in the tile that a copy operation may write. -/
def State.copyDst (s : State) (e : Env) (j : CopyJob) : List (Nat × Nat) :=
  if j.dst.vat then [] else j.dst.ranges.filter fun r => !(s.guarded e).any (overlap r)

/-- The moves of an operation have written the tile: what operations of other units find there is unspecified (R146,
R209). -/
def State.moved (s : State) (e : Env) (j : CopyJob) (ms : List Move) : State :=
  if ((s.tile e.slot).others .copy).any fun o => o.meets (s.copyDst e j) then s.conflicts e.slot .copy (dstRanges ms)
  else s

/-- A tile-space operation on moves: reads are checked, writes may not meet guarded regions, then bytes move. -/
def State.tileMoves (s : State) (e : Env) (j : CopyJob) (ms : List Move) (rd : List (Nat × Nat))
    (k : Tile → Tile × Bool) : State :=
  s.perform e (do
    s.clean e 10 rd
    s.writable e 10 (dstRanges ms)) fun _ =>
      let s := s.tileReads e.slot rd
      let (t, sat) := k (s.tile e.slot)
      ((s.setTile e.slot t).moved e j ms).noteSat e.slot e.c sat

/-- The extents in the tile that a copy operation reads or writes. -/
def CopyJob.ext (j : CopyJob) : List (Nat × Nat) :=
  ((if j.src.vat then [] else [j.src]) ++ (if j.dst.vat then [] else [j.dst]) ++ j.idx.toList).map View.extent

/-- Start a copy operation (R237 to R247). -/
def State.copyStart (s : State) (e : Env) (id : Nat) (j : CopyJob) : State :=
  let meet := fun (rs : List (Nat × Nat)) => s.meetReads e.slot .copy j.ext rs
  if j.x.op ≤ 1 then
    let ms := j.moves
    if j.dst.vat then
      let s := if j.src.vat then s else meet (srcRanges ms)
      let m := (s.tile e.slot).sram
      s.perform e (s.clean e 10 (srcRanges ms)) fun _ =>
        (s.tileReads e.slot (srcRanges ms)).request e.slot id
          (lineWrites e id (ms.map fun q => (q.dst, m.read q.src q.len)))
    else if j.src.vat then
      s.perform e (s.writable e 10 (dstRanges ms)) fun _ => s.request e.slot id (lineReads e id ms)
    else (meet (srcRanges ms)).tileMoves e j ms (srcRanges ms) fun t => ({ t with sram := t.sram.moves ms }, false)
  else if j.dst.empty || j.src.empty || j.n = 0 then s
  else
    let ir := match j.idx with
      | some v => [(v.unitAddr 0, 4 * j.n)]
      | none => []
    let s := meet ir
    let m := (s.tile e.slot).sram
    s.perform e (s.clean e 10 ir) fun _ =>
      let s := s.tileReads e.slot ir
      match j.badIndex m with
      | some k => s.tileFault e
          { code := fINDEX_RANGE, unit := 10, pos := k, val := toTwos 32 (j.index m k) }
      | none =>
        if j.x.op = 2 then
          let gs := j.gather m e
          let ms := gs.flatMap fun g => g.moves
          if j.src.vat then
            s.perform e (s.writable e 10 (dstRanges ms)) fun _ =>
              s.request e.slot id (gs.flatMap fun g => lineReads e id g.moves)
          else
            let own := (gs.filter fun g => g.tile.isNone).flatMap fun g => g.moves
            let s := s.meetReads e.slot .copy j.ext (srcRanges own)
            s.perform e (do
              s.clean e 10 (srcRanges own)
              s.writable e 10 (dstRanges ms)) fun _ =>
                let s := s.tileReads e.slot (srcRanges own)
                let t := s.tile e.slot
                let s := (s.setTile e.slot { t with sram := t.sram.moves own }).moved e j own
                s.request e.slot id (gs.flatMap fun g => match g.tile with
                  | some d => tileReqs e id d g.moves
                  | none => [])
        else
          let ms := j.scatter m
          let s := s.meetReads e.slot .copy j.ext (srcRanges ms)
          if j.x.op = 3 then s.tileMoves e j ms (srcRanges ms) fun t => ({ t with sram := t.sram.moves ms }, false)
          else s.tileMoves e j ms (srcRanges ms ++ dstRanges ms) fun t =>
            let (m', sat) := scatterAdds (j.src.fmt == .f32) t.sram ms t.sram false
            ({ t with sram := m' }, sat)

/-- A copy word issues: it starts at once when the engine is free, and otherwise waits (R190). -/
def doCopy (b : Issue) (e : Env) (s : State) : State :=
  let x := CopyArgs.parse b.blk
  s.perform e (do
    need (copyReservedOk e.word b.blk x) fDESC_INVALID 10
    s.copyCheck e b x) fun j =>
      let s := s.issue e (s.ctxOf e).advance
      let t := s.tile e.slot
      let free := t.copyQ.isEmpty
      let o := { e.unitOp t.nextId (s.copyDst e j) with
        vdst := if j.dst.vat then j.dst.ranges else []
        ext := j.ext, waiting := !free, word := e.word, pc := e.pc, xa := b.xa, xb := b.xb, blk := b.blk }
      let o := { o with race := t.written .copy o.ext }
      let s := (s.setTile e.slot { t with copyQ := t.copyQ ++ [o], nextId := t.nextId + 1 }).conflicts e.slot .copy o.dst
      if free then s.copyStart e t.nextId j else s

/-- The copy engine's four places are taken (R187). -/
def copyFull (e : Env) (s : State) : Bool := decide (4 ≤ (s.tile e.slot).copyQ.length)

/-- The block's OP is the row's, or none that exists, which faults; another row's changes nothing (log entry 13). -/
def copyRow (op : Nat) (b : Issue) (e : Env) (s : State) : State :=
  let o := leAt b.blk 12 1
  if o = op ∨ 5 ≤ o then doCopy b e s else s

/-- COPY. -/
def execCopy (t : Nat) (c : Ctx) (s : State) : Out := issueRow s t c 0x09 copyFull (copyRow 0)
/-- PERMUTE. -/
def execPermute (t : Nat) (c : Ctx) (s : State) : Out := issueRow s t c 0x09 copyFull (copyRow 1)
/-- GATHER. -/
def execGather (t : Nat) (c : Ctx) (s : State) : Out := issueRow s t c 0x09 copyFull (copyRow 2)
/-- SCATTER. -/
def execScatter (t : Nat) (c : Ctx) (s : State) : Out := issueRow s t c 0x09 copyFull (copyRow 3)
/-- SCATTER_ADD. -/
def execScatterAdd (t : Nat) (c : Ctx) (s : State) : Out := issueRow s t c 0x09 copyFull (copyRow 4)

/-- The next copy operation of a tile starts when the one before it has completed (R190). -/
def State.copyNext (s : State) (t : Nat) : State :=
  match s.env t .c0 with
  | none => s
  | some v =>
    let x := s.tile v.slot
    match x.copyQ with
    | [] => s
    | o :: r =>
      if !o.waiting then s
      else
        let e := { v with c := o.ctx, pc := o.pc, word := o.word }
        let s := s.setTile v.slot { x with copyQ := { o with waiting := false } :: r }
        let b : Issue := ⟨o.blk, o.xa, o.xb⟩
        s.perform e (s.copyCheck e b (CopyArgs.parse o.blk)) fun j => s.copyStart e o.id j

/-- The oldest copy operation of a tile completes once its last line has been written (R241), increments its counter,
and the next one starts; an unclocked tile completes none (R254). -/
def execCopyCompletion (t : Nat) (s : State) : Out :=
  if !tileOk t then .fault .noSuchUnit
  else match s.unitEnv t .c0 with
    | none => .next s
    | some v =>
      let x := s.tile v.slot
      match x.copyQ with
      | [] => .next s
      | o :: r =>
        if o.left ≠ 0 ∨ o.waiting then .next s
        else .next (((s.setTile v.slot ({ x with copyQ := r }.complete o.ctr o.cen)).leave v.slot o).copyNext t)

/-- Remove element `i` of a list. -/
def dropAt {α : Type} (i : Nat) (l : List α) : List α := l.take i ++ l.drop (i + 1)

/-- The `i`-th response that waits for a tile's copy engine arrives, in any order, is written, and a further request goes
out (R241). -/
def execVatResponse (t i : Nat) (s : State) : Out :=
  if !tileOk t then .fault .noSuchUnit
  else match s.unitEnv t .c0 with
    | none => .next s
    | some v =>
      let mine := (s.felt.responses.zipIdx).filter fun r => r.1.dst == t && r.1.opId.isSome && !flitBad r.1.errs
      match mine[i]? with
      | none => .next s
      | some (r, k) =>
        let s := { s with felt := { s.felt with responses := dropAt k s.felt.responses } }.flitReads r.errs
        let x := s.tile v.slot
        .next (((s.setTile v.slot { x with sram := x.sram.writes r.pieces }).conflicts v.slot .copy
          (writeRanges r.pieces)).answered v.slot (r.opId.getD 0))

end Sys2Proof.Machine
end

