-- ==== Sys2Proof/Machine/VatPort.lean ====
section
/-! DEFINITION. What a vat port does to a line: the write with its sum, the read with its corrections (R286, R291, R322,
R340, R356). -/

namespace Sys2Proof.Machine

/-- Bit of the byte-enable mask and byte of the line, byte by byte (R340). -/
def lineImage (pieces : List (Nat × List Byte)) : List Byte × Nat :=
  pieces.foldl (fun (a : List Byte × Nat) p =>
    (p.2.zipIdx.foldl (fun l b => setNth l (p.1 + b.2) b.1) a.1, a.2 ||| ((2 ^ p.2.length - 1) <<< p.1)))
    (List.replicate 64 0, 0)

/-- The CRC-64 of a line write as LOGSUM adds it (R340). -/
def lineCrc (addr : Nat) (pieces : List (Nat × List Byte)) : Nat :=
  let (bs, mask) := lineImage pieces
  Check.crc64.of (leBytes 8 addr ++ leBytes 8 mask ++ bs)

/-- Count and remember the words that vat reads corrected (R286, R356, R491 event 0x02). -/
def State.vatReads (s : State) (rs : List (Nat × Nat)) : State :=
  if s.vats.mem.errs = [] then s
  else (s.vats.mem.corrected rs).foldl (fun s w =>
    let v := vatOf w
    let x := s.vats.vat v
    let s := { s with vats := { s.vats.setVat v { x with ce := satAdd 32 x.ce 1 } with mem := s.vats.mem.noteDue [w] } }
    s.bump (pgVat v) 0x02 1) s

/-- A word of some ranges that reads well at a re-read: each failing read counts in ECC_UE and leaves its address, and no
fault is raised (R286). -/
def State.vatRetry (s : State) (rs : List (Nat × Nat)) : State :=
  (s.vats.mem.errs.filter fun e => e.2.fix.1.isNone && (e.2.reads == 1 || e.2.reads == 2) && rs.any (wordIn e.1)).foldl
    (fun s e =>
      let v := vatOf e.1
      let x := s.vats.vat v
      let vs := s.vats.setVat v { x with ue := satAdd 16 x.ue e.2.reads, ueAddr := e.1 }
      { s with vats := { vs with mem := { vs.mem with errs := vs.mem.errs.filter fun k => k.1 != e.1 } } }) s

/-- Read vat ranges (R286, R355, R356, R367): words that a re-read recovers and words that the code corrects are counted,
and a word that is lost is handled in place of what follows. -/
def State.vatAccess (s : State) (rs : List (Nat × Nat)) (k : State → State) : State :=
  let s := (s.vatRetry rs).vatReads rs
  match s.vats.mem.bad rs with
  | some w => s.vatUe w
  | none => k s

/-- Read the lines of vat ranges through their ports, which count them (R291), and go on. -/
def State.vatLines (s : State) (rs : List (Nat × Nat)) (k : State → State) : State :=
  s.vatAccess rs fun s => k (rs.foldl (fun s r => s.countLines 0x40 r) s)

/-- Words that a write covers in part (R286). -/
def partWords (line : Nat) (pieces : List (Nat × List Byte)) : List (Nat × Nat) :=
  let (_, mask) := lineImage pieces
  (List.range 8).filterMap fun w =>
    let m := fld mask (8 * w + 7) (8 * w)
    if m = 0 ∨ m = 255 then none else some (line + 8 * w, 8)

/-- A line write meets the log or the notes (R298, R340, R343). -/
def Image.logLine (i : Image) (line : Nat) (pieces : List (Nat × List Byte)) : Bool :=
  pieces.any fun p => (List.range p.2.length).any fun k => i.inLog (line + p.1 + k)

/-- The bytes of a line write, and its sum; `ph1` says that it is phase 1's, whose log writes count (R340). -/
def State.lineWrite (s : State) (line : Nat) (pieces : List (Nat × List Byte)) (ph1 : Bool) : State :=
  let v := vatOf line
  let s := pieces.foldl (fun s p => s.vatWrite (line + p.1) p.2) s
  let s := s.bump (pgVat v) 0x41 1
  match s.trainImage with
  | some i =>
    if ph1 && s.train.ph1.isSome && i.logLine line pieces then
      let x := s.vats.vat v
      { s with vats := s.vats.setVat v { x with
        logsum := (x.logsum + lineCrc line pieces) % 2 ^ 64, logn := (x.logn + 1) % 2 ^ 32 } }
    else s
  | none => s

/-- A port performs a line write and goes on: words that it covers in part are read and merged (R286). -/
def State.portWriteThen (s : State) (line : Nat) (pieces : List (Nat × List Byte)) (ph1 : Bool) (k : State → State) : State :=
  s.vatAccess (partWords line pieces) fun s => k (s.lineWrite line pieces ph1)

/-- A port performs a line write. -/
def State.portWrite (s : State) (line : Nat) (pieces : List (Nat × List Byte)) (ph1 : Bool) : State :=
  s.portWriteThen line pieces ph1 id

/-- The line writes of bytes at an address: each line with its piece. -/
def lineParts (a : Nat) (bs : List Byte) : List (Nat × Nat × List Byte) :=
  if bs.isEmpty then []
  else (List.range ((a + bs.length - 1) / 64 - a / 64 + 1)).map fun i =>
    let line := (a / 64 + i) * 64
    let lo := max a line
    let hi := min (a + bs.length) (line + 64)
    (line, lo - line, (bs.drop (lo - a)).take (hi - lo))

/-- Write bytes of any length line by line and go on: a word that a line covers in part and that is lost is handled in place
of the rest (R286, R367). -/
def State.portWritesThen (s : State) (a : Nat) (bs : List Byte) (ph1 : Bool) (k : State → State) : State :=
  (lineParts a bs).foldr (fun l k s => s.portWriteThen l.1 [l.2] ph1 k) k s

/-- Write bytes of any length line by line. -/
def State.portWrites (s : State) (a : Nat) (bs : List Byte) (ph1 : Bool) : State :=
  (lineParts a bs).foldl (fun s l => s.portWrite l.1 [l.2] ph1) s

/-- A line that the port holds: a write of phase 1 into the log or the notes while phase 2 has chunks left (R298, R343). -/
def State.writeHeld (s : State) (r : LineReq) : Bool :=
  match s.trainImage with
  | some i => r.write && r.ph1 && i.logLine r.addr r.data && s.logHeld i
  | none => false

end Sys2Proof.Machine
end

