-- ==== Sys2Proof/Machine/Schedule.lean ====
section
/-! DEFINITION. Schedules: where a program's tiles lie, the classes and voltages of a boundary, the tick period and its
stretch, the start of an attempt, and binding computations (R33 to R38, R43 to R46, R176 to R178, R262, R290, R338, R340,
R373, R461 to R465). -/

namespace Sys2Proof.Machine

/-! Boundaries (R463 to R465) -/

/-- One field at a step or query boundary (R463 to R465); a lost field keeps its state. -/
def FieldState.boundary (x : FieldState) (plan : Nat) : FieldState :=
  if x.fuse ≠ 0 then x
  else
    let x := { x with classPlan := plan }
    if x.throttled && decide (95000 ≤ x.tempMax) then x.takeClass (max x.classNow plan) true
    else { x with throttled := false }.takeClass plan false

/-- Apply the class plans at a step or query boundary; idle fields run as the power state gives. -/
def State.applyClasses (s : State) : State :=
  (List.range 48).foldl (fun s f =>
    let x := (s.field f).boundary (s.plannedClass f)
    s.setField f (if (s.plans f).isEmpty && x.fuse == 0 && x.classNow == 5 && s.power.pstate != 0 then
      { x with tstate := idleTiles s.power.pstate } else x)) s

/-- Fields that R43 counts: those to which an applied plan gives a class other than gated; a lost field runs in none. -/
def State.counted (s : State) : List Nat :=
  (List.range 48).filter fun f => (s.field f).fuse == 0 && !(s.plans f).isEmpty && s.plannedClass f != 5

/-- The lowest class in force over the counted fields; none when one of them is gated (R43). -/
def State.lowestClass (s : State) : Option Nat :=
  let c := s.counted.foldl (fun m f => max m (s.field f).classNow) 0
  if 5 ≤ c then none else some c

/-- A period stretched for a class, rounded up to a whole microsecond (R43). -/
def stretched (period cls : Nat) : Nat := cdiv (period * 5) (5 - cls)

/-- The tick period of a program: programmed, doubled and stretched (R43, R46, R290). -/
def State.periodOf (s : State) (i : Nat) : Nat :=
  let p := match s.image? i with
    | some im => im.period
    | none => 16
  let p := if s.train.doubled then 2 * p else p
  match s.train.stretch with
  | some c => stretched p c
  | none => p

/-- No field runs below the class that its plan gives it (R46); a lost field does not run. -/
def State.atPlan (s : State) : Bool :=
  (List.range 48).all fun f => (s.field f).fuse != 0 || (s.plans f).isEmpty || decide ((s.field f).classNow ≤ s.plannedClass f)

/-- The classes in force in the fields. -/
def State.classes (s : State) : List Nat := (List.range 48).map fun f => (s.field f).classNow

/-- The control complex computes every H_r of the classes now in force (R269). -/
def State.sampleHolds (s : State) : State :=
  { s with felt := { s.felt with holdCls := s.classes, holdStale := false } }

/-- A step or query boundary: classes and the holds that follow a change of them (R269), the doubling of R290, the end of
a stretch (R46). -/
def State.boundary (s : State) : State :=
  let before := s.classes
  let s := s.applyClasses
  let s := if s.classes = before then s else s.sampleHolds
  let s := { s with train := { s.train with doubled := s.train.doubled || !s.bind.found.vatPorts.isEmpty } }
  if s.atPlan then { s with train := { s.train with stretch := none } } else s

/-! The start of an attempt (R116, R176, R178, R338, R340, R373) -/

/-- A tile's context 0, counters 0 to 47, census slots but 31, and digest slots reset. -/
def Tile.startAttempt (t : Tile) : Tile :=
  { t with c0 := { run := .idle }, ctrs := t.ctrs.filter (fun c => decide (48 ≤ c.1))
           census := t.census.filter (fun c => c.1 == 31), digests := []
           engines := t.engines.map fun e => (e.1, { e.2 with open_ := none }) }

/-- Change the serving tiles of a program. -/
def State.modTiles (s : State) (i : Nat) (f : Nat → Nat → Tile → Tile) : State :=
  (s.tilesOf i).foldl (fun s q => match s.bind.applied.tileSlot q.2 with
    | some slot => s.setTile slot (f q.1 q.2 (s.tile slot))
    | none => s) s

/-- The reset of R176 and R338 for every tile of a program; for the training program the vats' sums start anew. The links
that give up in an attempt are counted from here (R281). -/
def State.startAttempt (s : State) (i : Nat) : State :=
  let s := s.modTiles i fun _ _ t => t.startAttempt
  let s := { s with felt := { s.felt with attemptLinks := [] } }
  if i = 0 then { s with vats := { s.vats with vats := (List.range 40).foldl (fun l v =>
    sput {} l v { sget {} l v with logsum := 0, logn := 0, viewsum := 0, viewn := 0 }) s.vats.vats } }
  else s

/-- The step seed (R116): bytes 8 to 15 of the control block, or of the query's input where the image names them. DESIGN
CHOICE: a query whose image names no seed offset has seed 0, and its first tick waits until its input is placed (log entry
50). -/
def State.seedOf (s : State) (i : Nat) : Option Nat :=
  match s.image? i with
  | none => none
  | some im =>
    if i = 0 then
      match s.train.ph1 with
      | some a => match a.inputs[im.ctrlEntry]? with
        | some x => if x.placed then some (leAt x.plain 8 8) else none
        | none => none
      | none => none
    else match (s.query i).run with
      | some r => if !r.input.placed then none else some (match im.seedOff with
        | some o => leAt r.input.plain o 8
        | none => 0)
      | none => none

/-! Binding computations (R35, R36, R178, R262) -/

/-- Write a tile's code and descriptor regions (R178, R227). -/
def TileImage.load (t : TileImage) (m : EccMem) : EccMem :=
  (m.write t.codeBase ((t.code.take (t.codeLen / 8)).flatMap fun w => leBytes 8 w.toNat)).writes t.descs

/-- A tile slot with zeroed SRAM and its image's regions. -/
def Tile.rebuild (t : Tile) (i : Option TileImage) : Tile :=
  { t with c0 := {}, sram := match i with
    | some x => x.load {}
    | none => {} }

/-- Zero and load every serving tile of a region's logical tiles that satisfy a test, unused positions too (R35). -/
def State.rebuild (s : State) (i : Nat) (p : Nat → Bool) : State :=
  match s.image? i with
  | none => s
  | some im => (s.regionOf i).foldl (fun s q => (List.range 16).foldl (fun s t =>
      match s.bind.applied.tileSlot (q.1 * 16 + t) with
      | some slot => if p (q.1 * 16 + t) then
          s.setTile slot ((s.tile slot).rebuild (im.tile? (im.ptileOf q.2.1 q.2.2 t))) else s
      | none => s) s) s

/-- One logical cluster can reach another (R260). -/
def Retire.reach (r : Retire) (a b : Nat) : Bool := r.usable a b || (r.intermediate a b).isSome

/-- A region with these used clusters cannot be served: a hole, or a position that R262 calls unreachable. -/
def Retire.broken (r : Retire) (cs : List Nat) : Bool :=
  cs.any r.hole || cs.any (fun a => cs.any fun b => !r.reach a b) ||
  ((List.range 48).filterMap r.attach).any (fun a => cs.any fun c => !r.reach a c || !r.reach c a) ||
  ([r.root .west, r.root .east].filterMap id).any fun a => cs.any fun c => !r.reach a c

/-- What BIND_GEN counts changes of: entries, vertical edges and selections, attach clusters, the service of vats (R453). -/
def Retire.signature (r : Retire) : List (Nat × Option Nat × Bool) × List (Option Nat) × List Nat :=
  ((List.range 1200).map fun l => (r.entry 0 l, r.southLink l, r.southEdge l), (List.range 48).map r.attach,
   (List.range 40).map r.vatServed)

/-- A program before a retirement state is applied: it stops with PLACEMENT_HOLE where it cannot be served; where a
serving tile changes, work that has begun is taken up again from its first tick, which counts no redo: the fault that led
to the retirement has counted (R34, R37, R262, R368, R380). -/
def State.prepare (s : State) (new : Retire) (i : Nat) : State :=
  match s.prog i with
  | none => s
  | some p => match p.bound with
    | none => s
    | some (x, y) =>
      if new.broken (usedClusters p.image x y) then (if p.stopped then s else s.placementHole i)
      else if (s.tilesOf i).any fun q => s.bind.applied.tileSlot q.2 != new.tileSlot q.2 then
        s.restart i
      else s

/-- The tree state that a binding computation gives the routers, for the trees of every bound program (R262, R276). -/
def State.bindTrees (s : State) : State :=
  let one := fun (i : Nat) => match s.prog i with
    | some p => match p.bound with
      | some (x, y) => p.image.trees.zipIdx.flatMap fun t =>
          s.bind.applied.treeNodes i t.2 ((y + leAt t.1.1 1 1) * 40 + x + leAt t.1.1 0 1)
            (t.1.2.map fun q => (y + leAt q 1 1) * 40 + x + leAt q 0 1)
      | none => []
    | none => []
  { s with bind := { s.bind with trees := (List.range 4).flatMap one } }

/-- A binding computation is complete: tree state and holds follow it. -/
def State.bound (s : State) : State := s.bindTrees.sampleHolds

/-- Apply the retirement state that was found (R36, R262, R368). -/
def State.applyRetire (s : State) : State :=
  let old := s.bind.applied
  let new := s.target
  let s := [0, 1, 2, 3].foldl (fun s i => s.prepare new i) s
  let gen := if old.signature != new.signature then (s.bind.gen + 1) % 2 ^ 32 else s.bind.gen
  let s := { s with bind := { s.bind with applied := new, gen := gen }
                    ident := { s.ident with holes := new.holes, served := 1200 - new.holes } }
  ([0, 1, 2, 3].foldl (fun s i => s.rebuild i fun t => old.tileSlot t != new.tileSlot t) s).bound

/-- End the running command with a fault of its own (R438): it is recorded on the command page. -/
def State.failCommand (s : State) (code : Nat) : State :=
  match s.run with
  | some r => (s.recordFault (pgCmd r.port) code 0).endCommand code
  | none => s

/-- Two regions share a cluster. -/
def rectsMeet (x y w h x' y' w' h' : Nat) : Bool :=
  decide (x < x' + w') && decide (x' < x + w) && decide (y < y' + h') && decide (y' < y + h)

/-- A BIND is applied against the updated table (R33 to R36); one that leaves the region where it is changes no owner. -/
def State.applyBind (s : State) (slot x y : Nat) : State :=
  match s.prog slot with
  | none => s.failCommand fDESC_INVALID
  | some p =>
    let meets := (List.range 4).any fun i => i != slot && match s.prog i with
      | some q => match q.bound with
        | some (x', y') => rectsMeet x y p.image.w p.image.h x' y' q.image.w q.image.h
        | none => false
      | none => false
    let same := p.bound == some (x, y)
    if meets || (s.busy slot && !same) then s.failCommand fBIND_CONFLICT
    else if s.bind.applied.broken (usedClusters p.image x y) then s.failCommand fPLACEMENT_HOLE
    else
      let s := s.setProg slot (some { p with bound := some (x, y), stopped := false })
      let s := if same then s
        else ({ s with bind := { s.bind with gen := (s.bind.gen + 1) % 2 ^ 32 } }.rebuild slot fun _ => true).bound
      s.endWith 0 0 0

/-- An UNBIND is applied; one of an unbound slot completes (R33, R440). -/
def State.applyUnbind (s : State) (slot : Nat) : State :=
  match s.prog slot with
  | none => s.endWith 0 0 0
  | some p =>
    if p.bound.isNone then s.endWith 0 0 0
    else if s.busy slot then s.failCommand fBIND_CONFLICT
    else
      let s := s.setProg slot (some { p with bound := none })
      ({ s with bind := { s.bind with gen := (s.bind.gen + 1) % 2 ^ 32 } }.bound).endWith 0 0 0

/-- The running command no longer waits for a wake (R470). -/
def State.awake (s : State) : Bool :=
  match s.run with
  | some r => r.woken
  | none => true

/-- Apply the BIND or UNBIND that waits. -/
def State.applyReq (s : State) : State :=
  match s.bind.req with
  | none => s
  | some r =>
    let s := { s with bind := { s.bind with req := none } }
    match r with
    | .bind slot x y => s.applyBind slot x y
    | .unbind slot => s.applyUnbind slot

end Sys2Proof.Machine
end

