-- ==== Sys2Proof/Machine/Optim.lean ====
section
/-! DEFINITION. The optimiser's arithmetic, the update log's form, a layer's seal and the sizing table (R294 to R297, R304 to
R311, R345 to R349). -/

namespace Sys2Proof.Machine

/-- The coefficients of R310. -/
structure OptC where
  lr : Nat
  wd : Nat
  b1 : Nat
  omb1 : Nat
  b2 : Nat
  omb2 : Nat
  eps : Nat
  c1 : Nat
  c2 : Nat
  k : Int
  dk : Int
deriving DecidableEq, Repr

/-- Read the first 40 bytes of a chunk control area (R310). -/
def OptC.parse (b : List Byte) : OptC where
  lr := leAt b 0 4
  wd := leAt b 4 4
  b1 := leAt b 8 4
  omb1 := leAt b 12 4
  b2 := leAt b 16 4
  omb2 := leAt b 20 4
  eps := leAt b 24 4
  c1 := leAt b 28 4
  c2 := leAt b 32 4
  k := sx 16 (leAt b 36 2)
  dk := sx 16 (leAt b 38 2)

/-- The coefficients of a sealed layer. -/
def OptC.ofSeal (l : LayerSeal) : OptC :=
  ⟨l.lr, l.wd, l.b1, l.omb1, l.b2, l.omb2, l.eps, l.c1, l.c2, l.k, l.dk⟩

/-- Flip the sign of an F32 code. -/
def neg32 (x : Nat) : Nat := x ^^^ 2 ^ 31

/-- The new master, first moment and root of the second moment of one element, whether a result saturated, and whether the
master was flushed. -/
structure OptOut where
  w : Nat
  m : Nat
  u : Nat := 0
  sat : Bool
  flush : Bool
deriving DecidableEq, Repr

/-- adamw of R307 on F32 codes, with the gradient q·2^s. -/
def adamw (c : OptC) (w0 m1 u2 : Nat) (q s : Int) : OptOut :=
  let g := intTo32 q s
  let a := scale32 m1 c.dk
  let b := mul32 c.omb1 g.code
  let m := fma32 c.b1 a.code b.code
  let gt := scale32 g.code (-c.k)
  let uu := mul32 u2 u2
  let gg := mul32 gt.code gt.code
  let og := mul32 c.omb2 gg.code
  let sq := fma32 c.b2 uu.code og.code
  let u := sqrt32 sq.code
  let n := mul32 m.code c.c1
  let de := fma32 u.code c.c2 c.eps
  let d := div32 n.code de.code
  let lw := mul32 c.lr c.wd
  let w1 := fma32 (neg32 lw.code) w0 w0
  let lk := scale32 c.lr (-c.k)
  let w := fma32 (neg32 lk.code) d.code w1.code
  ⟨w.code, m.code, u.code, [g, a, b, m, gt, uu, gg, og, sq, u, n, de, d, lw, w1, lk, w].any Rnd.sat, w.flush⟩

/-- sgdm of R307. -/
def sgdm (c : OptC) (w0 m1 : Nat) (q s : Int) : OptOut :=
  let g := intTo32 q s
  let a := scale32 m1 c.dk
  let m := fma32 c.b1 a.code g.code
  let lw := mul32 c.lr c.wd
  let w1 := fma32 (neg32 lw.code) w0 w0
  let lk := scale32 c.lr (-c.k)
  let w := fma32 (neg32 lk.code) m.code w1.code
  ⟨w.code, m.code, 0, [g, a, m, lw, w1, lk, w].any Rnd.sat, w.flush⟩

/-! Blocks of moments and of the streaming copy -/

/-- Decode the M8 codes of one block to F32 (R88, R89), with saturation. -/
def m8Decode (signed : Bool) (scale : Nat) (qs : List Nat) : List (Nat × Bool) :=
  qs.map fun q => let o := w32 (m8Val signed scale q); (o.code, o.sat)

/-- One block converted into a narrow format under a given scale byte (R77, R78): the scale byte written, the record, the
overflow flag, the block maximum of R194 and the census classes. -/
structure NarrowBlk where
  scale : Nat
  body : List Byte
  above : Bool
  top : Nat
  cls : List (Option CensusClass)
deriving DecidableEq, Repr

/-- Convert up to 32 F32 codes. -/
def narrowBlock (f : ElemFmt) (scale : Nat) (xs : List Nat) : NarrowBlk :=
  let (m, e) := maxMag xs
  let top := (fpRound f32 false m e).code
  if scale = 0xFF then ⟨0xFF, planeRecord f [], false, top, xs.map fun x => some (nanBlockClass x)⟩
  else
    let cs := xs.map (narrowConv f scale)
    let bad := xs.any fun x => (r32 x).nonFinite
    ⟨if bad then 0xFF else scale, planeRecord f (cs.map Conv.code),
      !bad && cs.any fun c => c.cls == some .saturation, top, cs.map Conv.cls⟩

/-- Bit i of byte i div 8 (R194). -/
def bitmap (bs : List Bool) : List Byte :=
  (chunksOf 8 (cdiv bs.length 8) bs).map fun b =>
    BitVec.ofNat 8 ((List.range 8).foldl (fun x i => if nth false b i then x + 2 ^ i else x) 0)

/-- The class of an element of the streaming copy (R62, R96): its source is the computed master, so a master that is not
finite comes first, then a saturation in its computation or in its conversion, then a flush of either (log entry 41). -/
def OptOut.classed (o : OptOut) (c : Option CensusClass) : Option CensusClass :=
  if (r32 o.w).nonFinite then some .nonFinite
  else if o.sat || c == some .saturation then some .saturation
  else if o.flush || c == some .flushed then some .flushed else c

/-- The outcome of the optimiser on consecutive elements of a layer: masters, moment and copy blocks, the census classes
of the copy's elements, and which elements saturate. -/
structure ChunkOut where
  w : List Nat
  m1 : List (Nat × List Nat)
  m2 : List (Nat × List Nat)
  copy : List NarrowBlk
  cls : List (Option CensusClass)
  sats : List Bool
deriving DecidableEq, Repr

/-- Cut into pieces of `n`. -/
def cut {α : Type} (n : Nat) (xs : List α) : List (List α) := chunksOf n (cdiv xs.length n) xs

/-- R307 and R308 on elements from a block boundary: masters, moments as (scale, codes) blocks, gradient integers with
their exponents, and the copy's scale bytes. -/
def optChunk (ada : Bool) (c : OptC) (ws : List Nat) (m1 m2 : List (Nat × List Nat)) (gs : List (Int × Int))
    (cs : List Nat) : ChunkOut :=
  let d1 := m1.flatMap fun b => m8Decode true b.1 b.2
  let d2 := m2.flatMap fun b => m8Decode false b.1 b.2
  let os := (ws.zip gs).zipIdx.map fun p =>
    let m := nth (0, false) d1 p.2
    let u := nth (0, false) d2 p.2
    let o := if ada then adamw c p.1.1 m.1 u.1 p.1.2.1 p.1.2.2 else sgdm c p.1.1 m.1 p.1.2.1 p.1.2.2
    { o with sat := o.sat || m.2 || (ada && u.2) }
  let blk := fun signed (xs : List Nat) => (cut 32 xs).map fun b => let r := m8Convert signed b; (r.1, r.2.1)
  let copy := List.zipWith (fun b s => narrowBlock .e3m2 s b) (cut 32 (os.map OptOut.w)) cs
  { w := os.map OptOut.w, m1 := blk true (os.map OptOut.m), m2 := if ada then blk false (os.map OptOut.u) else []
    copy := copy, cls := List.zipWith OptOut.classed os (copy.flatMap fun b => b.cls), sats := os.map OptOut.sat }

/-! The update log (R294 to R297, R311) -/

/-- A block as LOGPACK takes it: one with WIDE 0 that holds 0x80 counts as widened (R295). -/
def logWide (b : GBlock) : GBlock := { b with wide := b.wide || b.q.any (· == -128) }

/-- Body slots, the record of the first widened block, and the narrowing clamps of up to 1,024 blocks (R295, R296). -/
def logBodies : List GBlock → Option (List Byte) → List (List Byte) × Option (List Byte) × Nat
  | [], rec => ([], rec, 0)
  | b :: r, rec =>
    let b := logWide b
    if b.wide && rec.isNone then
      let (bs, rc, n) := logBodies r (some b.bytes)
      ((leBytes 1 0x80 ++ leBytes 1 0 ++ leBytes 2 b.tag ++ List.replicate 60 0) :: bs, rc, n)
    else if b.wide then
      let (g, k) := gNarrow b
      let (bs, rc, n) := logBodies r rec
      (g.bytes :: bs, rc, n + k)
    else
      let (bs, rc, n) := logBodies r rec
      (b.bytes :: bs, rc, n)

/-- The page image of 65,664 bytes and the number of clamps (R311). -/
def logPack (bs : List GBlock) : List Byte × Nat :=
  let (bodies, rec, n) := logBodies (bs.take 1024) none
  let body := bodies.flatten
  (body ++ List.replicate (65536 - body.length) 0 ++ rec.getD (List.replicate 128 0), n)

/-- Elements and scale exponent of one block of the log, from its body slot, the page's record and the exponent in force
(R295, R297). -/
def logBlock (body rec : List Byte) (s : Int) : List Int × Int × Bool :=
  if leAt body 0 1 = 0x80 then
    let tag := leAt body 2 2
    ((GBlock.read (tag ||| 0x8000) rec).q, sx 8 (tag % 256), true)
  else ((GBlock.read 0 (body ++ List.replicate 64 0)).q, s, false)

/-! The seal of a layer (R304, R305) -/

/-- 1.0 in F32. -/
def one32 : Nat := 0x3F800000

/-- The bytes of a layer state with some fields replaced. -/
def layerState (st : List Byte) (p1 p2 : Nat) (k km : Int) (clean t : Nat) : List Byte :=
  bytesAt st 0 28 ++ leBytes 4 p1 ++ leBytes 4 p2 ++ leBytes 2 (toTwos 16 k) ++ leBytes 2 (toTwos 16 km) ++
  bytesAt st 40 2 ++ List.replicate 2 0 ++ leBytes 4 clean ++ leBytes 4 t ++ List.replicate 12 0

/-- seal_layer of R305: `st` is the 64-byte layer state. DESIGN CHOICE: a division of it that saturates (R62) sets no SAT flag
and counts in no census slot, for no rule names a tile for it (log entry 50). -/
def sealLayer (st : List Byte) (nonfinite lrn : Nat) : LayerSeal :=
  let f := fun o => leAt st o 4
  let k := sx 16 (leAt st 36 2)
  let km := sx 16 (leAt st 38 2)
  if 0 < nonfinite then
    { skip := true, state := layerState st (f 28) (f 32) (max (k - 1) 0) km 0 (f 48) }
  else
    let p1 := (mul32 (f 28) (f 8)).code
    let p2 := (mul32 (f 32) (f 16)).code
    let c1 := (div32 one32 (sub32 one32 p1).code).code
    let c2 := (div32 one32 (sqrt32 (sub32 one32 p2).code).code).code
    let clean := (f 44 + 1) % 2 ^ 32
    let up := clean == leAt st 40 2
    { skip := false, lr := (mul32 lrn (f 0)).code, wd := f 4, b1 := f 8, omb1 := f 12, b2 := f 16, omb2 := f 20
      eps := f 24, c1 := c1, c2 := c2, k := k, dk := k - km
      state := layerState st p1 p2 (if up then min (k + 1) 60 else k) k (if up then 0 else clean) ((f 48 + 1) % 2 ^ 32) }

/-- A layer's initial state as LOAD_PROGRAM writes it (R304). -/
def initialState (l : LayerImage) : List Byte :=
  leBytes 4 l.lrm ++ leBytes 4 l.wd ++ leBytes 4 l.b1 ++ leBytes 4 l.omb1 ++ leBytes 4 l.b2 ++ leBytes 4 l.omb2 ++
  leBytes 4 l.eps ++ leBytes 4 one32 ++ leBytes 4 one32 ++ leBytes 2 l.k ++ leBytes 2 l.k ++ leBytes 2 l.grow ++
  List.replicate 22 0

/-! The sizing table (R345 to R348) -/

/-- Slot `j` of an entry: signed for a gradient entry, an unsigned byte for a copy entry. -/
def slotOf (grad : Bool) (e : List Byte) (j : Nat) : Int := if grad then sx 8 (leAt e j 1) else (leAt e j 1 : Int)

/-- Replace slot `j`. -/
def setSlot (e : List Byte) (j : Nat) (v : Int) : List Byte := setNth e j (BitVec.ofNat 8 (toTwos 8 v))

/-- update of R347. -/
def sizingUpdate (grad : Bool) (e : List Byte) (n lag : Nat) (rec : Option Int) (flagged : Bool) : List Byte :=
  let top : Int := if grad then 127 else 254
  let used := slotOf grad e (n % 8)
  let e := setSlot e ((n + lag) % 8) (rec.getD used)
  if flagged then
    let j := (n + 1) % 8
    setSlot e j (max (slotOf grad e j) (min (used + 1) top))
  else e

/-- Record of a gradient block (R348): none when its maximum is 0. -/
def gradRecord (q : List Int) (s km : Int) : Option Int :=
  let a := q.foldl (fun m x => max m x.natAbs) 0
  if a = 0 then none else some (clampInt (-128) 127 (g8Fit a s - km))

/-- Record of a copy block from its maximum in F32 (R348). -/
def copyRecord (top : Nat) : Option Int :=
  match r32 top with
  | .fin _ m e => if m = 0 then none else some (narrowFit .e3m2 m e : Int)
  | _ => none

/-- The exponent in force for a gradient block (R346). -/
def gradExp (e : List Byte) (m : Nat) (k : Int) : Int := clampInt (-128) 127 (slotOf true e (m % 8) + k)

end Sys2Proof.Machine
end

