-- ==== Sys2Proof/Machine/Vector.lean ====
section
/-! DEFINITION. The vector engine: VCONV, VARITH, VRING, VOPT, VTOPK, VCOMP and CENSUS, and its completion (R95, R96, R191 to
R199, R307 to R311, R334 to R339, R503). A view in vat space is read and written by line requests to its port (log entry 16). -/

namespace Sys2Proof.Machine

/-! Words, blocks and views -/

/-- The fields of a vector word and its block (R191). -/
structure VArgs where
  sub : Nat
  cslot : Nat
  auxs : Nat
  s0 : Nat
  s1 : Nat
  s2 : Nat
  dst : Nat
  scale : Nat
  imm : Nat
  aux0 : Nat
  aux1 : Nat
  xa : Nat
  xb : Nat
deriving DecidableEq, Repr

/-- Read the fields. -/
def VArgs.parse (w : Nat) (b : Issue) : VArgs where
  sub := fld w 42 37
  cslot := fld w 36 32
  auxs := fld w 31 16
  s0 := leAt b.blk 0 4
  s1 := leAt b.blk 4 4
  s2 := leAt b.blk 8 4
  dst := leAt b.blk 12 4
  scale := leAt b.blk 16 4
  imm := leAt b.blk 20 4
  aux0 := leAt b.blk 24 4
  aux1 := leAt b.blk 28 4
  xa := b.xa
  xb := b.xb

/-- What a vector operation leaves: writes with their space (true is vat space), census classes, a saturation of R62, and
the free values used, a digest slot's new value and a census slot to clear. -/
structure VOut where
  ws : List (Bool × Nat × List Byte) := []
  cls : List (Option CensusClass) := []
  sat : Bool := false
  free : Nat := 0
  digest : Option (Nat × Digest) := none
  clear : Option Nat := none
deriving DecidableEq, Repr

/-- A checked operation: the ranges that it reads and, given the state, what it leaves, or a fault met while it runs with
what it had done. -/
structure VJob where
  reads : List (Bool × Nat × Nat) := []
  run : State → VOut × Option TFault

/-- The memory that holds a view. -/
def State.memOf (s : State) (e : Env) (v : View) : EccMem := if v.vat then s.vats.mem else (s.tile e.slot).sram

/-- Ranges of a view with its space. -/
def View.spaced (v : View) : List (Bool × Nat × Nat) := v.ranges.map fun r => (v.vat, r.1, r.2)

/-- Writes of a view with its space. -/
def View.put (v : View) (ws : List (Nat × List Byte)) : List (Bool × Nat × List Byte) := ws.map fun w => (v.vat, w.1, w.2)

/-- Raise DESC_INVALID at the vector engine where a condition fails. -/
def vinv (c : Bool) : Except TFault Unit := need c fDESC_INVALID 9

/-- A source or destination view with its extent check (R230); destinations may not alias (R231). -/
def State.vview (s : State) (e : Env) (a off : Nat) (dst : Bool) : Except TFault View := do
  let v ← s.viewAt e 9 a off
  vinv (!dst || v.noAlias)
  return v

/-- The range checks of the views of an operation (R230). -/
def State.vrange (s : State) (vs : List View) : Except TFault Unit := need (vs.all s.extentOk) fDESC_RANGE 9

/-- An AUX address: none, or its effective address with the bytes that it names in the tile (R182). -/
def auxAddrOf (a xb n align : Nat) : Except TFault (Option Nat) :=
  if a = noneAddr then .ok none
  else
    let b := (a + xb) % 2 ^ 64
    if b % align ≠ 0 then .error { code := fDESC_INVALID, unit := 9 }
    else if !tileRange b n then .error { code := fDESC_RANGE, unit := 9 }
    else .ok (some b)

/-- Two views have one shape (R191). -/
def sameShape (a b : View) : Bool := a.rank == b.rank && a.dims == b.dims && a.comp == b.comp

/-- Cut the codes of a view, in index order, into the blocks of `g` elements of each row of `n0` (R218). -/
def rowBlocks (n0 g : Nat) (cs : List Nat) : List (List Nat) := if n0 = 0 then [] else (cut n0 cs).flatMap (cut g)

/-- Census class of a computed F32 result with the operands it read (R96). -/
def vclass (f : Fmt) (o : Rnd) (sub : Bool) : Option CensusClass :=
  if (fpRead f false o.code).nonFinite then some .nonFinite
  else if o.sat then some .saturation
  else if sub || o.flush then some .flushed
  else if (fpRead f false o.code).isZero then some .zero else none

/-- The IEEE-pattern format of an element format, where it has one. -/
def floatFmt : ElemFmt → Option Fmt
  | .f32 => some f32
  | .w48 => some w48
  | .b16 => some b16
  | _ => none

/-- A block of 64 element integers as stored: a G8 block's upper 64 bytes have no defined content (R217) and take free
bytes from number `f`. -/
def gStored (b : GBlock) (f : Nat) : List Byte × Nat :=
  if b.wide then (b.bytes, f) else (b.bytes ++ freeBytes f 64, f + 64)

/-- Stored bytes and tags of blocks. -/
def gStoredAll : List GBlock → Nat → List (List Byte × Nat) × Nat
  | [], f => ([], f)
  | b :: r, f =>
    let (bs, f) := gStored b f
    let (rs, f) := gStoredAll r f
    ((bs, b.tag) :: rs, f)

/-- Integers of a block past its elements are 0 (R503). -/
def padTo (n k : Nat) (q : List Int) : List Int := q.take k ++ List.replicate (n - k) 0

/-! VCONV (R194) -/

/-- The conversions of R95. -/
def convOk (a b : ElemFmt) : Bool :=
  (a == .f32 && ([ElemFmt.e2m3, .e3m2, .e2m1, .g8, .g16, .m8s, .m8u, .b16, .w48].contains b)) ||
  (b == .f32 && ([ElemFmt.e2m3, .e3m2, .e2m1, .g8, .g16, .m8s, .m8u, .b16, .w48].contains a)) ||
  (a == .g8 && b == .g16)

/-- A destination format whose scales are given (R194). -/
def scaled (f : ElemFmt) : Bool := f.narrow || f == .g8 || f == .g16

/-- The scales of a blocked destination with `nb` blocks (R194, R331). -/
def State.scaleView (s : State) (e : Env) (x : VArgs) (nb : Nat) : Except TFault View := do
  let v ← s.viewAt e 9 x.scale x.xa
  vinv (v.fmt == .i32 && v.rank == 1 && !v.vat && decide (cdiv nb 4 ≤ nth 0 v.dims 0))
  return v

/-- Elements of one block of a grouped source as F32, with saturation and class (R75, R88, R89, R96). -/
def blkTo32 (f : ElemFmt) (b : Blk) : List Rnd :=
  if f.narrow then (List.range b.n).map fun i => w32 (narrowVal f b.aux (planeCode f b.data i))
  else if f = .m8s ∨ f = .m8u then (List.range b.n).map fun i => w32 (m8Val (f == .m8s) b.aux (leAt b.data i 1))
  else
    let g := GBlock.read b.aux b.data
    (g.q.take b.n).map fun q => intTo32 q g.s

/-- The results of a VCONV into a blocked format under given scales: units to store, maxima, overflow bits, classes. -/
structure BlkConv where
  unit : List Byte × Nat
  top : Nat
  above : Bool
  cls : List (Option CensusClass)
deriving DecidableEq, Repr

/-- Convert the blocks of an F32 source (R77 to R79, R84, R90). -/
def convBlocks (df : ElemFmt) : List (List Nat × Nat) → Nat → List BlkConv × Nat
  | [], f => ([], f)
  | (xs, sc) :: r, f =>
    let (o, f) :=
      if df.narrow then
        let b := narrowBlock df sc xs
        (({ unit := (b.body, b.scale), top := b.top, above := b.above, cls := b.cls } : BlkConv), f)
      else if df = .m8s ∨ df = .m8u then
        let (s, cs, cl) := m8Convert (df == .m8s) xs
        ({ unit := (cs.map fun c => BitVec.ofNat 8 c, s), top := 0, above := false, cls := cl }, f)
      else
        let (b, cl) := g8Convert (sx 8 sc) (df == .g16) xs
        let (m, e) := maxMag xs
        let (bs, f) := gStored b f
        ({ unit := (bs, b.tag), top := (fpRound f32 false m e).code, above := b.wide, cls := cl }, f)
    let (os, f) := convBlocks df r f
    (o :: os, f)

/-- A G8 or G16 block as G16 (R85, R95): its elements and tag fields as they stand, an element of code 0x8000 among them
(DESIGN CHOICE, log entry 44: R82 says that the module produces no such code, R95 that the conversion is exact). -/
def widen (b : Blk) : GBlock :=
  let g := GBlock.read b.aux b.data
  { g with wide := true, q := padTo 64 b.n g.q }

/-- The largest magnitude of a block of integers as F32 (R194). -/
def GBlock.top (g : GBlock) : Nat := (intTo32 (g.q.foldl (fun m q => max m q.natAbs) 0 : Nat) g.s).code

/-- What a VCONV into a blocked format leaves: its units, the maxima at AUX0 and the overflow bits at AUX1 (R194). -/
def State.blockOut (s : State) (d : View) (m0 m1 : Option Nat) (os : List BlkConv) (f : Nat) : VOut :=
  { ws := d.put (d.putBlks (os.map fun o => o.unit)) ++
      (m0.toList.map fun p => (false, p, os.flatMap fun o => leBytes 4 o.top)) ++
      (m1.toList.map fun p => (false, p, bitmap (os.map fun o => o.above)))
    cls := os.flatMap fun o => o.cls, free := f - s.free }

/-- VCONV. A conversion of G8 to G16 names block scales as every one into G16 does (R194, R331); being exact it keeps each
block's own exponent (DESIGN CHOICE, log entry 44). -/
def State.vconv (s : State) (e : Env) (x : VArgs) : Except TFault VJob := do
  vinv (x.sub == 0 && x.auxs == 0)
  let a ← s.vview e x.s0 x.xa false
  let d ← s.vview e x.dst x.xb true
  vinv (convOk a.fmt d.fmt && sameShape a d)
  let nb := if d.empty then 0 else d.units.length
  if scaled d.fmt then
    let sv ← s.scaleView e x nb
    s.vrange [a, d, sv]
    let m0 ← auxAddrOf x.aux0 x.xb (4 * nb) 1
    let m1 ← auxAddrOf x.aux1 x.xb (cdiv nb 8) 1
    return { reads := a.spaced ++ [(false, sv.base, nb)], run := fun s =>
      if a.fmt = .f32 then
        let scs := (s.memOf e sv).read sv.base nb
        let (os, f) := convBlocks d.fmt
          ((rowBlocks a.n0 d.fmt.gran (a.codes (s.memOf e a))).zip (scs.map fun b => b.toNat)) s.free
        (s.blockOut d m0 m1 os f, none)
      else
        let os := (a.blks (s.memOf e a)).map fun b =>
          let g := widen b
          ({ unit := (g.bytes, g.tag), top := g.top, above := true
             cls := (g.q.take b.n).map fun q => if q = 0 then some CensusClass.zero else none } : BlkConv)
        (s.blockOut d m0 m1 os s.free, none) }
  else
    vinv (x.scale == noneAddr && x.aux0 == noneAddr && x.aux1 == noneAddr)
    s.vrange [a, d]
    return { reads := a.spaced, run := fun s =>
      let m := s.memOf e a
      match floatFmt a.fmt, floatFmt d.fmt with
      | some fa, some fd =>
        let cs := a.codes m
        let os := cs.map fun c => fpWrite fd (fpRead fa false c)
        ({ ws := d.put (d.putCodes (os.map fun o => o.code))
           cls := List.zipWith (fun c o => vclass fd o (isSubnormal fa c)) cs os, sat := os.any Rnd.sat }, none)
      | some _, none =>
        let (os, f) := convBlocks d.fmt ((rowBlocks a.n0 d.fmt.gran (a.codes m)).map fun b => (b, 0)) s.free
        (s.blockOut d none none os f, none)
      | none, _ =>
        let os := (a.blks m).flatMap (blkTo32 a.fmt)
        ({ ws := d.put (d.putCodes (os.map fun o => o.code)), cls := os.map fun o => vclass f32 o false
           sat := os.any Rnd.sat }, none) }

/-! VARITH (R192, R193) -/

/-- One result with its class. -/
structure Elem where
  o : Rnd
  cls : Option CensusClass
deriving DecidableEq, Repr

/-- Element-wise results. -/
def arith (sub : Nat) (n : Int) (a b c : Nat) : Elem :=
  let o := match sub with
    | 0 => add32 a b
    | 1 => sub32 a b
    | 2 => mul32 a b
    | 3 => fma32 a b c
    | 4 => w32 (fpMax (r32 a) (r32 b))
    | 5 => w32 (fpMin (r32 a) (r32 b))
    | 6 => scale32 a n
    | _ => ⟨a, false, false⟩
  let sn := match sub with
    | 6 => isSubnormal f32 a
    | 9 => false
    | 3 => isSubnormal f32 a || isSubnormal f32 b || isSubnormal f32 c
    | _ => isSubnormal f32 a || isSubnormal f32 b
  -- MOVE copies bit for bit, so it flushes nothing
  ⟨o, if sub = 9 ∧ isSubnormal f32 a then none else vclass f32 o sn⟩

/-- MAXABS of one block (R192). -/
def maxAbs (xs : List Nat) : Elem :=
  let o := w32 (xs.foldl (fun m x => fpMax m (r32 x).abs) (.fin false 0 0))
  ⟨o, vclass f32 o (xs.any (isSubnormal f32))⟩

/-- A sum that remembers what happened on the way. -/
structure Acc where
  v : Nat
  sat : Bool
  flush : Bool
deriving DecidableEq, Repr

/-- One add of SUM. -/
def Acc.add (a b : Acc) : Acc :=
  let o := add32 a.v b.v
  ⟨o.code, a.sat || b.sat || o.sat, a.flush || b.flush || o.flush⟩

/-- Combine neighbours. -/
def pairUp : List Acc → List Acc
  | a :: b :: r => a.add b :: pairUp r
  | l => l

/-- SUM of one row in the fixed order of R193. -/
def sumRow (xs : List Nat) : Elem :=
  let lanes := (List.range 16).map fun l =>
    ((xs.zipIdx).filter fun p => p.2 % 16 == l).foldl (fun a p => a.add ⟨p.1, false, isSubnormal f32 p.1⟩)
      (⟨0, false, false⟩ : Acc)
  match pairUp (pairUp (pairUp (pairUp lanes))) with
  | a :: _ => ⟨⟨a.v, a.sat, a.flush⟩, vclass f32 ⟨a.v, a.sat, a.flush⟩ false⟩
  | [] => ⟨⟨0, false, false⟩, none⟩

/-- A sub-operation with a second source. -/
def binarySub (sub : Nat) : Bool := decide (sub ≤ 5)

/-- VARITH. -/
def State.varith (s : State) (e : Env) (x : VArgs) : Except TFault VJob := do
  vinv (decide (x.sub ≤ 9))
  vinv (x.sub == 6 || (x.sub == 7 && (x.auxs == 32 || x.auxs == 64)) || (x.sub != 7 && x.auxs == 0))
  let a ← s.vview e x.s0 x.xa false
  let b ← if binarySub x.sub then s.viewOpt e 9 x.s1 x.xa else .ok none
  let c ← if x.sub = 3 then (s.viewAt e 9 x.s2 x.xa).map some else .ok none
  let d ← s.vview e x.dst x.xb true
  let all := [a, d] ++ b.toList ++ c.toList
  vinv (all.all fun v => v.fmt == .f32)
  let want := if x.sub = 7 then setNth a.dims 0 (cdiv (nth 0 a.dims 0) x.auxs)
    else if x.sub = 8 then setNth a.dims 0 1 else a.dims
  vinv (d.rank == a.rank && d.dims == want && d.comp == a.comp && (b.toList ++ c.toList).all (sameShape a))
  s.vrange all
  return { reads := (a :: b.toList ++ c.toList).flatMap View.spaced, run := fun s =>
    let av := a.codes (s.memOf e a)
    let os :=
      if a.empty then []
      else if x.sub = 7 then (rowBlocks a.n0 x.auxs av).map maxAbs
      else if x.sub = 8 then (cut a.n0 av).map sumRow
      else
        let bv := match b with
          | some v => v.codes (s.memOf e v)
          | none => av.map fun _ => x.imm
        let cv := match c with
          | some v => v.codes (s.memOf e v)
          | none => av
        List.zipWith (fun p c => arith x.sub (sx 16 x.auxs) p.1 p.2 c) (av.zip bv) cv
    ({ ws := d.put (d.putCodes (os.map fun o => o.o.code)), cls := os.map Elem.cls
       sat := os.any fun o => o.o.sat }, none) }

/-! VRING (R334 to R339) -/

/-- The state of a running VRING. -/
structure Ring where
  done : List (List Byte × Nat) := []
  wide : List Bool := []
  clamps : Nat := 0
  dg : Digest
  free : Nat
deriving DecidableEq, Repr

/-- Stored bytes of a block that enter a digest (R339). -/
def ringBytes (tag : Nat) (data : List Byte) : List Byte :=
  leBytes 2 tag ++ data.take (if tag.testBit 15 then 128 else 64)

/-- Record one block pair in a digest slot. -/
def Digest.note (d : Digest) (rx tx : List Byte) : Digest :=
  { rx := crc64More d.rx rx, rxn := (d.rxn + 1) % 2 ^ 32, tx := crc64More d.tx tx, txn := (d.txn + 1) % 2 ^ 32 }

/-- Blocks of SRC0 and SRC1 in order; true at the end when a pair's exponents differ (R335, R336). -/
def ringBlocks : List (Blk × Option Blk) → Ring → Ring × Bool
  | [], r => (r, false)
  | (a, b) :: rest, r =>
    let ga := GBlock.read a.aux a.data
    let ga := { ga with q := padTo 64 a.n ga.q }
    let step := fun (g : GBlock) (tag n : Nat) =>
      let (bs, f) := gStored g r.free
      { r with done := r.done ++ [(bs, tag)], wide := r.wide ++ [tag.testBit 15], clamps := r.clamps + n, free := f
               dg := r.dg.note (ringBytes a.aux a.data) (ringBytes tag bs) }
    match b with
    | none => ringBlocks rest (step ga a.aux 0)
    | some b =>
      let gb := GBlock.read b.aux b.data
      let gb := { gb with q := padTo 64 b.n gb.q }
      if ga.s ≠ gb.s then (r, true)
      else
        let (g, n) := gAdd ga gb
        ringBlocks rest (step g g.tag n)

/-- A digest slot of free values (R336). -/
def freeDigest (f : Nat) : Digest :=
  { rx := (Config.freeWord f).toNat, rxn := (Config.freeWord (f + 1)).toNat % 2 ^ 32
    tx := (Config.freeWord (f + 2)).toNat, txn := (Config.freeWord (f + 3)).toNat % 2 ^ 32 }

/-- VRING. -/
def State.vring (s : State) (e : Env) (x : VArgs) : Except TFault VJob := do
  vinv (x.sub == 0 && decide (x.auxs < 8) && x.aux0 == noneAddr)
  let g := fun (v : View) => v.fmt == .g8 || v.fmt == .g16
  let a ← s.vview e x.s0 x.xa false
  let b ← s.viewOpt e 9 x.s1 x.xa
  let d ← s.vview e x.dst x.xb true
  vinv (g a && b.all g && d.fmt == .g8 && sameShape a d && b.all (sameShape a))
  let nb := if a.empty then 0 else a.units.length
  s.vrange ([a, d] ++ b.toList)
  let m1 ← auxAddrOf x.aux1 x.xb (cdiv nb 8) 1
  return { reads := (a :: b.toList).flatMap View.spaced, run := fun s =>
    let as := a.blks (s.memOf e a)
    let bs := match b with
      | some v => (v.blks (s.memOf e v)).map some
      | none => as.map fun _ => none
    let dg := sget {} (s.tile e.slot).digests x.auxs
    let (r, bad) := ringBlocks (as.zip bs) { dg := dg, free := s.free }
    if bad then
      let k := d.units.length - r.done.length
      let rest := (List.range k).map fun i => (freeBytes (r.free + 130 * i) 128, leNat (freeBytes (r.free + 130 * i + 128) 2))
      let f := r.free + 130 * k
      let bits := r.wide ++ (List.range k).map fun i => Config.freeBool (f + 4 + i)
      ({ ws := d.put (d.putBlks (r.done ++ rest)) ++ (m1.toList.map fun p => (false, p, bitmap bits))
         cls := List.replicate r.clamps (some CensusClass.saturation), free := f + 4 + k - s.free
         digest := some (x.auxs, freeDigest f) }, some { code := fDESC_INVALID, unit := 9 })
    else
      ({ ws := d.put (d.putBlks r.done) ++ (m1.toList.map fun p => (false, p, bitmap r.wide))
         cls := List.replicate r.clamps (some CensusClass.saturation), free := r.free - s.free
         digest := some (x.auxs, r.dg) }, none) }

/-! VOPT (R309 to R311) -/

/-- A view of rank 1 with a format and size. -/
def View.isLine (v : View) (f : ElemFmt) (n : Nat) : Bool := v.fmt == f && v.rank == 1 && nth 0 v.dims 0 == n && !v.comp

/-- LOGPACK. -/
def State.logpack (s : State) (e : Env) (x : VArgs) : Except TFault VJob := do
  let a ← s.vview e x.s0 x.xa false
  let d ← s.vview e x.dst x.xb true
  vinv ([x.s1, x.s2, x.scale, x.aux0, x.aux1].all (· == noneAddr))
  let n := a.dims.foldl (· * ·) 1
  vinv (a.fmt == .g8 && !a.vat && decide (1 ≤ n) && decide (n ≤ 65536) && decide (a.units.length ≤ 1024) &&
    d.isLine .i32 16416)
  s.vrange [a, d]
  return { reads := a.spaced, run := fun s =>
    let bs := (a.blks (s.memOf e a)).map fun b =>
      let g := GBlock.read b.aux b.data
      { g with q := padTo 64 b.n g.q }
    let (img, n) := logPack bs
    ({ ws := d.put (d.putCodes ((List.range 16416).map fun i => leAt img (4 * i) 4))
       cls := List.replicate n (some CensusClass.saturation) }, none) }

/-- Blocks of a moment tensor as scale and codes. -/
def momentBlks (v : View) (m : EccMem) : List (Nat × List Nat) :=
  (v.blks m).map fun b => (b.aux, (List.range b.n).map fun i => leAt b.data i 1)

/-- ADAMW and SGDM. -/
def State.vopt (s : State) (e : Env) (x : VArgs) : Except TFault VJob := do
  let ada := x.sub == 0
  let w ← s.vview e x.s0 x.xa true
  let m1 ← s.vview e x.s1 x.xa true
  let m2 ← s.viewOpt e 9 x.s2 x.xa
  let lg ← s.vview e x.scale x.xa false
  let d ← s.vview e x.dst x.xb true
  let n := nth 0 w.dims 0
  let slots := (d.units.map fun u => u.2).foldl (· + ·) 0
  vinv (w.isLine .f32 n && decide (1 ≤ n) && decide (n ≤ 4096) && m1.isLine .m8s n &&
    (if ada then m2.any (fun v => v.isLine .m8u n && v.noAlias) else m2.isNone) &&
    lg.isLine .i32 (16 * cdiv n 64) && d.fmt == .e3m2 &&
    (d.isLine .e3m2 n || (d.comp && slots == n && d.units.length == cdiv n 32)))
  vinv (x.aux0 != noneAddr)
  s.vrange ([w, m1, lg, d] ++ m2.toList)
  let ctl ← auxAddrOf x.aux0 x.xb 256 64
  let a1 ← auxAddrOf x.aux1 x.xb (4 * cdiv n 32 + cdiv (cdiv n 32) 8) 4
  let at_ := ctl.getD 0
  s.clean e 9 [(at_, 256)]
  let area := (s.tile e.slot).sram.read at_ 256
  vinv (allZero (bytesAt area 40 24))
  return { reads := ([w, m1, lg, d] ++ m2.toList).flatMap View.spaced, run := fun s =>
    let c := OptC.parse area
    let logb := (lg.codes (s.memOf e lg)).flatMap (leBytes 4)
    let gs := (List.range (cdiv n 64)).flatMap fun b =>
      let (q, sc, _) := logBlock (bytesAt logb (64 * b) 64) (bytesAt area 128 128) (sx 8 (leAt area (64 + b) 1))
      q.map fun v => (v, sc)
    let o := optChunk ada c (w.codes (s.memOf e w)) (momentBlks m1 (s.memOf e m1))
      (match m2 with | some v => momentBlks v (s.memOf e v) | none => []) gs ((d.blks (s.memOf e d)).map fun b => b.aux)
    let mb := fun (bs : List (Nat × List Nat)) => bs.map fun b => (b.2.map fun q => (BitVec.ofNat 8 q : Byte), b.1)
    ({ ws := w.put (w.putCodes o.w) ++ m1.put (m1.putBlks (mb o.m1)) ++
        (m2.toList.flatMap fun v => v.put (v.putBlks (mb o.m2))) ++
        d.put (d.putBlks (o.copy.map fun b => (b.body, b.scale))) ++
        (a1.toList.map fun p => (false, p, (o.copy.flatMap fun b => leBytes 4 b.top) ++ bitmap (o.copy.map fun b => b.above)))
       cls := o.cls, sat := o.sats.any id }, none) }

/-! VTOPK (R196) -/

/-- A candidate: score code and index. -/
abbrev Cand := Nat × Int

/-- Rank of a score: NaN below −Inf. -/
def scoreLt (a b : Nat) : Bool :=
  match r32 a, r32 b with
  | .nan, .nan => false
  | .nan, _ => true
  | _, .nan => false
  | x, y => decide (fpCmp x y < 0)

/-- `a` comes before `b`: higher score, then lower index. -/
def candBefore (a b : Cand) : Bool := scoreLt b.1 a.1 || (!scoreLt a.1 b.1 && decide (a.2 < b.2))

/-- Insert a candidate; equal ones stay in order. -/
def candInsert (x : Cand) : List Cand → List Cand
  | [] => [x]
  | y :: r => if candBefore x y then x :: y :: r else y :: candInsert x r

/-- The entries of a list tensor as 8-byte strings: consecutive bytes of its units in index order (log entry 17). -/
def View.entries (v : View) (m : EccMem) : List (List Byte) :=
  cut 8 (v.units.flatMap fun j => m.read (v.unitAddr j.1) v.fmt.unit)

/-- Writes of 8-byte entries into a list tensor. -/
def View.putEntries (v : View) (es : List (List Byte)) : List (Nat × List Byte) :=
  List.zipWith (fun j b => (v.unitAddr j.1, b)) v.units (cut v.fmt.unit es.flatten)

/-- A list tensor's format has units of 4 or 8 bytes. -/
def View.listOk (v : View) : Bool := v.fmt == .f32 || v.fmt == .i32 || v.fmt == .w48

/-- VTOPK. One with an empty source or destination reads and writes no data (R232), also where R196 would fill k entries
(DESIGN CHOICE, log entry 44). -/
def State.vtopk (s : State) (e : Env) (x : VArgs) : Except TFault VJob := do
  vinv (x.sub == 0 && decide (x.auxs ≤ 1024))
  let a ← s.vview e x.s0 x.xa false
  let b ← s.viewOpt e 9 x.s1 x.xa
  let d ← s.vview e x.dst x.xb true
  let room := fun (v : View) => v.units.length * v.fmt.unit
  vinv (a.fmt == .f32 && d.listOk && b.all (fun v => v.listOk && room v % 8 == 0) &&
    (d.empty || decide (8 * x.auxs ≤ room d)))
  s.vrange ([a, d] ++ b.toList)
  if x.auxs == 0 || a.empty || d.empty || b.any View.empty then return { run := fun _ => ({}, none) }
  return { reads := (a :: b.toList).flatMap View.spaced, run := fun s =>
    let own := ((a.codes (s.memOf e a)).zipIdx).map fun p => (p.1, sx 32 (x.aux0 + p.2))
    let given := match b with
      | some v => ((v.entries (s.memOf e v)).map fun q => (leAt q 0 4, sx 32 (leAt q 4 4))).filter fun q => q.2 != -1
      | none => []
    let best := ((own ++ given).foldl (fun l c => candInsert c l) []).take x.auxs
    let es := best.map fun c => leBytes 4 (w32 (r32 c.1)).code ++ leBytes 4 (toTwos 32 c.2)
    let none_ := List.replicate (x.auxs - best.length) (leBytes 4 0x7FC00000 ++ leBytes 4 0xFFFFFFFF)
    ({ ws := d.put (d.putEntries (es ++ none_))
       cls := best.map fun c => vclass f32 (w32 (r32 c.1)) (isSubnormal f32 c.1) }, none) }

/-! VCOMP (R197) -/

/-- The two slot values of a group under a mask: kept values in ascending position, 0 beyond (R149). DESIGN CHOICE: of a mask
with three or four bits set, which VCOMP does not check, the first two are kept (log entry 50). -/
def compGroup (mask : Nat) (xs : List Nat) : List Nat :=
  let k := ((xs.zipIdx).filter fun p => mask.testBit p.2).map fun p => p.1
  [nth 0 k 0, nth 0 k 1]

/-- VCOMP. -/
def State.vcomp (s : State) (e : Env) (x : VArgs) : Except TFault VJob := do
  vinv (x.sub == 0 && x.auxs == 0)
  let a ← s.vview e x.s0 x.xa false
  let k ← s.vview e x.s1 x.xa false
  let d ← s.vview e x.dst x.xb true
  vinv (a.fmt == .f32 && !a.comp && k.fmt == .mask4 && d.comp && (d.fmt == .f32 || d.fmt.narrow) &&
    a.rank == 2 && a.dims == d.dims && k.rank == 2 && k.dims == d.dims)
  let nb := if d.empty then 0 else d.units.length
  let sv ← if d.fmt.narrow then (s.scaleView e x nb).map some else .ok none
  vinv (d.fmt.narrow || x.scale == noneAddr)
  s.vrange ([a, k, d] ++ sv.toList)
  return { reads := a.spaced ++ k.spaced ++ sv.toList.map (fun v => (false, v.base, nb)), run := fun s =>
    let n0 := nth 0 a.dims 0
    let rows := if n0 = 0 then [] else cut n0 (a.codes (s.memOf e a))
    let masks := cut (cdiv n0 32) (k.codes (s.memOf e k))
    let slots := (rows.zip masks).flatMap fun p => ((cut 4 p.1).zipIdx).flatMap fun g =>
      compGroup (nth 0 p.2 (g.2 / 8) >>> (4 * (g.2 % 8))) g.1
    if d.fmt.narrow then
      let scs := match sv with
        | some v => ((s.memOf e v).read v.base nb).map fun b => b.toNat
        | none => []
      let (os, _) := convBlocks d.fmt ((rowBlocks d.n0 32 slots).zip scs) 0
      ({ ws := d.put (d.putBlks (os.map fun o => o.unit)), cls := os.flatMap fun o => o.cls }, none)
    else
      let os := slots.map fun c => w32 (r32 c)
      ({ ws := d.put (d.putCodes (os.map fun o => o.code))
         cls := List.zipWith (fun c o => vclass f32 o (isSubnormal f32 c)) slots os }, none) }

/-! CENSUS (R198) -/

/-- The three sub-operations. -/
def State.census (_s : State) (e : Env) (x : VArgs) (b : Issue) : Except TFault VJob := do
  vinv (x.auxs == 0 && allZero (bytesAt b.blk 4 60) && decide (x.sub ≤ 2))
  if x.sub = 0 then return { run := fun _ => ({ clear := some x.cslot }, none) }
  else
    vinv (x.s0 != noneAddr)
    let p ← auxAddrOf x.s0 x.xb (if x.sub = 1 then 16 else 4) 1
    return { run := fun s =>
      let t := s.tile e.slot
      ({ ws := p.toList.map fun a => (false, a,
        if x.sub = 1 then (sget {} t.census x.cslot).bytes else leBytes 4 (t.ctx e.c).flags.toNat) }, none) }

/-! Running a checked operation -/

/-- The ranges of what an operation leaves in one space. -/
def VOut.rangesIn (o : VOut) (vat : Bool) : List (Nat × Nat) :=
  (o.ws.filter fun w => w.1 == vat).map fun w => (w.2.1, w.2.2.length)

/-- Write in the tile what an operation leaves there: bytes, census, digest and SAT (R191, R198). -/
def State.vapply (s : State) (e : Env) (x : VArgs) (o : VOut) : State :=
  let s := { s with free := s.free + o.free }
  let t : Tile := s.tile e.slot
  let t : Tile := { t with
    sram := t.sram.writes ((o.ws.filter fun (w : Bool × Nat × List Byte) => !w.1).map fun (w : Bool × Nat × List Byte) => w.2)
    census := match o.clear with
      | some k => sput {} t.census k {}
      | none => t.census
    digests := match o.digest with
      | some (d, v) => sput {} t.digests d v
      | none => t.digests }
  (s.setTile e.slot (t.countCensus x.cslot o.cls)).noteSat e.slot e.c o.sat

/-- The tile ranges that a vector operation reads. -/
def VJob.own (j : VJob) : List (Nat × Nat) := (j.reads.filter fun r => !r.1).map fun r => r.2

/-- Count what an operation reads. -/
def State.vcount (s : State) (e : Env) (j : VJob) : State :=
  s.tileReads e.slot j.own

/-- A line write that the port performs at once, unless it holds it (R298, R343). -/
def State.passLine (s : State) (q : UnitReq) : State :=
  match q with
  | .line r => if s.writeHeld r then s else s.portWrite r.addr r.data r.ph1
  | .tile _ => s

/-- The vector operation of a number performs: its results go into the tile, and its writes to vat space go out as line
requests; one that stops with a fault has written what it left, but for the lines that the ports hold (R298, R343), and is
no longer in flight (R336). -/
def State.vperform (s : State) (e : Env) (x : VArgs) (id : Nat) (o : VOut) (f : Option TFault) : State :=
  let s := (s.vapply e x o).conflicts e.slot .vector (o.rangesIn false)
  let vs := (o.ws.filter fun w => w.1).map fun w => w.2
  match f with
  | none => s.request e.slot id (lineWrites e id vs)
  | some f =>
    let s := (lineWrites e id vs).foldl State.passLine s
    (s.setTile e.slot ((s.tile e.slot).modOp id fun u => { u with dst := [], vdst := [] })).tileFault e f

/-- The state whose vat space shows the lines that an operation has been served. -/
def State.served_ (s : State) (got : List (Nat × List Byte)) : State :=
  { s with vats := { s.vats with mem := s.vats.mem.writes got } }

/-- A vector operation runs once its vat operands have come: it reads the tile, computes from the lines that it has been
served, and writes (R191, R292). -/
def State.vrun (s : State) (e : Env) (x : VArgs) (o : UnitOp) (j : VJob) : State :=
  let id := o.id
  let s := s.meetReads e.slot .vector j.own j.own
  match (s.tile e.slot).sram.bad j.own with
  | some w => s.tileFault e { code := fSRAM_UE, unit := 9, word := w }
  | none =>
    let (o, f) := j.run (s.served_ o.got)
    s.perform e (s.writable e 9 (o.rangesIn false)) fun _ => (s.vcount e j).vperform e x id o f

/-- The unit operation that a vector word starts, with its destination extents (R215). -/
def State.vunit (s : State) (e : Env) (b : Issue) (j : VJob) (o : VOut) (wait : Bool) : UnitOp :=
  { e.unitOp (s.tile e.slot).nextId (o.rangesIn false) with
    ext := j.own ++ o.rangesIn false
    vdst := o.rangesIn true, waiting := wait, word := e.word, pc := e.pc, xa := b.xa, xb := b.xb, blk := b.blk }

/-- A vector operation enters its queue. -/
def State.vqueue (s : State) (e : Env) (u : UnitOp) : State :=
  let t := s.tile e.slot
  let u := { u with race := t.written .vector u.ext }
  (s.setTile e.slot { t with vecQ := t.vecQ ++ [u], nextId := t.nextId + 1 }).conflicts e.slot .vector u.dst

/-- The vat ranges that an operation reads, as the lines that it requests. -/
def vreads (e : Env) (id : Nat) (j : VJob) : List UnitReq :=
  lineReads e id ((j.reads.filter fun r => r.1).map fun r => ⟨r.2.1, 0, r.2.2⟩)

/-- A checked vector word issues (R191): it runs at once, unless an operation before it still waits for vat operands or it
reads vat space itself; then it waits for its turn and for its lines. -/
def State.vissue (s : State) (e : Env) (b : Issue) (x : VArgs) (j : VJob) : State :=
  let t := s.tile e.slot
  let before := t.vecQ.any fun o => o.waiting
  let o := (j.run s).1
  let qs := vreads e t.nextId j
  if before || !qs.isEmpty then
    let s := (s.issue e (s.ctxOf e).advance).vqueue e (s.vunit e b j o true)
    if before then s else s.request e.slot t.nextId qs
  else
    let u := s.vunit e b j o false
    let s := s.meetReads e.slot .vector u.ext j.own
    let (o, f) := j.run s
    match (s.tile e.slot).sram.bad j.own with
    | some w => s.tileFault e { code := fSRAM_UE, unit := 9, word := w }
    | none =>
      s.perform e (s.writable e 9 (o.rangesIn false)) fun _ =>
        (((s.vcount e j).issue e (s.ctxOf e).advance).vqueue e u).vperform e x u.id o f

/-- The vector engine's four places are taken (R187). -/
def vecFull (e : Env) (s : State) : Bool := decide (4 ≤ (s.tile e.slot).vecQ.length)

/-- A vector word: reserved bytes, the operation's checks, the operation. -/
def vecDo (chk : State → Env → VArgs → Except TFault VJob) (b : Issue) (e : Env) (s : State) : State :=
  let x := VArgs.parse e.word b
  s.perform e (do
    vinv (allZero (bytesAt b.blk 32 32))
    chk s e x) fun j => s.vissue e b x j

/-- A sub-operation's row: its own SUB, or one that no row has, which faults; another row's changes nothing (log entry
13). -/
def vecSub (sub n : Nat) (k : Issue → Env → State → State) (b : Issue) (e : Env) (s : State) : State :=
  let u := fld e.word 42 37
  if u = sub ∨ n ≤ u then k b e s else s

/-- A CENSUS word. -/
def censusDo (b : Issue) (e : Env) (s : State) : State :=
  let x := VArgs.parse e.word b
  s.perform e (s.census e x b) fun j => s.vissue e b x j

/-- VOPT's sub-operations. -/
def voptChk (s : State) (e : Env) (x : VArgs) : Except TFault VJob := do
  vinv (x.auxs == 0 && x.imm == 0 && decide (x.sub ≤ 2))
  if x.sub = 2 then s.logpack e x else s.vopt e x

/-- The checks of a waiting operation's opcode. -/
def State.vcheck (s : State) (e : Env) (b : Issue) : Except TFault VJob :=
  let x := VArgs.parse e.word b
  if e.op = 0x10 then s.vconv e x else if e.op = 0x11 then s.varith e x else if e.op = 0x12 then s.vring e x
  else if e.op = 0x13 then voptChk s e x else if e.op = 0x14 then s.vtopk e x else if e.op = 0x15 then s.vcomp e x
  else s.census e x b

/-- The word and block of a waiting operation. -/
def UnitOp.env (o : UnitOp) (v : Env) : Env := { v with c := o.ctx, pc := o.pc, word := o.word }

/-- A waiting vector operation whose lines have come runs. -/
def State.vready (s : State) (v : Env) (o : UnitOp) : State :=
  let e := o.env v
  let b : Issue := ⟨o.blk, o.xa, o.xb⟩
  let s := s.setTile v.slot ((s.tile v.slot).modOp o.id fun u => { u with waiting := false })
  s.perform e (s.vcheck e b) fun j => s.vrun e (VArgs.parse o.word b) o j

/-- The oldest vector operation of a tile takes its turn: it asks for its vat lines, or runs when it reads none. -/
def State.vnext (s : State) (v : Env) : State :=
  match (s.tile v.slot).vecQ with
  | [] => s
  | o :: _ =>
    if !o.waiting then s
    else
      let e := o.env v
      s.perform e (s.vcheck e ⟨o.blk, o.xa, o.xb⟩) fun j =>
        let qs := vreads e o.id j
        if qs.isEmpty then s.vready v o else s.request v.slot o.id qs

/-- A line of a vector operation has been served: the operation runs once no line of its operands is due. -/
def State.vserved (s : State) (v : Env) (id : Nat) : State :=
  let s := s.answered v.slot id
  match (s.tile v.slot).vecQ with
  | o :: _ => if o.id = id && o.waiting && o.left == 0 then s.vready v o else s
  | [] => s

/-- A VARITH row. -/
def varithRow (sub t : Nat) (c : Ctx) (s : State) : Out := issueRow s t c 0x11 vecFull (vecSub sub 10 (vecDo State.varith))

/-- A VOPT row. -/
def voptRow (sub t : Nat) (c : Ctx) (s : State) : Out := issueRow s t c 0x13 vecFull (vecSub sub 3 (vecDo voptChk))

/-- A CENSUS row. -/
def censusRow (sub t : Nat) (c : Ctx) (s : State) : Out := issueRow s t c 0x16 vecFull (vecSub sub 3 censusDo)

/-- VCONV. -/
def execVconv (t : Nat) (c : Ctx) (s : State) : Out := issueRow s t c 0x10 vecFull (vecDo State.vconv)
/-- ADD. -/
def execAdd (t : Nat) (c : Ctx) (s : State) : Out := varithRow 0 t c s
/-- SUB. -/
def execSub (t : Nat) (c : Ctx) (s : State) : Out := varithRow 1 t c s
/-- MUL. -/
def execMul (t : Nat) (c : Ctx) (s : State) : Out := varithRow 2 t c s
/-- FMA. -/
def execFma (t : Nat) (c : Ctx) (s : State) : Out := varithRow 3 t c s
/-- MAX. -/
def execMax (t : Nat) (c : Ctx) (s : State) : Out := varithRow 4 t c s
/-- MIN. -/
def execMin (t : Nat) (c : Ctx) (s : State) : Out := varithRow 5 t c s
/-- SCALE2. -/
def execScale2 (t : Nat) (c : Ctx) (s : State) : Out := varithRow 6 t c s
/-- MAXABS. -/
def execMaxabs (t : Nat) (c : Ctx) (s : State) : Out := varithRow 7 t c s
/-- SUM. -/
def execSum (t : Nat) (c : Ctx) (s : State) : Out := varithRow 8 t c s
/-- MOVE. -/
def execMove (t : Nat) (c : Ctx) (s : State) : Out := varithRow 9 t c s
/-- VRING. -/
def execVring (t : Nat) (c : Ctx) (s : State) : Out := issueRow s t c 0x12 vecFull (vecDo State.vring)
/-- ADAMW. -/
def execAdamw (t : Nat) (c : Ctx) (s : State) : Out := voptRow 0 t c s
/-- SGDM. -/
def execSgdm (t : Nat) (c : Ctx) (s : State) : Out := voptRow 1 t c s
/-- LOGPACK. -/
def execLogpack (t : Nat) (c : Ctx) (s : State) : Out := voptRow 2 t c s
/-- VTOPK. -/
def execVtopk (t : Nat) (c : Ctx) (s : State) : Out := issueRow s t c 0x14 vecFull (vecDo State.vtopk)
/-- VCOMP. -/
def execVcomp (t : Nat) (c : Ctx) (s : State) : Out := issueRow s t c 0x15 vecFull (vecDo State.vcomp)
/-- CENSUS SUB 0. -/
def execCensusClear (t : Nat) (c : Ctx) (s : State) : Out := censusRow 0 t c s
/-- CENSUS SUB 1. -/
def execCensusStore (t : Nat) (c : Ctx) (s : State) : Out := censusRow 1 t c s
/-- CENSUS SUB 2. -/
def execCensusFlags (t : Nat) (c : Ctx) (s : State) : Out := censusRow 2 t c s

/-- The oldest vector operation of a tile completes once its last line has been written, increments its counter (R191,
R199), and the next one takes its turn; an unclocked tile completes none (R254). -/
def execVectorCompletion (t : Nat) (s : State) : Out :=
  if !tileOk t then .fault .noSuchUnit
  else match s.unitEnv t .c0 with
    | none => .next s
    | some v =>
      let x := s.tile v.slot
      match x.vecQ with
      | [] => .next s
      | o :: r =>
        if o.left ≠ 0 ∨ o.waiting then .next s
        else .next (((s.setTile v.slot ({ x with vecQ := r }.complete o.ctr o.cen)).leave v.slot o).vnext v)

end Sys2Proof.Machine
end

