-- ==== Sys2Proof/Machine/Vats.lean ====
section
/-! DEFINITION. The vat ports' queues: which line a port takes, what it does to it, the delivery of streams and views, the
write-back of a corrected word and the patrol (R286, R289, R291 to R293, R298, R300, R322, R333, R340, R343, R356, R373). -/

namespace Sys2Proof.Machine

/-! The phase-2 frontier -/

/-- Phase 2 has completed every chunk of a layer (R300, R333); with no step in phase 2 it has. -/
def State.layerReady (s : State) (i : Image) (k : Nat) : Bool :=
  match s.train.ph2, i.layers[k]? with
  | some x, some l => (List.range l.chunks).all fun c => s.chunkDone i x.step (l.chunk0 + c)
  | _, _ => true

/-- The layer state in force, committed, which is read from the layer table, or that of the step in phase 2 (R304, R305,
R333); a lost word of the table is handled in place of what follows (R367). -/
def State.layerNow (s : State) (i : Image) (k : Nat) (go : List Byte → State → State) : State :=
  match s.train.ph2 with
  | some x => go (match x.layers[k]? with
    | some l => l.state
    | none => []) s
  | none =>
    let a := i.layerTable + 128 * k + 64
    s.vatLines [(a, 64)] fun s => go (s.vats.mem.read a 64) s

/-! Streams and views -/

/-- Add `n` to a tile's completion counter. -/
def State.incCounter (s : State) (slot ctr n : Nat) : State := s.setTile slot ((s.tile slot).incCtr ctr n)

/-- Serving slots of an entry's destination tiles (R205, R300). -/
def State.destSlots (s : State) (prog : Nat) (r : RectEntry) : List Nat :=
  match s.image? prog, s.prog prog with
  | some i, some p =>
    let (x, y) := p.bound.getD (0, 0)
    (i.rect r.px0 r.py0 r.px1 r.py1 r.tmask).filterMap fun q =>
      s.bind.applied.tileSlot (((y + q.2.1) * 40 + x + q.1) * 16 + q.2.2)
  | _, _ => []

/-- Write bytes at a tile address of several slots. -/
def State.castBytes (s : State) (slots : List Nat) (a : Nat) (bs : List Byte) : State :=
  if bs.isEmpty then s
  else slots.foldl (fun s k =>
    let t := s.tile k
    (s.setTile k { t with sram := t.sram.write a bs }).conflicts k .outside [(a, bs.length)]) s

/-- A line of a stream or view waits at some vat. -/
def State.lineWaits (s : State) (a : Asker) : Bool :=
  s.vats.vats.any fun kv => kv.2.qStream.any fun q => q.asker == a

/-- RCTR increments in every destination tile once no line of the entry waits (R300, R333). -/
def State.castDone (s : State) (a : Asker) (slots : List Nat) (ctr : Nat) : State :=
  if s.lineWaits a then s else slots.foldl (fun s k => s.incCounter k ctr 1) s

/-- Address of the gradient entry of a layer's block (R344). -/
def Image.gradEntry (i : Image) (l : LayerImage) (b : Nat) : Nat := i.region (l.chunk0 + b / 1024) + 8 * (b % 1024)

/-- Offsets from DADDR and bytes that one line of a view entry gives under a layer's state (R333, R346). -/
def State.viewBytes (s : State) (i : Image) (e : List Byte) (l : LayerImage) (n line : Nat) (now : List Byte) :
    List (Nat × List Byte) :=
  let first := viewFirst e
  let k := sx 16 (leAt now 36 2)
  let head := if i.gradEntry l first / 64 * 64 = line then
      [(0, leBytes 2 (toTwos 16 k) ++ leBytes 1 i.lag ++ [0] ++ leBytes 4 (n % 2 ^ 32))] else []
  let mine := (List.range (viewNblk e)).filter fun j => i.gradEntry l (first + j) / 64 * 64 == line
  head ++ mine.map fun j =>
    (8 + j, leBytes 1 (toTwos 8 (gradExp (s.vats.mem.read (i.gradEntry l (first + j)) 8) n k)))

/-! Sealed inputs (R399 to R401, R506) -/

/-- The input of a slot: entry `j` of the step, or the query's. -/
def State.inputAt (s : State) (slot j : Nat) : Option Input :=
  if slot = 0 then match s.train.ph1 with
    | some a => a.inputs[j]?
    | none => none
  else if j = 0 then (s.query slot).run.map fun r => r.input else none

/-- Change the input of a slot. -/
def State.modInput (s : State) (slot j : Nat) (f : Input → Input) : State :=
  if slot = 0 then { s with train := { s.train with ph1 := s.train.ph1.map fun a =>
    { a with inputs := match a.inputs[j]? with
      | some x => setNth a.inputs j (f x)
      | none => a.inputs } } }
  else
    let x := s.query slot
    s.setQuery slot { x with run := x.run.map fun r => { r with input := f r.input } }

/-- The tile that an input map entry signals, or places the input in (R506). -/
def State.inputSlot (s : State) (prog : Nat) (m : List Byte) : Option Nat :=
  match s.prog prog with
  | some p =>
    let (x, y) := p.bound.getD (0, 0)
    s.bind.applied.tileSlot (((y + leAt m 3 1) * 40 + x + leAt m 2 1) * 16 + leAt m 4 1)
  | none => none

/-- The port that the inputs of a slot come by: the running command's, or the one that a query's table was read from. -/
def State.inputPort (s : State) (slot : Nat) : Option HPort :=
  if slot = 0 then s.run.map fun r => r.port else (s.query slot).run.map fun a => a.port

/-- An input fails: recorded on the page of the port site with the ring index, and the step or query ends (R401). -/
def State.inputFault (s : State) (p : HPort) (slot ring code : Nat) : State :=
  (s.recordFault (pgSite (hostSite p)) code ring).progFault slot code

/-- An input is written whole: the counter increments, and then its tag counts (R400, R506). -/
def State.inputLanded (s : State) (p : HPort) (slot j : Nat) : State :=
  match s.image? slot, s.inputAt slot j with
  | some im, some x =>
    let m := nth [] im.inputs j
    let s := match s.inputSlot slot m with
      | some k => s.incCounter k (leAt m 1 1) 1
      | none => s
    if x.good then s.modInput slot j fun x => { x with placed := true, coming := false }
    else s.inputFault p slot x.ring fAUTH_TAG_FAIL
  | _, _ => s

/-- A line of an input in vat space is written; the input is there with its last one (R506). -/
def State.inputLine (s : State) (slot j : Nat) : State :=
  if s.vats.vats.any fun kv => kv.2.qOther.any fun q => q.asker == .input slot j then s
  else match s.inputPort slot with
    | some p => s.inputLanded p slot j
    | none => s

/-! One line -/

/-- A line of a tile's unit operation is done: one of its requests is answered, and a vector operation whose operands are
all there runs. -/
def State.lineDone (s : State) (t id : Nat) : State :=
  match s.env t .c0 with
  | none => s
  | some e => s.vserved e id

/-- A line read answers whoever asked for it. -/
def State.lineRead (s : State) (r : LineReq) : State :=
  match r.asker with
  | .tile t c id =>
    -- a vector operation keeps its lines until the last of them has come
    match s.env t c with
    | none => s
    | some e =>
    let x := s.tile e.slot
    if x.vecQ.any fun o => o.id == id then
      (s.setTile e.slot (x.modOp id fun o => { o with got := o.got ++ [(r.addr, s.vats.mem.read r.addr 64)] })).lineDone t id
    else
    let ps := r.dest.map fun d => (d.2.1, s.vats.mem.read (r.addr + d.1) d.2.2)
    let q : Response := { prog := (s.owner (t / 16)).getD 0, dst := t, ctx := c, pieces := ps, opId := some id, mid := r.mid }
    { s with felt := { s.felt with responses := s.felt.responses ++ [q] } }
  | .stream p k =>
    match s.image? p with
    | none => s
    | some i => match i.streams[k]? with
      | none => s
      | some e =>
        let x := RectEntry.parse e
        let lo := max (streamSrc e) r.addr
        let hi := min (streamSrc e + streamLen e) (r.addr + 64)
        let slots := s.destSlots p x
        (s.castBytes slots (x.daddr + (lo - streamSrc e)) (s.vats.mem.read lo (hi - lo))).castDone r.asker slots x.rctr
  | .view k =>
    match s.trainImage, s.train.ph1 with
    | some i, some a => match i.views[k]? with
      | none => s
      | some e => match i.layers[viewLayer e]? with
        | none => s
        | some l =>
          let x := RectEntry.parse e
          let slots := s.destSlots 0 x
          let v := vatOf r.addr
          let crc := Check.crc64.of (leBytes 8 r.addr ++ s.vats.mem.read r.addr 64)
          s.layerNow i (viewLayer e) fun now s =>
          let bs := s.viewBytes i e l a.step r.addr now
          let vs := s.vats.vat v
          let s := { s with vats := s.vats.setVat v { vs with
            viewsum := (vs.viewsum + crc) % 2 ^ 64, viewn := (vs.viewn + 1) % 2 ^ 32 } }
          (bs.foldl (fun s b => s.castBytes slots (x.daddr + b.1) b.2) s).castDone r.asker slots x.rctr
    | _, _ => s
  | .input _ _ => s

/-- A port performs a line request (R286, R291): a write merges the words that it covers in part, a read delivers the
line; an uncorrectable word that either reads is handled under R367. -/
def State.serveLine (s : State) (r : LineReq) : State :=
  if r.write then s.portWriteThen r.addr r.data r.ph1 fun s =>
    match r.asker with
    | .tile t _ id => s.lineDone t id
    | .input p j => s.inputLine p j
    | _ => s
  else s.vatLines [(r.addr, 64)] fun s => s.lineRead r

/-! The queues -/

/-- The index of the first request of a queue that may be performed: the holds of R298 and R343 keep a line back, and with
it every later request of its context (R292). -/
def firstFree (held : LineReq → Bool) : List LineReq → List Asker → Nat → Option Nat
  | [], _, _ => none
  | r :: q, blocked, k =>
    let who := match r.asker with
      | .tile t c _ => Asker.tile t c 0
      | a => a
    if blocked.contains who then firstFree held q blocked (k + 1)
    else if held r then firstFree held q (who :: blocked) (k + 1)
    else some k

/-- The slots of the tiles that a line request serves. -/
def State.askerSlots (s : State) : Asker → List Nat
  | .tile t c _ => (s.env t c).toList.map fun e => e.slot
  | .stream p k => match s.image? p with
    | some i => (i.streams[k]?).toList.flatMap fun e => s.destSlots p (RectEntry.parse e)
    | none => []
  | .view k => match s.trainImage with
    | some i => (i.views[k]?).toList.flatMap fun e => s.destSlots 0 (RectEntry.parse e)
    | none => []
  | .input p j => match s.image? p with
    | some i => (s.inputSlot p (nth [] i.inputs j)).toList
    | none => []

/-- A line that waits at its port: a write that R298 or R343 holds, and one of a tile that is not clocked (R254; DESIGN
CHOICE: log entry 50). A request with a flit that no router can correct has not reached its port (R251). -/
def State.holds (s : State) (r : LineReq) : Bool :=
  s.writeHeld r || flitBad r.errs || (s.askerSlots r.asker).any s.unclocked

/-- A vat's queue by number: stream reads, context-1 requests, all others (R293). -/
def VatState.queue (v : VatState) : Nat → List LineReq
  | 0 => v.qStream
  | 1 => v.qC1
  | _ => v.qOther

/-- Replace a queue. -/
def VatState.setQueue (v : VatState) (k : Nat) (q : List LineReq) : VatState :=
  match k with
  | 0 => { v with qStream := q }
  | 1 => { v with qC1 := q }
  | _ => { v with qOther := q }

/-- The request that a vat's queues offer next, with its queue and place: each queue in turn (R293). -/
def VatState.offer (v : VatState) (held : LineReq → Bool) : Option (Nat × Nat) :=
  [v.turn % 3, (v.turn + 1) % 3, (v.turn + 2) % 3].findSome? fun k => (firstFree held (v.queue k) [] 0).map fun j => (k, j)

/-- The vats that a port serves: its own, and its partner's when that has no port (R289). -/
def Retire.servedBy (r : Retire) (v : Nat) : List Nat :=
  if !r.vatPortUp v then [] else if r.vatPortUp (vatPartner v) then [v] else [v, vatPartner v]

/-- A vat unit's packet fails for good (R362, R366): LINK_REPLAY_FAIL, absorbed; the PHY is retrained, and a retraining
that fails or a second such fault within 24 hours retires the port. -/
def State.vatLinkFault (s : State) (p : Nat) : State :=
  let s := (s.recordFault (pgSite (vatSite p)) fLINK_REPLAY_FAIL 0).absorbAll fLINK_REPLAY_FAIL
  let (again, s) := s.recurs (fLINK_REPLAY_FAIL * 2 ^ 32 + 2 ^ 20 + vatSite p)
  let (pass, s) := s.retrains
  if again || !pass then s.retireVatPort p else s

/-- Port `p` takes the request that the queues of vat `v` offer: a packet whose check is wrong is counted and asked for
again (R357, R362), another is performed and its response leaves, each with the next number (R359, R364). -/
def State.takeLine (s : State) (p v : Nat) : State :=
  let x := s.vats.vat v
  match x.offer s.holds with
  | none => s
  | some (k, j) => match (x.queue k)[j]? with
    | none => s
    | some r =>
      if r.fails ≠ 0 then
        let q := (x.queue k).set j { r with fails := r.fails - 1 }
        let (up, s) := { s with vats := s.vats.setVat v (x.setQueue k q) }.checkFailed (vatSite p)
        if up then s.vatLinkFault p else s
      else
        let x := { x.setQueue k ((x.queue k).take j ++ (x.queue k).drop (j + 1)) with turn := (k + 1) % 3 }
        let y := s.site (vatSite p)
        let s := s.setSite (vatSite p) { y with
          fails := 0, seqTx := (y.seqTx + 1) % 2 ^ 32, seqRx := (y.seqRx + 1) % 2 ^ 32 }
        ({ s with vats := s.vats.setVat v x }.flitReads r.errs).serveLine r

/-- A vat port takes a line request and performs it (R293); a shared port alternates strictly between its vats whenever
both have one waiting (R289). -/
def execVatLineRequest (v : Nat) (s : State) : Out :=
  if !vatOk v then .fault .noSuchUnit
  else match s.bind.applied.servedBy v with
    | [] => .next s
    | [a] => .next (s.takeLine v a)
    | a :: b :: _ =>
      let oa := ((s.vats.vat a).offer s.holds).isSome
      let ob := ((s.vats.vat b).offer s.holds).isSome
      if oa && ob then
        let x := s.vats.vat v
        let s := { s with vats := s.vats.setVat v { x with alt := !x.alt } }
        .next (s.takeLine v (if x.alt then b else a))
      else .next (s.takeLine v (if oa then a else b))

/-- The oldest corrected word of a vat is written back (R356). -/
def execVatWriteBack (v : Nat) (s : State) : Out :=
  if !vatOk v then .fault .noSuchUnit
  else match s.vats.mem.due.find? fun w => vatOf w == v with
    | none => .next s
    | some w => if (s.bind.applied.servingPort v).isNone then .next s
      else .next { s with vats := { s.vats with mem := s.vats.mem.settle w } }

/-- The patrol reads and corrects every stripe of a vat (R322); an uncorrectable word is handled under R367. -/
def execPatrol (v : Nat) (s : State) : Out :=
  if !vatOk v then .fault .noSuchUnit
  else if !(s.vats.vat v).patrol || (s.bind.applied.servingPort v).isNone then .next s
  else
    let s := s.vatRetry ((s.vats.mem.errs.filter fun e => vatOf e.1 == v).map fun e => (e.1, 8))
    let mine := (s.vats.mem.errs.filter fun e => vatOf e.1 == v).map fun e => e.1
    let ok := mine.filter fun w => (s.vats.mem.bad [(w, 8)]).isNone
    let lost := mine.filter fun w => (s.vats.mem.bad [(w, 8)]).isSome
    let s := s.bump (pgVat v) 0x45 (64 * s.vats.stripes)
    let s := s.vatReads (ok.map fun w => (w, 8))
    let s := ok.foldl (fun (s : State) w => { s with vats := { s.vats with mem := s.vats.mem.settle w } }) s
    .next (lost.foldl (fun s w => s.vatUe w) s)

end Sys2Proof.Machine
end

