-- ==== Sys2Proof/Machine/Sealed.lean ====
section
/-! DEFINITION. Sealed objects and the host DMA engines: what an ingress object must satisfy, the egress object, records
with their trailers, and a failed transfer (R359 to R362, R366, R395, R397 to R400, R407, R443). -/

namespace Sys2Proof.Machine

/-! DMA (R361, R362, R424) -/

/-- A port's DMA engine works: the link is up and the function is in D0. -/
def HostPort.dmaUp (h : HostPort) : Bool := !h.perst && h.link == 2 && !h.d3

/-- `n` bytes that a port's DMA reads. -/
def State.dmaRead (s : State) (p : HPort) (a n : Nat) : List Byte := memRead (s.port p).mem a n

/-- Write bytes of host memory without a trailer. -/
def State.hostPut (s : State) (p : HPort) (a : Nat) (bs : List Byte) : State :=
  s.setPort p { s.port p with mem := memWrite (s.port p).mem a bs }

/-- The trailer of a record (R361). -/
def trailer (c : Check) (addr seq site : Nat) (rec : List Byte) : List Byte :=
  leBytes 4 seq ++ leBytes 4 rec.length ++ leBytes 8 (c.of (foldPrefix addr seq site false ++ rec))

/-- A record and its trailer are written to host memory (R361). -/
def State.dmaRecord (s : State) (p : HPort) (a : Nat) (rec : List Byte) : State :=
  let f := hostSite p
  let x := s.site f
  let s := s.hostPut p a (rec ++ trailer (Check.ofCode x.active) a x.seqTx f rec)
  s.setSite f { x with seqTx := (x.seqTx + 1) % 2 ^ 32 }

/-- A host port's link fails for good: it is retrained, and a retraining that fails or a second such fault within 24 hours
retires the site and disables the port (R272, R366). -/
def State.hostLinkFault (s : State) (p : HPort) : State :=
  let f := hostSite p
  let s := s.recordFault (pgSite f) fLINK_REPLAY_FAIL 0
  let (again, s) := s.recurs (fLINK_REPLAY_FAIL * 2 ^ 32 + 2 ^ 20 + f)
  let (pass, s) := s.retrains
  if again || !pass then s.loseSite f true else s

/-- A transfer fails its check: it is counted and repeated, and the eighth failed replay raises LINK_REPLAY_FAIL (R362). -/
def State.dmaFailed (s : State) (p : HPort) : State :=
  let (up, s) := s.checkFailed (hostSite p)
  if up then s.hostLinkFault p else s

/-- Transfers from the host pass their check, each with the next number (R359, R361, R364). -/
def State.dmaTook (s : State) (p : HPort) (n : Nat) : State :=
  let f := hostSite p
  let x := s.site f
  s.setSite f { x with seqRx := (x.seqRx + n) % 2 ^ 32, fails := 0 }

/-! Ingress (R398 to R400) -/

/-- The largest ingress object (R399). -/
def maxObject : Nat := 2 ^ 36 + 48

/-- Check an object of `len` bytes at a host address in the order of R399; the plaintext, and whether the tag verifies. -/
def Security.ingress (x : Security) (m : Mem) (kind key addr len : Nat) : Except Nat (List Byte × Bool) :=
  if len = 0 then .ok ([], true)
  else match (if key < 64 then x.slot key else none) with
    | none => .error fKEY_UNKNOWN
    | some k =>
      if len < 80 ∨ maxObject < len then .error fAUTH_TAG_FAIL
      else
        let h := memRead m addr 64
        if leAt h 0 2 ≠ 0x5301 ∨ leAt h 2 1 ≠ kind ∨ leAt h 3 1 ≠ key ∨ leAt h 4 4 ≠ 0 ∨ leAt h 60 4 ≠ 0 then
          .error fAUTH_TAG_FAIL
        else match kwUnwrap k.kek (bytesAt h 8 40) with
          | none => .error fAUTH_TAG_FAIL
          | some dek =>
            let ct := memRead m (addr + 64) (len - 80)
            let ks := aesKeys dek
            let iv := bytesAt h 48 12
            .ok (gcmCrypt ks iv ct, gcmTag ks iv h ct == memRead m (addr + len - 16) 16)

/-! Egress (R395, R397, R398, R407) -/

/-- One request to the security generator. -/
def State.entropy (s : State) (n : Nat) : List Byte × State :=
  (bytesAt (Config.entropy s.sec.drawn n) 0 n, { s with sec := { s.sec with drawn := s.sec.drawn + 1 } })

/-- An egress object (R398). -/
def sealObject (kek dek iv : List Byte) (kind slot rseq : Nat) (pt : List Byte) : List Byte :=
  let h := leBytes 2 0x5301 ++ leBytes 1 kind ++ leBytes 1 slot ++ leBytes 4 rseq ++ kwWrap kek dek ++ iv ++ leBytes 4 0
  let (ct, tag) := gcmSeal dek iv h pt
  h ++ ct ++ tag

/-- The key of an export slot, or the fault of R407. -/
def Security.exportKey (x : Security) (slot : Nat) : Except Nat (List Byte) :=
  match (if slot < 64 then x.slot slot else none) with
  | none => .error fKEY_UNKNOWN
  | some k => if k.exp then .ok k.kek else .error fSEAL_VIOLATION

/-- Seal a plaintext under an export slot and send the object with its trailer; the units encrypted are counted. -/
def State.sendObject (s : State) (p : HPort) (kek : List Byte) (kind slot rseq addr : Nat) (pt : List Byte) : State :=
  let (dek, s) := s.entropy 32
  let (iv, s) := s.entropy 12
  let s := s.bump (pgSite (hostSite p)) 0x30 (payloadUnits pt.length)
  s.dmaRecord p addr (sealObject kek dek iv kind slot rseq pt)

end Sys2Proof.Machine
end

