-- ==== Sys2Proof/Machine/Pair.lean ====
section
/-! DEFINITION. The pair's part in steps: sending a watermark, comparing, redoing a sealed step, the probe's outcome and
divergence, and the holder's side of a moving copy (R58, R372, R375 to R379, R387 to R389). -/

namespace Sys2Proof.Machine

/-- The sealed step is discarded and redone (R52, R376, R377). -/
def State.redoSealed (s : State) : State :=
  match s.train.sealedStep with
  | none => s
  | some x =>
    let s := { s with train := { s.train with sealedStep := none, overrun := false, throttled := false } }
    if 3 ≤ s.train.redos then s.endRun fWATERMARK_MISMATCH
    else { s with train := { s.train with
      ph1 := some { step := x.step, attempt := x.attempt + 1 }, redos := s.train.redos + 1 } }

/-- A mismatch is counted: MISMATCHES counts WATERMARK_MISMATCH, the event bit every mismatch (R376, R379, R451). -/
def State.mismatch (s : State) : State :=
  let s := if s.twin.mism < 2 then
      let s := s.recordFault pgTwin fWATERMARK_MISMATCH 0
      { s with twin := { s.twin with mismatches := satAdd 32 s.twin.mismatches 1 } }
    else s
  { s with twin := { s.twin with mism := s.twin.mism + 1, theirs := none } }.setEvt pgTwin 4

/-- PAIR_DIVERGENCE: the prior binding returns, the step stays sealed and uncommitted, and RUN_STEPS ends; queries in
progress go on (R379). -/
def State.diverge (s : State) : State :=
  let s := s.recordFault pgTwin fPAIR_DIVERGENCE 0
  let s := { s with twin := { s.twin with probe := none }, train := { s.train with held := true, running := false } }.setTwin 5
  match s.run with
  | some r => if r.op = 4 then
      { s with queries := s.queries.map fun (q : Nat × QSlot) =>
        (q.1, { q.2 with served := false, run := q.2.run.map (QRun.orphan r.count) }) }.endCommand
        fPAIR_DIVERGENCE else s
  | none => s

/-- The probe's outcome when the third watermarks are equal (R378): a member whose own watermark changed retires the unit
that it probed away from, the other restores its binding. -/
def State.probeOutcome (s : State) (own : List Byte) : State :=
  match s.twin.own2 with
  | none => s
  | some w2 =>
    let p := s.twin.probe
    let s := { s with twin := { s.twin with probe := none, own2 := none } }
    if own = w2 then s
    else match p with
      | none => s
      | some p =>
        let s := p.slot.toList.foldl State.retireSlot s
        let s := p.cluster.toList.foldl State.retireCluster s
        p.vatPort.toList.foldl State.retireVatPort s

/-- The digest log of R341 for a sealed step. -/
def State.tilesRecord (s : State) (i : Image) (f : Option Tile → List Byte) : List Byte :=
  let at_ := s.tilesOf 0
  (List.range i.tilesN).flatMap fun pt =>
    match at_.find? fun q => q.1 == pt with
    | some q => match s.bind.applied.tileSlot q.2 with
      | some slot => f (some (s.tile slot))
      | none => f none
    | none => f none

/-- Pieces of at most 1 MiB with their offsets (R376). -/
def mibPieces (base : Nat) (bs : List Byte) : List (Nat × List Byte) :=
  ((chunksOf 1048576 (cdiv bs.length 1048576) bs).zipIdx).map fun p => (base + 1048576 * p.2, p.1)

/-- Send the digest log and the seal record as DIGEST messages in ascending OFFSET (R376, R382). -/
def State.sendDigests (s : State) (x : SealedStep) : State :=
  (mibPieces 0 x.dlog ++ mibPieces (2 ^ 40) x.record).foldl (fun s p => s.sendSeq 0x11 x.attempt x.step p.1 p.2) s

/-! The suspect and the probe (R376, R377) -/

/-- The partner's digest log and seal record are there in full. -/
def State.digestsIn (s : State) (i : Image) : Bool :=
  decide (1024 + 256 * i.tilesN ≤ s.twin.dlogGot) && decide (1040 + 512 * i.tilesN ≤ s.twin.drecGot)

/-- The suspect of R376: a program tile, or a vat. -/
inductive Suspect where
  | tile (ptile : Nat)
  | vat (v : Nat)
deriving DecidableEq, Repr

/-- Slot `k` mod 8 of tile `k` div 8 has equal RX and RXN and different TX or TXN in two digest logs. -/
def txDiffers (a b : List Byte) (k : Nat) : Bool :=
  let o := 1024 + 32 * k
  leAt a o 8 == leAt b o 8 && leAt a (o + 16) 4 == leAt b (o + 16) 4 &&
  (leAt a (o + 8) 8 != leAt b (o + 8) 8 || leAt a (o + 20) 4 != leAt b (o + 20) 4)

/-- The suspect by the first rule of R376 that applies, from the two members' logs and records. -/
def suspectOf (tiles : Nat) (la lb ra rb : List Byte) : Option Suspect :=
  match (List.range (8 * tiles)).find? (txDiffers la lb) with
  | some k => some (.tile (k / 8))
  | none => match (List.range (32 * tiles)).find? fun k => bytesAt ra (1040 + 16 * k) 16 != bytesAt rb (1040 + 16 * k) 16 with
    | some k => some (.tile (k / 32))
    | none => ((List.range 40).find? fun v => bytesAt la (16 * v) 12 != bytesAt lb (16 * v) 12).map Suspect.vat

/-- The rebinding around a suspect (R377). -/
def State.probeOf (s : State) : Suspect → Probe
  | .tile pt =>
    match (s.tilesOf 0).find? fun q => q.1 == pt with
    | none => {}
    | some q => match s.bind.found.tileSlot q.2 with
      | none => {}
      | some slot =>
        let c := slot / 17
        if 16 < (s.bind.found.liveSlots c).length then { slot := some slot }
        else if 5 < (s.bind.found.segment (c % 48 / 6) (c / 48)).length then { cluster := some c }
        else {}
  | .vat v =>
    if s.bind.found.vatPortUp v && s.bind.found.vatPortUp (vatPartner v) then { vatPort := some v } else {}

/-- After the second mismatch, with the partner's log and record there, the suspect is chosen and the step redone around
it; with no suspect the pair diverges (R376, R377, R379). -/
def State.chooseSuspect (s : State) : State :=
  match s.train.sealedStep, s.trainImage with
  | some x, some i =>
    if s.twin.mism ≠ 2 ∨ s.twin.own2.isNone ∨ s.twin.probe.isSome ∨ !s.digestsIn i then s
    else
      let log := sgets 0 s.twin.dlog 0 (1024 + 256 * i.tilesN)
      let rec_ := sgets 0 s.twin.drec 0 (1040 + 512 * i.tilesN)
      match suspectOf i.tilesN x.dlog log x.record rec_ with
      | none => s.diverge
      | some k => { s with twin := { s.twin with probe := some (s.probeOf k) } }.redoSealed
  | _, _ => s

/-- Compare the watermarks of the sealed step when both are there (R375, R376, R378, R379); not in the wait of R384. Phase
2 is entered by vote (R22). -/
def State.compare (s : State) (dissent : Option Replica) : State :=
  match s.train.sealedStep, s.twin.theirs with
  | some x, some (n, w) =>
    if s.twin.st ≠ 1 ∨ n ≠ x.step ∨ s.twin.leaveWait then s
    else if w = x.wmark then s.voteThen dissent fun s => (s.probeOutcome x.wmark).beginPhase2
    else
      let k := s.twin.mism
      let s := s.mismatch
      if k = 0 then s.redoSealed
      else if k = 1 then ({ s with twin := { s.twin with own2 := some x.wmark } }.sendDigests x).chooseSuspect
      else s.diverge
  | _, _ => s

/-- A step has sealed: in lockstep its watermark is sent and compared, otherwise phase 2 begins (R58, R375, R384). -/
def State.afterSeal (s : State) (x : SealedStep) : State :=
  let s := { s with train := { s.train with sealedStep := some x } }
  if s.twin.st = 1 then (s.sendSeq 0x10 x.attempt x.step 0 x.wmark).compare none else s.enterPhase2 none

/-! The holder's moving copy (R387 to R389) -/

/-- Where a chunk's state lies at home, as (home address, offset in a slot, length), moments and copy in whole blocks (R219,
R302, R315, R351). -/
def chunkPieces (i : Image) (l : LayerImage) (c : Nat) : List (Nat × Nat × Nat) :=
  let n := min 65536 (l.npar - 65536 * c)
  let b := cdiv n 32
  let all := cdiv l.npar 32
  let aux := fun base unit => alignUp (base + all * unit) 64 + 2048 * c
  [(l.master + 262144 * c, 0, 4 * n), (l.m1 + 65536 * c, 0x40000, 32 * b), (aux l.m1 32, 0x60000, b),
   (l.fp6 + 49152 * c, 0x61000, 24 * b), (aux l.fp6 24, 0x6D000, b), (i.region (l.chunk0 + c), 0x6E000, 24576)] ++
  if l.kind = 0 then [(l.m2 + 65536 * c, 0x50000, 32 * b), (aux l.m2 32, 0x60800, b)] else []

/-- The 1 MiB regions of the persistent training extents, ascending. -/
def Image.copyRegions (i : Image) : List Nat :=
  let marks := i.allocs.foldl (fun l a => if a.vat && a.persistent then taint l a.base a.len else l) []
  ascend id marks

/-- Change the copy in progress. -/
def State.modJoin (s : State) (f : JoinState → JoinState) : State :=
  { s with twin := { s.twin with join := s.twin.join.map f } }

/-- A region stands at the joiner at a version, kept one above, so that an unlisted region has none: nothing of it is left to
copy (R388). -/
def JoinState.stands (j : JoinState) (r v : Nat) : JoinState :=
  { j with versions := sput 0 j.versions r (v + 1), stale := j.stale.filter (· != r), dirty := j.dirty.filter (· != r)
           todo := j.todo.filter (· != r) }

/-- Send one region as stored, with its version (R382, R387). A lost word is handled in its place, and the region is still to
copy (R367, R390). -/
def State.sendRegion (s : State) (r : Nat) : State :=
  s.vatLines [(r * 1048576, 1048576)] fun s =>
    (s.sendSeq 0x20 0 s.train.committed (r * 1048576) (s.vats.mem.read (r * 1048576) 1048576)).modJoin fun j =>
      j.stands r s.train.committed

/-- The regions that are still to copy, of the persistent training extents alone: all in round 1, later those that are stale
at the joiner and those that a write has dirtied (R387, R388). -/
def State.roundRegions (s : State) : List Nat :=
  match s.trainImage, s.twin.join with
  | some i, some j => i.copyRegions.filter fun r => j.todo.contains r || j.stale.contains r || j.dirty.contains r
  | _, _ => []

/-- The holder of a copy sends the regions that are still to copy, while the copy lasts. -/
def State.sendRegions (s : State) : State :=
  s.roundRegions.foldl (fun s r => if s.twin.st = 3 then s.sendRegion r else s) s

/-- In phase 1 of a step the holder sends the round's regions, and ROUND_END with the number that is still to copy (R387,
R388). -/
def State.copyRound (s : State) : State :=
  match s.twin.join with
  | none => s
  | some j =>
    if s.twin.st ≠ 3 ∨ j.joiner then s
    else
      let s := s.sendRegions
      let n := j.round + 1
      let left := s.roundRegions.length
      if s.twin.st ≠ 3 then s
      else
        let s := { s.modJoin (fun j => { j with round := n, left := left }) with
          twin := { (s.modJoin fun j => { j with round := n, left := left }).twin with copyRound := n, copyLeft := left } }
        s.sendSeq 0x22 0 s.train.committed 0 (leBytes 4 n ++ leBytes 4 left)

/-- 1 MiB regions of the ranges of a chunk. -/
def chunkRegions (i : Image) (l : LayerImage) (c : Nat) : List Nat :=
  (chunkPieces i l c).foldl (fun r p => taint r p.1 p.2.2) []

/-- The chunks that the joiner may update with a forwarded step `n`: all their regions stand at n − 1 (R388). -/
def JoinState.mayUpdate (j : JoinState) (i : Image) (n g : Nat) : Bool :=
  match i.layerOf g with
  | some (_, l, c) => (chunkRegions i l c).all fun r => sget 0 j.versions r == n
  | none => false

/-- What a forwarded step `n` leaves of the copy, at the joiner and as its holder knows it: regions of chunks updated stand at
n, and one that holds state of a chunk not updated is stale (R388). -/
def JoinState.forwarded (j : JoinState) (i : Image) (n : Nat) : JoinState :=
  let touched := fun (p : Nat → Bool) => ((List.range i.chunkCount).filter p).foldl (fun r g => match i.layerOf g with
    | some (_, l, c) => chunkRegions i l c ++ r
    | none => r) []
  let stale := (touched fun g => !j.mayUpdate i n g).eraseDups
  let good := (touched (j.mayUpdate i n)).eraseDups.filter fun r => !stale.contains r
  { j with versions := good.foldl (fun v r => sput 0 v r (n + 1)) j.versions
           stale := j.stale ++ stale.filter (fun r => !j.stale.contains r) }

/-- What a STEPLOG reads of the vats (R382). -/
def Image.stepLogRanges (i : Image) : List (Nat × Nat) :=
  i.layers.flatMap fun l => [(l.logb, 64 * l.blocks), (l.logr, 128 * l.chunks)] ++
    (List.range l.chunks).map fun c => (i.region (l.chunk0 + c) + 0x6000, 128)

/-- The byte stream of a step's STEPLOG (R382; its packing is log entry 21): every layer's log bodies, records and notes,
then every layer's coefficients with its skip flag, then the new layer states. -/
def State.stepLog (s : State) (i : Image) (x : SealedStep) : List Byte :=
  let m := s.vats.mem
  (i.layers.flatMap fun l => m.read l.logb (64 * l.blocks) ++ m.read l.logr (128 * l.chunks) ++
    (List.range l.chunks).flatMap fun c => m.read (i.region (l.chunk0 + c) + 0x6000) 128) ++
  (x.layers.flatMap fun c => leBytes 4 c.lr ++ leBytes 4 c.wd ++ leBytes 4 c.b1 ++ leBytes 4 c.omb1 ++ leBytes 4 c.b2 ++
    leBytes 4 c.omb2 ++ leBytes 4 c.eps ++ leBytes 4 c.c1 ++ leBytes 4 c.c2 ++ leBytes 2 (toTwos 16 c.k) ++
    leBytes 2 (toTwos 16 c.dk) ++ [if c.skip then 1 else 0]) ++
  x.layers.flatMap fun c => c.state

/-- The holder sends a step's STEPLOG pieces, and with them knows which regions they leave stale at the joiner (R387,
R388). -/
def State.sendStepLog (s : State) (i : Image) (x : SealedStep) : State :=
  s.vatLines i.stepLogRanges fun s =>
    ((mibPieces 0 (s.stepLog i x)).foldl (fun s p => s.sendSeq 0x21 x.attempt x.step p.1 p.2) s).modJoin fun j =>
      j.forwarded i x.step

/-- The last round of a copy at a commit: phase 1 in progress is discarded, the regions still to copy and SWITCH are sent,
and the pair is in lockstep (R389). Where a region cannot be sent the copy goes on (R390). -/
def State.endCopy (s : State) (x : SealedStep) : State :=
  let s := if s.train.ph1.isSome then { s.discard 0 with train := { s.train with ph1 := none } } else s
  let s := s.sendRegions
  if s.twin.st ≠ 3 || !s.roundRegions.isEmpty then s
  else
    let s := s.sendSeq 0x23 0 x.step 0 (leBytes 8 (x.step + 1))
    let s := { s with twin := { s.twin with join := none } }.setTwin 1
    match s.run with
    | some r => if r.op = 0x0A then s.endWith 0 (x.step + 1) 0 else s
    | none => s

/-- At a commit the holder sends the step's STEPLOG, and switches in when the last round left at most 1,024 regions or 32
rounds have ended: it discards a started attempt, copies what remains and sends SWITCH (R387, R389). -/
def State.copyCommit (s : State) (i : Image) (x : SealedStep) : State :=
  match s.twin.join with
  | none => s
  | some j =>
    if s.twin.st ≠ 3 ∨ j.joiner then s
    else
      let s := s.sendStepLog i x
      if s.twin.st ≠ 3 ∨ j.round = 0 ∨ (1024 < j.left ∧ j.round < 32) then s else s.endCopy x

/-- Write vat bytes in phase 2: they dirty no region of a moving copy (R388), unless a word that they cover in part is lost
and reads zero (R367). -/
def State.phase2Write (s : State) (a : Nat) (bs : List Byte) : State :=
  let j := s.twin.join
  let lost := (s.vats.mem.bad [(a, bs.length)]).isSome
  let s := s.portWrites a bs false
  if lost then s else { s with twin := { s.twin with join := j } }

end Sys2Proof.Machine
end

