-- ==== Sys2Proof/Machine/Phase2.lean ====
section
/-! DEFINITION. Phase 2: one chunk through the couch journal, the commit in its five writes, and the roll-forward (R48,
R49, R306 to R308, R312, R314 to R321, R346 to R351, R501). The operations of the routine are performed whole for each
chunk (log entry 22). -/

namespace Sys2Proof.Machine

/-! Reads that phase 2 makes (R367) -/

/-- Phase 2 reads vat ranges through their ports (R291): a lost word is handled and nothing else happens. -/
def State.phase2Read (s : State) (rs : List (Nat × Nat)) (k : State → State) : State := s.vatLines rs k

/-! A chunk's arrays -/

/-- Moment blocks of a chunk: scale and codes. -/
def chunkMoments (m : EccMem) (base scales n : Nat) : List (Nat × List Nat) :=
  List.zipWith (fun (qs : List Byte) (sc : Byte) => (sc.toNat, qs.map BitVec.toNat)) (cut 32 (m.read base n))
    (m.read scales (cdiv n 32))

/-- The new state of a chunk, as bytes at offsets in a slot, and the optimiser's outcome for its elements (R307, R308, R347
to R351). -/
def chunkOut (m : EccMem) (i : Image) (l : LayerImage) (c n : Nat) (x : LayerSeal) :
    List (Nat × List Byte) × ChunkOut :=
  let k := min 65536 (l.npar - 65536 * c)
  let blocks := cdiv k 64
  let all := cdiv l.npar 32
  let aux := fun base unit => alignUp (base + all * unit) 64 + 2048 * c
  let reg := i.region (l.chunk0 + c)
  let grads := chunksOf 8 blocks (m.read reg (8 * blocks))
  let copies := chunksOf 8 (cdiv k 32) (m.read (reg + 0x2000) (8 * cdiv k 32))
  let notes := m.read (reg + 0x6000) 128
  let rec_ := m.read (l.logr + 128 * c) 128
  let logs := ((chunksOf 64 blocks (m.read (l.logb + 65536 * c) (64 * blocks))).zip grads).map fun p =>
    logBlock p.1 rec_ (gradExp p.2 n x.k)
  let gs := logs.flatMap fun b => b.1.map fun q => (q, b.2.1)
  let ws := (chunksOf 4 k (m.read (l.master + 262144 * c) (4 * k))).map leNat
  let m1 := chunkMoments m (l.m1 + 65536 * c) (aux l.m1 32) k
  let m2 := if l.kind = 0 then chunkMoments m (l.m2 + 65536 * c) (aux l.m2 32) k else []
  let o := optChunk (l.kind == 0) (OptC.ofSeal x) ws m1 m2 gs (copies.map fun e => leAt e (n % 8) 1)
  let km := x.k - x.dk
  let grads' := ((grads.zip logs).zipIdx).map fun p =>
    sizingUpdate true p.1.1 n i.lag (gradRecord p.1.2.1 p.1.2.2.1 km) ((leAt notes (p.2 / 8) 1).testBit (p.2 % 8))
  let copies' := List.zipWith (fun e (b : NarrowBlk) => sizingUpdate false e n i.lag (copyRecord b.top) b.above) copies o.copy
  let g := grads'.flatten
  let q := copies'.flatten
  let sizing := g ++ (m.read (reg + g.length) (0x2000 - g.length)) ++ q ++ m.read (reg + 0x2000 + q.length) (0x4000 - q.length)
  let codes := fun (bs : List (Nat × List Nat)) => bs.flatMap fun b => b.2.map fun v => (BitVec.ofNat 8 v : Byte)
  let scales := fun (bs : List (Nat × List Nat)) => bs.map fun b => (BitVec.ofNat 8 b.1 : Byte)
  ([(0, o.w.flatMap (leBytes 4)), (0x40000, codes o.m1), (0x60000, scales o.m1),
   (0x61000, o.copy.flatMap fun b => b.body), (0x6D000, o.copy.map fun b => (BitVec.ofNat 8 b.scale : Byte)),
   (0x6E000, sizing)] ++
  if l.kind = 0 then [(0x50000, codes o.m2), (0x60800, scales o.m2)] else [], o)

/-- The new state of a chunk. -/
def chunkState (m : EccMem) (i : Image) (l : LayerImage) (c n : Nat) (x : LayerSeal) : List (Nat × List Byte) :=
  (chunkOut m i l c n x).1

/-- The logical cluster that processes a chunk (R314): in the vat-port field and the place that its number picks. -/
def Retire.chunkCluster (r : Retire) (g : Nat) : Option Nat :=
  let fs := ((List.range 40).map vatSite).filter fun f => !r.fields.contains f
  (fs[g % fs.length]?).bind fun f =>
    let ls := (List.range 1200).filter fun l => fieldOfLogical l == f && !r.hole l
    ls[g / fs.length % ls.length]?

/-- The tiles that process a chunk, with the slots that serve them (R314). -/
def Retire.chunkTiles (r : Retire) (g : Nat) : List (Nat × Nat) :=
  match r.chunkCluster g with
  | none => []
  | some l => r.tilesAt l

/-- What a chunk leaves in its tiles: census slot 31 cleared and then counted for the 4,096 elements of each, and the SAT
bit of context 1 (R62, R96, R198, R314, R374, R491 event 0x1B). -/
def State.chunkCensus (s : State) (g : Nat) (o : ChunkOut) : State :=
  (s.bind.applied.chunkTiles g).foldl (fun s q =>
    let t := s.tile q.2
    let t := { t with census := sput {} t.census 31 {} }
    (s.setTile q.2 (t.countCensus 31 ((o.cls.drop (4096 * q.1)).take 4096))).noteSat q.2 .c1
      (((o.sats.drop (4096 * q.1)).take 4096).any id)) s

/-! The journal (R315 to R318) -/

/-- The journal entry of a slot. -/
def Image.journal (i : Image) (slot : Nat) : Nat := i.couch + 0x80000 + 64 * slot

/-- The address of a slot's space. -/
def Image.couchSlot (i : Image) (slot : Nat) : Nat := i.couch + 0x80000 * slot

/-- A slot may be taken for a chunk of step n (R318). -/
def State.slotFree (s : State) (i : Image) (n slot : Nat) : Bool :=
  let e := s.vats.mem.read (i.journal slot) 13
  let st := leAt e 12 1
  st == 0 || decide (leAt e 0 8 < n) || st == 2 || s.chunkDone i (leAt e 0 8) (leAt e 8 4)

/-- The slot that a chunk takes: a free choice among those that R318 allows (log entry 1). -/
def State.takeSlot (s : State) (i : Image) (n : Nat) : Nat × State :=
  let c := (Config.freeWord s.free).toNat % 130991
  let k := ((List.range 130991).find? fun k => s.slotFree i n (81 + (c + k) % 130991)).getD 0
  (81 + (c + k) % 130991, { s with free := s.free + 1 })

/-- Bytes 8 to 15 of a journal entry. -/
def journalWord (g st : Nat) : List Byte := leBytes 4 g ++ leBytes 4 st

/-- Step 7 of R317: COMPLETE, and then the done byte. -/
def State.chunkComplete (s : State) (i : Image) (n g slot : Nat) : State :=
  (s.phase2Write (i.journal slot + 8) (journalWord g 2)).phase2Write (i.couch + 0x880000 + g) (leBytes 1 (n % 256))

/-- Write the pieces of a chunk's new state. -/
def State.putPieces (s : State) (at_ : Nat → Option Nat) (ps : List (Nat × List Byte)) : State :=
  ps.foldl (fun s p => match at_ p.1 with
    | some a => s.phase2Write a p.2
    | none => s) s

/-- The home address of a slot offset. -/
def homeOf (ps : List (Nat × Nat × Nat)) (off : Nat) : Option Nat := (ps.find? fun p => p.2.1 == off).map fun p => p.1

/-- What phase 2 of a chunk reads: its state, its log and its notes. -/
def chunkRanges (i : Image) (l : LayerImage) (c : Nat) : List (Nat × Nat) :=
  let n := min 65536 (l.npar - 65536 * c)
  ((chunkPieces i l c).map fun p => (p.1, p.2.2)) ++
    [(l.logb + 65536 * c, 64 * cdiv n 64), (l.logr + 128 * c, 128), (i.region (l.chunk0 + c) + 0x6000, 128)]

/-- Words that context 1 of a chunk's tile has issued, how many and which of them tagged being free (log entries 1 and 22):
they count, and the tag records are held or dropped (R491 event 0x15, R499, R500). -/
def State.chunkWords (s : State) (n : Nat) (q : Nat × Nat × Nat) : State :=
  let words := (Config.freeWord s.free).toNat
  let s := { s with free := s.free + 1 }.bump (pgCluster (q.2.2 / 17)) 0x15 words
  if !s.ctr.tagOn then s
  else
    let tagged := (Config.freeWord s.free).toNat % (words + 1)
    let cls := (s.field (fieldOfCluster (q.2.2 / 17))).classNow
    let one := fun (k : Nat) =>
      let f := freeBytes (s.free + 1 + 30 * k) 30
      let r := leBytes 1 (leAt f 0 1 % 64) ++ leBytes 1 (16 + leAt f 1 1 % 16) ++ leBytes 2 q.1 ++ bytesAt f 2 4 ++
        leBytes 8 n ++ bytesAt f 6 24 ++ leBytes 1 cls ++ List.replicate 23 0
      if s.sec.isSealed then maskTag r else r
    let held := min tagged 256
    let c := (List.range held).foldl (fun (c : CtrReader) k => c.tag q.1 (one k)) s.ctr
    { s with ctr := { c with tagDropped := satAdd 32 c.tagDropped (tagged - held)
                             dropSince := satAdd 32 c.dropSince (tagged - held) }
             free := s.free + 1 + 30 * held }

/-- The words of the routine for one chunk, in each of its tiles. -/
def State.chunkIssues (s : State) (g n : Nat) : State :=
  let l := ((s.bind.applied.chunkCluster g).getD 0)
  (s.bind.applied.chunkTiles g).foldl (fun s q => s.chunkWords n (l * 16 + q.1, q)) s

/-- Phase 2 of one chunk (R317); a chunk of a skipped layer performs step 7 alone. -/
def State.doChunk (s : State) (i : Image) (x : SealedStep) (g : Nat) : State :=
  match i.layerOf g with
  | none => s
  | some (k, l, c) =>
    match x.layers[k]? with
    | none => s
    | some y =>
      let (slot, s) := s.takeSlot i x.step
      s.phase2Read [(i.journal slot, 16)] fun s =>
      let s := s.chunkIssues g x.step
      if y.skip then s.chunkComplete i x.step g slot
      else
        let s := s.phase2Write (i.journal slot + 8) (journalWord g 0)
        let ps := chunkPieces i l c
        s.phase2Read (chunkRanges i l c) fun s =>
          let out := chunkOut s.vats.mem i l c x.step y
          let new := out.1
          let s := s.chunkCensus g out.2
          let s := s.putPieces (fun o => some (i.couchSlot slot + o)) new
          let s := s.phase2Write (i.journal slot) (leBytes 8 x.step)
          let s := s.phase2Write (i.journal slot + 8) (journalWord g 1)
          (s.putPieces (homeOf ps) new).chunkComplete i x.step g slot

/-- The first chunk that is not done for a step, in ascending number (R314). -/
def State.nextChunk (s : State) (i : Image) (n : Nat) : Option Nat :=
  (List.range i.chunkCount).find? fun g => !s.chunkDone i n g

/-- Phase 2 processes its next chunk: it reads the done map up to it, and the journal entry of the slot that it takes. -/
def execPhase2Chunk (s : State) : Out :=
  match s.train.ph2, s.trainImage with
  | some x, some i => match s.nextChunk i x.step with
    | some g => .next (s.phase2Read [(i.couch + 0x880000, g + 1)] fun s => s.doChunk i x g)
    | none => .next s
  | _, _ => .next s

/-! The commit (R305, R319, R501) -/

/-- "None" of PHASE2 and STAGED (R316). -/
def noStep : Nat := 2 ^ 64 - 1

/-- The census counts of slots 0 to 30 summed over the tiles of a seal record: key slot·4 + count (R501). -/
def censusSum (rec : List Byte) (tiles : Nat) : List (Nat × Nat) :=
  (List.range 124).foldl (fun l k =>
    sput 0 l k ((List.range tiles).foldl (fun a pt => a + leAt rec (1040 + 512 * pt + 16 * (k / 4) + 4 * (k % 4)) 4) 0)) []

/-- What follows step 4 of R319: the step number, the watermark, the census summary and the events of the commit. -/
def State.committed (s : State) (x : SealedStep) (i : Image) : State :=
  let s := { s with
    train := { s.train with committed := x.step, ph2 := none, base := [], redos := if s.train.ph1.isSome then s.train.redos else 0 }
    twin := { s.twin with lastWm := x.wmark, mism := 0, own2 := none, theirs := s.twin.theirs.filter fun t => t.1 != x.step
                          probe := none, dlog := [], dlogGot := 0, drec := [], drecGot := 0 }
    ctr := { s.ctr with cenStep := x.step, census := censusSum x.record i.tilesN } }
  let s := ((s.setEvt (pgCmd .h0) 4).setEvt (pgCmd .h1) 4).setEvt pgCtr 8
  let s := ((s.bump (pgCc 0) 0x62 1).bump (pgCc 1) 0x62 1).bump (pgCc 2) 0x62 1
  (s.copyCommit i x).settleCommand

/-- Steps 3 to 5 of R319. -/
def State.commitTail (s : State) (i : Image) (x : SealedStep) : State :=
  let n := x.layers.length
  s.phase2Read [(i.couch + 0x10000, 64 * n)] fun s =>
    let s := (List.range n).foldl (fun (s : State) k =>
      s.phase2Write (i.layerTable + 128 * k + 64) (s.vats.mem.read (i.couch + 0x10000 + 64 * k) 64)) s
    let s := s.phase2Write i.couch (leBytes 8 x.step)
    (s.phase2Write (i.couch + 8) (leBytes 8 noStep)).committed x i

/-- The five writes of R319. -/
def State.commitStep (s : State) (i : Image) (x : SealedStep) : State :=
  let s := s.phase2Write (i.couch + 0x10000) (x.layers.flatMap fun l => l.state)
  (s.phase2Write (i.couch + 16) (leBytes 8 x.step)).commitTail i x

/-- Every chunk of a step is done and the control complex commits it. -/
def execCommit (dissent : Option Replica) (s : State) : Out :=
  match s.train.ph2, s.trainImage with
  | some x, some i =>
    if (s.nextChunk i x.step).isSome then .next s
    else
      let (ok, s) := s.vote dissent
      if !ok then .next s else .next (s.commitStep i x)
  | _, _ => .next s

/-! The roll-forward (R50, R320) -/

/-- Journal entries with a STATE, as their slots, ascending. -/
def State.journalSlots (s : State) (i : Image) : List Nat :=
  (s.vats.mem.cells.filter fun c => inRange c.1 (i.couch + 0x80000, 0x800000) && (c.1 - i.couch) % 64 == 12).map fun c =>
    (c.1 - i.couch - 0x80000) / 64

/-- Step 2 of R320 for one slot: the slot's state is copied home and its chunk completed. -/
def State.replaySlot (s : State) (i : Image) (n slot : Nat) : State :=
  let e := s.vats.mem.read (i.journal slot) 13
  let g := leAt e 8 4
  if leAt e 0 8 ≠ n ∨ (leAt e 12 1 ≠ 1 ∧ leAt e 12 1 ≠ 2) ∨ s.chunkDone i n g then s
  else match i.layerOf g with
    | none => s
    | some (_, l, c) =>
      let ps := chunkPieces i l c
      s.phase2Read (ps.map fun p => (i.couchSlot slot + p.2.1, p.2.2)) fun s =>
        (ps.foldl (fun (s : State) p => s.phase2Write p.1 (s.vats.mem.read (i.couchSlot slot + p.2.1) p.2.2)) s).chunkComplete
          i n g slot

/-- What the roll-forward reads of the couch area: its header, its journal and its done map (R315, R320). -/
def Image.couchRanges (i : Image) : List (Nat × Nat) :=
  [(i.couch, 24), (i.couch + 0x80000, 0x800000), (i.couch + 0x880000, i.chunkCount)]

/-- Roll the step in phase 2 forward and commit it by vote (R22, R320). -/
def State.rollForward (s : State) (dissent : Option Replica) : State :=
  match s.trainImage with
  | none => s
  | some i => s.phase2Read i.couchRanges fun s =>
    let h := s.vats.mem.read i.couch 24
    let n := leAt h 8 8
    if n = noStep then s
    else if n = leAt h 0 8 then s.phase2Write (i.couch + 8) (leBytes 8 noStep)
    else match s.train.ph2 with
      | none => s
      | some x =>
        if leAt h 16 8 = n then s.voteThen dissent fun s => s.commitTail i x
        else
          let s := (s.journalSlots i).foldl (fun s k => s.replaySlot i n k) s
          let s := (List.range i.chunkCount).foldl (fun s g =>
            if s.chunkDone i n g || s.train.ph2.isNone then s else s.doChunk i x g) s
          if s.train.ph2.isNone || (s.nextChunk i n).isSome then s else s.voteThen dissent fun s => s.commitStep i x

/-- After a fault the module completes the step left in phase 2. -/
def execRollForward (s : State) (dissent : Option Replica := none) : Out := .next (s.rollForward dissent)

end Sys2Proof.Machine
end

