-- ==== Sys2Proof/Machine/Ticks.lean ====
section
/-! DEFINITION. Ticks, felt links and binding: the launch, spread and arrival of a tick wave, overruns, replays and
retraining, and the write-back of a corrected SRAM word (R40 to R47, R177, R211 to R213, R268, R269, R280, R281, R356). -/

namespace Sys2Proof.Machine

/-! The wave -/

/-- The wave has been delivered by every router that serves a logical cluster. -/
def State.waveDone (s : State) : Bool :=
  match s.felt.wave with
  | none => true
  | some w => (List.range 1200).all fun l => match s.bind.applied.server l with
    | some c => w.delivered.contains c
    | none => true

/-- No remote operation of context 0 of a program remains in the felt (R177). -/
def State.feltClear (s : State) (i : Nat) : Bool :=
  !(s.felt.packets.any fun p => p.prog == i && p.ctx == .c0) && !(s.felt.responses.any fun p => p.prog == i && p.ctx == .c0) &&
  !(s.felt.unacked.any fun u => u.ctx == .c0 && s.owner (u.src / 16) == some i)

/-- The first tick of an attempt need not wait: the felt is clear, the seed is present, raised voltages have settled, no
link retrains and no binding computation is due (R35, R116, R177, R281, R464). -/
def State.firstTickReady (s : State) (i : Nat) : Bool :=
  s.feltClear i && (s.seedOf i).isSome && s.fields.all (fun f => f.2.raiseTo.isNone) && s.felt.gaveUp.isEmpty &&
  !s.rebindDue

/-- The tick that a program takes next, if it takes one: ticks run to the count of the image, and one more wave finds
every tile at STEP_END (R213). DESIGN CHOICE: an image whose tick count is 0 is accepted, and that one more wave, of index
0, is then its first and starts the tiles (log entry 38). -/
def State.nextTick (s : State) (i : Nat) : Option Nat :=
  let t := if i = 0 then (match s.train.ph1 with
      | some a => if a.started then some a.tick else none
      | none => none)
    else match (s.query i).run with
      | some r => if r.started then some r.tick else none
      | none => none
  match t, s.image? i with
  | some k, some im => if im.ticks < k || (k == 0 && !s.firstTickReady i) then none else some k
  | _, _ => none

/-- Programs with a tick due. -/
def State.ticking (s : State) : List Nat := (List.range 4).filter fun i => (s.nextTick i).isSome

/-- A program's tick is launched. -/
def State.countTick (s : State) (i : Nat) : State :=
  if i = 0 then { s with train := { s.train with ph1 := s.train.ph1.map fun a => { a with tick := a.tick + 1 } } }
  else
    let x := s.query i
    s.setQuery i { x with run := x.run.map fun r => { r with tick := r.tick + 1 } }

/-- A tick period ends and the control complex launches the tick wave, once the wave before it has been delivered and
when a program takes the tick (R22, R40, R268); after an emergency throttle the holds are computed first (R269). DESIGN
CHOICE: of several programs that tick, the one message carries the training step, 0 with none, and the tick of the
lowest-numbered program (log entry 38). -/
def execTickWaveLaunch (dissent : Option Replica) (s : State) : Out :=
  if s.cc.restricted.isSome || s.ticking.isEmpty || !s.waveDone then .next s
  else
    let (ok, s) := s.vote dissent
    if !ok then .next s
    else
      let s := if s.felt.holdStale then s.sampleHolds else s
      let ps := s.ticking
      let w : Wave := {
        step := match s.train.ph1 with
          | some a => a.step
          | none => 0
        tick := (s.nextTick (ps.headD 0)).getD 0
        progs := ps, starts := ps.filter fun i => s.nextTick i == some 0 }
      let s := ps.foldl State.countTick s
      let s := { s with felt := { s.felt with wave := some w }, sec := { s.sec with taintSram := true } }
      .next (((s.bump (pgCc 0) 0x61 1).bump (pgCc 1) 0x61 1).bump (pgCc 2) 0x61 1)

/-- The half of a logical cluster. -/
def halfOf (l : Nat) : Half := if l % 40 < 20 then .west else .east

/-- The logical cluster from which the wave comes to a cluster (R268, R269): the West root to the East root, the root's
row and then the columns, or the root itself by the route of R260; none for the West root. -/
def Retire.wavePred (r : Retire) (l : Nat) : Option Nat :=
  match r.root (halfOf l) with
  | none => none
  | some q =>
    if l = q then (if halfOf l = .west then none else r.root .west)
    else if r.usable q l then
      (if l / 40 < q / 40 then some (l + 40) else if q / 40 < l / 40 then some (l - 40)
       else if l < q then some (l + 1) else some (l - 1))
    else some q

/-- The flits of a message in error that one router receives. -/
def flitsInto (c : Nat) (es : List FlitErr) : List FlitErr := es.filter fun x => flitRouter x == c

/-- The wave message reaches a router, after the router before it (R269); its hold starts. A message that the router cannot
correct waits for its replay (R251). -/
def execWaveArrival (cluster : Nat) (s : State) : Out :=
  if !clusterOk cluster then .fault .noSuchUnit
  else match s.felt.wave, s.bind.applied.serves cluster with
    | some w, some l =>
      let before := match s.bind.applied.wavePred l with
        | none => true
        | some q => match s.bind.applied.server q with
          | some c => w.reached.contains c
          | none => false
      let es := flitsInto cluster w.errs
      if w.reached.contains cluster || !before || flitBad es then .next s
      else .next ({ s with felt := { s.felt with wave := some { w with reached := w.reached ++ [cluster] } } }.flitReads es)
    | _, _ => .next s

/-! Tick arrival (R43, R44, R178, R211 to R213) -/

/-- Operations of one context that a tile's units have not completed. -/
def Tile.openOps (t : Tile) (c : Ctx) : List UnitOp := t.inFlight.filter fun o => o.ctx == c

/-- Remote operations of one context of a tile whose local part is not finished (R204, R211). -/
def State.localParts (s : State) (t : Nat) (c : Ctx) : Bool :=
  (s.felt.packets.any fun p => p.src == t && p.ctx == c && (p.kind == .get || p.kind == .rswap) && decide (0 < p.len)) ||
  s.felt.responses.any fun r => r.dst == t && r.ctx == c && r.opId.isNone

/-- The work of a context for the tick is finished (R211); a context that runs nothing has none. -/
def State.workDone (s : State) (t slot : Nat) (c : Ctx) : Bool :=
  ((s.tile slot).ctx c).run != .running && ((s.tile slot).openOps c).isEmpty && !s.localParts t c

/-- A tile of a program at a tick arrival: whether it overruns (R212, R213). -/
def State.overruns (s : State) (t slot : Nat) (last : Bool) : Bool :=
  !s.workDone t slot .c0 || (last && ((s.tile slot).c0.run == .tickWait)) || !s.workDone t slot .c1

/-- The flags of a program's attempt: a throttle fell in it, it is the redo of R44. -/
def State.attemptFlags (s : State) (i : Nat) : Bool × Bool :=
  if i = 0 then (s.train.throttled, s.train.overrun)
  else match (s.query i).run with
    | some r => (r.throttled, r.overrun)
    | none => (false, false)

/-- The attempt that now runs is the redo of R44. -/
def State.markOverrun (s : State) (i : Nat) : State :=
  if i = 0 then (if s.train.ph1.isSome then { s with train := { s.train with overrun := true } } else s)
  else
    let x := s.query i
    s.setQuery i { x with run := x.run.map fun r => { r with overrun := true } }

/-- An attempt of a program's work has begun. -/
def State.attemptBegun (s : State) (i : Nat) : Bool :=
  if i = 0 then s.train.ph1.any fun a => a.started else (s.query i).run.any fun r => r.started

/-- TICK_OVERRUN in a program, on the page of a cluster (R43, R44, R46, R47). One that a further cluster meets once the
attempt is discarded, before its redo begins, is of the attempt discarded and is recorded alone (R212). -/
def State.overrun (s : State) (i c tn : Nat) : State :=
  let (throttled, plain) := s.attemptFlags i
  let s := s.recordFault (pgCluster c) fTICK_OVERRUN (tn * 2 ^ 28)
  if !s.attemptBegun i then s
  else if throttled then
    match s.lowestClass with
    | none => s.scheduleOverrun i (pgCluster c)
    | some k =>
      let s := { s with train := { s.train with stretch := some k } }
      if 64 < s.periodOf i then s.scheduleOverrun i (pgCluster c) else s.absorb i fTICK_OVERRUN
  else if plain then s.scheduleOverrun i (pgCluster c)
  else (s.absorb i fTICK_OVERRUN).markOverrun i

/-- A tick in context 1: it goes on at the word after TICK_WAIT (R211, R312). -/
def Tile.tickC1 (t : Tile) : Tile := if t.c1.run = .tickWait then { t with c1 := { t.c1 with run := .running } } else t

/-- A tick starts the tick's work in one tile: the entry address and the seed at a first tick, the word after TICK_WAIT
at a later one (R116, R178, R187). -/
def Tile.tick (t : Tile) (first : Option (Option TileImage × Nat)) : Tile :=
  let t := t.tickC1
  match first with
  | some (some i, seed) =>
    { t with seed := seed, c0 := { t.c0 with pc := i.entry, run := .running, codeBase := i.codeBase, codeLen := i.codeLen } }
  | some (none, seed) => { t with seed := seed }
  | none => if t.c0.run = .tickWait then { t with c0 := { t.c0 with run := .running } } else t

/-- The tick reaches context 1 of tiles that run no program's tick (R212, R312): unfinished work there is phase 2's. -/
def State.deliverC1 (s : State) (l c : Nat) : State :=
  let tiles := s.bind.applied.tilesAt l
  match tiles.find? fun q => !s.workDone (l * 16 + q.1) q.2 .c1 with
  | some q => s.overrun 0 c q.1
  | none => tiles.foldl (fun s q => s.setTile q.2 (s.tile q.2).tickC1) s

/-- The tick reaches the tiles of a logical cluster of a program. -/
def State.deliver (s : State) (i l c : Nat) (first last : Bool) : State :=
  let tiles := s.bind.applied.tilesAt l
  match tiles.find? fun q => if first then !s.workDone (l * 16 + q.1) q.2 .c1 else s.overruns (l * 16 + q.1) q.2 last with
  | some q => s.overrun i c q.1
  | none =>
    match s.image? i, s.prog i with
    | some im, some p =>
      let (x, y) := p.bound.getD (0, 0)
      let seed := (s.seedOf i).getD 0
      tiles.foldl (fun s q =>
        let im := im.tile? (im.ptileOf (l % 40 - x) (l / 40 - y) q.1)
        s.setTile q.2 ((s.tile q.2).tick (if first then some (im, seed) else none))) s
    | _, _ => s

/-- The hold of a router ends and it delivers the tick to its tiles (R212, R269). -/
def execTickArrival (cluster : Nat) (s : State) : Out :=
  if !clusterOk cluster then .fault .noSuchUnit
  else match s.felt.wave, s.bind.applied.serves cluster with
    | some w, some l =>
      if !w.reached.contains cluster || w.delivered.contains cluster then .next s
      else
        let f := fieldOfCluster cluster
        let s := if w.delivered.any fun c => fieldOfCluster c == f then s else s.bump (pgField f) 0x52 1
        let s := { s with felt := { s.felt with wave := some { w with delivered := w.delivered ++ [cluster] } } }
        match s.owner l with
        | none => .next (s.deliverC1 l cluster)
        | some i =>
          let used := match s.image? i, s.prog i with
            | some im, some p => let (x, y) := p.bound.getD (0, 0); !im.isUnused (l % 40 - x) (l / 40 - y)
            | _, _ => false
          if !w.progs.contains i || !used then .next (s.deliverC1 l cluster)
          else
            let last := match s.image? i with
              | some im => decide (im.ticks < (s.workIndex i).2 + 1)
              | none => false
            .next (s.deliver i l cluster (w.starts.contains i) last)
    | _, _ => .next s

/-! Felt links (R280, R281) -/

/-- A link gives up: the fault on both routers' pages, every attempt and query discarded, VC1 to VC3 dropped with what
they had to write, and the tree rounds cleared; a second link of one router that gives up in the same attempt takes the
cluster with it, in place of its links. -/
def State.giveUp (s : State) (l : Nat) : State :=
  let s := s.linkFault l fLINK_REPLAY_FAIL
  let s := s.absorbAll fLINK_REPLAY_FAIL
  let s := s.freeTiles (s.feltRanges (s.felt.packets.filter fun p => p.chan != .express) s.felt.responses s.felt.conv)
  let s := { s with felt := { s.felt with
    packets := s.felt.packets.filter fun p => p.chan == .express
    responses := [], unacked := [], conv := [], rounds := [], done := [], next := []
    replays := s.felt.replays.filter fun k => k.1 / 4 != l, gaveUp := s.felt.gaveUp ++ [l], attemptLinks := l :: s.felt.attemptLinks } }
  let ((a, _), (b, _)) := linkEnds l
  [a, b].eraseDups.foldl (fun s c =>
    let touches := fun k => let ((x, _), (y, _)) := linkEnds k; x == c || y == c
    if (s.felt.attemptLinks.eraseDups.filter touches).length < 2 then s
    else { s with felt := { s.felt with gaveUp := s.felt.gaveUp.filter fun k => !touches k } }.retireCluster c) s

/-- A replay of a lane of a link in one direction: the flits from `seq` on are sent again, as far as the lane's replay buffer
of the last 64 reaches, and the words in error that no router can correct arrive well (R249, R280). -/
structure Replay where
  link : Nat
  forward : Bool
  lane : Nat
  seq : Nat

/-- What stays in error after a replay. -/
def Replay.errs (r : Replay) (es : List FlitErr) : List FlitErr :=
  es.filter fun x => !(x.link == r.link && x.forward == r.forward && x.lane == r.lane &&
    decide ((x.seq + 256 - r.seq) % 256 < 64) && x.err.fix.1.isNone)

/-- A replay sends the flits of line requests again. -/
def Replay.lines (r : Replay) (q : List LineReq) : List LineReq := q.map fun x => { x with errs := r.errs x.errs }

/-- A replay completes without error: in packets, responses, acknowledgements, the wave, and the requests to port sites
(R251, R280). -/
def State.resend (s : State) (r : Replay) : State :=
  { s with
    felt := { s.felt with
      packets := s.felt.packets.map fun p => { p with errs := r.errs p.errs }
      responses := s.felt.responses.map fun p => { p with errs := r.errs p.errs }
      unacked := s.felt.unacked.map fun p => { p with errs := r.errs p.errs }
      wave := s.felt.wave.map fun p => { p with errs := r.errs p.errs } }
    vats := { s.vats with vats := s.vats.vats.map fun v =>
      (v.1, { v.2 with qStream := r.lines v.2.qStream, qC1 := r.lines v.2.qC1, qOther := r.lines v.2.qOther }) } }

/-- Key of a lane of a link in one direction. -/
def laneKey (link : Nat) (forward : Bool) (lane : Nat) : Nat := link * 4 + (if forward then 2 else 0) + lane

/-- A replay request reaches the sender of a link's lane, naming flit `seq` as the first that the receiver lacks; the flits
from it on are sent again and arrive well, or one fails again. At the eighth failure in a row of the same flit the link
gives up (R249, R280). `forward` names the direction from the first router of `linkEnds` to the second, which then asks
for the replay. -/
def execReplayRequest (link : Nat) (forward good : Bool) (s : State) (lane : Nat := 0) (seq : Nat := 0) : Out :=
  if !linkOk link || !decide (lane < 2) || !decide (seq < 256) then .fault .noSuchUnit
  else
    let ((a, _), (b, _)) := linkEnds link
    -- a link that is retired, or that ends on a retired cluster, is dead (R248)
    if !s.bind.found.linkUp link || s.felt.gaveUp.contains link || !s.bind.found.living a || !s.bind.found.living b then
      .next s
    else
      let s := s.bump (pgCluster (if forward then b else a)) 0x24 1
      let key := laneKey link forward lane
      let last := sget (0, 0) s.felt.replays key
      let n := if last.1 = seq then last.2 + 1 else 1
      if good then
        let s := s.resend ⟨link, forward, lane, seq⟩
        .next { s with felt := { s.felt with replays := sput (0, 0) s.felt.replays key (0, 0) } }
      else if n < 8 then .next { s with felt := { s.felt with replays := sput (0, 0) s.felt.replays key (seq, n) } }
      else .next (s.giveUp link)

/-- Retraining of a link ends: it passes, or the link is retired because it fails or gave up before within 24 h (R281). -/
def execLinkRetrainDone (link : Nat) (pass : Bool) (s : State) : Out :=
  if !linkOk link then .fault .noSuchUnit
  else if !s.felt.gaveUp.contains link then .next s
  else
    let (again, s) := s.recurs (fLINK_REPLAY_FAIL * 2 ^ 32 + link)
    let s := { s with felt := { s.felt with gaveUp := s.felt.gaveUp.filter (· != link) } }
    .next (if pass && !again then s else s.retireLink link)

/-! Write-back -/

/-- A corrected SRAM word is written back, unless a write came first (R356); an unclocked tile writes none back (R254). -/
def execSramWriteBack (slot addr : Nat) (s : State) : Out :=
  if !slotOk slot then .fault .noSuchUnit
  else if s.unclocked slot then .next s
  else
    let t := s.tile slot
    let w := addr / 8 * 8
    if t.sram.due.contains w then .next (s.setTile slot { t with sram := t.sram.settle w }) else .next s

end Sys2Proof.Machine
end

