-- ==== Sys2Proof/Machine/Steps.lean ====
section
/-! DEFINITION. Phase 1 of a step: the feed, the start of an attempt, the sealed inputs, streams and views, and the seal
(R48 to R53, R299, R300, R305, R332, R333, R341, R372, R399 to R401, R443, R444, R506), and the queries (R47, R54, R379,
R445). -/

namespace Sys2Proof.Machine

/-! The feed and the start of an attempt (R444, R53) -/

/-- RUN_STEPS may start a step attempt. -/
def State.mayBegin (s : State) : Bool :=
  s.train.running && s.cc.restricted.isNone && s.train.ending.isNone && !s.train.held && s.train.sealedStep.isNone &&
  !s.rebindDue && s.awake && match s.run with
    | some r => !r.aborting
    | none => false

/-- Ring index of entry `j` of step `n`. -/
def ringIndex (n e j count : Nat) : Nat := ((n - 1) * e + j) % count

/-- An attempt begins: the tiles and sums start anew, the entries are read, and the holder of a moving copy sends its
round (R53, R176, R387, R444). -/
def State.beginAttempt (s : State) (r : Running) (i : Image) (n att : Nat) : State :=
  let s := s.startAttempt 0
  let ins := (List.range i.feedE).map fun j =>
    let k := ringIndex n i.feedE j r.page.feedCount.toNat
    ({ ring := k, entry := s.dmaRead r.port (r.page.feedBase.toNat + 32 * k) 32 } : Input)
  let s := s.dmaTook r.port i.feedE
  { s with train := { s.train with ph1 := some { step := n, attempt := att, started := true, inputs := ins } } }.copyRound

/-- The step that follows the last one sealed or committed. -/
def State.nextStep (s : State) : Nat :=
  match s.train.ph2 with
  | some x => x.step + 1
  | none => s.train.committed + 1

/-- A fresh step at its boundary: it waits for the fill index, and then takes classes and period by vote and begins (R22,
R43, R46, R463 to R465). -/
def State.freshStep (s : State) (r : Running) (i : Image) (dissent : Option Replica) : State :=
  let n := s.nextStep
  if s.train.last < n ∨ (s.twin.st = 3 ∧ s.train.ph2.isSome) then s
  else
  let s := s.dmaTook r.port 1
  if leNat (s.dmaRead r.port r.page.feedFill.toNat 8) < n then
    (if s.train.feedWait then s else { s with train := { s.train with feedWait := true } }.setEvt (pgCmd r.port) 8)
  else s.voteThen dissent fun s =>
    let s := { s with train := { s.train with feedWait := false, redos := 0, overrun := false, throttled := false } }.boundary
    if 64 < s.periodOf 0 then s.scheduleOverrun 0 (pgCmd r.port) else s.beginAttempt r i n 0

/-- Phase 1 of a step attempt begins, once no remote operation of an earlier one is in the felt (R177); a redone step does
not read the fill index again. -/
def execStepBegin (s : State) (dissent : Option Replica := none) : Out :=
  match s.run, s.trainImage with
  | some r, some i =>
    if !s.mayBegin || !s.feltClear 0 || !(s.port r.port).dmaUp then .next s
    else match s.train.ph1 with
      | some a =>
        -- the holder of a copy completes phase 2 before phase 1 begins (R387)
        if a.started || (s.twin.st == 3 && s.train.ph2.isSome) then .next s
        else .next (s.beginAttempt r i a.step a.attempt)
      | none => if s.train.feedWait then .next s else .next (s.freshStep r i dissent)
  | _, _ => .next s

/-- While the module waits, it reads the fill index every 50 µs. -/
def execFeedFillPoll (s : State) (dissent : Option Replica := none) : Out :=
  match s.run, s.trainImage with
  | some r, some i =>
    if !s.train.feedWait || !s.mayBegin || !s.feltClear 0 || s.train.ph1.isSome || !(s.port r.port).dmaUp then .next s
    else .next (s.freshStep r i dissent)
  | _, _ => .next s

/-! Sealed inputs (R399 to R401, R506) -/

/-- Reserved bytes of an entry (R443, R445). -/
def entryReserved (slot : Nat) (e : List Byte) : List Byte :=
  if slot = 0 then bytesAt e 17 7 else bytesAt e 18 6 ++ bytesAt e 48 16

/-- TAG of an entry. -/
def entryTag (slot : Nat) (e : List Byte) : List Byte := bytesAt e (if slot = 0 then 24 else 40) 8

/-- Place an input under its map entry: header, plaintext, counter (R506). In a tile it is there at once; in vat space its
lines go to their ports, each on its own (R291, R298). -/
def State.placeInput (s : State) (p : HPort) (prog j : Nat) (m tag pt : List Byte) (good : Bool) : State :=
  let base := leAt m 8 8
  let bs := leBytes 8 pt.length ++ tag ++ pt
  let s := s.modInput prog j fun x => { x with coming := true, plain := pt, good := good }
  if leAt m 0 1 = 0 then
    let s := match s.inputSlot prog m with
      | some slot =>
        let t := s.tile slot
        (s.setTile slot { t with sram := t.sram.write base bs }).conflicts slot .outside [(base, bs.length)]
      | none => s
    s.inputLanded p prog j
  else (lineParts base bs).foldl (fun s l =>
    s.enqueueLine { addr := l.1, write := true, data := [l.2], asker := .input prog j, ph1 := prog == 0 }) s

/-- Check, decrypt and place one input, and verify its tag (R399, R400, R506); an entry of length 0 skips every check. -/
def State.takeInput (s : State) (p : HPort) (slot j : Nat) (x : Input) : State :=
  let f := hostSite p
  let s := s.dmaTook p 1
  if leAt x.entry 8 8 ≠ 0 ∧ !allZero (entryReserved slot x.entry) then s.inputFault p slot x.ring fDESC_INVALID
  else match s.sec.ingress (s.port p).mem 0 (leAt x.entry 16 1) (leAt x.entry 0 8) (leAt x.entry 8 8) with
    | .error c => s.inputFault p slot x.ring c
    | .ok (pt, good) =>
      match s.image? slot with
      | none => s
      | some im =>
        let m := nth [] im.inputs j
        if leAt m 16 8 < pt.length then s.inputFault p slot x.ring fDESC_INVALID
        else
          let s := s.bump (pgSite f) 0x30 (payloadUnits pt.length)
          s.placeInput p slot j m (entryTag slot x.entry) pt good

/-- An input for a tile that is not clocked waits (R254). -/
def State.inputHeld (s : State) (slot j : Nat) : Bool :=
  match s.image? slot with
  | some im => (s.inputSlot slot (nth [] im.inputs j)).any s.unclocked
  | none => false

/-- A sealed input arrives: entry `entry` of the step (slot 0) or the input of a query; `wire` says that its transfer
passes the port's check. -/
def execHostReadCompletion (slot entry : Nat) (wire : Bool) (s : State) : Out :=
  if 4 ≤ slot then .fault .noSuchUnit
  else match s.inputPort slot, s.inputAt slot entry with
    | some p, some x =>
      if x.placed || x.coming || !(s.port p).dmaUp || s.inputHeld slot entry then .next s
      else if !wire then .next (s.dmaFailed p)
      else .next (s.takeInput p slot entry x)
    | _, _ => .next s

/-! Streams and views (R300, R333) -/

/-- The tick with an index has arrived in the work of a program. -/
def State.tickArrived (s : State) (prog tick : Nat) : Bool :=
  let launched := if prog = 0 then (match s.train.ph1 with
      | some a => a.tick
      | none => 0)
    else match (s.query prog).run with
      | some r => r.tick
      | none => 0
  decide (tick + 1 < launched) || (decide (tick < launched) && s.waveDone)

/-- Entries of a program that have started: streams, then views. -/
def State.startedEntries (s : State) (prog : Nat) (view : Bool) : List Nat :=
  if prog = 0 then match s.train.ph1 with
    | some a => if view then a.views else a.streams
    | none => []
  else match (s.query prog).run with
    | some r => if view then [] else r.streams
    | none => []

/-- Note that an entry has started. -/
def State.noteStarted (s : State) (prog k : Nat) (view : Bool) : State :=
  if prog = 0 then { s with train := { s.train with ph1 := s.train.ph1.map fun a =>
    if view then { a with views := a.views ++ [k] } else { a with streams := a.streams ++ [k] } } }
  else
    let x := s.query prog
    s.setQuery prog { x with run := x.run.map fun r => { r with streams := r.streams ++ [k] } }

/-- Queue line reads at the vats that hold them. -/
def State.queueStream (s : State) (a : Asker) (ph1 : Bool) (lines : List Nat) : State :=
  lines.foldl (fun s line =>
    let v := vatOf line
    let x := s.vats.vat v
    { s with vats := s.vats.setVat v { x with qStream := x.qStream ++ [{ addr := line, write := false, asker := a, ph1 := ph1 }] } }) s

/-- Addresses of the 64 B lines of a range. -/
def linesOf (a n : Nat) : List Nat :=
  if n = 0 then [] else (List.range ((a + n - 1) / 64 - a / 64 + 1)).map fun k => (a / 64 + k) * 64

/-- A stream-table entry starts (R300); one without data waits for the clocks of its tiles (R254). -/
def execStreamEntry (slot i : Nat) (s : State) : Out :=
  if 4 ≤ slot then .fault .noSuchUnit
  else match s.image? slot with
    | none => .next s
    | some im => match im.streams[i]? with
      | none => .next s
      | some e =>
        let x := RectEntry.parse e
        if !s.tickArrived slot x.tick || (s.startedEntries slot false).contains i ||
            (slot == 0 && !s.layerReady im (streamLayer e)) then .next s
        else
          let s0 := s
          let s := s.noteStarted slot i false
          let slots := s.destSlots slot x
          if slots.isEmpty then .next s
          else if streamLen e = 0 then
            .next (if slots.any s.unclocked then s0 else s.castDone (.stream slot i) slots x.rctr)
          else .next (s.queueStream (.stream slot i) (slot == 0) (linesOf (streamSrc e) (streamLen e)))

/-- A view entry starts (R333); one without data waits for the clocks of its tiles (R254). -/
def execViewEntry (i : Nat) (s : State) : Out :=
  match s.trainImage with
  | none => .next s
  | some im => match im.views[i]? with
    | none => .next s
    | some e => match im.layers[viewLayer e]? with
      | none => .next s
      | some l =>
        let x := RectEntry.parse e
        if !s.tickArrived 0 x.tick || (s.startedEntries 0 true).contains i || !s.layerReady im (viewLayer e) then .next s
        else
          let s0 := s
          let s := s.noteStarted 0 i true
          let slots := s.destSlots 0 x
          if slots.isEmpty then .next s
          else if viewNblk e = 0 then
            .next (if slots.any s.unclocked then s0 else s.castDone (.view i) slots x.rctr)
          else .next (s.queueStream (.view i) true
            (((List.range (viewNblk e)).map fun j => im.gradEntry l (viewFirst e + j) / 64 * 64).eraseDups))

/-! The seal (R305, R341, R372) -/

/-- A program's entries have all started and no line of theirs waits. -/
def State.castsDone (s : State) (prog : Nat) (i : Image) : Bool :=
  (List.range i.streams.length).all (fun k => (s.startedEntries prog false).contains k && !s.lineWaits (.stream prog k)) &&
  (prog != 0 || (List.range i.views.length).all fun k => (s.startedEntries prog true).contains k && !s.lineWaits (.view k))

/-- The work of a program is over: every tick and the wave after them has been delivered, and every input's tag has
verified (R213, R400). -/
def State.workOver (s : State) (prog tick : Nat) (i : Image) (inputs : List Input) : Bool :=
  decide (i.ticks < tick) && s.waveDone && inputs.all (fun x => x.placed) && s.castsDone prog i

/-- A tile's digest slots as the digest log has them (R341). -/
def digestBytes : Option Tile → List Byte
  | none => List.replicate 256 0
  | some t => (List.range 8).flatMap fun d =>
      let x := sget {} t.digests d
      leBytes 8 x.rx ++ leBytes 8 x.tx ++ leBytes 4 x.rxn ++ leBytes 4 x.txn ++ List.replicate 8 0

/-- A tile's census slots as the seal record has them; slot 31 counts 0 (R372, R374). -/
def censusBytes : Option Tile → List Byte
  | none => List.replicate 512 0
  | some t => (List.range 31).flatMap (fun c => (sget {} t.census c).bytes) ++ List.replicate 16 0

/-- The digest log (R341). -/
def State.digestLog (s : State) (i : Image) : List Byte :=
  ((List.range 40).flatMap fun v =>
    let x := s.vats.vat v
    leBytes 8 x.logsum ++ leBytes 4 x.logn ++ List.replicate 4 0) ++
  List.replicate 384 0 ++ s.tilesRecord i digestBytes

/-- The seal record (R372). -/
def State.sealRecord (s : State) (i : Image) (n : Nat) : List Byte :=
  leBytes 8 n ++ leBytes 8 s.train.committed ++ (match s.prog 0 with
    | some p => bytesAt p.measurement 0 64
    | none => List.replicate 64 0) ++
  ((List.range 40).flatMap fun v => let x := s.vats.vat v; leBytes 8 x.logsum ++ leBytes 4 x.logn) ++
  ((List.range 40).flatMap fun v => let x := s.vats.vat v; leBytes 8 x.viewsum ++ leBytes 4 x.viewn) ++
  s.tilesRecord i censusBytes

/-- The non-finite count of a layer's gradient tensors: census slots of its mask, summed over the tiles (R305). -/
def layerNonfinite (l : LayerImage) (rec : List Byte) (tiles : Nat) : Nat :=
  (((List.range 31).filter fun c => l.census.getLsbD c).map fun c =>
    ((List.range tiles).map fun pt => leAt rec (1040 + 512 * pt + 16 * c + 8) 4).foldl (· + ·) 0).foldl (· + ·) 0

/-- The layers' coefficients and new states (R305). -/
def State.sealLayers (s : State) (i : Image) (rec : List Byte) (lrn : Nat) : List LayerSeal :=
  (i.layers.zipIdx).map fun p =>
    sealLayer (s.vats.mem.read (i.layerTable + 128 * p.2 + 64) 64) (layerNonfinite p.1 rec i.tilesN) lrn

/-- The control complex seals a step: digest log, seal record, watermark, coefficients. -/
def State.sealStep (s : State) (i : Image) (a : Phase1) : State :=
  let dlog := s.digestLog i
  let s := if i.red.isSome then s.portWrites i.digb dlog false else s
  let rec_ := s.sealRecord i a.step
  let lrn := match a.inputs[i.ctrlEntry]? with
    | some x => leAt x.plain 0 4
    | none => 0
  s.phase2Read ((List.range i.layers.length).map fun k => (i.layerTable + 128 * k + 64, 64)) fun s =>
    let x : SealedStep := {
      step := a.step, attempt := a.attempt, dlog := dlog, record := rec_, wmark := shake256 rec_ 32
      layers := s.sealLayers i rec_ lrn }
    { s with train := { s.train with ph1 := none } }.afterSeal x

/-- Phase 1 ends and the step is sealed, after the step before it has committed (R49). -/
def execStepSeal (dissent : Option Replica) (s : State) : Out :=
  match s.train.ph1, s.trainImage with
  | some a, some i =>
    if !a.started || s.train.ph2.isSome || s.cc.restricted.isSome || !s.workOver 0 a.tick i a.inputs then .next s
    else
      let (ok, s) := s.vote dissent
      if !ok then .next s else .next (s.sealStep i a)
  | _, _ => .next s

/-! Queries (R445) -/

/-- A query may start in a slot: the slot is served, none is in progress and the command is not ending. -/
def State.queryReady (s : State) (q : Nat) (r : Running) : Bool :=
  (s.query q).served && (s.query q).run.isNone && s.cc.restricted.isNone && !r.aborting && !s.rebindDue && r.woken &&
  s.train.ending.isNone && (match s.prog q with
    | some p => p.bound.isSome && !p.stopped
    | none => false) &&
  (r.op != 5 || decide (r.count + ([1, 2, 3].filter fun k => (s.query k).runs).length < r.page.args.a0.toNat))

/-- The query-table registers of a slot as CMD_GO latched them (R437). -/
def CmdPage.qtab (c : CmdPage) : Nat → QTab
  | 1 => c.q1
  | 2 => c.q2
  | _ => c.q3

/-- The committed state that a query starts from (R48, R54, R55): what its image's persistent extents hold. Where phase 2 is
writing the training program's, they still stand for what they held when it began. -/
def State.committedCells (s : State) (q : Nat) : Mem :=
  let own := fun a => (s.image? q).any fun i => i.isPersistent a
  let home := fun a => s.train.ph2.isSome && (s.image? 0).any fun i => i.isPersistent a
  (s.train.base.filter fun c => own c.1 && home c.1).foldl (fun m c => sput 0 m c.1 c.2)
    (s.vats.mem.cells.filter fun c => own c.1 && !home c.1)

/-- A query starts: boundary, tiles, its table entry (R445, R463). -/
def State.beginQuery (s : State) (q : Nat) (r : Running) (t : QTab) : State :=
  let s := s.boundary
  if 64 < s.periodOf q then s.scheduleOverrun q (pgCmd r.port)
  else
    let s := s.startAttempt q
    let x := s.query q
    let ring := x.next % t.count.toNat
    let e := s.dmaRead r.port (t.base.toNat + 64 * ring) 64
    (s.dmaTook r.port 1).setQuery q { x with next := x.next + 1, run := some {
      k := x.next, entry := e, input := { ring := ring, entry := e }, started := true, port := r.port, tab := t
      start := s.committedCells q } }

/-- A query begins again from its first tick. -/
def State.againQuery (s : State) (q : Nat) (a : QRun) : State :=
  if a.started || s.rebindDue || !s.feltClear q || !s.awake then s
  else (s.startAttempt q).setQuery q { s.query q with run := some { a with started := true } }

/-- The posted count of a served slot is read, and a query starts when one is available, by vote (R22); a redone query
begins again. Each waits until no remote operation of an earlier one is in the felt (R177). -/
def execQtabFillPoll (q : Nat) (s : State) (dissent : Option Replica := none) : Out :=
  if !queryOk q then .fault .noSuchUnit
  else
    let x := s.query q
    match x.run, s.run with
    | some a, _ => .next (s.againQuery q a)
    | none, none => .next s
    | none, some r =>
      let t := r.page.qtab q
      if !(s.port r.port).dmaUp || !s.queryReady q r || !s.feltClear q || t.count = 0 then .next s
      else
        let s := s.dmaTook r.port 1
        if leNat (s.dmaRead r.port t.fill.toNat 8) ≤ x.next then .next s
        else .next (s.voteThen dissent fun s => s.beginQuery q r t)

/-- The plaintext of a query's output: a function of the items of R54 alone (R408, log entry 1). -/
def QRun.output (a : QRun) (i : Image) : List Byte :=
  let seed := match i.seedOff with
    | some o => leAt a.input.plain o 8
    | none => 0
  Config.queryOutput i.raw a.start a.input.plain (entryTag 1 a.entry) seed

/-- The running command counts a query that has completed, and ends with its last one. -/
def State.countQuery (s : State) : State :=
  match s.run with
  | none => s
  | some r =>
    let r := { r with count := r.count + 1 }
    let s := { s with run := some r }
    if r.op = 5 ∧ r.page.args.a0.toNat ≤ r.count then s.stopQueries.endCommand 0 else s.settleCommand

/-- The record number of a query's output within its command (R398): how many of the command's outputs have left. -/
def State.recordNo (s : State) (a : QRun) : Nat :=
  match a.rseq, s.run with
  | some n, _ => n
  | none, some r => r.count
  | none, none => 0

/-- An output of a command that has ended left: the outputs that are still to come are numbered after it. -/
def State.bumpOrphans (s : State) : State :=
  { s with queries := s.queries.map fun (q : Nat × QSlot) =>
    (q.1, { q.2 with run := q.2.run.map fun (a : QRun) => { a with rseq := a.rseq.map (· + 1) } }) }

/-- A query's output leaves: the export slot, the capacity, the object, the completed count (R398, R407, R445). -/
def State.deliverQuery (s : State) (q : Nat) (i : Image) (a : QRun) : State :=
  let pt := a.output i
  let xs := leAt a.entry 17 1
  match s.sec.exportKey xs with
  | .error c => (s.recordFault (pgSite (hostSite a.port)) c a.input.ring).queryFault q c
  | .ok kek =>
    if leAt a.entry 32 8 < 80 + pt.length + 16 then s.queryFault q fDESC_RANGE
    else
      let s := s.sendObject a.port kek 3 xs (s.recordNo a) (leAt a.entry 24 8) pt
      let x := s.query q
      let n := x.completed + 1
      let s := s.setQuery q { x with run := none, completed := n }
      let s := s.hostPut a.port a.tab.done.toNat (leBytes 8 n)
      if a.rseq.isSome then s.bumpOrphans else s.countQuery

/-- A query completes and delivers its output. -/
def execQueryOutput (q : Nat) (s : State) : Out :=
  if !queryOk q then .fault .noSuchUnit
  else match (s.query q).run, s.image? q with
    | some a, some i =>
      if !a.started || !(s.port a.port).dmaUp || !s.workOver q a.tick i [a.input] then .next s
      else .next (s.deliverQuery q i a)
    | _, _ => .next s

end Sys2Proof.Machine
end

