-- ==== Sys2Proof/Machine/Counters.lean ====
section
/-! DEFINITION. The counter reader's snapshots and their records (R493 to R498, R500). -/

namespace Sys2Proof.Machine

/-- The pages of BAR0 in ascending offset. -/
def allPages : List Nat := (List.range 0xC03).filter pageExists

/-- A page latches its eight counters, as they have counted up to now. -/
def State.latch (s : State) (k : Nat) : State :=
  let s := s.countTime k
  { s with ctr := { s.ctr with snap := s.ctr.snap.map fun x => { x with latched := (k, (s.page k).ctrs) :: x.latched } } }

/-- Pages that latch at launch: of the control complex, of the module, and of retired units (R494). -/
def State.latchesAtLaunch (s : State) (k : Nat) : Bool := decide (k < 10) || decide (0xC00 ≤ k) || (s.page k).lost

/-! The rings (R495, R498) -/

/-- DEST includes the host buffer. -/
def DumpRegs.toHost (r : DumpRegs) : Bool := r.dest != 1
/-- DEST includes the vat ring. -/
def DumpRegs.toVat (r : DumpRegs) : Bool := r.dest != 0
/-- The port of host dumps. -/
def DumpRegs.hport (r : DumpRegs) : HPort := if r.port then .h1 else .h0

/-- The vat ring of some registers lies within the record that a loaded query program declares as its counter ring (R498). -/
def State.ringIn (s : State) (r : DumpRegs) : Bool :=
  [1, 2, 3].any fun i => match s.image? i with
    | some im => im.allocs.any fun a => a.vat && a.ring &&
        within (r.vatBase.toNat % 2 ^ 45, 0x20000 * r.vatSlots.toNat) (a.base, a.len)
    | none => false

/-- The vat ring satisfies R498. -/
def State.ringOk (s : State) : Bool := s.ctr.access && s.ringIn s.ctr.regs

/-- A snapshot is skipped (R495). -/
def State.skipsSnapshot (s : State) : Bool :=
  s.ctr.snap.isSome || (s.ctr.regs.toHost && !(s.port s.ctr.regs.hport).dmaUp) || (s.ctr.regs.toVat && !s.ringOk)

/-- A snapshot falls due: it is launched or skipped, and tagging goes on under the registers of now (R493, R495). -/
def execCounterSnapshot (s : State) : Out :=
  if s.ctr.regs.period = 0 || !s.ident.ready then .next s
  else
    let c := { s.ctr with tagOn := s.ctr.tagEn, dumping := true }
    if s.skipsSnapshot then
      .next ({ s with ctr := { c with missedCnt := satAdd 32 c.missedCnt 1
                                      missedSince := satAdd 32 c.missedSince 1 } }.setEvt pgCtr 4)
    else
      let x : Snapshot := { seq := c.seq, regs := c.regs, step := s.train.committed, missed := c.missedSince
                            drop := c.dropSince, tags := c.tags }
      let s := { s with ctr := { c with
        seq := (c.seq + 1) % 2 ^ 64, missedSince := 0, dropSince := 0, tags := [], snap := some x } }
      .next ((allPages.filter s.latchesAtLaunch).foldl State.latch s)

/-- The page of a unit has latched. -/
def Snapshot.hasLatched (x : Snapshot) (k : Nat) : Bool := x.latched.any fun l => l.1 == k

/-- The snapshot message reaches the router of a page's unit; a unit lost since the launch latches the values that its page
keeps (R427). A page without counters in use has nothing to latch. -/
def execSnapshotLatch (page : PageNo) (s : State) : Out :=
  if !pageExists page then .fault .noSuchUnit
  else match s.ctr.snap with
    | none => .next s
    | some x =>
      if x.hasLatched page then .next s else .next (s.latch page)

/-! Records (R496, R497) -/

/-- Counter `i` of a list of counters. -/
def ctrOf (cs : List (Nat × Counter)) (i : Nat) : Counter := sget {} cs i

/-- One bit per counter in a byte. -/
def ctrBits (f : Counter → Bool) (cs : List (Nat × Counter)) : List Byte :=
  leBytes 1 ((List.range 8).foldl (fun a i => if f (ctrOf cs i) then a + 2 ^ i else a) 0)

/-- The per-page entry of a page. -/
def pageEntry (k : Nat) (cs : List (Nat × Counter)) : List Byte :=
  leBytes 1 (pageKind k) ++ [0] ++ leBytes 2 (pageInstance k) ++
  ((List.range 8).flatMap fun i => leBytes 1 (ctrOf cs i).evsel) ++
  ctrBits (fun c => c.mode) cs ++ ctrBits (fun c => c.satd) cs ++ [0, 0] ++
  (List.range 8).flatMap fun i => leBytes 6 (ctrOf cs i).value

/-- The per-page entries of a snapshot. -/
def Snapshot.pages (x : Snapshot) : List Byte :=
  allPages.flatMap fun k => pageEntry k (match x.latched.find? fun l => l.1 == k with
    | some l => l.2
    | none => [])

/-- Number and sum of the counters of each KIND, EVSEL and MODE, by kind·512 + EVSEL·2 + MODE. -/
def Snapshot.sums (x : Snapshot) : List (Nat × (Nat × Nat)) :=
  x.latched.foldl (fun l p => p.2.foldl (fun l c =>
    if c.2.evsel = 0 then l
    else
      let k := pageKind p.1 * 512 + c.2.evsel * 2 + (if c.2.mode then 1 else 0)
      let v := sget (0, 0) l k
      sput (0, 0) l k (v.1 + 1, satAdd 64 v.2 c.2.value)) l) []

/-- The aggregate entries of a snapshot. -/
def Snapshot.aggregate (x : Snapshot) : List Byte :=
  x.sums.flatMap fun e =>
    leBytes 1 (e.1 / 512) ++ leBytes 1 (e.1 / 2 % 256) ++ leBytes 1 (e.1 % 2) ++ [0] ++ leBytes 2 e.2.1 ++ [0, 0] ++
    leBytes 8 e.2.2

/-- A record: header, entries, tag records in ascending tile and issue order; TIME is a free value (log entry 1). -/
def Snapshot.record (x : Snapshot) (s : State) (agg : Bool) : List Byte :=
  let es := if agg then x.aggregate else x.pages
  let n := if agg then x.sums.length else 1589
  let tags := (x.tags.mergeSort fun a b => decide (a.1 ≤ b.1)).flatMap fun t => t.2
  leBytes 2 0x5302 ++ leBytes 1 (if agg then 1 else 0) ++ [0] ++ leBytes 4 (64 + es.length + tags.length) ++
  leBytes 8 x.seq ++ leBytes 8 (Config.freeWord s.free).toNat ++ leBytes 8 x.step ++ leBytes 4 n ++
  leBytes 4 x.tags.length ++ leBytes 4 x.missed ++ leBytes 4 x.drop ++ List.replicate 16 0 ++ es ++ tags

/-- A snapshot's record is written to its destinations. The vat ring takes it only while it lies in a declared ring; a record
that it does not take is not complete at every destination (R495, R498). -/
def State.writeDump (s : State) (x : Snapshot) : State :=
  let r := x.regs
  let lies := s.ringIn r
  let s := if r.toHost && r.hostSlots != 0 then
      s.dmaRecord r.hport (r.hostBase.toNat + 0x20000 * (x.seq % r.hostSlots.toNat)) (x.record s s.sec.isSealed)
    else s
  let s := if r.toVat && r.vatSlots != 0 && lies then
      s.portWrites (r.vatBase.toNat % 2 ^ 45 + 0x20000 * (x.seq % r.vatSlots.toNat)) (x.record s false) false
    else s
  let s := { s with ctr := { s.ctr with snap := none }, free := s.free + 1 }
  if r.toVat && !lies then s else s.setEvt pgCtr 2

/-- A snapshot whose pages have all latched is written. -/
def execDumpWritten (s : State) : Out :=
  match s.ctr.snap with
  | none => .next s
  | some x =>
    if !allPages.all (fun k => x.hasLatched k || (s.page k).ctrs.isEmpty) ||
        (x.regs.toHost && !(s.port x.regs.hport).dmaUp) then .next s
    else .next (s.writeDump x)

end Sys2Proof.Machine
end

