-- ==== Sys2Proof/Machine/Engine.lean ====
section
/-! DEFINITION. The matrix engine: dense, 2:4, ream and J-mode operations (R98 to R171, R188, R189, R504), performed as a
whole when their word issues (log entry 15). -/

namespace Sys2Proof.Machine

/-! Operands -/

/-- A matrix operand: its view, the mask plane of a compressed one (R148 to R150), and whether it is used transposed
(R154). -/
structure Operand where
  v : View
  mask : Option View := none
  trans : Bool := false
deriving DecidableEq, Repr

namespace Operand

/-- Stride of dimension 1 in units. -/
def stride (o : Operand) : Nat := nth 0 o.v.strides 0

/-- Unit offset of the element at index `i` of row `r`. -/
def unitAt (o : Operand) (i r : Nat) : Nat := i / o.v.fmt.gran + r * o.stride

/-- Code and scale byte of the stored element `i` of row `r` (R81, R219); the scale is 0 outside the narrow formats. -/
def elem (o : Operand) (m : EccMem) (i r : Nat) : Nat × Nat :=
  let u := o.unitAt i r
  if o.v.fmt.narrow then
    (planeCode o.v.fmt (m.read (o.v.unitAddr u) o.v.fmt.unit) (i % 32), (m.byte (o.v.auxAddr u)).toNat)
  else (m.le (o.v.unitAddr u) o.v.fmt.unit, 0)

/-- Byte ranges that reading an element touches. -/
def elemRanges (o : Operand) (i r : Nat) : List (Nat × Nat) :=
  let u := o.unitAt i r
  (o.v.unitAddr u, o.v.fmt.unit) :: (if o.v.fmt.aux = 0 then [] else [(o.v.auxAddr u, o.v.fmt.aux)])

/-- Address of the mask word of group `i` of storage row `r` (R150). -/
def maskAddr (o : Operand) (r i : Nat) : Nat :=
  match o.mask with
  | some v => v.unitAddr (i / 8 + r * nth 0 v.strides 0)
  | none => 0

/-- The mask of group `i` of storage row `r` (R150). -/
def maskOf (o : Operand) (m : EccMem) (r i : Nat) : Nat := m.le (o.maskAddr r i) 4 >>> (4 * (i % 8)) % 16

end Operand

/-- Set bits of a mask of 4 bits. -/
def pop4 (x : Nat) : Nat := ((List.range 4).filter fun b => x.testBit b).length

/-- The kept-value slot of a position of a storage row (R149). -/
def keptSlot (mask p : Nat) : Nat := 2 * (p / 4) + pop4 (mask % 2 ^ (p % 4))

/-- Kept positions of K group `i` at output coordinate `x`, each with its storage row and slot (R149, R153, R154). -/
def Operand.kept (o : Operand) (m : EccMem) (x i : Nat) : List (Nat × Nat × Nat) :=
  if o.trans then
    ((List.range 4).map (4 * i + ·)).filterMap fun k =>
      let w := o.maskOf m k (x / 4)
      if w.testBit (x % 4) then some (k, k, keptSlot w x) else none
  else
    let w := o.maskOf m x i
    ((List.range 4).filter fun b => w.testBit b).map fun b => (4 * i + b, x, keptSlot w (4 * i + b))

/-- Mask bits of column `p` over the four rows of a block (R154). -/
def Operand.colMask (o : Operand) (m : EccMem) (i p : Nat) : Nat :=
  (List.range 4).foldl (fun w r => if (o.maskOf m (4 * i + r) (p / 4)).testBit (p % 4) then w + 2 ^ r else w) 0

/-! Modes -/

/-- Positions that a group step covers (R99). -/
def EngMode.positions : EngMode → Nat
  | .f19 => 8
  | .f19s => 16
  | .nar => 32
  | .nars => 64
  | .jmode => 1
  | .ream => 8

/-- The mode of two operands; none is no pairing of R99. -/
def modeOf (a b : Operand) : Option EngMode :=
  let comp := a.v.comp || b.v.comp
  if a.v.comp && b.v.comp then none
  else if a.v.fmt = .f32 ∧ b.v.fmt = .f32 then some (if comp then .f19s else .f19)
  else if a.v.fmt.narrow && b.v.fmt.narrow then some (if comp then .nars else .nar)
  else if a.v.fmt = .b16 ∧ b.v.fmt = .b16 ∧ ¬comp then some .jmode
  else none

/-- An F32 element as an operand load converts it (R67, R68). -/
def loadF19 (o : Operand) (c : Nat) : Nat := (f32ToF19 c o.v.rnd).1

/-- A product pair of two stored elements as the group sum takes them. -/
structure Pair where
  a : Nat × Nat
  b : Nat × Nat
deriving DecidableEq, Repr

/-- The pairs of group step `j` of element (x, n): positions below K in ascending order (R100, R135, R153). DESIGN CHOICE: a
padding position and an unused slot form no pair, so the scale byte of their block does not count in R109 (log entry
48). -/
def stepPairs (m : EccMem) (a b : Operand) (p k j x n : Nat) : List Pair :=
  if a.v.comp then
    (((List.range (p / 4)).flatMap fun i => a.kept m x (p / 4 * j + i)).filter fun q => decide (q.1 < k)).map fun q =>
      ⟨a.elem m q.2.2 q.2.1, b.elem m q.1 n⟩
  else if b.v.comp then
    (((List.range (p / 4)).flatMap fun i => b.kept m n (p / 4 * j + i)).filter fun q => decide (q.1 < k)).map fun q =>
      ⟨a.elem m q.1 x, b.elem m q.2.2 q.2.1⟩
  else ((List.range (min k (p * j + p) - p * j)).map (p * j + ·)).map fun q => ⟨a.elem m q x, b.elem m q n⟩

/-- The group sum of the pairs. -/
def sumPairs (a b : Operand) (ps : List Pair) : GroupSum :=
  if a.v.fmt.narrow then
    groupNarrow (ps.map fun p => (⟨a.v.fmt, p.a.1, p.a.2⟩, ⟨b.v.fmt, p.b.1, p.b.2⟩))
  else groupF19 (ps.map fun p => (loadF19 a p.a.1, loadF19 b p.b.1))

/-! The engine's block (R188) -/

/-- The fields of an engine word and its block. -/
structure EngArgs where
  e : Nat
  cont : Bool
  fin : Bool
  stream : Nat
  a : Nat
  b : Nat
  c : Nat
  d : Nat
  w48 : Nat
  k : Nat
  me : Nat
  ne : Nat
  ks : Nat
  ta : Bool
  tb : Bool
  ream : Bool
  cslot : Nat
  ptr : Nat
  q : Nat
  rsize : Nat
deriving DecidableEq, Repr

/-- Read the fields. -/
def EngArgs.parse (w : Nat) (b : List Byte) : EngArgs where
  e := fld w 42 40
  cont := w.testBit 39
  fin := w.testBit 38
  stream := fld w 31 16
  a := leAt b 0 4
  b := leAt b 4 4
  c := leAt b 8 4
  d := leAt b 12 4
  w48 := leAt b 16 4
  k := leAt b 20 4
  me := leAt b 24 2
  ne := leAt b 26 2
  ks := leAt b 28 4
  ta := (leAt b 32 1).testBit 0
  tb := (leAt b 32 1).testBit 1
  ream := (leAt b 32 1).testBit 2
  cslot := leAt b 33 1 % 32
  ptr := leAt b 36 4
  q := leAt b 40 4
  rsize := leAt b 44 2

/-- The reserved bits of the word and block are 0 (R183). -/
def engReservedOk (w : Nat) (b : List Byte) : Bool :=
  fld w 37 32 == 0 && decide (leAt b 32 1 < 8) && decide (leAt b 33 1 < 32) && leAt b 34 2 == 0 &&
  allZero (bytesAt b 46 18)

/-- What a checked operation works on. -/
structure EngJob where
  x : EngArgs
  mode : EngMode
  a : Operand
  b : Operand
  c : Option View
  d : View
  ptr : Option View := none
  wbase : Option Nat
deriving DecidableEq, Repr

/-- Operand A or B with its mask plane, moved by the same amount (R137, R230). -/
def State.operand (s : State) (e : Env) (u a off : Nat) (trans : Bool) : Except TFault Operand := do
  let v ← s.viewAt e u a off
  if v.comp then
    let _ ← need (v.aux != noneAddr) fDESC_INVALID u
    let m ← s.viewAt e u v.aux off
    return { v := v, mask := some m, trans := trans }
  else return { v := v, trans := trans }

/-- The sizes of a view are at least some numbers, and its rank is 2 (R504). -/
def View.atLeast (v : View) (d0 d1 : Nat) : Bool :=
  v.rank == 2 && decide (d0 ≤ nth 0 v.dims 0) && decide (d1 ≤ nth 0 v.dims 1)

/-- The operand's sizes for K positions and `n` output coordinates (R504). -/
def Operand.sizeOk (o : Operand) (k n : Nat) : Bool := if o.trans then o.v.atLeast n k else o.v.atLeast k n

/-- A compressed operand is padded (R151); a dense one is not used transposed (R137). -/
def Operand.formOk (o : Operand) : Bool :=
  if o.v.comp then nth 0 o.v.dims 0 % 64 == 0 && nth 0 o.v.dims 1 % 4 == 0 else !o.trans

/-- A C operand or output format is F32 or W48 (R121, R122), and no compressed tensor (R162). DESIGN CHOICE: a C operand
of another format raises DESC_INVALID, for which R139's table has no row (log entry 49). -/
def View.outOk (v : View) : Bool := (v.fmt == .f32 || v.fmt == .w48) && !v.comp

/-- The range checks of every view that an operation names (R182, R230). -/
def State.extentsOk (s : State) (u : Nat) (vs : List View) : Except TFault Unit :=
  need (vs.all s.extentOk) fDESC_RANGE u

/-- The effective base of the W48 entries: a multiple of 8 (R127, R139), within the tile (R172). DESIGN CHOICE: a base other
than none is checked whatever K_SPILL and the mode (log entry 49). -/
def w48Base (u xb a : Nat) (spills : Bool) : Except TFault (Option Nat) :=
  if a = noneAddr then (if spills then .error { code := fDESC_INVALID, unit := u } else .ok none)
  else
    let b := (a + xb) % 2 ^ 64
    if b % 8 ≠ 0 then .error { code := fDESC_INVALID, unit := u }
    else if 0x280000 < b + 4096 then .error { code := fDESC_RANGE, unit := u }
    else .ok (some b)

/-- K_SPILL is 0 or 64 to 65,536 (R120). -/
def spillOk (k : Nat) : Bool := k == 0 || (decide (64 ≤ k) && decide (k ≤ 65536))

/-- The engine of an environment's tile. -/
def State.engine (s : State) (e : Env) (k : Nat) : Engine := sget {} (s.tile e.slot).engines k

/-- What a continuation must match: J-mode ignores K_SPILL (R129). -/
def EngArgs.last (x : EngArgs) (m : EngMode) : LastOp :=
  ⟨m, if m = .ream then 0 else x.me, x.ne, if m = .jmode then 0 else x.ks⟩

/-- A continuation has an unfinished operation of the same mode, shape and K_SPILL, and names no C operand (R126,
R189). -/
def contOk (g : Engine) (x : EngArgs) (m : EngMode) : Bool :=
  !x.cont || (x.c == noneAddr && g.open_ == some (x.last m))

/-- The checks at issue of an operation outside ream mode (R139, R504); an empty one skips those of R123. DESIGN CHOICE: a
descriptor whose address is bad raises DESC_RANGE before DESC_INVALID of formats, sizes and shape, a J-mode operation that
names a C operand, which R129 does not take, raises DESC_INVALID, and an operation with an empty shape and CONT on an engine
without an unfinished operation raises nothing, since R123 lets it neither continue nor abandon (log entry 49). -/
def State.engCheck (s : State) (e : Env) (b : Issue) (x : EngArgs) : Except TFault EngJob := do
  let u := 1 + x.e
  let inv := fun c => need c fDESC_INVALID u
  inv (x.ptr == noneAddr && x.q == 0 && x.rsize == 0)
  let oa ← s.operand e u x.a b.xa x.ta
  let ob ← s.operand e u x.b b.xa x.tb
  let c ← s.viewOpt e u x.c b.xb
  let d ← s.viewAt e u x.d b.xb
  inv (!oa.v.vat && !ob.v.vat && !d.vat && c.all fun v => !v.vat)
  match modeOf oa ob with
  | none => .error { code := fDESC_INVALID, unit := u }
  | some m =>
    inv (oa.formOk && ob.formOk)
    inv (if m = .jmode then d.fmt == .f32 && !d.comp && c.isNone else d.outOk && c.all View.outOk && spillOk x.ks)
    let empty := x.me == 0 || x.ne == 0
    inv (empty || (if m = .jmode then x.me == 8 && x.ne == 8
      else [8, 16, 32, 64].contains x.me && decide (x.ne ≤ 512 / x.me)))
    inv (oa.sizeOk x.k x.me && ob.sizeOk x.k x.ne && d.atLeast x.ne x.me && c.all fun v => v.atLeast x.ne x.me)
    inv d.noAlias
    inv (!x.cont || x.c == noneAddr)
    inv (empty || contOk (s.engine e x.e) x m)
    let w ← w48Base u b.xb x.w48 (m != .jmode && x.ks != 0)
    s.extentsOk u ([oa.v, ob.v, d] ++ c.toList ++ oa.mask.toList ++ ob.mask.toList)
    return { x := x, mode := m, a := oa, b := ob, c := c, d := d, wbase := w }

/-! Checks of memory and masks in load order (R138, R147, R156) -/

/-- FAULT_INFO bits of an operand: OPND, TRANSP and PASS_RB (R160). DESIGN CHOICE: OPND is 0 for a word of neither A nor B,
a C element, a W48 entry or a row pointer (log entry 49). -/
def opndInfo (isB : Bool) (o : Operand) (rb : Nat) : Nat :=
  (if isB then 2 ^ 24 else 0) + (if o.trans then 2 ^ 23 else 0) + rb % 8

/-- A fault of the masks of one aligned 4 × 4 block used transposed: its rows, then its columns (R156). -/
def Operand.blockFault (o : Operand) (m : EccMem) (i cb : Nat) : Option (Nat × Nat × Nat) :=
  match (List.range 4).find? fun r => decide (2 < pop4 (o.maskOf m (4 * i + r) cb)) with
  | some r => some (fSPARSE_META, 4 * i + r, 4 * cb)
  | none =>
    ((List.range 4).find? fun p => decide (2 < pop4 (o.colMask m i (4 * cb + p)))).map fun p =>
      (fSPARSE_TRANSPOSE, 4 * i, 4 * cb + p)

/-- The first mask fault of the operand's groups `is` for output coordinates `xs`: code, row, position and the output
coordinate (R158, R161). DESIGN CHOICE: among the masks of one load, the rows or column blocks are the outer order and
the K groups the inner one (log entry 49). -/
def Operand.maskFault (o : Operand) (m : EccMem) (is xs : List Nat) : Option (Nat × Nat × Nat × Nat) :=
  if !o.v.comp then none
  else if o.trans then
    (pairs ((xs.map (· / 4)).eraseDups) is).findSome? fun q =>
      (o.blockFault m q.2 q.1).map fun f => (f.1, f.2.1, f.2.2, f.2.2)
  else
    (pairs xs is).findSome? fun q =>
      if 2 < pop4 (o.maskOf m q.1 q.2) then some (fSPARSE_META, q.1, 4 * q.2, q.1) else none

/-- Byte ranges of the operand's data for the positions of a group step at one output coordinate: of a compressed operand
the mask words and every slot, used or not (R140). -/
def Operand.stepRanges (o : Operand) (lo hi x : Nat) : List (Nat × Nat) :=
  if o.v.comp then
    ((List.range (cdiv (hi - lo) 4)).map (lo / 4 + ·)).flatMap fun i =>
      (o.maskAddr x i, 4) :: (o.elemRanges (2 * i) x ++ o.elemRanges (2 * i + 1) x)
  else (List.range (hi - lo)).flatMap fun k => o.elemRanges (lo + k) x

/-- Storage columns of a granule of a transposed read (R155). -/
def Operand.granule (o : Operand) : Nat := if o.v.fmt.narrow then 64 else 4

/-- The output coordinates of a pass in the loads that bring them, in order (R138, R155): a transposed operand is read by
whole granules. -/
def Operand.loads (o : Operand) (xs : List Nat) : List (List Nat) :=
  if o.v.comp && o.trans then
    ((xs.map (· / o.granule)).eraseDups).map fun g => xs.filter fun x => x / o.granule == g
  else xs.map fun x => [x]

/-- Byte ranges of one load. -/
def Operand.loadRanges (o : Operand) (lo hi : Nat) (xs : List Nat) : List (Nat × Nat) :=
  if o.v.comp && o.trans then
    let w := o.granule
    let g := nth 0 xs 0 / w
    ((List.range (4 * cdiv (hi - lo) 4)).map (lo + ·)).flatMap fun k =>
      ((List.range (w / 4)).map fun c => (o.maskAddr k (g * (w / 4) + c), 4)) ++
      (List.range (w / 2)).flatMap fun i => o.elemRanges (g * (w / 2) + i) k
  else xs.flatMap (o.stepRanges lo hi)

/-- A stop of an operation: its fault, and the first output row (for A) or the row block and column (for B) reached. -/
structure Stop where
  f : TFault
  rows : Nat
  cols : Nat
deriving DecidableEq, Repr

/-- Check one operand in one pass in load order (R138, R156): of each load its memory words, then its masks. -/
def Operand.passStop (o : Operand) (isB : Bool) (u e rb : Nat) (m : EccMem) (lo hi : Nat) (xs : List Nat) :
    Option Stop :=
  let info := e * 2 ^ 25 + opndInfo isB o rb
  let is := (List.range (cdiv (hi - lo) 4)).map (lo / 4 + ·)
  (o.loads xs).findSome? fun l => match m.bad (o.loadRanges lo hi l) with
    | some w => some ⟨{ code := fSRAM_UE, unit := u, info := info, word := w }, 0, 0⟩
    | none => (o.maskFault m is l).map fun q =>
      ⟨{ code := q.1, unit := u, info := info, row := q.2.1, col := q.2.2.1 },
        if isB then 8 * rb else 8 * (q.2.2.2 / 8), if isB then q.2.2.2 else 0⟩

/-- The group steps and row blocks of an operation in the order of R138. -/
def EngJob.passes (j : EngJob) : List (Nat × Nat) :=
  pairs (List.range (cdiv j.x.k j.mode.positions)) (List.range (j.x.me / 8))

/-- Index of the slot of an output element (R125, R132). -/
def EngJob.slot (j : EngJob) (x n : Nat) : Nat :=
  if j.mode = .jmode then x * 64 + n else x % 8 * 64 + x / 8 * j.x.ne + n

/-- The group step after which the spill adder first needs the W48 buffer of a slot that has counted `c` (R144): its first
spill, or its final rounding. -/
def EngJob.needStep (j : EngJob) (c : Nat) : Option Nat :=
  let g := cdiv j.x.k j.mode.positions
  let k := j.x.ks - 1 - c % j.x.ks
  if j.mode ≠ .jmode ∧ j.x.ks ≠ 0 ∧ k < g ∧ !(j.x.fin && k + 1 == g) then some k
  else if j.x.fin && j.mode != .jmode then some (g - 1) else none

/-- The C element and the W48 entry that an output element reads, with the group step that needs them (R127, R144): the entry
only in a continuation of a slot that has spilled. DESIGN CHOICE: a C element that no spill and no rounding of its operation
needs is read at the last group step (log entry 49). -/
def EngJob.bufReads (j : EngJob) (g : Engine) (x n : Nat) : List (Nat × Nat × Nat) :=
  let last := cdiv j.x.k j.mode.positions - 1
  (match j.c with
    | some v => [((j.needStep 0).getD last, v.unitAddr (n + x * nth 0 v.strides 0), v.fmt.unit)]
    | none => []) ++
  (match j.wbase with
    | some b =>
      let i := j.slot x n
      let c := (sget {} g.slots i).cnt
      if j.x.cont ∧ j.x.ks ≠ 0 ∧ j.x.ks ≤ c then (j.needStep c).toList.map fun k => (k, b + 8 * i, 8) else []
    | none => [])

/-- The C elements and W48 entries that a pass reads, after its loads (DESIGN CHOICE: log entry 49). -/
def EngJob.passBuf (j : EngJob) (g : Engine) (q : Nat × Nat) : List (Nat × Nat) :=
  ((pairs ((List.range 8).map (8 * q.2 + ·)) (List.range j.x.ne)).flatMap fun r => j.bufReads g r.1 r.2).filterMap fun r =>
    if r.1 = q.1 then some r.2 else none

/-- The stop of a pass at a bad C element or W48 entry. -/
def EngJob.bufStop (j : EngJob) (m : EccMem) (g : Engine) (q : Nat × Nat) : Option Stop :=
  (m.bad (j.passBuf g q)).map fun w =>
    ⟨{ code := fSRAM_UE, unit := 1 + j.x.e, info := j.x.e * 2 ^ 25 + q.2 % 8, word := w }, 0, 0⟩

/-- The first stop of an operation: in each pass its loads of A, of B and of what its spills and roundings need; without
group steps the latter alone. -/
def EngJob.stop (j : EngJob) (m : EccMem) (g : Engine) : Option Stop :=
  if j.x.k = 0 then (List.range (j.x.me / 8)).findSome? fun r => j.bufStop m g (0, r)
  else j.passes.findSome? fun q =>
    let lo := q.1 * j.mode.positions
    let hi := min j.x.k (lo + j.mode.positions)
    let u := 1 + j.x.e
    ((j.a.passStop false u j.x.e q.2 m lo hi ((List.range 8).map (8 * q.2 + ·))).or
      (j.b.passStop true u j.x.e q.2 m lo hi (List.range j.x.ne))).or (j.bufStop m g q)

/-! The operation -/

/-- The initial buffer of an element: its C element read exactly, or +0 (R121), as a W48 code. -/
def initBuf (m : EccMem) (c : Option View) (x n : Nat) : Nat :=
  match c with
  | none => 0
  | some v =>
    let a := v.unitAddr (n + x * nth 0 v.strides 0)
    (fpWrite w48 (if v.fmt = .w48 then fpRead w48 false (m.le a 6) else r32 (m.le a 4))).code

/-- A slot at the start of its part of an operation: seeded afresh (R115), or continued (R126) with the W48 entry that
earlier spills wrote (R127). -/
def startSlot (j : EngJob) (seed ptile : Nat) (m : EccMem) (g : Engine) (i init : Nat) : Slot :=
  let old := sget {} g.slots i
  if j.mode = .jmode then (if j.x.cont then old else { old with a32 := 0, sat := false })
  else if j.x.cont then
    match j.wbase with
    | some b => if j.x.ks ≠ 0 ∧ j.x.ks ≤ old.cnt then { old with buf := m.le (b + 8 * i) 6 } else old
    | none => old
  else Slot.fresh (lfsrSeed seed j.x.stream ptile j.x.e i) init

/-- The group steps of one output element on its slot (R98, R129). -/
def runSlot (j : EngJob) (m : EccMem) (s : Slot) (x n : Nat) : Slot :=
  let g := cdiv j.x.k j.mode.positions
  (List.range g).foldl (fun s k =>
    let ps := stepPairs m j.a j.b j.mode.positions j.x.k k x n
    if j.mode = .jmode then
      { s with a32 := ps.foldl (fun acc p => jStep acc p.a.1 p.b.1) s.a32 }
    else s.step j.x.ks (sumPairs j.a j.b ps) (j.x.fin && k + 1 == g)) s

/-- Spills between two group-step counts; the last group step of an operation with END set makes none (R120). -/
def spillsOf (ks c0 c1 : Nat) (fin : Bool) : Nat :=
  if ks = 0 then 0 else c1 / ks - (if fin && c1 % ks == 0 && decide (c0 < c1) then 1 else 0) - c0 / ks

/-- One finished output element. -/
structure OutElem where
  slot : Nat
  st : Slot
  spill : List (Nat × List Byte)
  out : List (Nat × List Byte)
  cls : List (Option CensusClass)
  sat : Bool
deriving DecidableEq, Repr

/-- The rounding that writes an element (R122); with K 0 and nothing continued it is that of the initial value (R123). -/
def EngJob.rounded (j : EngJob) (s : Slot) : Rnd :=
  let f := if j.d.fmt = .w48 then w48 else f32
  if j.x.k = 0 ∧ !j.x.cont then fpWrite f (fpRead w48 false s.buf) else s.final f

/-- Compute output element (x, n). A clamp of the final rounding sets the slot's saturation bit too (R117). -/
def EngJob.element (j : EngJob) (seed ptile : Nat) (m : EccMem) (g : Engine) (x n : Nat) : OutElem :=
  let i := j.slot x n
  let s0 := startSlot j seed ptile m g i (initBuf m j.c x n)
  let r := runSlot j m { s0 with sat := false } x n
  let s1 := { r with sat := s0.sat || r.sat }
  let sp := match j.wbase with
    | some b => if j.mode ≠ .jmode ∧ 0 < spillsOf j.x.ks s0.cnt s1.cnt j.x.fin
        then [(b + 8 * i, leBytes 8 s1.buf)] else []
    | none => []
  let a := j.d.unitAddr (n + x * nth 0 j.d.strides 0)
  if !j.x.fin then ⟨i, s1, sp, [], [], r.sat⟩
  else if j.mode = .jmode then ⟨i, s1, sp, [(a, leBytes 4 s1.a32)], [jClass s1.a32], false⟩
  else
    let f := if j.d.fmt = .w48 then w48 else f32
    let o := j.rounded s1
    ⟨i, { s1 with sat := s1.sat || o.sat }, sp, [(a, codeBytes j.d.fmt o.code)], [finalClass f s1 o], r.sat || o.sat⟩

/-- A saturation at the operand load of F32 elements (R68, R96). -/
def EngJob.loadSat (j : EngJob) (m : EccMem) : Bool :=
  if j.a.v.fmt ≠ .f32 then false
  else
    let ks := List.range j.x.k
    let side := fun (o : Operand) (xs : List Nat) =>
      if o.v.comp then
        (pairs xs (List.range (cdiv j.x.k 4))).any fun q => (o.kept m q.1 q.2).any fun r =>
          decide (r.1 < j.x.k) && (f32ToF19 (o.elem m r.2.2 r.2.1).1 o.v.rnd).2
      else (pairs xs ks).any fun q => (f32ToF19 (o.elem m q.2 q.1).1 o.v.rnd).2
    side j.a (List.range j.x.me) || side j.b (List.range j.x.ne)

/-- Byte ranges of the C elements and W48 entries that an operation reads. -/
def EngJob.bufRanges (j : EngJob) (g : Engine) : List (Nat × Nat) :=
  (pairs (List.range j.x.me) (List.range j.x.ne)).flatMap fun q => (j.bufReads g q.1 q.2).map fun r => r.2

/-- Byte ranges of the operands that an operation reads. -/
def EngJob.opndRanges (j : EngJob) : List (Nat × Nat) :=
  let all := fun (o : Operand) (n : Nat) => (o.loads (List.range n)).flatMap (o.loadRanges 0 j.x.k)
  all j.a j.x.me ++ all j.b j.x.ne

/-- The extents that an operation reads or writes (R146). -/
def EngJob.extents (j : EngJob) : List (Nat × Nat) :=
  let vs := [j.a.v, j.b.v, j.d] ++ j.c.toList ++ j.a.mask.toList ++ j.b.mask.toList ++ j.ptr.toList
  vs.map View.extent ++ j.wbase.toList.map fun b => (b, 4096)

/-- Put an engine back. -/
def State.setEngine (s : State) (e : Env) (k : Nat) (g : Engine) : State :=
  let t := s.tile e.slot
  s.setTile e.slot { t with engines := sput {} t.engines k g }

/-- A free slot from free value `f`, in each of the parts that R126 lists: a stopped operation leaves its slots unspecified
(R147, R158). -/
def freeSlot (f : Nat) : Slot where
  a32 := (Config.freeWord f).toNat % 2 ^ 32
  buf := (Config.freeWord (f + 1)).toNat % 2 ^ 48
  cnt := (Config.freeWord (f + 2)).toNat
  sat := Config.freeBool (f + 3)
  lfsr := (Config.freeWord (f + 4)).toNat % 2 ^ 32

/-- Make the slots of a list free. -/
def freeSlots : List Nat → List (Nat × Slot) → Nat → List (Nat × Slot) × Nat
  | [], m, f => (m, f)
  | i :: r, m, f => freeSlots r (sput {} m i (freeSlot f)) (f + 5)

/-- The rows and columns of an operation's output. -/
def EngJob.points (j : EngJob) : List (Nat × Nat) := pairs (List.range j.x.me) (List.range j.x.ne)

/-- The W48 entries of slots, where the operation spills. -/
def EngJob.entries (j : EngJob) (qs : List Nat) : List (Nat × Nat) :=
  match j.wbase with
  | some b => if j.x.ks ≠ 0 ∧ j.mode ≠ .jmode then qs.map fun i => (b + 8 * i, 8) else []
  | none => []

/-- Byte range of a destination element. -/
def EngJob.at_ (j : EngJob) (q : Nat × Nat) : Nat × Nat :=
  (j.d.unitAddr (q.2 + q.1 * nth 0 j.d.strides 0), j.d.fmt.unit)

/-- Destination ranges that a stopped operation leaves unspecified: all of them at an uncorrectable word (R147), otherwise
those of R158, which are none without END. -/
def EngJob.lost (j : EngJob) (st : Stop) : List (Nat × Nat) :=
  if st.f.code = fSRAM_UE then j.points.map j.at_
  else if !j.x.fin then []
  else
    (pairs (List.range (min j.x.me st.rows)) (List.range j.x.ne)).map j.at_ ++
    (if st.cols = 0 then [] else (pairs ((List.range 8).map (st.rows + ·)) (List.range (min st.cols j.x.ne))).map j.at_)

/-- Stop an operation: the given destination ranges, its W48 entries and its slots are free, a later continuation has
nothing to continue, and the fault is raised (R147, R158, R189). -/
def EngJob.stopAt (j : EngJob) (f : TFault) (lost : List (Nat × Nat)) (qs : List Nat) (e : Env) (s : State) : State :=
  let t := s.tile e.slot
  let ranges := (lost ++ j.entries qs).filter fun r => !(s.guarded e).any (overlap r)
  let (m, n) := fillFree ranges t.sram s.free
  let g := s.engine e j.x.e
  let (sl, n) := freeSlots qs g.slots n
  let s := { s.setTile e.slot { t with sram := m } with free := n }
  (s.setEngine e j.x.e { g with slots := sl, open_ := none }).tileFault e f

/-- Stop an operation outside ream mode. -/
def EngJob.stopped (j : EngJob) (st : Stop) (e : Env) (s : State) : State :=
  j.stopAt st.f (j.lost st) (j.points.map fun q => j.slot q.1 q.2) e s

/-- Queue an operation on an engine, with what it leaves open. -/
def Engine.push (g : Engine) (o : UnitOp) (l : Option LastOp) : Engine := { g with q := g.q ++ [o], open_ := l }

/-- The operation that a matrix word of `rows` output rows starts, with the destination and the slots that a conflicting
write makes unspecified (R146). -/
def State.engUnit (s : State) (e : Env) (j : EngJob) (os : List OutElem) (rows : Nat) : UnitOp :=
  let qs := (os.map OutElem.slot).eraseDups
  let lose := (pairs (List.range rows) (List.range j.x.ne)).map j.at_ ++ j.entries qs
  { e.unitOp 0 (writeRanges (os.flatMap fun o => o.spill ++ o.out)) with
    ext := j.extents, lose := lose.filter fun r => !(s.guarded e).any (overlap r), slots := qs, cont := j.x.cont }

/-- Write the results of an engine operation of `rows` output rows: a write that meets a code or descriptor region stops it
whole (R178). -/
def State.engFinish (s : State) (e : Env) (j : EngJob) (os : List OutElem) (rows : Nat) (sat : Bool) (steps : Nat) :
    State :=
  let ws := os.flatMap fun o => o.spill ++ o.out
  s.perform e (withInfo (j.x.e * 2 ^ 25) (s.writable e (1 + j.x.e) (writeRanges ws))) fun _ =>
    let s := s.issue e (s.ctxOf e).advance
    let t := s.tile e.slot
    let g := s.engine e j.x.e
    let sl := os.foldl (fun m o => sput {} m o.slot o.st) g.slots
    let t := { t with sram := t.sram.writes ws }
    let t := t.countCensus j.x.cslot (os.flatMap fun o => o.cls)
    let s := (s.setTile e.slot t).noteSat e.slot e.c (sat || os.any fun o => o.sat)
    let u := s.engUnit e j os rows
    let u := { u with race := t.written (.engine j.x.e) u.ext }
    let s := s.setEngine e j.x.e ({ g with slots := sl }.push u (if j.x.fin then none else some (j.x.last j.mode)))
    (s.conflicts e.slot (.engine j.x.e) u.dst).bump (pgCluster (e.slot / 17)) 0x10 steps

/-- An operation that reads and writes nothing completes in order (R13, R123), and leaves open what it is given. -/
def State.engNothing (s : State) (e : Env) (k : Nat) (l : Option LastOp) : State :=
  let s := s.issue e (s.ctxOf e).advance
  s.setEngine e k ((s.engine e k).push (e.unitOp 0 []) l)

/-- Perform a checked operation outside ream mode. -/
def State.engRun (s : State) (e : Env) (j : EngJob) : State :=
  let g := s.engine e j.x.e
  let s := s.meetReads e.slot (.engine j.x.e) j.extents (j.opndRanges ++ j.bufRanges g)
  let m := (s.tile e.slot).sram
  match j.stop m g with
  | some st => j.stopped st e s
  | none =>
    let s := s.tileReads e.slot (j.opndRanges ++ j.bufRanges g)
    let os := j.points.map fun q => j.element (s.tile e.slot).seed e.ptile m g q.1 q.2
    let steps := if j.mode = .jmode then 0 else cdiv j.x.k j.mode.positions * j.x.me * j.x.ne
    s.engFinish e j os j.x.me (j.loadSat m) steps

/-! Reams (R163 to R171) -/

/-- The checks at issue of a ream operation (R139, R166, R504), of which an empty shape waives those of R123 alone; the Nat
is nnz. nnz and R come from DIM0 of the descriptors (R166). DESIGN CHOICE: a view that holds less of the values than the ream
needs, or less than all row pointers, raises DESC_INVALID (log entry 49). -/
def State.reamCheck (s : State) (e : Env) (b : Issue) (x : EngArgs) : Except TFault (EngJob × Nat) := do
  let u := 1 + x.e
  let inv := fun c => need c fDESC_INVALID u
  inv (x.rsize == 512)
  let oa ← s.operand e u x.a b.xa x.ta
  let ob ← s.operand e u x.b b.xa x.tb
  let p ← s.viewAt e u x.ptr b.xa
  let d ← s.viewAt e u x.d b.xb
  inv (x.c == noneAddr)
  inv (!oa.v.vat && !ob.v.vat && !p.vat && !d.vat)
  inv (oa.v.fmt == .f32 && ob.v.fmt == .f32 && !oa.v.comp && !ob.v.comp && !oa.trans && !ob.trans)
  inv (oa.v.rank == 1 && p.fmt == .i32 && p.rank == 1 && decide (1 ≤ nth 0 p.dims 0))
  inv (d.outOk && spillOk x.ks)
  let nnz := oa.v.dim0
  inv (decide (min nnz (512 * x.q + 512) ≤ nth 0 oa.v.dims 0) && nth 0 p.dims 0 == p.dim0)
  let empty := x.me == 0 || x.ne == 0
  inv (empty || decide (x.ne ≤ 512))
  inv (nnz == 0 || decide (x.q < cdiv nnz 512))
  inv (ob.v.atLeast x.ne (min 512 (nnz - 512 * x.q)))
  inv (d.rank == 2 && decide (x.ne ≤ nth 0 d.dims 0))
  inv d.noAlias
  inv (empty || contOk (s.engine e x.e) x .ream)
  let w ← w48Base u b.xb x.w48 (x.ks != 0)
  s.extentsOk u [oa.v, ob.v, p, d]
  return ({ x := x, mode := .ream, a := oa, b := ob, c := none, d := d, ptr := some p, wbase := w }, nnz)

/-- Row-pointer entry `i` as a signed integer. -/
def ptrAt (m : EccMem) (p : View) (i : Nat) : Int := sx 32 (m.le (p.unitAddr i) 4)

/-- The number of row-pointer entries that are read. DESIGN CHOICE: the entries that bound the ream (R168) are those from
index 0 up to the first at or above the ream's end, so that a bad entry of an earlier row faults too (log entry 49). -/
def ptrRead (m : EccMem) (p : View) (hi : Nat) : Nat :=
  match (List.range (nth 0 p.dims 0)).find? fun i => decide ((hi : Int) ≤ ptrAt m p i) with
  | some i => i + 1
  | none => nth 0 p.dims 0

/-- The first of `n` entries of the row pointers that is negative, exceeds nnz, or is below the one before it (R168). -/
def ptrFault (m : EccMem) (p : View) (nnz n : Nat) : Option Nat :=
  (List.range n).find? fun i =>
    let v := ptrAt m p i
    decide (v < 0) || decide ((nnz : Int) < v) || (decide (0 < i) && decide (v < ptrAt m p (i - 1)))

/-- The segments of a ream: first non-zero and length, in ascending rows (R165). DESIGN CHOICE: a non-zero before the first
row pointer or at or after the last belongs to no row, hence to no segment, and raises no fault (log entry 49). -/
def segments (m : EccMem) (p : View) (n lo hi : Nat) : List (Nat × Nat) :=
  (List.range (n - 1)).filterMap fun i =>
    let a := max lo (ptrAt m p i).toNat
    let b := min hi (ptrAt m p (i + 1)).toNat
    if a < b then some (a, b - a) else none

/-- One segment on one column's slot (R167): cleared, its group steps, its rounding, which may set its saturation bit
(R117). -/
def reamSegment (j : EngJob) (m : EccMem) (lo n : Nat) (s : Slot) (g : Nat × Nat) : Slot × Rnd :=
  let s := { s with a32 := 0, buf := 0, sat := false, cnt := 0 }
  let steps := cdiv g.2 8
  let s1 := (List.range steps).foldl (fun s k =>
    let ps := ((List.range (min g.2 (8 * k + 8) - 8 * k)).map (8 * k + ·)).map fun i =>
      (loadF19 j.a (m.le (j.a.v.unitAddr (g.1 + i)) 4), loadF19 j.b (j.b.elem m n (g.1 + i - lo)).1)
    s.step j.x.ks (groupF19 ps) (k + 1 == steps)) s
  let f := if j.d.fmt = .w48 then w48 else f32
  let o := s1.final f
  ({ s1 with sat := s1.sat || (j.x.fin && o.sat) }, o)

/-- All segments of one column: the slot that follows and the results. -/
def reamColumn (j : EngJob) (m : EccMem) (lo n : Nat) : List (Nat × Nat) → Slot → Slot × List (Slot × Rnd)
  | [], s => (s, [])
  | g :: r, s =>
    let (s, o) := reamSegment j m lo n s g
    let (s', os) := reamColumn j m lo n r s
    (s', (s, o) :: os)

/-- The elements of one column of a ream: one per segment (R167, R169). -/
def EngJob.reamElements (j : EngJob) (seed ptile : Nat) (m : EccMem) (g : Engine) (lo : Nat) (gs : List (Nat × Nat))
    (n : Nat) : List OutElem :=
  let i := n % 8 * 64 + n / 8
  let s0 := if j.x.cont then sget {} g.slots i else Slot.fresh (lfsrSeed seed j.x.stream ptile j.x.e i) 0
  let (s1, os) := reamColumn j m lo n gs s0
  let f := if j.d.fmt = .w48 then w48 else f32
  (List.range gs.length).zip os |>.map fun q =>
    let (at_, o) := q.2
    if !j.x.fin then ⟨i, s1, [], [], [], at_.sat⟩
    else ⟨i, s1, [], [(j.d.unitAddr (n + q.1 * nth 0 j.d.strides 0), codeBytes j.d.fmt o.code)],
      [finalClass f at_ o], at_.sat || o.sat⟩

/-- Perform a checked ream operation: the row pointers, the check of the destination's rows that they allow (R504), and
then the operands. DESIGN CHOICE: INDEX_RANGE of a row pointer, which is of neither operand, has OPND 0 (log entry 49). -/
def State.reamRun (s : State) (e : Env) (j : EngJob) (p : View) (nnz : Nat) : State :=
  let all := p.ranges ++ j.a.v.ranges ++ j.b.v.ranges
  let s := s.meetReads e.slot (.engine j.x.e) j.extents all
  let m := (s.tile e.slot).sram
  let u := 1 + j.x.e
  let lo := 512 * j.x.q
  let hi := min nnz (lo + 512)
  let info := j.x.e * 2 ^ 25
  let np := ptrRead m p hi
  let pR := (List.range np).map fun i => (p.unitAddr i, 4)
  let aR := [(j.a.v.unitAddr lo, 4 * (hi - lo))]
  let bR := (pairs (List.range (hi - lo)) (List.range j.x.ne)).flatMap fun q => j.b.elemRanges q.2 q.1
  -- the operation's destination is one row for each segment (R169), as many as the view holds while none is known
  let ue := fun (rs : List (Nat × Nat)) (opnd rows : Nat) (k : State) => match m.bad rs with
    | some w => j.stopAt { code := fSRAM_UE, unit := u, info := info + opnd, word := w }
        ((pairs (List.range rows) (List.range j.x.ne)).map j.at_) ((List.range j.x.ne).map fun n => n % 8 * 64 + n / 8) e s
    | none => k
  ue pR 0 (min (nth 0 j.d.dims 1) 512) <|
  match ptrFault m p nnz np with
  | some i => s.tileFault e
      { code := fINDEX_RANGE, unit := u, info := info, row := i, col := toTwos 32 (ptrAt m p i) }
  | none =>
    let gs := segments m p np lo hi
    if nth 0 j.d.dims 1 < gs.length then s.tileFault e { code := fDESC_INVALID, unit := u, info := info }
    else
      ue aR 0 gs.length <| ue bR (2 ^ 24) gs.length <|
      let s := s.tileReads e.slot (pR ++ aR ++ bR)
      let seed := (s.tile e.slot).seed
      let g := s.engine e j.x.e
      let os := (List.range j.x.ne).flatMap (j.reamElements seed e.ptile m g lo gs)
      let sat := (List.range (hi - lo)).any fun k =>
        (f32ToF19 (m.le (j.a.v.unitAddr (lo + k)) 4) j.a.v.rnd).2 ||
        (List.range j.x.ne).any fun n => (f32ToF19 (j.b.elem m n k).1 j.b.v.rnd).2
      s.engFinish e j os gs.length sat ((gs.map fun q => cdiv q.2 8).foldl (· + ·) 0 * j.x.ne)

/-! The rows -/

/-- The engine that a word names has both places taken (R145, R187). -/
def engFull (e : Env) (s : State) : Bool := decide (2 ≤ (s.engine e (fld e.word 42 40)).q.length)

/-- A matrix operation outside ream mode. -/
def doEngine (b : Issue) (e : Env) (s : State) : State :=
  let x := EngArgs.parse e.word b.blk
  s.perform e (withInfo (x.e * 2 ^ 25) (do
    need (engReservedOk e.word b.blk) fDESC_INVALID (1 + x.e)
    s.engCheck e b x)) fun j =>
      if x.me = 0 ∨ x.ne = 0 then s.engNothing e x.e (s.engine e x.e).open_ else s.engRun e j

/-- A ream operation. -/
def doReam (b : Issue) (e : Env) (s : State) : State :=
  let x := EngArgs.parse e.word b.blk
  s.perform e (withInfo (x.e * 2 ^ 25) (do
    need (engReservedOk e.word b.blk) fDESC_INVALID (1 + x.e)
    s.reamCheck e b x)) fun (j, nnz) =>
      if x.me = 0 ∨ x.ne = 0 then s.engNothing e x.e (s.engine e x.e).open_
      else if nnz = 0 then s.engNothing e x.e (if x.fin then none else some (x.last .ream))
      else match j.ptr with
        | some p => s.reamRun e j p nnz
        | none => s

/-- The row's word and block are a ream operation or not; the other kind changes nothing (log entry 13). -/
def engRow (ream : Bool) (b : Issue) (e : Env) (s : State) : State :=
  if (EngArgs.parse e.word b.blk).ream = ream then (if ream then doReam b e s else doEngine b e s) else s

/-- ENG_ISSUE. -/
def execEngIssue (t : Nat) (c : Ctx) (s : State) : Out := issueRow s t c 0x08 engFull (engRow false)

/-- An ENG_ISSUE with the REAM flag. -/
def execReamOperation (t : Nat) (c : Ctx) (s : State) : Out := issueRow s t c 0x08 engFull (engRow true)

/-- A raced operation leaves its engine: the operation that continues it is raced too, and else its slots are unspecified,
unless a later operation has seeded them afresh (R146, R189). -/
def Engine.leave (g : Engine) (o : UnitOp) (f : Nat) : Engine × Nat :=
  match g.q with
  | [] => let (sl, f) := freeSlots o.slots g.slots f; ({ g with slots := sl }, f)
  | h :: r => if h.cont then ({ g with q := { h with race := true } :: r }, f) else (g, f)

/-- The oldest operation of an engine reports completion and increments its counter (R143, R181, R188); an unclocked tile
completes none (R254). -/
def execEngineCompletion (t e : Nat) (s : State) : Out :=
  if !tileOk t || decide (8 ≤ e) then .fault .noSuchUnit
  else match s.unitEnv t .c0 with
    | none => .next s
    | some v =>
      let g := s.engine v e
      match g.q with
      | [] => .next s
      | o :: r =>
        let (g, f) := if o.race then { g with q := r }.leave o s.free else ({ g with q := r }, s.free)
        let s := { s.setEngine v e g with free := f }.leave v.slot o
        .next (s.setTile v.slot ((s.tile v.slot).complete o.ctr o.cen))

end Sys2Proof.Machine
end

