-- ==== Sys2Proof/Machine/RegRead.lean ====
section
/-! DEFINITION. The register map as it reads: every 32-bit word of BAR0 (R38, R161, R216, R240, R282, R322, R364, R416,
R419, R425 to R430, R433, R436, R446, R448 to R455, R480, R481, R489, R493), the read of a read-to-clear register (R12)
and the SMBus (R486). A module page has block-specific registers from 0x100 on; a word that no rule names reads 0. -/

namespace Sys2Proof.Machine

/-- The low or high half of a 64-bit register, by the offset. -/
def half64 (x off : Nat) : Nat := if off % 8 = 0 then x % 2 ^ 32 else x / 2 ^ 32 % 2 ^ 32

/-- 1 for true. -/
def bit (b : Bool) : Nat := if b then 1 else 0

/-- Four bytes of a serial number, in order. -/
def serialWord (x i : Nat) : Nat := x / 2 ^ (32 * i) % 2 ^ 32

/-- A page has a bit set in EVT AND EVT_EN. -/
def State.pagePending (s : State) (k : Nat) : Bool := (s.page k).evt &&& (s.page k).evtEn != 0

/-- BUSY of both command pages (R428, R436). -/
def State.busyBit (s : State) : Bool := s.run.isSome || !s.ident.ready

/-- SEC_STATE (R419). -/
def State.secState (s : State) : Nat :=
  8 * bit s.sec.tamperLatch + 4 * bit s.sec.scrubBusy + 2 * bit s.sec.owner.isSome + bit s.sec.isSealed

/-! Block-specific registers, page by page -/

/-- Identity page (R449). -/
def State.identReg (s : State) (o : Nat) : Nat :=
  let d := s.ident
  if 0x100 ≤ o ∧ o < 0x110 then serialWord d.serial ((o - 0x100) / 4)
  else if o = 0x110 then d.fwVersion.toNat
  else if o = 0x114 then d.slotId * 256 + d.moduleId
  else if o = 0x118 then d.holes * 2 ^ 16 + d.served
  else if o = 0x11C then 0x1200 * 2 ^ 16 + d.vendor
  else 0

/-- The registers of one query table at an offset from its base. -/
def QTab.reg (t : QTab) (o : Nat) : Nat :=
  if o < 8 then half64 t.base.toNat o
  else if o = 8 then t.count.toNat
  else if o = 0xC then 0
  else if o < 0x18 then half64 t.fill.toNat o
  else half64 t.done.toNat o

/-- Argument `a` of a command. -/
def argOf (c : CmdArgs) : Nat → W64
  | 0 => c.a0 | 1 => c.a1 | 2 => c.a2 | 3 => c.a3 | 4 => c.a4 | 5 => c.a5 | 6 => c.a6 | _ => c.a7

/-- Command page (R436). -/
def State.cmdReg (s : State) (c : CmdPage) (o : Nat) : Nat :=
  if o = 0x100 then c.op
  else if o = 0x104 then c.args.flags.toNat
  else if 0x108 ≤ o ∧ o < 0x148 then half64 (argOf c.args ((o - 0x108) / 8)).toNat o
  else if o = 0x14C then c.resOp * 2 ^ 16 + c.status
  else if o = 0x158 ∨ o = 0x15C then (if s.ident.ready then half64 s.train.committed o else 0)
  else if 0x160 ≤ o ∧ o < 0x168 then half64 c.ret0.toNat o
  else if 0x168 ≤ o ∧ o < 0x170 then half64 c.ret1.toNat o
  else if 0x170 ≤ o ∧ o < 0x178 then half64 c.ret2.toNat o
  else if 0x178 ≤ o ∧ o < 0x180 then half64 c.ret3.toNat o
  else if 0x180 ≤ o ∧ o < 0x188 then half64 c.feedBase.toNat o
  else if o = 0x188 then c.feedCount.toNat
  else if 0x190 ≤ o ∧ o < 0x198 then half64 c.feedFill.toNat o
  else if 0x1A0 ≤ o ∧ o < 0x200 then (c.qtab ((o - 0x1A0) / 0x20 + 1)).reg ((o - 0x1A0) % 0x20)
  else 0

/-- Lease page (R433); LEASE_REMAIN is a free value up to the time at the last start of the timer. -/
def State.leaseReg (s : State) (o : Nat) : Nat :=
  if o = 0x100 then s.lease.owner
  else if o = 0x110 then s.lease.timeout
  else if o = 0x114 then
    (if s.lease.owner = 0 then 0 else (Config.freeWord s.free).toNat % (s.lease.remain + 1))
  else 0

/-- Power page (R450, R480). -/
def State.powerReg (s : State) (o : Nat) : Nat :=
  let p := s.power
  if o = 0x100 then p.tolerance.toNat
  else if o = 0x104 then p.pstate
  else if o = 0x108 then p.watts.toNat
  else if o = 0x10C then p.inlet.toNat
  else if o = 0x110 then p.outlet.toNat
  else if o = 0x114 then p.flow.toNat
  else if o = 0x118 then p.busW.toNat
  else if o = 0x11C then p.busE.toNat
  else if o = 0x120 then bit p.refOk
  else 0

/-- Security page (R419). -/
def State.secReg (s : State) (o : Nat) : Nat :=
  let x := s.sec
  let full := fun b => bitsOf 32 fun i => (x.slot (b + i)).isSome
  let exps := fun b => bitsOf 32 fun i => match x.slot (b + i) with
    | some k => k.exp
    | none => false
  if o = 0x100 then s.secState
  else if o = 0x104 then full 0
  else if o = 0x108 then full 32
  else if o = 0x10C then exps 0
  else if o = 0x110 then exps 32
  else if o = 0x114 then x.installSeq % 2 ^ 32
  else if o = 0x118 then x.installSeq / 2 ^ 32 % 2 ^ 32
  else if o = 0x11C then x.tamperCount
  else if o = 0x120 then x.svnMin * 2 ^ 16 + x.svn
  else if o = 0x124 then x.violCount
  else 0

/-- Twin page (R451). -/
def State.twinReg (s : State) (o : Nat) : Nat :=
  let t := s.twin
  if o = 0x100 then bitsOf 4 (fun p => (t.port p).up) * 256 + t.rank * 16 + t.st
  else if o = 0x104 then t.compat
  else if o = 0x108 then t.copyRound
  else if o = 0x10C then t.copyLeft
  else if o = 0x110 then t.mismatches
  else if 0x118 ≤ o ∧ o < 0x128 then serialWord t.partner ((o - 0x118) / 4)
  else 0

/-- Counter reader page (R493), with the accessing port's CEN_SEL. -/
def State.ctrReg (s : State) (p : HPort) (o : Nat) : Nat :=
  let c := s.ctr
  let sel := (s.port p).cenSel
  if o = 0x100 then c.regs.period.toNat
  else if o = 0x104 then bit c.regs.port * 16 + c.regs.dest
  else if 0x108 ≤ o ∧ o < 0x110 then half64 c.regs.hostBase.toNat o
  else if o = 0x110 then c.regs.hostSlots.toNat
  else if 0x118 ≤ o ∧ o < 0x120 then half64 c.regs.vatBase.toNat o
  else if o = 0x120 then c.regs.vatSlots.toNat
  else if 0x128 ≤ o ∧ o < 0x130 then half64 c.seq o
  else if o = 0x130 then c.missedCnt
  else if o = 0x134 then bit c.tagEn * 256 + c.tagN
  else if o = 0x138 then c.tagDropped
  else if o = 0x13C then bit c.access
  else if 0x140 ≤ o ∧ o < 0x148 then half64 c.cenStep o
  else if o = 0x148 then sel
  else if 0x150 ≤ o ∧ o < 0x170 then half64 (sget 0 c.census (sel * 4 + (o - 0x150) / 8)) o
  else 0

/-- Repair log page (R452), with the accessing port's RLOG_INDEX. -/
def State.rlogReg (s : State) (p : HPort) (o : Nat) : Nat :=
  if o = 0x100 then s.repair.entries.length
  else if o = 0x104 then (s.port p).rlogIndex.toNat
  else match s.repair.entries[(s.port p).rlogIndex.toNat]? with
    | none => 0
    | some e =>
      if o = 0x110 then e.code + e.source * 2 ^ 16 + e.kind * 2 ^ 24
      else if o = 0x114 then e.unit
      else if o = 0x118 then e.time % 2 ^ 32
      else if o = 0x11C then e.time / 2 ^ 32 % 2 ^ 32
      else 0

/-- The binding entry of a logical cluster as software reads it (R38). -/
def State.bindEntry (s : State) (l : Nat) : Nat :=
  if 1200 ≤ l then 0
  else s.bind.applied.entry (match s.owner l with
    | some i => i + 1
    | none => 0) l

/-- Binding page (R453), with the accessing port's BIND_WIN_BASE. -/
def State.bindReg (s : State) (p : HPort) (o : Nat) : Nat :=
  if o = 0x100 then s.bind.gen
  else if o = 0x104 then (s.port p).bindWin
  else if 0x110 ≤ o ∧ o < 0x120 then
    match s.prog ((o - 0x110) / 4) with
    | none => 0
    | some g =>
      let (x, y) := g.bound.getD (0, 0)
      2 ^ 31 + bit g.bound.isSome * 2 ^ 30 + bit g.stopped * 2 ^ 29 + (g.image.h - 1) * 2 ^ 22 +
        (g.image.w - 1) * 2 ^ 16 + y * 64 + x
  else if 0x800 ≤ o then s.bindEntry ((s.port p).bindWin + (o - 0x800) / 4)
  else 0

/-- Field page (R448, R481). -/
def State.fieldReg (s : State) (f o : Nat) : Nat :=
  let x := s.field f
  if o = 0x100 then
    bit ([Replica.cca, Replica.ccb, Replica.ccc].any fun r => replicaField r == f && s.pagePending (pgCc r.num)) * 8 +
    bit (match siteVat f with
      | some v => s.pagePending (pgVat v)
      | none => false) * 4 +
    bit (s.pagePending (pgSite f)) * 2 + bit (s.pagePending (pgField f))
  else if o = 0x104 then
    bitsOf 30 fun k => s.pagePending (pgCluster ((f / 8 * 5 + k / 6) * 48 + f % 8 * 6 + k % 6))
  else if o = 0x200 then x.fuse * 2 ^ 12 + x.tstate * 256 + x.classNow * 16 + x.classPlan
  else if o = 0x204 then x.vcore
  else if o = 0x208 then x.inMa.toNat
  else if o = 0x20C then x.tempMax
  else if o = 0x210 then x.throttles
  else 0

/-- Port-site page (R364, R455). -/
def State.siteReg (s : State) (f o : Nat) : Nat :=
  let x := s.site f
  if o = 0x100 then x.active * 16 + x.chkSel
  else if o = 0x104 then x.chkFail
  else if o = 0x108 then x.replays
  else if o = 0x10C then x.seqTx
  else if o = 0x110 then x.seqRx
  else if o = 0x120 then
    (if f = 19 then s.h0.link + s.h0.rate * 16 + s.h0.width * 256
     else if f = 28 then s.h1.link + s.h1.rate * 16 + s.h1.width * 256 else 0)
  else 0

/-- Cluster page (R161, R216, R240, R282, R416). -/
def State.clusterReg (s : State) (c o : Nat) : Nat :=
  let r := s.cluster c
  let v := r.last.getD (s.clusterNow c)
  if o = 0x300 then r.engRow.toNat
  else if o = 0x304 then (if s.sec.isSealed && r.engIndex then 0 else r.engCol.toNat)
  else if o = 0x308 then r.seqPc.toNat
  else if o = 0x30C then r.seqUnit.toNat
  else if o = 0x310 then v.sat
  else if o = 0x314 then r.copyPos.toNat
  else if o = 0x318 then (if s.sec.isSealed && r.index then 0 else r.copyVal.toNat)
  else if o = 0x320 then v.links
  else if o = 0x324 then v.sel
  else if o = 0x328 then r.feltSrc.toNat
  else if o = 0x32C then r.feltAddr.toNat
  else if o = 0x330 then v.hold
  else 0

/-- Vat page (R322). -/
def State.vatReg (s : State) (v o : Nat) : Nat :=
  let x := s.vats.vat v
  if o = 0x100 then vatPartner v * 256 + s.bind.applied.vatServed v * 16 + x.port
  else if o = 0x104 then x.pkgFail * 256 + x.pkgUp
  else if o = 0x108 then x.ce
  else if o = 0x10C then x.ue
  else if o = 0x110 then x.ueAddr % 2 ^ 32
  else if o = 0x114 then x.ueAddr / 2 ^ 32 % 2 ^ 13
  else if o = 0x118 then s.vats.stripes
  else if o = 0x11C then bit x.patrol
  else 0

/-- Control-complex page (R454). -/
def State.ccReg (s : State) (r o : Nat) : Nat :=
  if o = 0x100 then nth 0 [s.cc.rep0, s.cc.rep1, s.cc.rep2] r else 0

/-! The common page and the map (R425, R428, R429, R489) -/

/-- STAT of a page (R436, R449). -/
def State.statReg (s : State) (k : Nat) : Nat :=
  if k = 0 then s.ident.stage * 2 + bit s.ident.ready
  else if k = 1 ∨ k = 2 then
    (match s.run with
      | some r => r.op * 256
      | none => 0) + bit s.train.feedWait * 2 + bit s.busyBit
  else 0

/-- A word of a page's counters; cluster and vat counters read 0 in sealed mode (R416, R489). -/
def State.counterReg (s : State) (k o : Nat) : Nat :=
  let kind := pageKind k
  if s.sec.isSealed && (kind == 0x12 || kind == 0x13) then 0
  else
    let c := sget {} (s.page k).ctrs ((o - 0x40) / 8)
    if o % 8 = 0 then c.value % 2 ^ 32
    else bit c.satd * 2 ^ 31 + bit c.mode * 2 ^ 24 + c.evsel * 2 ^ 16 + c.value / 2 ^ 32 % 2 ^ 16

/-- A word of a page; `p` is the accessing port. -/
def State.pageReg (s : State) (p : HPort) (k o : Nat) : Nat :=
  let g := s.page k
  if o = 0 then pageKind k * 2 ^ 24 + pageInstance k
  else if o = 4 then 1
  else if o = 0xC then s.statReg k
  else if o = 0x10 then g.evt.toNat
  else if o = 0x14 then g.evtEn.toNat
  else if o = 0x18 then g.count * 2 ^ 16 + g.code
  else if o = 0x1C then g.info.toNat
  else if o < 0x40 then 0
  else if o < 0x80 then s.counterReg k o
  else if o < 0x100 then 0
  else if k = 0 then s.identReg o
  else if k = 1 then s.cmdReg s.h0.cmd o
  else if k = 2 then s.cmdReg s.h1.cmd o
  else if k = 3 then s.leaseReg o
  else if k = 4 then s.powerReg o
  else if k = 5 then s.secReg o
  else if k = 6 then s.twinReg o
  else if k = 7 then s.ctrReg p o
  else if k = 8 then s.rlogReg p o
  else if k = 9 then s.bindReg p o
  else if k < 0x200 then s.fieldReg (k - 0x100) o
  else if k < 0x400 then s.siteReg (k - 0x200) o
  else if k < 0xA00 then s.clusterReg (k - 0x400) o
  else if k < 0xC00 then s.vatReg (k - 0xA00) o
  else s.ccReg (k - 0xC00) o

/-- A page answers: before Ready only the identity, command, lease and security pages do (R428). -/
def State.answers (s : State) (k : Nat) : Bool := pageExists k && (s.ident.ready || [0, 1, 2, 3, 5].contains k)

/-- The 32-bit word at an aligned BAR0 offset, as a port reads it. -/
def State.readWord (s : State) (p : HPort) (off : Nat) : Nat :=
  if 0xF0000 ≤ off ∧ off < 0xF0400 then leNat (sgets 0 (s.port p).msix (off - 0xF0000) 4)
  else if off = 0xF1000 ∨ off = 0xF1004 then half64 (s.port p).pba.toNat off
  else if s.answers (off / 0x1000) then s.pageReg p (off / 0x1000) (off % 0x1000)
  else 0

/-! Reads that act -/

/-- A read-to-clear register is read: it then holds `same`, the increment of the cycle (R12). A lost unit's page keeps its
value (R427). -/
def State.clearRc (s : State) (off same : Nat) : State :=
  let k := off / 0x1000
  let o := off % 0x1000
  if !s.answers k || (s.page k).lost then s
  else if k = 5 ∧ o = 0x124 then { s with sec := { s.sec with violCount := same } }
  else if k = 6 ∧ o = 0x110 then { s with twin := { s.twin with mismatches := same } }
  else if k = 7 ∧ o = 0x130 then { s with ctr := { s.ctr with missedCnt := same } }
  else if k = 7 ∧ o = 0x138 then { s with ctr := { s.ctr with tagDropped := same } }
  else if 0x100 ≤ k ∧ k < 0x200 ∧ o = 0x210 then s.setField (k - 0x100) { s.field (k - 0x100) with throttles := same }
  else if 0x200 ≤ k ∧ k < 0x400 ∧ o = 0x104 then s.setSite (k - 0x200) { s.site (k - 0x200) with chkFail := same }
  else if 0x200 ≤ k ∧ k < 0x400 ∧ o = 0x108 then s.setSite (k - 0x200) { s.site (k - 0x200) with replays := same }
  else if 0xA00 ≤ k ∧ k < 0xC00 ∧ o = 0x108 then
    { s with vats := s.vats.setVat (k - 0xA00) { s.vats.vat (k - 0xA00) with ce := same } }
  else s

/-- Requests of a port reach the module: out of reset, with its link up. -/
def State.reaches (s : State) (p : HPort) : Bool := !(s.port p).perst && (s.port p).link == 2

/-- A read finds the counters of its page as they have counted up to now (R489, R490). -/
def State.settleRead (s : State) (off : Nat) : State :=
  let o := off % 0x1000
  if 0x40 ≤ o ∧ o < 0x80 then s.countTime (off / 0x1000) else s

/-- What a read of a size at an offset delivers (R426): one word, two words, or bytes of one word. -/
def State.readSized (s : State) (p : HPort) (off size : Nat) : Nat :=
  if size = 8 then s.readWord p off + 2 ^ 32 * s.readWord p (off + 4)
  else s.readWord p (off / 4 * 4) / 2 ^ (8 * (off % 4)) % 2 ^ (8 * size)

/-- A port reads BAR0; a read-to-clear register that it reads is cleared (R12, R426). -/
def execRcRead (p : HPort) (off same : Nat) (s : State) (size : Nat := 4) : Out :=
  if !readOk off size || !s.reaches p then .next s
  else
    let s := s.settleRead off
    let v := s.readSized p off size
    let s := { s with readData := BitVec.ofNat 64 v, free := s.free + 1 }.clearRc (off / 4 * 4) (same % 2 ^ 32)
    .next (if size = 8 then s.clearRc (off + 4) (same % 2 ^ 32) else s)

/-! Configuration space and outputs -/

/-- The identity that a port's function shows in configuration space: Device ID and Vendor ID (R420). -/
def State.configId (s : State) (p : HPort) : Nat := (s.port p).fn.deviceId * 2 ^ 16 + s.ident.vendor

/-- SMB_ALERT#, an output that is low when this is true: a field or power EVT bit is enabled and set (R485). -/
def State.smbAlert (s : State) : Bool := s.pagePending pgPower || (List.range 48).any fun f => s.pagePending (pgField f)

/-! SMBus (R486) -/

/-- Pages that the SMBus may read. -/
def smbusPage (k : Nat) : Bool := [0, 4, 5, 6, 8].contains k || (decide (0x100 ≤ k) && decide (k < 0x130))

/-- A Block Write of three bytes sets the BAR0 offset. -/
def execSmbusBlockWrite (data : List Byte) (s : State) : Out :=
  if data.length ≠ 3 then .next s else .next { s with svc := { s.svc with smbusOff := leNat data } }

/-- A Block Read of four bytes: the register at the offset, which then advances; nothing is cleared or written. -/
def execSmbusBlockRead (n : Nat) (s : State) : Out :=
  if n ≠ 4 then .next s
  else
    let off := s.svc.smbusOff / 4 * 4
    let s := if smbusPage (off / 0x1000) then s.settleRead off else s
    let v := if smbusPage (off / 0x1000) then s.readWord .h0 off else 0
    .next { s with free := s.free + 1, svc := { s.svc with
      smbusOff := (s.svc.smbusOff + 4) % 2 ^ 24, smbusOut := s.svc.smbusOut ++ [BitVec.ofNat 32 v] } }

end Sys2Proof.Machine
end

