-- ==== Sys2Proof/Machine/Power.lean ====
section
/-! DEFINITION. Temperatures and throttles, voltages, buses, references and coolant, the power states and the wake
(R43, R46, R452, R459 to R471, R479, R480). -/

namespace Sys2Proof.Machine

/-! Temperature (R465) -/

/-- An emergency throttle fell in every attempt and query in progress (R43). -/
def State.markThrottled (s : State) : State :=
  { s with
    train := { s.train with throttled := s.train.throttled || s.train.ph1.isSome }
    queries := s.queries.map fun (q : Nat × QSlot) =>
      (q.1, { q.2 with run := q.2.run.map fun r => { r with throttled := true } }) }

/-- A stretch in force is computed again from the lowest class (R46); past 64 µs the run stops. -/
def State.restretch (s : State) (page : Nat) : State :=
  match s.train.stretch, s.lowestClass with
  | some c, some k =>
    if k ≤ c then s
    else
      let s := { s with train := { s.train with stretch := some k } }
      ((List.range 4).filter s.busy).foldl (fun s i => if 64 < s.periodOf i then s.scheduleOverrun i page else s) s
  | _, _ => s

/-- An emergency throttle of a field to a lower class; the core voltage stays, and the holds of the wave are due to be
computed again (R269). -/
def State.throttle (s : State) (f cls : Nat) : State :=
  let x := s.field f
  if cls ≤ x.classNow then s
  else
    let s := s.setField f { x with classNow := cls, tstate := if cls = 5 then 1 else x.tstate, raiseTo := none
                                   throttled := true, throttleCls := cls, throttles := satAdd 32 x.throttles 1 }
    let s := if x.throttled then s else s.edge (pgField f) 0x50
    let s := s.recordFault (pgField f) fTHERMAL_THROTTLE (x.tempMax / 100 % 4096 * 2 ^ 20 + x.classNow * 16 + cls)
    let s := { s with felt := { s.felt with holdStale := true } }
    ((s.setEvt (pgField f) 4).markThrottled).restretch (pgField f)

/-- A reading of 100 °C or above sets HOT (R465, R491 event 0x51). -/
def State.setHot (s : State) (f : Nat) : State :=
  (if (s.page (pgField f)).evt.getLsbD 1 then s else s.edge (pgField f) 0x51).setEvt (pgField f) 2

/-- The input current of a field is measured with its temperatures: IN_MA takes a free value (R481; log entry 29). -/
def State.measureField (s : State) (f t hot : Nat) : State :=
  { s.setField f { s.field f with tempMax := t, hot := hot, inMa := (Config.freeWord s.free).setWidth 32 } with
    free := s.free + 1 }

/-- The four sensors of a field are read (R465): the second reading in a row at or above 105 °C throttles by one step,
one at or above 115 °C gates the tiles at once; the change of class is voted on (R22). -/
def execTempSample (field : Nat) (sensors : List Nat) (s : State) (dissent : Option Replica := none) : Out :=
  if !fieldOk field then .fault .noSuchUnit
  else
    let x := s.field field
    if x.fuse ≠ 0 || sensors.isEmpty then .next s
    else
      let t := sensors.foldl max 0
      let hot := if t < 105000 then 0 else if 115000 ≤ t then 2 else if x.hot = 0 then 1 else 2
      let s := s.measureField field t hot
      let s := if 100000 ≤ t then s.setHot field else s
      if 115000 ≤ t then .next (s.voteThen dissent fun s => s.throttle field 5)
      else if x.hot = 1 ∧ hot = 2 then .next (s.voteThen dissent fun s => s.throttle field (min 5 (x.classNow + 1)))
      else .next s

/-- Each millisecond that the reading stays at or above 105 °C after the throttle, the response repeats. -/
def execThrottleRepeat (field : Nat) (s : State) (dissent : Option Replica := none) : Out :=
  if !fieldOk field then .fault .noSuchUnit
  else
    let x := s.field field
    if x.fuse ≠ 0 || x.hot != 2 || decide (x.tempMax < 105000) then .next s
    else .next (s.voteThen dissent fun s => s.throttle field (min 5 (x.classNow + 1)))

/-- The core voltage of a raised field settles and the class is applied by vote, with the holds that follow it (R22, R269,
R464). -/
def execVoltageSettled (field : Nat) (s : State) (dissent : Option Replica := none) : Out :=
  if !fieldOk field then .fault .noSuchUnit
  else
    let x := s.field field
    match (if x.fuse = 0 then x.raiseTo else none) with
    | none => .next s
    | some c => .next (s.voteThen dissent fun s => (s.setField field { x with
        classNow := c, vcore := classVolt c, tstate := if c = 5 then 1 else 0, raiseTo := none }).sampleHolds)

/-! Fields, buses, reference, coolant -/

/-- The page of a control replica that was lost in the cycle in which the module became restricted has two faults of that
cycle: it shows the first in the order of R371 (R431). `t` is the state after them. -/
def State.causeFirst (s t : State) : State :=
  match s.cc.restricted, t.cc.restricted with
  | none, some c =>
    if fCONTROL_REPLICA_LOST ≤ c then t
    else [Replica.cca, Replica.ccb, Replica.ccc].foldl (fun t r =>
      let k := pgCc r.num
      if (s.page k).lost || !(t.page k).lost then t
      else { t with pages := sput {} t.pages k { t.page k with
        code := c, info := 0, count := satAdd 16 (s.page k).count 2 } }) t
  | _, _ => t

/-- Fields lost in one cycle: each is recorded, and the work in flight is discarded and redone (R461). DESIGN CHOICE: they
are taken in the order given, a bus's in ascending number, so that a loss that meets R23 and R289 at once records the cause
of the first that restricts the module (R24, log entry 29). -/
def State.loseFields (s : State) (fs : List (Nat × Nat)) : State :=
  let new := fs.filter fun f => !s.bind.found.fields.contains f.1
  if new.isEmpty then s else (s.causeFirst (new.foldl (fun s f => s.loseField f.1 f.2) s)).absorbAll fFIELD_LOST

/-- Field fuses trip in one cycle: (field, cause), cause 1 instant or 2 sustained (R460, R461). -/
def execFuseTrip (fields : List (Nat × Nat)) (s : State) : Out :=
  if !fields.all (fun f => fieldOk f.1) then .fault .noSuchUnit
  else .next (s.loseFields (fields.map fun f => (f.1, if f.2 = 2 then 2 else 1)))

/-- A bus is out of range after Ready: it has left 48 to 56 V, and every field of its half is lost (R459, R480). -/
def execBusOutOfRange (h : Half) (s : State) : Out :=
  if !s.ident.ready then .next s
  else .next ((s.setEvt pgPower 16).loseFields ((halfFields h).map fun f => (f, 3)))

/-- A bus voltage is measured; outside 48 to 56 V it sets BUS_RANGE (R480). -/
def execBusRange (h : Half) (mv : Nat) (s : State) : Out :=
  let v := BitVec.ofNat 32 mv
  let s := { s with power := match h with
    | .west => { s.power with busW := v }
    | .east => { s.power with busE := v } }
  if mv < 48000 ∨ 56000 < mv then .next (s.setEvt pgPower 16) else .next s

/-- A field's reference input is lost; its PLL holds (R466). -/
def execRefLost (field : Nat) (s : State) : Out :=
  if !fieldOk field then .fault .noSuchUnit
  else
    let s := s.setField field { s.field field with refLost := true }
    .next ({ s with power := { s.power with refOk := false } }.setEvt pgPower 32)

/-- The reference is back at every field. -/
def execRefOk (s : State) : Out :=
  .next { s with fields := (List.range 48).foldl (fun l f => sput {} l f { sget {} l f with refLost := false }) s.fields
                 power := { s.power with refOk := true } }

/-- The module's input power is measured: POWER_W takes a free value (R450; log entry 29). -/
def State.measurePower (s : State) : State :=
  { s with power := { s.power with watts := (Config.freeWord s.free).setWidth 32 }, free := s.free + 1 }

/-- Coolant temperatures and flow are measured, and with them the input power (R450, R479). -/
def execCoolantSample (inlet outlet flow : Nat) (s : State) : Out :=
  let s := s.measurePower
  let s := { s with power := { s.power with
    inlet := BitVec.ofNat 32 inlet, outlet := BitVec.ofNat 32 outlet, flow := BitVec.ofNat 32 flow } }
  let s := if inlet < 20000 ∨ 35000 < inlet then s.setEvt pgPower 4 else s
  .next (if flow < 60000 then s.setEvt pgPower 8 else s)

/-- The life counter advances by a second (R452), after which the measured power is a new one (R450). -/
def execLifeCounterTick (s : State) : Out :=
  .next { s with repair := { s.repair with life := (s.repair.life + 1) % 2 ^ 64 } }.measurePower

/-! Power states (R467 to R471) -/

/-- Wake time of a state in µs, with the reload of R471. -/
def State.wakeTime (s : State) (p : Nat) : Nat :=
  let reload := (s.loaded.map fun i => match s.image? i with
    | some im => im.reload
    | none => 0).foldl max 0
  match p with
  | 0 => 0
  | 1 => 2
  | 2 => 200
  | 3 => 20000 + reload
  | _ => 2000000 + reload

/-- The deepest state that R469 and R471 allow. -/
def State.wantState (s : State) : Nat :=
  let cap := if s.run.isSome || s.queries.any (fun q => q.2.run.isSome) || [1, 3, 4].contains s.twin.st then 2 else 4
  if s.power.tolerance = 0 then 0
  else (List.range (cap + 1)).foldl (fun m p => if s.wakeTime p ≤ s.power.tolerance.toNat then p else m) 0

/-- The module enters a deeper state: idle fields, and in P4 the calender ports go down. -/
def State.enterState (s : State) (p : Nat) : State :=
  let s := (List.range 48).foldl (fun s f => if s.idleField f then s.setField f ((s.field f).rest p) else s) s
  let t := if p < 4 then s.twin else (List.range 4).foldl (fun t k => t.setPort k { t.port k with
    up := false, hello := none, myKx0 := none, peer := none, myKx1 := none, keyOut := none, keyIn := none }) s.twin
  { s with power := { s.power with pstate := p }, twin := t }.setEvt pgPower 2

/-- The module enters by vote the state that R469 chooses, when that is deeper than the state in force (R22). -/
def execPstateEntry (s : State) (dissent : Option Replica := none) : Out :=
  if !s.ident.ready || s.power.waking || decide (s.wantState ≤ s.power.pstate) then .next s
  else .next (s.voteThen dissent fun s => s.enterState s.wantState)

/-- A wake event in a state deeper than P0 (R470). -/
def State.wake (s : State) : State :=
  if s.power.pstate = 0 then s else { s with power := { s.power with waking := true } }

/-- A wake event. -/
def execWake (s : State) : Out := .next s.wake

/-- A field back in P0; one that a command uses keeps its class, and one that a throttle holds runs at the class of its
throttle (R465, R470). -/
def FieldState.toRun (x : FieldState) (used : Bool) : FieldState :=
  if x.fuse ≠ 0 || used then x
  else
    let c := if x.throttled then x.throttleCls else 0
    { x with classNow := c, tstate := if c = 5 then 1 else 0, vcore := classVolt 0, raiseTo := none }

/-- Every tile's SRAM is zero, and code and descriptor regions are written again (R178, R227, R471, R477). -/
def State.reloadTiles (s : State) : State :=
  let s := { s with tiles := s.tiles.map fun t => (t.1, { t.2 with sram := {} }) }
  [0, 1, 2, 3].foldl (fun s i => s.rebuild i fun _ => true) s

/-- LATENCY_TOLERANCE is written (R469, R476): ignored before Ready; a state that is now too deep wakes. -/
def State.setTolerance (s : State) (v : W32) : State :=
  if !s.ident.ready then s
  else
    let s := { s with power := { s.power with tolerance := v } }
    if s.wantState < s.power.pstate then s.wake else s

end Sys2Proof.Machine
end

