-- ==== Sys2Proof/Machine/Security.lean ====
section
/-! DEFINITION. Keys, modes, scrubs and the tamper response, JTAG, BAR2, firmware images, certificates and the attestation
report (R394 to R397, R403, R404, R409 to R412, R415 to R418). -/

namespace Sys2Proof.Machine

/-! Zeroizing, stopping and scrubbing -/

/-- Every slot and session key is zeroized (R396, R415, R418): a calender port without session keys is down. -/
def State.zeroize (s : State) : State :=
  let s := { s with sec := { s.sec with slots := [] } }
  let s := s.twin.upPorts.foldl (fun s p => s.calDown p false) s
  { s with twin := (List.range 4).foldl (fun t p => t.setPort p { t.port p with keyOut := none, keyIn := none }) s.twin }

/-- Every program stops: all work is discarded. -/
def State.stopAll (s : State) : State :=
  let s := (((s.discard 0).discard 1).discard 2).discard 3
  { s with
    train := { s.train with ph1 := none, ph2 := none, sealedStep := none, running := false, ending := none
                            feedWait := false, held := false }
    queries := s.queries.map fun (q : Nat × QSlot) =>
      (q.1, { q.2 with run := none, served := false, next := q.2.completed })
    bind := { s.bind with req := none }
    felt := { s.felt with wave := none } }

/-- Zero, with valid check bytes, every tainted vat region and all tile SRAM (R417). -/
def State.scrub (s : State) : State :=
  { s with
    vats := { s.vats with mem := s.sec.taintVat.foldl (fun m r => m.zero (r * 1048576) 1048576) s.vats.mem }
    tiles := s.tiles.map fun t => (t.1, { t.2 with sram := {} })
    sec := { s.sec with taintVat := [], taintSram := false } }

/-- The loaded programs are cleared, with their bindings and the committed state (R415). -/
def State.unload (s : State) : State :=
  let gen := if (List.range 4).any fun i => match s.prog i with
      | some p => p.bound.isSome
      | none => false then (s.bind.gen + 1) % 2 ^ 32 else s.bind.gen
  { s with bind := { s.bind with progs := [], gen := gen }, queries := [] }

/-- A member that lost its programs is unpaired. -/
def State.unpair (s : State) : State :=
  { s with twin := { s.twin.clear with join := none, probe := none } }.setTwin 0

/-! Key packages (R403, R404) -/

/-- OP of a package. -/
def pkOp (k : List Byte) : Nat := leAt k 0 2
/-- SLOT of a package. -/
def pkSlot (k : List Byte) : Nat := leAt k 2 1

/-- Check 1 of R404. -/
def pkFormOk (k : List Byte) (len : Nat) : Bool :=
  let op := pkOp k
  let slotOp := op == 2 || op == 3
  len == 4728 && decide (1 ≤ op) && decide (op ≤ 6) &&
  (if slotOp then decide (pkSlot k < 64) else pkSlot k == 0) &&
  (if op = 2 then decide (leAt k 3 1 < 2) else leAt k 3 1 == 0) &&
  leAt k 4 4 == 0 && (op == 2 || allZero (bytesAt k 32 1616)) && (op == 1 || allZero (bytesAt k 1648 1793)) &&
  allZero (bytesAt k 3441 7)

/-- ZEROIZE and SEAL carry no order and no signature. -/
def pkPlain (k : List Byte) : Bool := pkOp k == 4 || pkOp k == 6

/-- Check 4 of R404: under which key the signature verifies. -/
def Security.sigOk (x : Security) (k : List Byte) : Bool :=
  let verify := fun (pk : List Byte) => Config.falconVerify pk (bytesAt k 0 3448) (bytesAt k 3448 1280)
  match x.owner with
  | some pk => verify pk
  | none => if pkOp k = 1 then verify (bytesAt k 1648 1793) else pkOp k == 5

/-- The KEK of a SLOT_LOAD package, if its tag verifies. -/
def pkKek (k : List Byte) : Option (List Byte) :=
  let key := shake256 (Config.kemDecap (bytesAt k 32 1568) ++ ascii "SN1200-KEK" ++ bytesAt k 0 32) 32
  gcmOpen key (List.replicate 12 0) (bytesAt k 0 32) (bytesAt k 1600 32) (bytesAt k 1632 16)

/-- The first fault of a package in the order of R404. -/
def State.pkFault (s : State) (k : List Byte) (len : Nat) : Option Nat :=
  if !pkFormOk k len then some fDESC_INVALID
  else if leAt k 8 16 ≠ s.ident.serial then some fSEAL_VIOLATION
  else if !pkPlain k && decide (leAt k 24 8 ≤ s.sec.installSeq) then some fSEAL_VIOLATION
  else if !pkPlain k && !s.sec.sigOk k then some fSEAL_VIOLATION
  else if (pkOp k = 1 ∨ pkOp k = 2) ∧ !s.sec.isSealed then some fSEAL_VIOLATION
  else if pkOp k = 2 ∧ (pkKek k).isNone then some fAUTH_TAG_FAIL
  else none

/-- The tag records that are held keep what sealed mode shows of them (R416, R500). -/
def CtrReader.masked (c : CtrReader) : CtrReader :=
  let f := fun (t : Nat × List Byte) => (t.1, maskTag t.2)
  { c with tags := c.tags.map f, snap := c.snap.map fun x => { x with tags := x.tags.map f } }

/-- The modes change (R415): everything stops, is scrubbed and cleared, and what is held of sealed counters is masked. -/
def State.changeMode (s : State) (isSealed : Bool) : State :=
  let s := s.stopAll
  let s := if isSealed then s else s.zeroize
  let s := s.scrub.unload.unpair
  { s with sec := { s.sec with isSealed := isSealed }, train := {}, ctr := if isSealed then s.ctr.masked else s.ctr }

/-- The operation of a package that passed its checks. -/
def State.pkApply (s : State) (k : List Byte) : State :=
  let s := if pkPlain k then s else { s with sec := { s.sec with installSeq := leAt k 24 8 } }
  match pkOp k with
  | 1 =>
    let had := s.sec.owner.isSome
    let s := { s with sec := { s.sec with owner := some (bytesAt k 1648 1793) } }
    if had then { s with sec := { s.sec with slots := [] } } else s
  | 2 => match pkKek k with
    | some kek => { s with sec := s.sec.setSlot (pkSlot k) (some ⟨kek, (leAt k 3 1).testBit 0⟩) }
    | none => s
  | 3 => { s with sec := s.sec.setSlot (pkSlot k) none }
  | 4 => s.zeroize
  | 5 => s.changeMode false
  | _ => if s.sec.isSealed then s else s.changeMode true

/-- KEY_INSTALL: the faults are recorded on the security page. -/
def State.keyInstall (s : State) (r : Running) : State :=
  let len := r.page.args.a1.toNat
  let s := if len = 4728 then s.dmaTook r.port 1 else s
  let k := if len = 4728 then s.dmaRead r.port r.page.args.a0.toNat 4728 else []
  match s.pkFault k len with
  | some c => (s.recordFault pgSec c 0).endCommand c
  | none => (s.pkApply k).endCommand 0

/-! Tamper (R418) -/

/-- The response to a tamper switch, before the scrub ends; the running command ends with TAMPER, whatever the loss of the
calender's keys would end it with. -/
def State.tampered (s : State) : State :=
  let s := (s.stopAll.recordFault pgSec fTAMPER 0).endCommand fTAMPER
  let s := s.zeroize
  { s with sec := { s.sec with
    tamperLatch := true, scrubBusy := true, tamperCount := satAdd 16 s.sec.tamperCount 1 } }.unpair

/-- A cover-open or tamper switch operates. -/
def execTamper (s : State) : Out := .next s.tampered

/-- The scrub after a tamper event ends, in sealed mode, which masks what is held of the counters (R416, R418). -/
def execTamperScrubEnd (s : State) : Out :=
  if !s.sec.scrubBusy then .next s
  else
    let c := if s.sec.isSealed then s.ctr else s.ctr.masked
    let s := s.scrub
    .next { s with sec := { s.sec with scrubBusy := false, isSealed := true }, ctr := c }

/-! Accesses that sealed mode restricts (R416) -/

/-- An access raises a SEAL_VIOLATION: recorded on the security page (R370), counted, and no command ends. -/
def State.violation (s : State) : State :=
  let s := s.recordFault pgSec fSEAL_VIOLATION 0
  { s with sec := { s.sec with violCount := satAdd 32 s.sec.violCount 1 } }

/-- A JTAG instruction. Debug instructions act on the module as no rule says. -/
def execJtagInstruction (ir : JtagIr) (s : State) : Out :=
  let set := fun (i : JtagIr) (s : State) => { s with svc := { s.svc with jtag := i } }
  match ir with
  | .idcode => .next { set .idcode s with readData := BitVec.ofNat 64 Config.idcode.toNat }
  | .bypass => .next (set .bypass s)
  | .standard n => if s.sec.isSealed then .next (set .bypass s).violation else .next (set (.standard n) s)
  | .debug _ => if s.sec.isSealed then .next (set .bypass s).violation else .refused .jtagDebug

/-- Bytes at vat addresses by the 64 B lines that hold them, each with its offset. -/
def byLine (bs : List (Nat × Byte)) : List (Nat × List (Nat × List Byte)) :=
  ((bs.map fun b => b.1 / 64 * 64).eraseDups).map fun l =>
    (l, (bs.filter fun b => b.1 / 64 * 64 == l).map fun b => (b.1 - l, [b.2]))

/-- A request of BAR2 completes with Unsupported Request status, which AER notes in bit 20 (R416, R421). -/
def State.unsupported (s : State) (p : HPort) : State :=
  let h := s.port p
  { s.setPort p { h with fn := { h.fn with aerUncorrectable := h.fn.aerUncorrectable ||| 0x100000#32 } } with bar2Bad := true }

/-- A request to the BAR2 window: refused with Unsupported Request status and counted in sealed mode, served from vat space
in maintenance mode but for the scrub after a tamper event (R416, R418). -/
def execBar2Access (p : HPort) (write : Bool) (addr : Nat) (data : List Byte) (s : State) : Out :=
  if !s.reaches p || decide (2 ^ 36 < addr + data.length) then .next s
  else if s.sec.isSealed then .next (s.violation.unsupported p)
  else if s.sec.scrubBusy then .next (s.unsupported p)
  else if !s.ident.ready then .next s
  else
    let s := { s with bar2Bad := false }
    let at_ := (List.range data.length).map fun i => Config.bar2Map (addr + i)
    if !write then .next (s.vatLines ((at_.map fun a => a / 64 * 64).eraseDups.map fun l => (l, 64)) fun s =>
      { s with readData := BitVec.ofNat 64 (leNat (at_.map s.vats.mem.byte)) })
    else
      let ls := byLine (at_.zip data)
      .next (s.vatAccess (ls.flatMap fun l => partWords l.1 l.2) fun s =>
        ls.foldl (fun s l => s.lineWrite l.1 l.2 false) s)

/-! Firmware (R410) -/

/-- An image passes its checks: its signature, its security version, its raised minimum. -/
def State.fwOk (s : State) (image : List Byte) (svn raisedMin : Nat) : Bool :=
  Config.falconVerify Config.authorityKey image [] && decide (s.sec.svnMin ≤ svn) && decide (svn < 65536) &&
  decide (raisedMin ≤ svn)

/-- A new image is written to the inactive bank and verified there. -/
def execFirmwareUpdate (p : HPort) (image : List Byte) (svn raisedMin : Nat) (s : State) : Out :=
  if !s.reaches p || !s.ident.ready || s.sec.scrubBusy then .next s
  else if s.fwOk image svn raisedMin then
    .next { s with sec := { s.sec with inactive := some ⟨image, svn, raisedMin⟩ } }
  else .next ({ s with sec := { s.sec with inactive := none } }.recordFault pgSec fFW_SIG_FAIL 0)

/-! Attestation (R409, R411, R412) -/

/-- The serial number as bytes. -/
def State.serialBytes (s : State) : List Byte := leBytes 16 s.ident.serial

/-- The identity certificate. -/
def State.idCert (s : State) : List Byte :=
  s.serialBytes ++ bytesAt Config.identityKey 0 1793 ++ bytesAt Config.authoritySig 0 1280

/-- The KEM certificate. -/
def State.kemCert (s : State) : List Byte :=
  let b := s.serialBytes ++ bytesAt Config.kemKey 0 1568
  b ++ bytesAt (Config.falconSign b 0) 0 1280

/-- M0 and M1. -/
def Security.m0 (x : Security) : List Byte := measure x.loader
/-- M1. -/
def Security.m1 (x : Security) : List Byte := measure (x.m0 ++ measure x.firmware.bytes)

/-- 64 bytes of SHAKE256 over the owner key, or zeros. -/
def Security.ownerHash (x : Security) : List Byte :=
  match x.owner with
  | some k => measure k
  | none => List.replicate 64 0

/-- The key check value of a slot (R397). -/
def Security.kcv (x : Security) (i : Nat) : List Byte :=
  match x.slot i with
  | some k => shake256 (ascii "SN1200-KCV" ++ k.kek) 8
  | none => List.replicate 8 0

/-- The measurement of a program position (R411). -/
def State.measurement (s : State) (i : Nat) : List Byte :=
  match s.prog i with
  | some p => bytesAt p.measurement 0 64
  | none => List.replicate 64 0

/-- The twin state as HEARTBEAT codes it (R382); a member that is unpaired counts as in simplex (R386). -/
def Twin.beatState (t : Twin) : Nat :=
  match t.st with
  | 1 => 0
  | 3 => 2
  | 4 => 2
  | 5 => 3
  | _ => 1

/-- The attestation report without its signature, 1,200 bytes. -/
def State.reportBody (s : State) (nonce : List Byte) : List Byte :=
  let x := s.sec
  leBytes 4 1 ++ leBytes 4 0 ++ s.serialBytes ++ nonce ++ leBytes 8 x.reports ++ x.m0 ++ x.m1 ++
  leBytes 4 s.secState ++ leBytes 2 x.svn ++ leBytes 2 s.twin.compat ++ leBytes 2 x.tamperCount ++
  leBytes 2 s.twin.beatState ++ leBytes 4 0 ++ x.ownerHash ++
  s.measurement 0 ++ s.measurement 1 ++ s.measurement 2 ++ s.measurement 3 ++
  leBytes 8 s.train.committed ++ leBytes 8 (bitsOf 64 fun i => (x.slot i).isSome) ++
  leBytes 8 (bitsOf 64 fun i => match x.slot i with
    | some k => k.exp
    | none => false) ++
  ((List.range 64).flatMap x.kcv) ++
  (if s.twin.st = 0 then List.replicate 64 0 else measure s.twin.partnerKey) ++
  leBytes 8 x.installSeq ++ List.replicate 64 0

/-- A report is made: its counter advances and the generator serves the signature. -/
def State.report (s : State) (nonce : List Byte) : List Byte × State :=
  let s := { s with sec := { s.sec with reports := (s.sec.reports + 1) % 2 ^ 64 } }
  let b := s.reportBody nonce
  (b ++ bytesAt (Config.falconSign b s.sec.drawn) 0 1280, { s with sec := { s.sec with drawn := s.sec.drawn + 1 } })

/-- Write records one after another, each with its trailer. -/
def State.dmaRecords (s : State) (p : HPort) (a : Nat) : List (List Byte) → State
  | [] => s
  | r :: rs => (s.dmaRecord p a r).dmaRecords p (a + r.length + 16) rs

/-- ATTEST (R440, R442). -/
def State.attest (s : State) (r : Running) : State :=
  let a := r.page.args
  let sel := a.a3.toNat
  let lens := (if sel.testBit 0 then [2480] else []) ++ (if sel.testBit 1 then [3089] else []) ++
    (if sel.testBit 2 then [2864] else [])
  let total := lens.foldl (fun t n => t + n + 16) 0
  if a.a2.toNat < total then s.failCommand fDESC_RANGE
  else
    let (rep, s) := if sel.testBit 0 then
        let (b, s) := (s.dmaTook r.port 1).report (s.dmaRead r.port a.a0.toNat 32)
        ([b], s)
      else ([], s)
    let rs := rep ++ (if sel.testBit 1 then [s.idCert] else []) ++ (if sel.testBit 2 then [s.kemCert] else [])
    (s.dmaRecords r.port a.a1.toNat rs).endWith 0 total 0

end Sys2Proof.Machine
end

