-- ==== Sys2Proof/Machine/Twin.lean ====
section
/-! DEFINITION. The calender: key exchange, HELLO and the ports' states, messages, watermarks and digests, joining by a
moving copy, leaving (R359 to R363, R372 to R390, R413, R414). -/

namespace Sys2Proof.Machine

/-! Receiving (R359, R362, R363, R414) -/

/-- TYPEs that R382 defines. -/
def knownTypes : List Nat := [0x01, 0x02, 0x03, 0x10, 0x11, 0x20, 0x21, 0x22, 0x23]

/-- The SEQ or alive counter under which a message's check verifies, by the receiver's own expectation (R359, R363): the next
SEQ, or any alive counter; DEST is the message's OFFSET. -/
def calSeq (c : Check) (port seqRx : Nat) (msg check : List Byte) : Option Nat :=
  let type := leAt msg 0 1
  let fits := fun seq =>
    leBytes (c.width / 8) (c.of (foldPrefix (leAt msg 16 8) seq (calSite port) (aliveType type) ++ msg)) == check
  if aliveType type then (List.range 16).find? fits else if fits seqRx then some seqRx else none

/-- Open what arrived at a port: the message counter of the IV is the next one, or that of the last message, which a repeat
still carries (R363, R414). Answers the message with its check when its tag verifies. -/
def CalPort.openWire (c : CalPort) (port : Nat) (key wire : List Byte) : Option (List Byte) :=
  [c.ctrIn, c.ctrIn - 1].findSome? fun n =>
    let k := wire.length - 16
    gcmOpen key (calIv port (1 - c.dir) n) [] (wire.take k) (wire.drop k)

/-- What a port hears where the bytes that arrived are given: the header and the body that the receiver finds in them, a
header that fails where the tag or the check does; none where the message is not of the row's TYPE (R359, R381, R414). -/
def State.heard (s : State) (h : CalHdr) (type : Nat) : Option (CalHdr × Option (List Byte)) :=
  match h.wire with
  | none => some (h, none)
  | some w =>
    let c := s.twin.port h.port
    let site := s.site (calSite h.port)
    let chk := Check.ofCode site.active
    match c.keyIn.bind fun key => c.openWire h.port key w with
    | none => some ({ port := h.port, ok := false }, some [])
    | some b =>
      let n := b.length - chk.width / 8
      let msg := b.take n
      match (if 24 ≤ n ∧ leAt msg 4 4 = n - 24 then calSeq chk h.port site.seqRx msg (b.drop n) else none) with
      | none => some ({ port := h.port, ok := false }, some [])
      | some seq =>
        let t := leAt msg 0 1
        if knownTypes.contains t && t != type then none
        else some ({ port := h.port, attempt := leAt msg 1 1, step := leAt msg 8 8, offset := leAt msg 16 8, seq := seq
                     typed := knownTypes.contains t }, some (msg.drop 24))

/-- A calender message fails its check: counted and asked for again, a sequenced one from its SEQ on. The eighth failed
replay of one message takes the port down; it is retired when its retraining fails or when this is the second such fault
within 24 h, with an entry of the repair log (R362, R366, R370). -/
def State.calFailed (s : State) (p : Nat) (aliveMode : Bool) : State :=
  let f := calSite p
  let x := s.site f
  let c := s.twin.port p
  let n := (if aliveMode then c.aliveFails else x.fails) + 1
  let m := if n < 9 then n else 0
  let s := s.setSite f { x with
    chkFail := satAdd 32 x.chkFail 1, replays := satAdd 32 x.replays 1
    fails := if aliveMode then x.fails else m, lacks := if aliveMode then x.lacks else some x.seqRx }
  let s := { s with twin := s.twin.setPort p { c with aliveFails := if aliveMode then m else c.aliveFails } }
  let s := (s.bump (pgSite f) 0x31 1).bump (pgSite f) 0x32 1
  if n < 9 then s
  else
    let s := s.recordFault (pgSite f) fLINK_REPLAY_FAIL 0
    let (again, s) := s.recurs (fLINK_REPLAY_FAIL * 2 ^ 32 + 2 ^ 20 + f)
    let (pass, s) := s.retrains
    let bad := again || !pass
    let s := if bad then s.logRepair fCALENDER_DEGRADED 2 0x11 f else s
    s.calDown p bad

/-- A message of a port was opened: its direction's counter goes on (R414). -/
def State.opened (s : State) (p : Nat) : State :=
  { s with twin := s.twin.setPort p { s.twin.port p with ctrIn := (s.twin.port p).ctrIn + 1 } }

/-- A message of an undefined TYPE is dropped and counted in CHK_FAIL (R381). -/
def State.untyped (s : State) (p : Nat) : State :=
  let f := calSite p
  let x := s.site f
  (s.setSite f { x with chkFail := satAdd 32 x.chkFail 1 }).opened p

/-- An alive-counter message with a body of `n` bytes: dropped when the port has no session, failed when its check fails, a
duplicate when its counter is the last one's. -/
def State.alive (s : State) (h : CalHdr) (n : Nat) (k : State → State) : State :=
  if (s.twin.port h.port).keyIn.isNone then s
  else
    let s := s.calUnits h.port n
    let c := s.twin.port h.port
    if !h.ok then s.calFailed h.port true
    else if !h.typed then (s.untyped h.port).rekey h.port
    else if c.aliveIn = some (h.seq % 16) then s
    else
      let s := { s with twin := s.twin.setPort h.port { c with aliveIn := some (h.seq % 16), aliveFails := 0 } }
      (k (s.opened h.port)).rekey h.port

/-- A sequenced message with a body of `n` bytes: its SEQ is part of the check's prefix (R359). -/
def State.sequenced (s : State) (h : CalHdr) (n : Nat) (k : State → State) : State :=
  if !(s.twin.port h.port).up then s
  else
    let s := s.calUnits h.port n
    let f := calSite h.port
    let x := s.site f
    if h.ok && !h.typed then (s.untyped h.port).rekey h.port
    else if !h.ok || h.seq != x.seqRx then s.calFailed h.port false
    else
      let s := s.setSite f { x with seqRx := (x.seqRx + 1) % 2 ^ 32, fails := 0, lacks := none }
      (k (s.opened h.port)).rekey h.port

/-! Key exchange (R413) -/

/-- The serial number in an identity certificate. -/
def certSerial (c : List Byte) : Nat := leAt c 0 16
/-- The identity public key in an identity certificate. -/
def certKey (c : List Byte) : List Byte := bytesAt c 16 1793

/-- Both certificates verify to the device authority. -/
def certsOk (f : Kx0Frame) : Bool :=
  Config.falconVerify Config.authorityKey (bytesAt f.idCert 0 1809) (bytesAt f.idCert 1809 1280) &&
  Config.falconVerify (certKey f.idCert) (bytesAt f.kemCert 0 1584) (bytesAt f.kemCert 1584 1280)

/-- The bytes of a KX0 frame. -/
def kx0Bytes (f : Kx0Frame) : List Byte := f.idCert ++ f.kemCert ++ leBytes 4 f.secState.toNat ++ f.ownerHash

/-- The KX0 frame that the module forms at a link-up. -/
def State.newKx0 (s : State) : Kx0Frame where
  idCert := s.idCert
  kemCert := s.kemCert
  secState := BitVec.ofNat 32 s.secState
  ownerHash := s.sec.ownerHash

/-- The KX0 frame that a port sent at its link-up. -/
def State.myKx0 (s : State) (p : Nat) : Kx0Frame := (s.twin.port p).myKx0.getD s.newKx0

/-- The failing check of a peer's KX0, 1 to 3. -/
def State.kx0Fault (s : State) (f : Kx0Frame) : Option Nat :=
  if !certsOk f then some 1
  else if f.ownerHash ≠ s.sec.ownerHash then some 2
  else if f.secState.getLsbD 0 != s.sec.isSealed then some 3
  else none

/-- The exchange of a port failed: it stays down (R413). -/
def State.kxFail (s : State) (p info : Nat) : State :=
  let s := { s with twin := s.twin.setPort p { s.twin.port p with
    myKx0 := none, peer := none, myKx1 := none, keyOut := none, keyIn := none, hello := none } }
  s.recordFault (pgSite (calSite p)) fCALENDER_DEGRADED info

/-- A down port may train: neither up nor retired, and not resting in P4; a module that scrubs after a tamper event takes no
frames (R418). -/
def State.mayTrain (s : State) (p : Nat) : Bool :=
  !(s.twin.port p).up && !(s.twin.port p).retired && s.power.pstate != 4 && s.ident.ready && !s.sec.scrubBusy

/-- Rank of this member against a peer's serial (R383): the lower serial holds rank 0. -/
def State.rankTo (s : State) (serial : Nat) : Nat := if s.ident.serial < serial then 0 else 1

/-- What a KX1 signature covers: both KX0 frames, rank 0's first, and the ciphertext. -/
def State.kx1Text (s : State) (p : Nat) (peer : Kx0Frame) (ct : List Byte) : List Byte :=
  let a := kx0Bytes (s.myKx0 p)
  let b := kx0Bytes peer
  (if s.rankTo (certSerial peer.idCert) = 0 then a ++ b else b ++ a) ++ ct

/-- A peer's KX0 arrives at link-up; a good one is answered by KX1. A port whose own KX0 has not gone out sends it first. -/
def execKx0 (port : Nat) (f : Kx0Frame) (s : State) : Out :=
  if !calOk port then .fault .noSuchUnit
  else if !s.mayTrain port || (s.twin.port port).keyIn.isSome then .next s
  else match s.kx0Fault f with
    | some n => .next (s.kxFail port n)
    | none =>
      let c := s.twin.port port
      let s := { s with twin := s.twin.setPort port { c with myKx0 := some (s.myKx0 port) } }
      let n := s.sec.drawn
      let ct := (Config.kemEncap (bytesAt f.kemCert 16 1568) n).1
      let sig := bytesAt (Config.falconSign (s.kx1Text port f ct) (n + 1)) 0 1280
      .next { s with
        sec := { s.sec with drawn := n + 2 }
        twin := s.twin.setPort port { s.twin.port port with peer := some f, myKx1 := some ⟨ct, sig⟩, encap := n } }

/-- The two session keys: rank 0 to rank 1, and the opposite direction. -/
def State.sessionKeys (s : State) (p : Nat) (peer : Kx0Frame) (mine : Kx1Frame) (n : Nat) (theirs : Kx1Frame) :
    List Byte × List Byte :=
  let r := s.rankTo (certSerial peer.idCert)
  let own := (Config.kemEncap (bytesAt peer.kemCert 16 1568) n).2
  let got := Config.kemDecap theirs.ct
  let pick := fun (a b : List Byte) => if r = 0 then a ++ b else b ++ a
  let frames := pick (kx0Bytes (s.myKx0 p)) (kx0Bytes peer) ++ pick (mine.ct ++ mine.sig) (theirs.ct ++ theirs.sig)
  let k := shake256 (pick own got ++ measure frames) 64
  (bytesAt k 0 32, bytesAt k 32 32)

/-- Role of a HELLO: 2 for a joiner, 0 in lockstep, else 1 (R382). -/
def State.role (s : State) : Nat :=
  if s.twin.st = 1 then 0
  else if s.twin.st = 4 then 2
  else match s.run with
    | some r => if r.op = 0x0A then 2 else 1
    | none => 1

/-- The body of this member's HELLO. -/
def State.helloBody (s : State) (p role : Nat) : List Byte :=
  leBytes 2 s.twin.compat ++ leBytes 1 (s.site (calSite p)).chkSel ++ leBytes 1 role ++ leBytes 8 s.train.committed ++
  bytesAt s.twin.lastWm 0 32 ++ s.measurement 0

/-- Send HELLO on a port; with the message counter run out, the exchange is repeated (R414). -/
def State.sendHello (s : State) (p role : Nat) : State := (s.sendAlive p 1 (s.helloBody p role)).rekey p

/-- A peer's KX1 arrives: a good one completes the exchange, and HELLO follows at once. -/
def execKx1 (port : Nat) (f : Kx1Frame) (s : State) : Out :=
  if !calOk port then .fault .noSuchUnit
  else
    let c := s.twin.port port
    match c.peer, c.myKx1 with
    | some peer, some mine =>
      if c.up || c.keyIn.isSome || s.sec.scrubBusy then .next s
      else if !Config.falconVerify (certKey peer.idCert) (s.kx1Text port peer f.ct) f.sig then .next (s.kxFail port 4)
      else
        let k := s.sessionKeys port peer mine c.encap f
        let r := s.rankTo (certSerial peer.idCert)
        let s := { s with twin := s.twin.setPort port { c with
          keyOut := some (if r = 0 then k.1 else k.2), keyIn := some (if r = 0 then k.2 else k.1)
          ctrOut := 0, ctrIn := 0, dir := r, aliveIn := none, aliveFails := 0 } }
        .next (s.sendHello port s.role)
    | _, _ => .next s

/-! Joining (R385, R386) -/

/-- The reason for which a join is refused, lowest code first, from the partner's HELLO (R386). -/
def State.joinRefusal (s : State) (p : Nat) (b : HelloBody) : Option Nat :=
  let loaded := !allZero b.measurement
  if loaded && bytesAt b.measurement 0 64 != s.measurement 0 then some 1
  else if b.compat ≠ s.twin.compat then some 2
  else if b.chkSel ≠ (s.site (calSite p)).chkSel then some 3
  else if s.twin.partnerState = 3 then some 4
  else if !loaded then some 6
  else if s.twin.partnerState = 2 then some 7
  else none

/-- Both members have the same committed step with equal watermarks (R385). -/
def State.sameCommit (s : State) (b : HelloBody) : Bool :=
  b.committed == s.train.committed && bytesAt b.wmark 0 32 == bytesAt s.twin.lastWm 0 32

/-- Lockstep begins or resumes at a step; a TWIN_JOIN that runs ends. -/
def State.lockstep (s : State) (first : Nat) : State :=
  let s := { s with twin := { s.twin.clear with join := none, ignoreLeave := false }
                    train := { s.train with held := false } }.setTwin 1
  match s.run with
  | some r => if r.op = 0x0A then s.endWith 0 first 0 else s
  | none => s

/-- Lockstep resumes with no copy (R385). A member that has the next step in phase 2 sends that step's WATERMARK, which
its partner compares when its own attempt seals (log entry 32). -/
def State.resume (s : State) : State :=
  let s := s.lockstep (s.train.committed + 1)
  match s.train.ph2 with
  | some x => s.sendSeq 0x10 x.attempt x.step 0 x.wmark
  | none => s

/-- The joiner learns of its holder from a HELLO: it is refused, lockstep resumes, or the copy begins and its own
training state is discarded. -/
def State.joinAnswer (s : State) (p : Nat) (b : HelloBody) : State :=
  match s.joinRefusal p b with
  | some c => s.joinFails fPAIR_DIVERGENCE c
  | none =>
    let s := { s with train := { s.train with ph1 := none, sealedStep := none, held := false } }
    if s.sameCommit b then s.resume
    else
      { s with
        train := { s.train with ph2 := none }
        twin := { s.twin with join := some { joiner := true }, ignoreLeave := false } }.setTwin 4

/-- A joiner asks this member to be its holder: in simplex or unpaired, with the same program and no rejoin in progress
(R385, R386). The answer is a HELLO of role 1. A TWIN_JOIN of this member's own that runs too ends when the join is refused. -/
def State.holdFor (s : State) (p : Nat) (b : HelloBody) : State :=
  let running := match s.run with
    | some r => r.op == 0x0A
    | none => false
  if running && s.twin.rank != 0 then s
  else
    let free := (s.twin.st = 0 ∨ s.twin.st = 2) ∧ s.twin.join.isNone
    match s.trainImage with
    | none => s.sendHello p s.role
    | some i =>
      if free ∧ (s.joinRefusal p b).isNone then
        let same := s.sameCommit b
        let s := s.sendHello p 1
        if same then s.resume
        else { s with twin := { s.twin with join := some { joiner := false, todo := i.copyRegions }
                                            ignoreLeave := false, copyRound := 0, copyLeft := 0 } }.setTwin 3
      else
        let s := match s.joinRefusal p b with
          | some c => if running ∧ c ≠ 7 then s.joinFails fPAIR_DIVERGENCE c else s
          | none => s
        s.sendHello p s.role

/-- A HELLO decides what joins: a TWIN_JOIN that runs takes an answer of a member that is no joiner, and a joiner's
HELLO is answered. -/
def State.helloJoins (s : State) (p : Nat) (b : HelloBody) : State :=
  let joining := match s.run with
    | some r => r.op == 0x0A && r.begun && s.twin.join.isNone && s.twin.st != 1
    | none => false
  if b.role = 2 then s.holdFor p b
  else if joining then s.joinAnswer p b
  else s

/-- The body of a HELLO (R382). -/
def parseHello (b : List Byte) : HelloBody where
  compat := leAt b 0 2
  chkSel := leAt b 2 1
  role := leAt b 3 1
  committed := leAt b 4 8
  wmark := bytesAt b 12 32
  measurement := bytesAt b 44 64

/-- A HELLO arrives. On a down port with a session it brings the port up, when the check selections agree and the peer is
another module (R360, R383, R386); on a port that is up it also wakes the module (R470). -/
def execHello (h : CalHdr) (b : HelloBody) (s : State) : Out :=
  if !calOk h.port then .fault .noSuchUnit
  else match s.heard h 0x01 with
  | none => .next s
  | some (h, body) =>
  let b := (body.map parseHello).getD b
  .next (s.alive h 108 fun s =>
    let p := h.port
    let c := s.twin.port p
    let serial := match c.peer with
      | some f => certSerial f.idCert
      | none => 0
    if c.up then
      ({ s with twin := s.twin.setPort p { c with hello := some b } }.wake).helloJoins p b
    else
      let f := calSite p
      let s := { s with twin := s.twin.setPort p { c with hello := some b } }
      if serial = s.ident.serial then s.recordFault (pgSite f) fCALENDER_DEGRADED 0
      else if b.chkSel ≠ (s.site f).chkSel then
        let s := s.recordFault (pgSite f) fCALENDER_DEGRADED 0
        match s.run with
        | some r => if r.op = 0x0A ∧ r.begun ∧ s.twin.join.isNone ∧ s.twin.upPorts.isEmpty then s.joinAnswer p b else s
        | none => s
      else
        let key := match c.peer with
          | some f => certKey f.idCert
          | none => []
        let s := s.setSite f { s.site f with active := (s.site f).chkSel, seqTx := 0, seqRx := 0, fails := 0, lacks := none }
        let s := { s with twin := { s.twin.setPort p { c with hello := some b, up := true } with
          partner := serial, partnerKey := key, rank := s.rankTo serial } }
        s.helloJoins p b)

/-- A down port tries again after 100 ms (R383): HELLO once more while the peer's has not come, otherwise from link
training on, whose end sends a KX0 frame (R413). -/
def execHelloRetry (port : Nat) (s : State) : Out :=
  if !calOk port then .fault .noSuchUnit
  else if !s.mayTrain port then .next s
  else
    let c := s.twin.port port
    if c.keyOut.isSome && c.hello.isNone then .next (s.sendHello port s.role)
    else .next { s with twin := s.twin.setPort port { c with
      myKx0 := some s.newKx0, peer := none, myKx1 := none, keyOut := none, keyIn := none, hello := none, aliveIn := none
      aliveFails := 0 } }

/-- No valid message for 8 ms: the port is down (R383). With the last port the member continues in simplex, where a replica
may dissent from the vote on entering phase 2 (R22, R384). -/
def execCalenderPortDown (port : Nat) (s : State) (dissent : Option Replica := none) : Out :=
  if !calOk port then .fault .noSuchUnit
  else if !(s.twin.port port).up then .next s
  else .next (s.calDown port false dissent)

/-! Heartbeats, leaving (R380, R382, R384, R390) -/

/-- A HEARTBEAT arrives. -/
def execHeartbeat (h : CalHdr) (state phase1 committed : Nat) (s : State) : Out :=
  if !calOk h.port then .fault .noSuchUnit
  else match s.heard h 0x02 with
  | none => .next s
  | some (h, body) =>
  let field := fun off n x => (body.map fun b => leAt b off n).getD x
  .next (s.alive h 17 fun s => { s with twin := { s.twin with
    partnerState := field 0 1 state, partnerPh1 := field 1 8 phase1, partnerCommitted := field 9 8 committed } })

/-- Every millisecond a HEARTBEAT goes out on each port that is up; with no step in phase 1 its number is a free value. -/
def execHeartbeatSend (s : State) : Out :=
  let n := match s.train.ph1 with
    | some a => a.step
    | none => (Config.freeWord s.free).toNat
  let body := leBytes 1 s.twin.beatState ++ leBytes 8 n ++ leBytes 8 s.train.committed
  let s := { s with free := s.free + 1 }.sendAliveAll 2 body
  .next ((List.range 4).foldl State.rekey s)

/-- A member leaves after two LEAVE messages crossed: its step is discarded and RUN_STEPS ends with PARTNER_LOST. -/
def State.leaves (s : State) : State :=
  let s := (s.discard 0).stopQueries
  let s := { s with twin := { s.twin.clear with join := none, probe := none }
                    train := { s.train with ph1 := none, sealedStep := none, running := false, held := false } }
  let s := (s.recordFault pgTwin fPARTNER_LOST 0).setTwin 0
  match s.run with
  | some r => if r.op = 4 then
      (if s.train.ph2.isSome then { s with train := { s.train with ending := some fPARTNER_LOST } }
       else s.endCommand fPARTNER_LOST) else s
  | none => s

/-- A LEAVE arrives, whatever its reason. -/
def execLeave (h : CalHdr) (_reason : Nat) (s : State) (dissent : Option Replica := none) : Out :=
  if !calOk h.port then .fault .noSuchUnit
  else match s.heard h 0x03 with
  | none => .next s
  | some (h, _) => .next (s.alive h 2 fun s =>
    if s.twin.ignoreLeave then s
    else if s.twin.leaveWait then (if s.twin.rank = 0 then s.toSimplex dissent else s.leaves)
    else s.partnerLost dissent)

/-- The partner's WATERMARK of a sealed step has not come within 60 s: LEAVE, and a wait of 10 ms (R384). -/
def execWatermarkTimeout (s : State) : Out :=
  match s.train.sealedStep with
  | none => .next s
  | some x =>
    let got := match s.twin.theirs with
      | some (n, _) => n == x.step
      | none => false
    let digests := s.twin.own2.isSome && s.twin.probe.isNone
    if s.twin.st != 1 || got || digests || s.twin.upPorts.isEmpty || s.twin.leaveWait then .next s
    else
      let s := s.sendLeave fPARTNER_LOST
      -- the message counters of the ports may have run out with it
      if s.twin.upPorts.isEmpty then .next s.partnerLost
      else .next { s with twin := { s.twin with leaveWait := true } }

/-- The wait ends: the member continues in simplex and ignores a LEAVE that comes later. -/
def execLeaveWaitEnd (s : State) (dissent : Option Replica := none) : Out :=
  if !s.twin.leaveWait then .next s
  else
    let s := s.toSimplex dissent
    .next { s with twin := { s.twin with ignoreLeave := true } }

/-! Comparing (R375, R376) -/

/-- A WATERMARK arrives; a replica may dissent from the vote on entering phase 2 (R22). -/
def execWatermark (h : CalHdr) (w : List Byte) (s : State) (dissent : Option Replica := none) : Out :=
  if !calOk h.port then .fault .noSuchUnit
  else match s.heard h 0x10 with
  | none => .next s
  | some (h, body) =>
  let w := body.getD w
  .next (s.sequenced h 32 fun s =>
    if s.twin.st ≠ 1 then s
    else { s with twin := { s.twin with theirs := some (h.step, bytesAt w 0 32) } }.compare dissent)

/-- A DIGEST arrives: a piece of the partner's digest log or seal record. -/
def execDigest (h : CalHdr) (body : List Byte) (s : State) : Out :=
  if !calOk h.port then .fault .noSuchUnit
  else match s.heard h 0x11 with
  | none => .next s
  | some (h, got) =>
  let body := got.getD body
  .next (s.sequenced h body.length fun s =>
    let t := s.twin
    if t.st ≠ 1 then s
    else
      let t := if h.offset < 2 ^ 40 then
          { t with dlog := sputs 0 t.dlog h.offset body, dlogGot := t.dlogGot + body.length }
        else { t with drec := sputs 0 t.drec (h.offset - 2 ^ 40) body, drecGot := t.drecGot + body.length }
      { s with twin := t }.chooseSuspect)

/-! The joiner's side of a moving copy (R387 to R389) -/

/-- The couch area is initialised for a committed step (R321). -/
def State.initCouch (s : State) (i : Image) (n : Nat) : State :=
  let fill := fun (m : Mem) (a k v : Nat) =>
    if v % 256 = 0 then sclear m a (a + k)
    else m.filter (fun c => decide (c.1 < a)) ++ (List.range k).map (fun j => (a + j, BitVec.ofNat 8 v)) ++
      m.filter (fun c => decide (a + k ≤ c.1))
  let m := s.vats.mem
  let m := { m with errs := m.errs.filter (fun e => !wordIn e.1 (i.couch + 0x80000, 0x2800000))
                    due := m.due.filter fun w => !wordIn w (i.couch + 0x80000, 0x2800000)
                    cells := fill (fill m.cells (i.couch + 0x80000) 0x800000 0) (i.couch + 0x880000) 0x2000000 n }
  let s := { s with vats := { s.vats with mem := m }
                    sec := { s.sec with taintVat := taint s.sec.taintVat (i.couch + 0x80000) 0x2800000 } }
  s.vatStore i.couch (leBytes 8 n ++ leBytes 8 noStep ++ leBytes 8 noStep)

/-- A coefficient record of a STEPLOG (log entry 21). -/
def parseSeal (b st : List Byte) : LayerSeal where
  skip := leAt b 40 1 == 1
  lr := leAt b 0 4
  wd := leAt b 4 4
  b1 := leAt b 8 4
  omb1 := leAt b 12 4
  b2 := leAt b 16 4
  omb2 := leAt b 20 4
  eps := leAt b 24 4
  c1 := leAt b 28 4
  c2 := leAt b 32 4
  k := sx 16 (leAt b 36 2)
  dk := sx 16 (leAt b 38 2)
  state := st

/-- Length of the log part of one layer in a STEPLOG. -/
def logLen (l : LayerImage) : Nat := 64 * l.blocks + 256 * l.chunks

/-- Length of a step's STEPLOG. -/
def stepLogLen (i : Image) : Nat := i.layers.foldl (fun n l => n + logLen l) 0 + 105 * i.layers.length

/-- The joiner puts the log of a forwarded step in its place. -/
def State.putLog (s : State) (i : Image) (bs : List Byte) : State :=
  (i.layers.foldl (fun (a : State × Nat) l =>
    let s := a.1.phase2Write l.logb (bytesAt bs a.2 (64 * l.blocks))
    let s := s.phase2Write l.logr (bytesAt bs (a.2 + 64 * l.blocks) (128 * l.chunks))
    let o := a.2 + 64 * l.blocks + 128 * l.chunks
    ((List.range l.chunks).foldl (fun s c =>
      s.phase2Write (i.region (l.chunk0 + c) + 0x6000) (bytesAt bs (o + 128 * c) 128)) s, a.2 + logLen l)) (s, 0)).1

/-- Phase 2 of a forwarded step for one chunk: done when every region that the chunk touches stands at its version and
the layer is not skipped (R387). -/
def State.forwardChunk (s : State) (i : Image) (n : Nat) (j : JoinState) (sealOf : Nat → LayerSeal) (g : Nat) : State :=
  match i.layerOf g with
  | none => s
  | some (k, l, c) =>
    if j.mayUpdate i n g && !(sealOf k).skip then
      s.phase2Read (chunkRanges i l c) fun s =>
        s.putPieces (homeOf (chunkPieces i l c)) (chunkState s.vats.mem i l c n (sealOf k))
    else s

/-- The joiner applies phase 2 of step `n` to every chunk whose regions stand at `n` − 1, which then stand at `n`; a region
of a chunk that it could not update is stale (R388). -/
def State.applyForwarded (s : State) (i : Image) (n : Nat) (bs : List Byte) (j : JoinState) : State :=
  let s := s.putLog i bs
  let base := i.layers.foldl (fun n l => n + logLen l) 0
  let sealOf := fun k => parseSeal (bytesAt bs (base + 41 * k) 41) (bytesAt bs (base + 41 * i.layers.length + 64 * k) 64)
  let s := (List.range i.chunkCount).foldl (fun s g => s.forwardChunk i n j sealOf g) s
  let s := (List.range i.layers.length).foldl (fun s k => s.phase2Write (i.layerTable + 128 * k + 64) (sealOf k).state) s
  s.modJoin fun _ => { j.forwarded i n with log := [] }

/-- A REGION arrives: it stands at its version (R387). -/
def execRegion (h : CalHdr) (body : List Byte) (s : State) : Out :=
  if !calOk h.port then .fault .noSuchUnit
  else match s.heard h 0x20 with
  | none => .next s
  | some (h, got) =>
  let body := got.getD body
  .next (s.sequenced h body.length fun s =>
    match s.twin.join with
    | some _ =>
      if s.twin.st ≠ 4 ∨ 1048576 < body.length ∨ s.vats.vatEnd < h.offset + body.length then s
      else
        let r := h.offset / 1048576
        let s := s.vatStore h.offset body
        s.modJoin fun j => j.stands r h.step
    | none => s)

/-- A STEPLOG piece arrives; with the whole stream of the step the joiner applies it (R387, R388). -/
def execSteplog (h : CalHdr) (body : List Byte) (s : State) : Out :=
  if !calOk h.port then .fault .noSuchUnit
  else match s.heard h 0x21 with
  | none => .next s
  | some (h, got) =>
  let body := got.getD body
  .next (s.sequenced h body.length fun s =>
    match s.twin.join, s.trainImage with
    | some j, some i =>
      if s.twin.st ≠ 4 then s
      else
        let j := { j with log := j.log ++ [(h.offset, body)] }
        let got := j.log.foldl (fun n p => n + p.2.length) 0
        if got < stepLogLen i then { s with twin := { s.twin with join := some j } }
        else
          let m := j.log.foldl (fun (m : Mem) p => sputs 0 m p.1 p.2) []
          s.applyForwarded i h.step (sgets 0 m 0 (stepLogLen i)) j
    | _, _ => s)

/-- A ROUND_END arrives. -/
def execRoundEnd (h : CalHdr) (round left : Nat) (s : State) : Out :=
  if !calOk h.port then .fault .noSuchUnit
  else match s.heard h 0x22 with
  | none => .next s
  | some (h, body) =>
  let round := (body.map fun b => leAt b 0 4).getD round
  let left := (body.map fun b => leAt b 4 4).getD left
  .next (s.sequenced h 8 fun s =>
    match s.twin.join with
    | some j =>
      if s.twin.st ≠ 4 then s
      else { s with twin := { s.twin with
        copyRound := round % 2 ^ 32, copyLeft := left % 2 ^ 32, join := some { j with round := round, left := left } } }
    | none => s)

/-- A SWITCH arrives: the joiner's couch is initialised, lockstep begins at the named step, and TWIN_JOIN ends (R389). -/
def execSwitch (h : CalHdr) (first : Nat) (s : State) : Out :=
  if !calOk h.port then .fault .noSuchUnit
  else match s.heard h 0x23 with
  | none => .next s
  | some (h, body) =>
  let first := (body.map fun b => leAt b 0 8).getD first
  .next (s.sequenced h 8 fun s =>
    match s.trainImage with
    | some i =>
      if s.twin.st ≠ 4 then s
      else
        let s := s.initCouch i (first - 1)
        { s with train := { s.train with committed := first - 1, invalid := none } }.lockstep first
    | none => s)

/-- TWIN_JOIN's 10 s end without a port that is up (R386 code 8). -/
def execJoinTimeout (s : State) : Out :=
  match s.run with
  | some r =>
    if r.op = 0x0A ∧ r.begun ∧ s.twin.join.isNone ∧ s.twin.upPorts.isEmpty then .next (s.joinFails fPARTNER_LOST 8) else .next s
  | none => .next s

/-! The commands -/

/-- TWIN_JOIN begins (R385, R386): refused without a training program, and while this member holds a copy, whose joiner the
partner is (code 7); done at once in lockstep; otherwise HELLO with the joiner's role goes out on every port that is up. -/
def State.twinJoin (s : State) : State :=
  if s.trainImage.isNone then s.joinFails fDESC_INVALID 5
  else if s.twin.st = 1 then
    s.endWith 0 (match s.train.sealedStep with
      | some x => x.step + 1
      | none => s.nextStep) 0
  else if s.twin.st = 3 then (s.recordFault pgTwin fPAIR_DIVERGENCE 7).endJoin fPAIR_DIVERGENCE
  else s.twin.upPorts.foldl (fun s p => s.sendHello p 2) s

/-- TWIN_LEAVE (R380, R390): the step in flight is discarded and LEAVE is sent; the holder of a copy goes on in simplex. A
member that leaves in divergence is the one rejected: its training program is idle until TWIN_JOIN. -/
def State.twinLeave (s : State) : State :=
  if s.twin.st = 3 then
    let s := s.sendLeave 0
    ({ s with twin := { s.twin with join := none } }.setTwin 2).endWith 0 0 0
  else if s.paired then
    let s := s.discard 0
    ({ s with train := { s.train with ph1 := none, sealedStep := none, held := s.twin.st == 5 } }.leavePair 0).endWith 0 0 0
  else s.endWith 0 0 0

end Sys2Proof.Machine
end

