-- ==== Sys2Proof/Machine/HostCommands.lean ====
section
/-! DEFINITION. CMD_GO and the host commands: acceptance, arguments, the start of each command, LOAD_PROGRAM, exports and
imports, RESET_COMPUTE, SCRUB, the abort (R402 to R405, R407, R437 to R442, R470, R477). -/

namespace Sys2Proof.Machine

/-! LOAD_PROGRAM (R228, R304, R321, R352, R441) -/

/-- Write the initial sizing content of the image for the entries of one chunk, and its notes as 0 (R352). -/
def State.loadChunk (s : State) (i : Image) (l : LayerImage) (c : Nat) : State :=
  let n := min 65536 (l.npar - 65536 * c)
  let o := 0x7000 * (l.chunk0 + c)
  let put := fun (s : State) (off len : Nat) => s.vatStore (i.sizb + o + off) (sgets 0 i.sizing (o + off) len)
  (put (put s 0 (8 * cdiv n 64)) 0x2000 (8 * cdiv n 32)).vatStore (i.sizb + o + 0x6000) (List.replicate 128 0)

/-- The layer table and the sizing table as LOAD_PROGRAM writes them (R302, R304, R352). -/
def State.loadLayers (s : State) (i : Image) : State :=
  (i.layers.zipIdx).foldl (fun s p =>
    let s := s.vatStore (i.layerTable + 128 * p.2) (bytesAt p.1.map 0 64 ++ initialState p.1)
    (List.range p.1.chunks).foldl (fun s c => s.loadChunk i p.1 c) s) s

/-- No watermark exists for a committed step that this member did not seal: a free value (R382). -/
def State.freeMark (s : State) : State :=
  { s with twin := { s.twin with lastWm := freeBytes s.free 32 }, free := s.free + 32 }

/-- LOAD_PROGRAM. -/
def State.loadProgram (s : State) (r : Running) : State :=
  let a := r.page.args
  let slot := a.a0.toNat
  let bound := match s.prog slot with
    | some p => p.bound.isSome
    | none => false
  if bound then s.failCommand fBIND_CONFLICT
  else
    let s := s.dmaTook r.port 1
    let fail := fun (f : LoadFail) => (s.recordFault (pgCmd r.port) f.code 0).endWith f.code f.record 0
    match (s.port r.port).images.find? fun q => q.1 == a.a1.toNat && q.2.raw.length == a.a2.toNat with
    | none => fail { code := fDESC_INVALID, item := 7 }
    | some (_, i) =>
      match i.loadFail (slot == 0) (s.train.doubled || !s.bind.found.vatPorts.isEmpty) s.vats.vatEnd with
      | some f => fail f
      | none =>
        let s := s.setProg slot (some { image := i, measurement := measure i.raw })
        let s := if slot = 0 then
            let n := a.a3.toNat
            ({ s with train := { committed := n, doubled := s.train.doubled } }.loadLayers i).initCouch i n |>.freeMark
          else { s.setQuery slot {} with train := { s.train with invalid := none } }
        s.endWith 0 0 (i.h * 256 + i.w)

/-! EXPORT_SNAPSHOT and IMPORT_STATE (R442) -/

/-- A range lies within one persistent record of the training program. -/
def State.persistentRange (s : State) (a n : Nat) : Bool :=
  match s.trainImage with
  | some i => i.allocs.any fun x => x.vat && x.persistent && within (a, n) (x.base, x.len)
  | none => false

/-- Bytes of host memory that the objects of an export take. -/
def exportSize (n : Nat) : Nat := n + 96 * cdiv n 1048576

/-- Export the pieces of a range from record `k` on: bytes written so far in `out`. -/
def State.exportFrom (s : State) (r : Running) (kek : List Byte) (k out left : Nat) : Nat → State
  | 0 => s.endWith 0 out 0
  | fuel + 1 =>
    if left = 0 then s.endWith 0 out 0
    else
      let a := r.page.args
      let n := min 1048576 left
      let from_ := a.a3.toNat + 1048576 * k
      let s := (s.vatRetry [(from_, n)]).vatReads [(from_, n)]
      match s.vats.mem.bad [(from_, n)] with
      | some w => (s.vatUe w).endWith fVAT_UE out 0
      | none =>
        let s := s.countLines 0x40 (from_, n)
        let s := s.sendObject r.port kek 2 a.a0.toNat k (a.a1.toNat + out) (s.vats.mem.read from_ n)
        s.exportFrom r kek (k + 1) (out + n + 96) (left - n) fuel

/-- EXPORT_SNAPSHOT: the export slot first, then the range and the buffer. -/
def State.exportSnapshot (s : State) (r : Running) : State :=
  let a := r.page.args
  let n := a.a4.toNat
  match s.sec.exportKey a.a0.toNat with
  | .error c => (s.recordFault (pgSite (hostSite r.port)) c 0).endCommand c
  | .ok kek =>
    if n = 0 then s.endWith 0 0 0
    else if !s.persistentRange a.a3.toNat n || decide (a.a2.toNat < exportSize n) then s.failCommand fDESC_RANGE
    else s.exportFrom r kek 0 0 n (n / 1048576 + 1)

/-- Plaintext bytes of the objects of an import. -/
def importSize (total : Nat) : Nat := total - 80 * cdiv total 1048656

/-- IMPORT_STATE fails: its extents are invalid (R402). -/
def State.importFails (s : State) (c out : Nat) : State :=
  { s with train := { s.train with invalid := some c } }.endWith c out 0

/-- Import objects from offset `off` on; plaintext bytes written so far in `out`. -/
def State.importFrom (s : State) (r : Running) (i : Image) (off out : Nat) : Nat → State
  | 0 => s
  | fuel + 1 =>
    let a := r.page.args
    let site := pgSite (hostSite r.port)
    let left := a.a2.toNat - off
    if left = 0 then
      let n := a.a4.toNat
      let s := { s with train := { s.train with committed := n, invalid := none, ph1 := none, ph2 := none
                                                sealedStep := none, held := false } }
      (((s.initCouch i n).freeMark).endWith 0 out 0)
    else
      let len := min 1048656 left
      let s := s.dmaTook r.port 1
      match s.sec.ingress (s.port r.port).mem 1 a.a0.toNat (a.a1.toNat + off) len with
      | .error c => (s.recordFault site c 0).importFails c out
      | .ok (pt, good) =>
        let dest := a.a3.toNat + out
        let part := if (dest + pt.length) % 8 = 0 then [] else [((dest + pt.length) / 8 * 8, 8)]
        let head := if dest % 8 = 0 then [] else [(dest / 8 * 8, 8)]
        let s := s.vatRetry (head ++ part)
        let s := s.vatReads (head ++ part)
        match s.vats.mem.bad (head ++ part) with
        | some w => (s.vatUe w).importFails fVAT_UE out
        | none =>
          let s := s.bump site 0x30 (payloadUnits pt.length)
          let s := (lineParts dest pt).foldl (fun s l => s.lineWrite l.1 [l.2] false) s
          if good then s.importFrom r i (off + len) (out + pt.length) fuel
          else (s.recordFault site fAUTH_TAG_FAIL 0).importFails fAUTH_TAG_FAIL out

/-- IMPORT_STATE. -/
def State.importState (s : State) (r : Running) : State :=
  let a := r.page.args
  let n := importSize a.a2.toNat
  match s.trainImage with
  | none => s.failCommand fDESC_RANGE
  | some i =>
    if n ≠ 0 ∧ !s.persistentRange a.a3.toNat n then s.failCommand fDESC_RANGE
    else s.importFrom r i 0 0 (a.a2.toNat / 1048656 + 2)

/-! RESET_COMPUTE and SCRUB -/

/-- RESET_COMPUTE (R477): a sealed step that a divergence holds stays. -/
def State.resetCompute (s : State) : State :=
  let held := s.train.held
  let ph2 := s.train.ph2
  let x := s.train.sealedStep
  let s := s.stopAll
  let s := { s with
    train := { s.train with ph2 := ph2, held := held, sealedStep := if held then x else none }
    twin := { s.twin with probe := none }
    tiles := [], felt := { s.felt with packets := [], responses := [], unacked := [], conv := [], rounds := [], done := []
                                       next := [], replays := [] } }
  let s := s.reloadTiles.rollForward none
  s.endWith 0 s.train.committed 0

/-- SCRUB: accepted with no program loaded (R417, R440). -/
def State.scrubCommand (s : State) : State :=
  if s.loaded.isEmpty then s.scrub.endWith 0 0 0 else s.failCommand fDESC_INVALID

/-! Runs (R440, R444, R445) -/

/-- Query slots that CMD_FLAGS names. -/
def servedSlots (f : W32) : List Nat := [1, 2, 3].filter fun q => f.getLsbD q

/-- What is wrong with the served slots at start. -/
def State.slotsFault (s : State) (qs : List Nat) : Option Nat :=
  if qs.any fun q => match s.prog q with
    | some p => p.bound.isNone
    | none => true then some fDESC_INVALID
  else if qs.any fun q => match s.prog q with
    | some p => p.stopped
    | none => false then some fPLACEMENT_HOLE
  else none

/-- What is wrong with RUN_STEPS at start. -/
def State.stepsFault (s : State) (r : Running) : Option Nat :=
  let a := r.page.args
  match s.prog 0 with
  | none => some fDESC_INVALID
  | some p =>
    if p.bound.isNone ∨ a.a0.toNat ≠ s.train.committed + 1 ∨ r.page.feedCount.toNat < 2 * p.image.feedE then
      some fDESC_INVALID
    else if r.page.feedBase.toNat % 32 ≠ 0 ∨ r.page.feedFill.toNat % 8 ≠ 0 then some fDESC_RANGE
    else if p.stopped then some fPLACEMENT_HOLE
    else match s.slotsFault (servedSlots a.flags) with
      | some c => some c
      | none => s.train.invalid

/-- Serve query slots. -/
def State.serve (s : State) (qs : List Nat) : State :=
  qs.foldl (fun s q => s.setQuery q { s.query q with served := true }) s

/-- RUN_STEPS starts. -/
def State.runSteps (s : State) (r : Running) : State :=
  match s.stepsFault r with
  | some c => s.failCommand c
  | none =>
    let a := r.page.args
    if a.a1 = 0 then s.endCommand 0
    else
      { s with train := { s.train with
        running := true, last := a.a0.toNat + a.a1.toNat - 1, redos := 0, overrun := false, throttled := false } }.serve
        (servedSlots a.flags)

/-- RUN_QUERY starts. -/
def State.runQuery (s : State) (r : Running) : State :=
  let a := r.page.args
  match s.slotsFault (servedSlots a.flags) with
  | some c => s.failCommand c
  | none => if a.a0 = 0 then s.endCommand 0 else s.serve (servedSlots a.flags)

/-- BIND starts (R440): a program must be in the slot, and its region on the grid. -/
def State.startBind (s : State) (r : Running) : State :=
  let a := r.page.args
  match s.prog a.a0.toNat with
  | none => s.failCommand fDESC_INVALID
  | some p =>
    if 40 < a.a1.toNat + p.image.w ∨ 30 < a.a2.toNat + p.image.h then s.failCommand fDESC_RANGE
    else { s with bind := { s.bind with req := some (.bind a.a0.toNat a.a1.toNat a.a2.toNat) } }

/-! Acceptance and start (R437 to R440, R470) -/

/-- Commands whose CMD_GO wakes the module (R470). -/
def wakes (op : Nat) : Bool := [1, 3, 4, 5, 6, 7, 0xA, 0xC, 0xD].contains op

/-- Commands that move data by DMA before anything else can happen. -/
def needsDma (op : Nat) : Bool := [3, 6, 7, 8, 9].contains op

/-- Flags and arguments in their stated ranges (R440). -/
def argsOk (op : Nat) (a : CmdArgs) : Bool :=
  (if op = 4 ∨ op = 5 then a.flags &&& 0xFFFFFFF1#32 == 0 else a.flags == 0) &&
  match op with
  | 1 => decide (a.a0.toNat < 4) && decide (a.a1.toNat < 40) && decide (a.a2.toNat < 30)
  | 2 => decide (a.a0.toNat < 4)
  | 3 => decide (a.a0.toNat < 4) && decide (1 ≤ a.a2.toNat) && decide (a.a2.toNat ≤ 2 ^ 32)
  | 9 => decide (a.a3.toNat < 8)
  | n => decide (4 ≤ n) && decide (n ≤ 0xD)

/-- The work of a command that begins (R439, R440). -/
def State.doCommand (s : State) (r : Running) : State :=
  match r.op with
  | 1 => s.startBind r
  | 2 => { s with bind := { s.bind with req := some (.unbind r.page.args.a0.toNat) } }
  | 3 => s.loadProgram r
  | 4 => s.runSteps r
  | 5 => s.runQuery r
  | 6 => s.exportSnapshot r
  | 7 => s.importState r
  | 8 => s.keyInstall r
  | 9 => s.attest r
  | 0xA => s.twinJoin
  | 0xB => s.twinLeave
  | 0xC => s.resetCompute
  | _ => s.scrubCommand

/-- The running command begins, once it has been woken and its DMA engine works. -/
def State.advance (s : State) : State :=
  match s.run with
  | none => s
  | some r =>
    if r.begun || !r.woken || (needsDma r.op && !(s.port r.port).dmaUp) then s
    else { s with run := some { r with begun := true } }.doCommand r

/-- The running command no longer waits for a wake, nor for the binding computation that the wake left (R470, R471). -/
def State.woken (s : State) : State :=
  let s := { s with run := s.run.map fun (r : Running) => { r with woken := true } }
  s.advance

/-- A command was accepted by vote: it runs, or ends at once (R437). -/
def State.startCommand (s : State) (p : HPort) : State :=
  let page := (s.port p).cmd
  let r : Running := { op := page.op, port := p, page := page, woken := s.power.pstate = 0 || !wakes page.op }
  let s := { s with run := some r }
  if page.op ≠ 9 ∧ s.cc.restricted.isSome then s.endCommand (s.cc.restricted.getD 0)
  else if page.op ≠ 9 ∧ s.sec.scrubBusy then s.endCommand fTAMPER
  else
    let s := if wakes page.op then s.wake else s
    if argsOk page.op page.args then s.advance else s.failCommand fDESC_INVALID

/-- A write of 1 to CMD_GO by a port on its own page (R432, R437). -/
def State.cmdGo (s : State) (p : HPort) (dissent : Option Replica) : State :=
  if s.lease.owner ≠ p.num + 1 then s.recordFault (pgCmd p) fLEASE_NOT_HELD (0x1148 + 0x1000 * p.num)
  else if s.busyBit then s.recordFault (pgCmd p) fCMD_BUSY 0
  else if s.cc.restricted.isSome then s.startCommand p
  else
    let (ok, s) := s.vote dissent
    if ok then s.startCommand p else s

/-- A port stages a command and writes CMD_GO. -/
def State.hostCommand (s : State) (p : HPort) (op : Nat) (a : CmdArgs) (dissent : Option Replica) : State :=
  if !s.reaches p then s else (s.modCmd p fun c => { c with op := op, args := a }).cmdGo p dissent

/-- BIND; in each of these rows `dissent` is the replica whose decision to accept the command differs (R22). -/
def execBind (p : HPort) (a : CmdArgs) (s : State) (dissent : Option Replica := none) : Out :=
  .next (s.hostCommand p 0x01 a dissent)
/-- UNBIND. -/
def execUnbind (p : HPort) (a : CmdArgs) (s : State) (dissent : Option Replica := none) : Out :=
  .next (s.hostCommand p 0x02 a dissent)
/-- LOAD_PROGRAM. -/
def execLoadProgram (p : HPort) (a : CmdArgs) (s : State) (dissent : Option Replica := none) : Out :=
  .next (s.hostCommand p 0x03 a dissent)
/-- RUN_STEPS. -/
def execRunSteps (p : HPort) (a : CmdArgs) (dissent : Option Replica) (s : State) : Out :=
  .next (s.hostCommand p 0x04 a dissent)
/-- RUN_QUERY. -/
def execRunQuery (p : HPort) (a : CmdArgs) (s : State) (dissent : Option Replica := none) : Out :=
  .next (s.hostCommand p 0x05 a dissent)
/-- EXPORT_SNAPSHOT. -/
def execExportSnapshot (p : HPort) (a : CmdArgs) (s : State) (dissent : Option Replica := none) : Out :=
  .next (s.hostCommand p 0x06 a dissent)
/-- IMPORT_STATE. -/
def execImportState (p : HPort) (a : CmdArgs) (s : State) (dissent : Option Replica := none) : Out :=
  .next (s.hostCommand p 0x07 a dissent)
/-- ATTEST. -/
def execAttest (p : HPort) (a : CmdArgs) (s : State) (dissent : Option Replica := none) : Out :=
  .next (s.hostCommand p 0x09 a dissent)
/-- TWIN_JOIN. -/
def execTwinJoin (p : HPort) (a : CmdArgs) (s : State) (dissent : Option Replica := none) : Out :=
  .next (s.hostCommand p 0x0A a dissent)
/-- TWIN_LEAVE. -/
def execTwinLeave (p : HPort) (a : CmdArgs) (s : State) (dissent : Option Replica := none) : Out :=
  .next (s.hostCommand p 0x0B a dissent)
/-- RESET_COMPUTE. -/
def execResetCompute (p : HPort) (a : CmdArgs) (s : State) (dissent : Option Replica := none) : Out :=
  .next (s.hostCommand p 0x0C a dissent)
/-- SCRUB. -/
def execScrub (p : HPort) (a : CmdArgs) (s : State) (dissent : Option Replica := none) : Out :=
  .next (s.hostCommand p 0x0D a dissent)

/-! KEY_INSTALL, one row for each OP of a package (R403, R404) -/

/-- KEY_INSTALL of a package of one OP; a package of another row's OP changes nothing (log entry 13), one of no OP is
refused with DESC_INVALID. -/
def State.keyRow (s : State) (p : HPort) (op : Nat) (a : CmdArgs) (dissent : Option Replica) : State :=
  let k := leNat (memRead (s.port p).mem a.a0.toNat 2)
  if k ≠ op ∧ 1 ≤ k ∧ k ≤ 6 then s else s.hostCommand p 0x08 a dissent

/-- OWNER_SET. -/
def execOwnerSet (p : HPort) (a : CmdArgs) (s : State) (dissent : Option Replica := none) : Out :=
  .next (s.keyRow p 1 a dissent)
/-- SLOT_LOAD. -/
def execSlotLoad (p : HPort) (a : CmdArgs) (s : State) (dissent : Option Replica := none) : Out :=
  .next (s.keyRow p 2 a dissent)
/-- SLOT_CLEAR. -/
def execSlotClear (p : HPort) (a : CmdArgs) (s : State) (dissent : Option Replica := none) : Out :=
  .next (s.keyRow p 3 a dissent)
/-- ZEROIZE. -/
def execZeroize (p : HPort) (a : CmdArgs) (s : State) (dissent : Option Replica := none) : Out :=
  .next (s.keyRow p 4 a dissent)
/-- UNSEAL. -/
def execUnsealMode (p : HPort) (a : CmdArgs) (s : State) (dissent : Option Replica := none) : Out :=
  .next (s.keyRow p 5 a dissent)
/-- SEAL. -/
def execSealMode (p : HPort) (a : CmdArgs) (s : State) (dissent : Option Replica := none) : Out :=
  .next (s.keyRow p 6 a dissent)

/-! The abort (R439) -/

/-- The abort of the running command: RUN_STEPS discards phase 1 and lets phase 2 and the queries in progress end; a
command that has not begun has done nothing. -/
def State.abortCommand (s : State) : State :=
  match s.run with
  | none => s
  | some r =>
    if r.op = 4 ∨ r.op = 5 then
      if !r.begun then s.endCommand 1
      else
        let s := { s with run := some { r with aborting := true } }
        let s := if r.op = 4 ∧ s.train.ph1.isSome then
            { s.discard 0 with train := { s.train with ph1 := none, feedWait := false }, twin := { s.twin with probe := none } }
          else { s with train := { s.train with feedWait := false } }
        s.endService.settleCommand
    else if r.op = 6 ∨ r.op = 7 then
      (if r.op = 7 then { s with train := { s.train with invalid := some fDESC_INVALID } } else s).endCommand 1
    else if r.op = 0x0A then
      let s := if s.twin.st = 3 ∨ s.twin.st = 4 then s.sendLeave 0 else s
      s.joinFails 1 0
    else s

/-- A write to CMD_ABORT by a port (R432, R439). -/
def State.writeAbort (s : State) (p : HPort) (off : Nat) (v : W32) : State :=
  if s.lease.owner ≠ p.num + 1 then s.recordFault (pgCmd p) fLEASE_NOT_HELD off
  else if v.getLsbD 0 then s.abortCommand else s

/-- CMD_ABORT. -/
def execCmdAbort (p : HPort) (v : W32) (s : State) : Out :=
  if !s.reaches p then .next s else .next (s.writeAbort p (0x1150 + 0x1000 * p.num) v)

/-! Binding computations -/

/-- A binding computation takes effect: retirements first, a waiting BIND or UNBIND after them (R22, R36, R262). A command
that woke the module has waited for the retirements (R471). -/
def execBindingApplied (dissent : Option Replica) (s : State) : Out :=
  if !s.rebindDue then .next s
  else if s.target = s.bind.applied && !s.awake then .next s
  else
    let (ok, s) := s.vote dissent
    if !ok then .next s
    else if s.target = s.bind.applied then .next s.applyReq
    else
      let s := s.applyRetire
      .next (if s.power.waking then s else s.woken)

end Sys2Proof.Machine
end

