-- ==== Sys2Proof/Machine/Registers.lean ====
section
/-! DEFINITION. Register writes through BAR0: who may write what, the effect of each write, the lease, and the two accesses
of an 8-byte write (R10 to R12, R360, R364, R426 to R428, R432 to R436, R447, R452, R453, R469, R489, R492, R493). -/

namespace Sys2Proof.Machine

/-- What becomes of a write (R426 to R428, R432): ignored, open to the writing port, or the lease holder's alone. -/
inductive WriteRule where
  | ignored
  | allowed
  | holder
deriving DecidableEq, Repr

/-- The sites whose check is selectable (R357): H0, H1 and C0 to C3. -/
def selectableSites : List Nat := [19, 28, 0, 7, 40, 47]

/-- Offsets of the registers that a port stages commands in (R436). -/
def stagingReg (o : Nat) : Bool :=
  (decide (0x100 ≤ o) && decide (o < 0x14C)) || o == 0x150 ||
  (decide (0x180 ≤ o) && decide (o < 0x18C)) || (decide (0x190 ≤ o) && decide (o < 0x198)) ||
  (decide (0x1A0 ≤ o) && decide (o < 0x200) && o % 0x20 != 0xC)

/-- The rule of a block-specific register. -/
def blockRule (k o : Nat) : WriteRule :=
  if k = 3 then (if [0x104, 0x108, 0x10C, 0x110].contains o then .allowed else .ignored)
  else if k = 4 then (if o = 0x100 then .holder else .ignored)
  else if k = 7 then
    (if [0x100, 0x104, 0x108, 0x10C, 0x110, 0x118, 0x11C, 0x120, 0x134, 0x13C].contains o then .holder
     else if o = 0x148 then .allowed else .ignored)
  else if k = 8 ∨ k = 9 then (if o = 0x104 then .allowed else .ignored)
  else if 0x200 ≤ k ∧ k < 0x400 then (if o = 0x100 ∧ selectableSites.contains (k - 0x200) then .holder else .ignored)
  else if 0xA00 ≤ k ∧ k < 0xC00 then (if o = 0x11C then .holder else .ignored)
  else .ignored

/-- The rule of a word of a page that answers: CTRL has no register on any page. -/
def State.pageRule (s : State) (p : HPort) (k o : Nat) : WriteRule :=
  if k = 1 ∨ k = 2 then
    if k = pgCmd p then
      (if o = 0x10 ∨ o = 0x14 ∨ (0x40 ≤ o ∧ o < 0x80) ∨ stagingReg o then .allowed else .ignored)
    else if o = 0x150 ∧ s.lease.owner = p.num + 1 then .allowed else .ignored
  else if o = 0x10 ∨ o = 0x14 then (if k = 0 ∨ k = 3 then .allowed else .holder)
  else if 0x40 ≤ o ∧ o < 0x80 then .holder
  else if o < 0x100 then .ignored
  else blockRule k o

/-- During a tamper scrub a port works on the lease, and stages and sends ATTEST, alone (R418). -/
def scrubAllows (k o : Nat) : Bool :=
  if k = 3 then [0x104, 0x108, 0x10C, 0x110].contains o
  else (k == 1 || k == 2) && decide (0x100 ≤ o) && decide (o < 0x14C)

/-- The rule of the word at a BAR0 offset. -/
def State.writeRule (s : State) (p : HPort) (off : Nat) : WriteRule :=
  let k := off / 0x1000
  if s.sec.scrubBusy && !scrubAllows k (off % 0x1000) then .ignored
  else if (0xF0000 ≤ off ∧ off < 0xF0400) ∨ off = 0xF1000 ∨ off = 0xF1004 then .allowed
  else if !s.answers k then .ignored
  else s.pageRule p k (off % 0x1000)

/-! Effects -/

/-- Replace the half of a 64-bit register that an offset names. -/
def setHalf (x : W64) (o : Nat) (v : W32) : W64 :=
  if o % 8 = 0 then x.extractLsb' 32 32 ++ v else v ++ x.extractLsb' 0 32

/-- Replace argument `i`. -/
def setArg (c : CmdArgs) (i : Nat) (x : W64) : CmdArgs :=
  match i with
  | 0 => { c with a0 := x }
  | 1 => { c with a1 := x }
  | 2 => { c with a2 := x }
  | 3 => { c with a3 := x }
  | 4 => { c with a4 := x }
  | 5 => { c with a5 := x }
  | 6 => { c with a6 := x }
  | _ => { c with a7 := x }

/-- Write a register of a query table. -/
def QTab.put (t : QTab) (o : Nat) (v : W32) : QTab :=
  if o < 8 then { t with base := setHalf t.base o v }
  else if o = 8 then { t with count := v }
  else if o < 0x18 then { t with fill := setHalf t.fill o v }
  else { t with done := setHalf t.done o v }

/-- Write a staging or table register of a command page (R436). -/
def CmdPage.put (c : CmdPage) (o : Nat) (v : W32) : CmdPage :=
  if o = 0x100 then { c with op := v.toNat % 256 }
  else if o = 0x104 then { c with args := { c.args with flags := v } }
  else if o < 0x148 then
    let i := (o - 0x108) / 8
    { c with args := setArg c.args i (setHalf (argOf c.args i) o v) }
  else if o < 0x188 then { c with feedBase := setHalf c.feedBase o v }
  else if o = 0x188 then { c with feedCount := v }
  else if o < 0x198 then { c with feedFill := setHalf c.feedFill o v }
  else if o < 0x1C0 then { c with q1 := c.q1.put (o - 0x1A0) v }
  else if o < 0x1E0 then { c with q2 := c.q2.put (o - 0x1C0) v }
  else { c with q3 := c.q3.put (o - 0x1E0) v }

/-- Write one half of a counter's register (R489): either half holds part of VALUE, so SATD clears. -/
def Counter.put (c : Counter) (o : Nat) (v : W32) : Counter :=
  let n := v.toNat
  if o % 8 = 0 then { c with satd := false, value := c.value / 2 ^ 32 * 2 ^ 32 + n }
  else { satd := false, mode := v.getLsbD 24, evsel := n / 2 ^ 16 % 256, value := n % 2 ^ 16 * 2 ^ 32 + c.value % 2 ^ 32 }

/-- Change counter `i` of a page, which has counted up to now (R490, R492). -/
def State.modCounter (s : State) (k i : Nat) (f : Counter → Counter) : State :=
  let s := s.countTime k
  let p := s.page k
  if p.lost then s
  else { s with pages := sput {} s.pages k { p with ctrs := sput {} p.ctrs i (f (sget {} p.ctrs i)) } }

/-- LEASE_OWNER becomes none, and CHANGED is set with the bits of `evt`. -/
def State.endLease (s : State) (evt : Nat) : State :=
  { s with lease := { s.lease with owner := 0, remain := 0 } }.setEvt pgLease evt

/-- A port writes a register of the lease page (R433, R434). -/
def State.writeLease (s : State) (p : HPort) (o : Nat) (v : W32) : State :=
  let n := p.num + 1
  let l := s.lease
  if o = 0x110 then
    if (l.owner = n ∨ l.owner = 0) ∧ 10 ≤ v.toNat % 65536 ∧ v.toNat % 65536 ≤ 60000 then
      { s with lease := { l with timeout := v.toNat % 65536 } }
    else s
  else if !v.getLsbD 0 then s
  else if o = 0x104 then
    (if l.owner = 0 then { s with lease := { l with owner := n, remain := l.timeout } }.setEvt pgLease 2 else s)
  else if o = 0x108 then (if l.owner = n then s.endLease 2 else s)
  else if l.owner = n then { s with lease := { l with remain := l.timeout } } else s

/-- Write a register of the counter reader page (R493). -/
def CtrReader.put (c : CtrReader) (o : Nat) (v : W32) : CtrReader :=
  let r := c.regs
  let n := v.toNat
  if o = 0x100 then (if n ≤ 10000 then { c with regs := { r with period := v } } else c)
  else if o = 0x104 then { c with regs := { r with port := v.getLsbD 4, dest := if n % 4 = 3 then r.dest else n % 4 } }
  else if o < 0x110 then { c with regs := { r with hostBase := setHalf r.hostBase o v } }
  else if o = 0x110 then { c with regs := { r with hostSlots := v } }
  else if o < 0x120 then { c with regs := { r with vatBase := setHalf r.vatBase o v &&& 0x1FFFFFFFFFFF#64 } }
  else if o = 0x120 then { c with regs := { r with vatSlots := v } }
  else if o = 0x134 then
    { c with tagEn := v.getLsbD 8, tagN := if 8 ≤ n % 32 ∧ n % 32 ≤ 24 then n % 32 else c.tagN }
  else { c with access := v.getLsbD 0 }

/-- Write a block-specific register of a page. -/
def State.putBlock (s : State) (p : HPort) (k o : Nat) (v : W32) (dissent : Option Replica := none) : State :=
  if k = 1 ∨ k = 2 then
    if o = 0x150 then s.writeAbort p (k * 0x1000 + o) v
    else if o = 0x148 then (if s.lease.owner ≠ p.num + 1 || v.getLsbD 0 then s.cmdGo p dissent else s)
    else s.modCmd p fun c => c.put o v
  else if k = 3 then s.writeLease p o v
  else if k = 4 then s.setTolerance v
  else if k = 7 then
    if o = 0x148 then s.setPort p { s.port p with cenSel := v.toNat % 32 } else { s with ctr := s.ctr.put o v }
  else if k = 8 then s.setPort p { s.port p with rlogIndex := v }
  else if k = 9 then s.setPort p { s.port p with bindWin := v.toNat % 2048 }
  else if k < 0x400 then
    if v.toNat % 4 = 3 then s else s.setSite (k - 0x200) { s.site (k - 0x200) with chkSel := v.toNat % 4 }
  else { s with vats := s.vats.setVat (k - 0xA00) { s.vats.vat (k - 0xA00) with patrol := v.getLsbD 0 } }

/-- Event group of a port's vector (R446). -/
def vectorGroup (p : HPort) (v : Nat) : Nat := if v = 0 then (if p = .h0 then 0 else 10) else v

/-- A port writes its MSI-X table; a message that a mask held goes out when the vector is unmasked while its group is
pending (R447). -/
def State.putMsix (s : State) (p : HPort) (o : Nat) (v : W32) : State :=
  let h := s.port p
  let w := if o % 16 = 12 then v &&& 1#32 else v
  let h := { h with msix := sputs 0 h.msix o (leBytes 4 w.toNat) }
  let n := o / 16
  if o % 16 ≠ 12 ∨ w ≠ 0 ∨ !h.pba.getLsbD n then s.setPort p h
  else
    let h := { h with pba := h.pba &&& ~~~(BitVec.ofNat 64 (2 ^ n)) }
    s.setPort p (if groupPending s.pages (vectorGroup p n) then h.send n else h)

/-- The effect of a 4-byte write that is allowed; `same` are the event bits that the module sets in that cycle (R12). The
page of a lost unit ignores it (R427). -/
def State.putWord (s : State) (p : HPort) (off : Nat) (v same : W32) (dissent : Option Replica := none) : State :=
  let k := off / 0x1000
  let o := off % 0x1000
  if 0xF0000 ≤ off ∧ off < 0xF0400 then s.putMsix p (off - 0xF0000) v
  else if off = 0xF1000 ∨ off = 0xF1004 then s.setPort p { s.port p with pba := setHalf (s.port p).pba off v }
  else if (s.page k).lost then s
  else if o = 0x10 then s.writeEvt k fun g => { g with evt := g.evt &&& ~~~v ||| same }
  else if o = 0x14 then s.writeEvt k fun g => { g with evt := g.evt ||| same, evtEn := v }
  else if o < 0x80 then s.modCounter k ((o - 0x40) / 8) fun c => c.put o v
  else s.putBlock p k o v dissent

/-- A write by a port takes effect. -/
def State.mayWrite (s : State) (p : HPort) (off : Nat) : Bool :=
  match s.writeRule p off with
  | .ignored => false
  | .allowed => true
  | .holder => s.lease.owner == p.num + 1

/-- A write by a port that does not hold the lease is dropped with LEASE_NOT_HELD (R432). -/
def State.dropsWrite (s : State) (p : HPort) (off : Nat) : Bool :=
  s.writeRule p off == .holder && s.lease.owner != p.num + 1

/-- A 4-byte write: its effect if it is allowed, and whether it is dropped. -/
def State.tryWord (s : State) (p : HPort) (off : Nat) (v same : W32) (dissent : Option Replica := none) : State × Bool :=
  (if s.mayWrite p off then s.putWord p off v same dissent else s, s.dropsWrite p off)

/-- Whether two words form one 64-bit register that the lease holder alone writes: one access (R426). -/
def wideReg (off : Nat) : Bool :=
  let o := off % 0x1000
  (decide (0x40 ≤ o) && decide (o < 0x80)) || (off / 0x1000 == 7 && (o == 0x108 || o == 0x118))

/-- A write of a size at an offset (R426): 8 bytes over two registers are two accesses in one cycle, the lower first. A
replica may dissent from the vote on the command that it starts (R22). -/
def State.writeReg (s : State) (p : HPort) (off size : Nat) (v : W64) (dissent : Option Replica := none) : State :=
  if !accessOk off size || !s.reaches p then s
  else
    let (s, d) := s.tryWord p off (v.extractLsb' 0 32) 0 dissent
    if size = 4 then (if d then s.recordFault (pgCmd p) fLEASE_NOT_HELD off else s)
    else
      let (s, e) := s.tryWord p (off + 4) (v.extractLsb' 32 32) 0 dissent
      s.recordFaults (pgCmd p) ((if d then [(fLEASE_NOT_HELD, off)] else []) ++
        (if e && !(d && wideReg off) then [(fLEASE_NOT_HELD, off + 4)] else []))

/-- A write of a 32-bit register. -/
def State.writeReg32 (s : State) (p : HPort) (off : Nat) (v : W32) : State := s.writeReg p off 4 (v.setWidth 64)

/-- LEASE_CLAIM. -/
def execLeaseClaim (p : HPort) (v : W32) (s : State) : Out := .next (s.writeReg32 p 0x3104 v)
/-- LEASE_RELEASE. -/
def execLeaseRelease (p : HPort) (v : W32) (s : State) : Out := .next (s.writeReg32 p 0x3108 v)
/-- LEASE_HEARTBEAT. -/
def execLeaseHeartbeat (p : HPort) (v : W32) (s : State) : Out := .next (s.writeReg32 p 0x310C v)
/-- LEASE_TIMEOUT. -/
def execLeaseTimeout (p : HPort) (v : W32) (s : State) : Out := .next (s.writeReg32 p 0x3110 v)

/-- The lease timer runs out (R434). -/
def execLeaseExpiry (s : State) : Out := if s.lease.owner = 0 then .next s else .next (s.endLease 6)

/-- LATENCY_TOLERANCE. -/
def execLatencyTolerance (p : HPort) (v : W32) (s : State) : Out := .next (s.writeReg32 p 0x4100 v)
/-- DUMP_PERIOD. -/
def execDumpPeriod (p : HPort) (v : W32) (s : State) : Out := .next (s.writeReg32 p 0x7100 v)
/-- CHK_SEL of a port site. -/
def execChkSel (p : HPort) (site : Nat) (v : W32) (s : State) : Out :=
  if fieldOk site then .next (s.writeReg32 p (0x200100 + 0x1000 * site) v) else .fault .noSuchUnit

/-- A write to an EVT or EVT_EN register, with the event bits that the module sets in the same cycle (R12, R447). -/
def execEvtWrite (p : HPort) (off : Nat) (v : W32) (same : W32) (s : State) : Out :=
  let k := off / 0x1000
  if !accessOk off 4 || !pageExists k || (off % 0x1000 != 0x10 && off % 0x1000 != 0x14) || !s.reaches p then .next s
  else
    let may := s.mayWrite p off && !(s.page k).lost
    let (t, d) := s.tryWord p off v same
    let t := if may then t else t.setEvt k same.toNat
    .next (if d then t.recordFault (pgCmd p) fLEASE_NOT_HELD off else t)

/-- A write of a counter's register; an increment of the same cycle is lost where the write stands (R492). -/
def execCounterValueWrite (p : HPort) (off size : Nat) (v : W64) (same : Nat) (s : State) : Out :=
  let k := off / 0x1000
  let o := off % 0x1000
  if !accessOk off size || !pageExists k || decide (o < 0x40) || decide (0x80 ≤ o) || !s.reaches p then .next s
  else
    let t := s.writeReg p off size v
    .next (if s.mayWrite p off then t else t.modCounter k ((o - 0x40) / 8) fun c => c.bump same)

/-- A write to any register (R432). -/
def execRegisterWrite (p : HPort) (off size : Nat) (v : W64) (s : State) (dissent : Option Replica := none) : Out :=
  .next (s.writeReg p off size v dissent)

end Sys2Proof.Machine
end

