-- ==== Sys2Proof/Machine/Pcie.lean ====
section
/-! DEFINITION. The host ports' links and functions, the end of a wake, and the service ports' packets (R357 to R362, R366,
R421 to R424, R434, R455, R470 to R472). -/

namespace Sys2Proof.Machine

/-! Wake -/

/-- A wake ends, by vote (R22), with every field in P0 (R471): after P3 and P4 the tiles are reloaded, after P4 links that fail their
training again are retired. A command that waited for the wake begins, after the binding computation of such a retirement. -/
def execWakeComplete (failedLinks : List Nat) (s : State) (dissent : Option Replica := none) : Out :=
  if !failedLinks.all linkOk then .fault .noSuchUnit
  else if !s.power.waking then .next s
  else .next (s.voteThen dissent fun s =>
    let p := s.power.pstate
    let s := (List.range 48).foldl (fun s f => s.setField f ((s.field f).toRun (!s.idleField f))) s
    let s := { s with power := { s.power with waking := false, pstate := 0 } }
    let s := if p < 3 then s else s.reloadTiles
    let s := if p < 4 then s else failedLinks.foldl State.retireLink s
    let s := s.setEvt pgPower 2
    if s.rebindDue then s else s.woken)

/-! Links and functions of the host ports -/

/-- A port is retired with its site (R272). -/
def State.portRetired (s : State) (p : HPort) : Bool := s.bind.found.sites.contains (hostSite p)

/-- PERST# is asserted (R424): the function, its MSI-X structures, DMA engine, command page and per-port registers are
reset, and a lease that the port holds is released. What PCIe resets of the configuration space is log entry 5. -/
def execPerstAssert (p : HPort) (s : State) : Out :=
  let h := s.port p
  let s := s.setPort p { mem := h.mem, images := h.images, msgs := h.msgs, link := if s.portRetired p then 3 else 0 }
  .next ({ s with pages := sput {} s.pages (pgCmd p) {} }.dropLease p)

/-- A link is up: the check selected applies and the sequence starts at 0 (R360, R361). -/
def State.linkUp (s : State) (p : HPort) : State :=
  let x := s.site (hostSite p)
  s.setSite (hostSite p) { x with active := x.chkSel, seqTx := 0, seqRx := 0, fails := 0 }

/-- A link may train to a rate, 1 to 3 for Gen3 to Gen5, and a width (R421). -/
def linkTrains (rate width : Nat) : Bool := decide (1 ≤ rate) && decide (rate < 4) && [4, 8, 16].contains width

/-- PERST# is released: the link trains to a rate and width of R421, and to no others, or is disabled below ×4 or with a
retired port (R422); a command that waited for the port's DMA goes on. -/
def execPerstRelease (p : HPort) (rate width : Nat) (s : State) : Out :=
  let h := s.port p
  if !h.perst then .next s
  else if s.portRetired p || decide (width < 4) then
    .next (s.setPort p { h with perst := false, link := 3, rate := 0, width := 0 })
  else if !linkTrains rate width then .next s
  else .next ((s.setPort p { h with perst := false, link := 2, rate := rate, width := width }).linkUp p).advance

/-- A port's link is lost (R434). -/
def execPcieLinkDown (p : HPort) (s : State) : Out :=
  let h := s.port p
  if h.link ≠ 2 then .next s else .next ((s.setPort p { h with link := 0, rate := 0, width := 0 }).dropLease p)

/-- A function enters D3hot (R421). -/
def execD3hot (p : HPort) (s : State) : Out :=
  if !s.reaches p then .next s else .next (s.setPort p { s.port p with d3 := true })

/-- A function returns to D0; its DMA resumes (R421). -/
def execD0 (p : HPort) (s : State) : Out :=
  if !s.reaches p then .next s else .next (s.setPort p { s.port p with d3 := false }).advance

/-! Service ports (R357 to R362) -/

/-- A failed check is counted and a replay requested; the eighth failed replay raises LINK_REPLAY_FAIL. -/
def State.serviceFailed (s : State) (f : Nat) : State :=
  let (up, s) := s.checkFailed f
  if up then s.recordFault (pgSite f) fLINK_REPLAY_FAIL 0 else s

/-- A packet arrives at SA or SB with its CRC-32C over the fold prefix and the packet (R358, R359). -/
def execServicePortPacket (site : Nat) (packet : List Byte) (check : Nat) (s : State) : Out :=
  if !fieldOk site then .fault .noSuchUnit
  else if (site ≠ 3 ∧ site ≠ 44) ∨ s.bind.found.sites.contains site then .next s
  else
    let x := s.site site
    if check = (Check.ofCode 0).of (foldPrefix 0 x.seqRx site false ++ packet) then
      .next ({ s with svc := { s.svc with served := s.svc.served + 1 } }.setSite site
        { x with seqRx := (x.seqRx + 1) % 2 ^ 32, fails := 0 })
    else .next (s.serviceFailed site)

end Sys2Proof.Machine
end

