-- ==== Sys2Proof/Machine/Remote.lean ====
section
/-! DEFINITION. Remote memory operations: their issue, the arrival of their packets at the destination tile, responses and
acknowledgements, and converging adds (R200 to R209, R250, R251, R254, R261, R263, R265, R273 to R278). -/

namespace Sys2Proof.Machine

/-- The fields of a remote word and its block (R200), with effective addresses. -/
structure RArgs where
  op : Nat
  rctr : Nat
  ren : Bool
  laddr : Nat
  raddr : Nat
  len : Nat
  px : Nat
  py : Nat
  tile : Nat
  elem : Nat
  ret : Nat
  retNone : Bool
  px1 : Nat
  py1 : Nat
  tmask : Nat
  tree : Nat
  ord : Nat
deriving DecidableEq, Repr

/-- An effective address (R182). -/
def effAddr (a off : Nat) : Nat := (a + off) % 2 ^ 64

/-- Read the fields. -/
def RArgs.parse (w : Nat) (b : Issue) : RArgs where
  op := fld w 63 58
  rctr := fld w 42 37
  ren := w.testBit 36
  laddr := effAddr (leAt b.blk 0 4) b.xa
  raddr := effAddr (leAt b.blk 4 4) b.xb
  len := leAt b.blk 8 4
  px := leAt b.blk 12 1
  py := leAt b.blk 13 1
  tile := leAt b.blk 14 1
  elem := leAt b.blk 15 1
  ret := effAddr (leAt b.blk 16 4) b.xa
  retNone := leAt b.blk 16 4 == noneAddr
  px1 := leAt b.blk 20 1
  py1 := leAt b.blk 21 1
  tmask := leAt b.blk 22 2
  tree := leAt b.blk 24 2
  ord := leAt b.blk 26 2

/-- RADD or RMAX or RSWAP. -/
def RArgs.atomic (x : RArgs) : Bool := x.op == 0x22 || x.op == 0x23 || x.op == 0x24
/-- RSWAP. -/
def RArgs.swap (x : RArgs) : Bool := x.op == 0x24
/-- MCAST. -/
def RArgs.mcast (x : RArgs) : Bool := x.op == 0x25
/-- CONV_ADD. -/
def RArgs.conv (x : RArgs) : Bool := x.op == 0x26
/-- GET. -/
def RArgs.isGet (x : RArgs) : Bool := x.op == 0x21

/-- Reserved bits and the fields of other opcodes (R183, R200). DESIGN CHOICE: an RSWAP whose RETADDR is none raises
DESC_INVALID too (log entry 50). -/
def remoteReservedOk (w : Nat) (b : Issue) (x : RArgs) : Bool :=
  fld w 35 16 == 0 && allZero (bytesAt b.blk 28 36) && (x.swap != x.retNone) && (x.atomic || x.elem == 0) &&
  (x.mcast || (x.px1 == 0 && x.py1 == 0 && x.tmask == 0)) && (x.conv || (x.tree == 0 && x.ord == 0)) &&
  (!x.conv || (leAt b.blk 4 4 == 0 && x.px == 0 && x.py == 0 && x.tile == 0))

/-- The header of a tree of the program (R275). -/
def State.tree (s : State) (e : Env) (k : Nat) : Option (List Byte) :=
  match s.image? e.prog with
  | some i => (i.trees[k]?).map fun t => t.1
  | none => none

/-- Bytes that the local side reads or writes: a converging add takes its length from the tree (R206). -/
def State.localLen (s : State) (e : Env) (x : RArgs) : Nat :=
  if x.conv then
    (match s.tree e x.tree with
      | some h => 4 * leAt h 8 2
      | none => 0)
  else x.len

/-- A program position is in the region and used (R201). -/
def State.usedPos (s : State) (e : Env) (px py : Nat) : Bool :=
  match s.image? e.prog with
  | some i => i.inside px py && !i.isUnused px py
  | none => false

/-- The checks at issue (R200, R201, R205, R206): an invalid form first, then ranges. DESIGN CHOICE: a TILE of 16 or more
raises DESC_INVALID, for MCAST too (log entry 50). -/
def State.remoteCheck (s : State) (e : Env) (x : RArgs) : Except TFault Unit := do
  let inv := fun c => need c fDESC_INVALID 11
  let rng := fun c => need c fDESC_RANGE 11
  inv (!x.atomic || (x.laddr % 4 == 0 && x.raddr % 4 == 0 && x.len % 4 == 0))
  inv (!x.swap || decide (x.len ≤ 64))
  inv (!(x.op == 0x22 || x.op == 0x23) || x.elem == 1 || x.elem == 0xB)
  inv (!x.mcast || (decide (x.px ≤ x.px1) && decide (x.py ≤ x.py1)))
  inv (decide (x.tile < 16))
  inv (!x.conv || (x.len == 0 && (match s.tree e x.tree with
    | some h => decide (x.ord < leAt h 10 2)
    | none => false)))
  rng (x.conv || x.mcast || s.usedPos e x.px x.py)
  rng (!x.mcast || (decide (x.px1 < e.w) && decide (x.py1 < e.h)))
  rng (tileRange x.laddr (s.localLen e x))
  rng (x.conv || tileRange x.raddr x.len)
  rng (!x.swap || tileRange x.ret x.len)

/-- The destination tiles of an operation (R205, R206, R273). -/
def State.targets (s : State) (e : Env) (x : RArgs) : List Nat :=
  let at_ := fun (p : Nat × Nat × Nat) => e.cluster p.1 p.2.1 * 16 + p.2.2
  match s.image? e.prog with
  | none => []
  | some i =>
    if x.mcast then (i.rect x.px x.py x.px1 x.py1 x.tmask).map at_
    else if x.conv then (match s.tree e x.tree with
      | some h => [at_ (leAt h 0 1, leAt h 1 1, leAt h 2 1 % 16)]
      | none => [])
    else [at_ (x.px, x.py, x.tile)]

/-- Logical clusters of an MCAST's rectangle (R205, R273). -/
def Env.rectClusters (e : Env) (x : RArgs) : List Nat :=
  (pairs (List.range (x.py1 + 1 - x.py)) (List.range (x.px1 + 1 - x.px))).map fun d =>
    e.cluster (x.px + d.2) (x.py + d.1)

/-- What the packet of an opcode does. -/
def kindOf (op : Nat) : PacketKind :=
  if op = 0x21 then .get else if op = 0x22 then .radd else if op = 0x23 then .rmax else if op = 0x24 then .rswap
  else if op = 0x25 then .mcast else if op = 0x26 then .conv else .put

/-- Key of a tree's ordinal in the round counts. -/
def ordKey (prog tree ord : Nat) : Nat := (prog * 256 + tree) * 65536 + ord

/-- Remote operations of a tile that its felt interface still has (R187, R211): held ones, and GET and RSWAP whose data is
out. An operation counts once whatever the number of its packets and destinations. -/
def State.feltBusy (s : State) (t : Nat) : Nat :=
  (((s.felt.packets.filter fun p => p.src == t && p.opId.isNone &&
      (p.held || (decide (0 < p.len) && (p.kind == .get || p.kind == .rswap)))).map fun p => p.op) ++
    ((s.felt.responses.filter fun r => r.dst == t && r.opId.isNone).map fun r => r.op)).eraseDups.length

/-- The sixteen places are taken (R187). -/
def feltFull (e : Env) (s : State) : Bool := decide (16 ≤ s.feltBusy e.t)

/-- Tree lane and destination address of a converging add's operand (R206, R250, R263, R275). -/
def State.treeHead (s : State) (e : Env) (x : RArgs) : Nat × Nat :=
  match s.tree e x.tree with
  | some h => (leAt h 13 1, leAt h 4 4)
  | none => (0, 0)

/-- A remote word issues: the source is read, the packets leave, and the issuing counter increments unless data must
return (R202 to R206). -/
def doRemote (b : Issue) (e : Env) (s : State) : State :=
  let x := RArgs.parse e.word b
  let n := s.localLen e x
  let rd := if x.isGet || n = 0 then [] else [(x.laddr, n)]
  s.perform e (do
    need (remoteReservedOk e.word b x) fDESC_INVALID 11
    s.remoteCheck e x
    s.clean e 11 rd) fun _ =>
      let s := (s.meetReads e.slot .outside rd rd).tileReads e.slot rd
      let m := (s.tile e.slot).sram
      let data := if x.isGet then [] else m.read x.laddr n
      let wait := decide (0 < x.len) && (x.isGet || x.swap)
      let key := ordKey e.prog x.tree x.ord
      let t := s.tile e.slot
      let ds := s.targets e x
      let entry := if x.mcast then entryCluster (e.t / 16) (e.rectClusters x) else none
      let p := fun (d : Nat) => ({
        prog := e.prog, src := e.t, ctx := e.c, dst := d, kind := kindOf x.op
        addr := if x.conv then (s.treeHead e x).2 else x.raddr, lane := if x.conv then (s.treeHead e x).1 else 0
        data := data, len := if x.conv then n else x.len, rctr := x.rctr, ren := x.ren, elem := x.elem, ret := if x.isGet then x.laddr else x.ret
        ctr := e.ctr, cen := e.cen, tree := x.tree, ord := x.ord, round := sget 0 s.felt.rounds key, op := t.nextId
        mid := s.bind.applied.midOf (e.t / 16) (entry.getD (d / 16)), entry := entry } : Packet)
      let f := if x.mcast then s.felt.cast (p (ds.headD 0)) ds else ds.foldl (fun f d => f.send (p d)) s.felt
      let f := if x.conv then { f with rounds := sput 0 f.rounds key (sget 0 f.rounds key + 1) } else f
      let s := { s.setTile e.slot { t with nextId := t.nextId + 1 } with felt := f }
      let s := s.issue e (s.ctxOf e).advance
      if wait then s else s.setTile e.slot ((s.tile e.slot).complete e.ctr e.cen)

/-- PUT. -/
def execPut (t : Nat) (c : Ctx) (s : State) : Out := issueRow s t c 0x20 feltFull doRemote
/-- GET. -/
def execGet (t : Nat) (c : Ctx) (s : State) : Out := issueRow s t c 0x21 feltFull doRemote
/-- RADD. -/
def execRadd (t : Nat) (c : Ctx) (s : State) : Out := issueRow s t c 0x22 feltFull doRemote
/-- RMAX. -/
def execRmax (t : Nat) (c : Ctx) (s : State) : Out := issueRow s t c 0x23 feltFull doRemote
/-- RSWAP. -/
def execRswap (t : Nat) (c : Ctx) (s : State) : Out := issueRow s t c 0x24 feltFull doRemote
/-- MCAST. -/
def execMcast (t : Nat) (c : Ctx) (s : State) : Out := issueRow s t c 0x25 feltFull doRemote
/-- CONV_ADD. -/
def execConvAdd (t : Nat) (c : Ctx) (s : State) : Out := issueRow s t c 0x26 feltFull doRemote

/-! Arrival -/

/-- FELT_FAULT_SRC for a packet's source and virtual channel: the tile interface finds the fault (R282). -/
def feltSrc (t : Nat) (c : Ctx) (vc : Nat) : Nat := t / 16 * 2 ^ 16 + t % 16 * 2 ^ 12 + c.num * 2 ^ 11 + vc * 2 ^ 9 + 7

/-- A fault at felt inbound of a tile (R216, R282). -/
def State.inbound (s : State) (e : Env) (code src : Nat) (c : Ctx) (vc addr word : Nat) : State :=
  s.tileFault { e with c := c } { code := code, unit := 12, word := word, inbound := some (feltSrc src c vc, addr) }

/-- A range cut into the parts that its packets of 512 bytes carry (R250). -/
def packetParts (r : Nat × Nat) : List (Nat × Nat) :=
  (List.range (cdiv r.2 512)).map fun i => (r.1 + 512 * i, min 512 (r.2 - 512 * i))

/-- Bytes arrive for a tile address: a guarded region faults with the address of the packet that meets it (R282), else they
are written. -/
def State.landWrite (s : State) (e : Env) (src : Nat) (c : Ctx) (vc : Nat) (ws : List (Nat × List Byte))
    (k : State → State) : State :=
  match ((writeRanges ws).flatMap packetParts).find? fun r => (s.guarded e).any (overlap r) with
  | some r => s.inbound e fDESC_RANGE src c vc r.1 0
  | none =>
    let t := s.tile e.slot
    k ((s.setTile e.slot { t with sram := t.sram.writes ws }).conflicts e.slot .outside (writeRanges ws))

/-- A read that serves an arriving operation; a fault names the address of the packet whose bytes it reads. -/
def State.landRead (s : State) (e : Env) (src : Nat) (c : Ctx) (vc a n : Nat) (k : List Byte → State → State) : State :=
  let s := s.meetReads e.slot .outside [(a, n)] [(a, n)]
  match (s.tile e.slot).sram.bad [(a, n)] with
  | some w => s.inbound e fSRAM_UE src c vc (if vc = 3 then a + (w - a) / 512 * 512 else a) w
  | none => k ((s.tile e.slot).sram.read a n) (s.tileReads e.slot [(a, n)])

/-- The updated element of an atomic operation (R203), with saturation. -/
def atomicElem (k : PacketKind) (f32fmt : Bool) (old new : Nat) : Nat × Bool :=
  match k with
  | .radd => if f32fmt then let o := add32 old new; (o.code, o.sat) else ((old + new) % 2 ^ 32, false)
  | .rmax =>
    if f32fmt then ((w32 (fpMax (r32 old) (r32 new))).code, false)
    else (if sx 32 old < sx 32 new then new else old, false)
  | _ => (new, false)

/-- All elements of an atomic operation. -/
def atomicBytes (k : PacketKind) (f32fmt : Bool) (old new : List Byte) : List Byte × Bool :=
  let os := List.zipWith (fun a b => atomicElem k f32fmt (leNat a) (leNat b))
    (chunksOf 4 (old.length / 4) old) (chunksOf 4 (new.length / 4) new)
  (os.flatMap fun o => leBytes 4 o.1, os.any fun o => o.2)

/-- The remote counter of an operation increments (R204). -/
def State.remoteInc (s : State) (e : Env) (p : Packet) : State :=
  s.setTile e.slot ((s.tile e.slot).complete p.rctr p.ren)

/-- An operation of a flow becomes acknowledged by its destination (R265); the flit returns by `mid` (R260). -/
def ackOp (src : Nat) (c : Ctx) (dst op : Nat) (mid : Option Nat) : List Unacked → List Unacked
  | [] => []
  | u :: r =>
    if u.src == src && u.ctx == c && u.dst == dst && u.op == op && !u.acked then { u with acked := true, mid := mid } :: r
    else u :: ackOp src c dst op mid r

/-- An operation's last write at the destination is complete: its acknowledgement leaves. -/
def State.ackPacket (s : State) (src : Nat) (c : Ctx) (dst op : Nat) : State :=
  { s with felt := { s.felt with
    unacked := ackOp src c dst op (s.bind.applied.midOf (dst / 16) (src / 16)) s.felt.unacked } }

/-! Converging adds (R206, R276, R277) -/

/-- Key of a tree in the counts of rounds complete. -/
def treeKey (prog tree : Nat) : Nat := prog * 256 + tree

/-- Logical clusters of the sources of a tree, in ascending ordinal. -/
def State.treeSrcs (s : State) (prog tree : Nat) : List Nat :=
  match s.prog prog with
  | some p => match p.bound, p.image.trees[tree]? with
    | some (x, y), some t => t.2.map fun q => (y + leAt q 1 1) * 40 + x + leAt q 0 1
    | _, _ => []
  | none => []

/-- The order in which a tree's destination receives a round, each operand as the ordinals that it stands for: single
operands in ascending ordinal in F32; in I32 the sums that routers with two or more inputs of the tree make. -/
def State.treeGroups (s : State) (prog tree : Nat) (f32fmt : Bool) (n : Nat) : List (List Nat) :=
  if f32fmt then (List.range n).map fun o => [o]
  else
    let dst := ((s.treeDest prog tree).map fun d => d.1 / 16).getD 0
    let merges := fun k => s.bind.trees.any fun x =>
      x.prog == prog && x.tree == tree && x.router == k && decide (2 ≤ x.ins.length)
    mergeGroups merges 200 (((s.treeSrcs prog tree).take n).zipIdx.map fun x =>
      (x.2, s.bind.applied.backPath x.1 dst))

/-- The operand of an ordinal in a round, if all of it has arrived. -/
def State.convOp (s : State) (prog tree k bytes ord : Nat) : Option ConvOperand :=
  s.felt.conv.find? fun o => o.prog == prog && o.tree == tree && o.round == k && o.ord == ord &&
    decide (bytes ≤ o.data.length)

/-- Add integers element by element modulo 2^32. -/
def addWords (a b : List Byte) : List Byte := (atomicBytes .radd false a b).1

/-- The sum that stands for some operands. -/
def sumOperands : List ConvOperand → List Byte
  | [] => []
  | [o] => o.data
  | o :: r => addWords o.data (sumOperands r)

/-- Every earlier operation of an operand's context to the destination tile has been performed there (R207). -/
def State.inTurn (s : State) (dst : Nat) (o : ConvOperand) : Bool :=
  (s.felt.open_ o.src o.ctx dst).all fun u => u.acked || decide (o.op ≤ u.op)

/-- The operand that the destination tile takes next in a round, and those that it stands for, once they have arrived and
their turn has come (R207). -/
def State.convNext (s : State) (dst : Nat) (h : List Byte) (prog tree : Nat) : Option (List ConvOperand) :=
  let gs := s.treeGroups prog tree (leAt h 3 1 == 1) (leAt h 10 2)
  let k := sget 0 s.felt.done (treeKey prog tree)
  match gs[sget 0 s.felt.next (treeKey prog tree)]? with
  | none => none
  | some g =>
    let os := g.filterMap (s.convOp prog tree k (4 * leAt h 8 2))
    if os.length = g.length && os.all (s.inTurn dst) then some os else none

/-- A group of round k of tree `key` is folded; after the round's last the round is done and the destination tile's counter
steps when operand N-1 asked for it (R204, R277). -/
def State.endGroup (s : State) (slot : Nat) (h : List Byte) (key k : Nat) (last : Bool) : State :=
  let mine := fun (o : ConvOperand) => treeKey o.prog o.tree == key && o.round == k
  let ren := s.felt.conv.any fun o => mine o && o.ord + 1 == leAt h 10 2 && o.ren
  if last then
    let s := s.setTile slot ((s.tile slot).complete (leAt h 12 1) ren)
    { s with felt := { s.felt with
      conv := s.felt.conv.filter fun o => !mine o
      done := sput 0 s.felt.done key (k + 1), next := sput 0 s.felt.next key 0 } }
  else { s with felt := { s.felt with next := sput 0 s.felt.next key (sget 0 s.felt.next key + 1) } }

/-- The destination adds the next operand of a tree and acknowledges it; the round completes with the last one, and DCTR
increments when the last ordinal's REN is 1 (R204, R206, R277; log entry 44). -/
def State.foldOne (s : State) (e : Env) (h : List Byte) (prog tree : Nat) (os : List ConvOperand) (go : State → State) :
    State :=
  let key := treeKey prog tree
  let k := sget 0 s.felt.done key
  let a := leAt h 4 4
  let n := 4 * leAt h 8 2
  let gs := s.treeGroups prog tree (leAt h 3 1 == 1) (leAt h 10 2)
  let src := (os.head?.map fun o => o.src).getD e.t
  let c := (os.head?.map fun o => o.ctx).getD e.c
  s.landRead e src c 3 a n fun old s =>
    let (v, sat) := atomicBytes .radd (leAt h 3 1 == 1) old (sumOperands os)
    s.landWrite e src c 3 (if n = 0 then [] else [(a, v)]) fun s =>
      let s := s.noteSat e.slot c sat
      let s := os.foldl (fun s o => s.ackPacket o.src o.ctx e.t o.op) s
      go (s.endGroup e.slot h key k (decide (gs.length ≤ sget 0 s.felt.next key + 1)))

/-- The trees of a program that end in a tile and have operands there. -/
def State.convTrees (s : State) (prog t : Nat) : List Nat :=
  ((s.felt.conv.filter fun o => o.prog == prog).map fun o => o.tree).eraseDups.filter fun k =>
    (s.treeDest prog k).any fun d => d.1 == t

/-- The destination tile adds the operands that it has received, of every tree that ends there, each as its turn comes. -/
def State.foldRounds (e : Env) (prog : Nat) : Nat → State → State
  | 0, s => s
  | fuel + 1, s =>
    match (s.convTrees prog e.t).findSome? fun k => (s.tree e k).bind fun h => (s.convNext e.t h prog k).map fun os => (k, h, os) with
    | none => s
    | some (k, h, os) => s.foldOne e h prog k os (State.foldRounds e prog fuel)

/-- A packet of an operand arrives: it joins the packets of its operand that came before it. -/
def convLand (p : Packet) : List ConvOperand → List ConvOperand
  | [] => [⟨p.prog, p.tree, p.round, p.ord, p.src, p.ctx, p.data, p.op, p.ren⟩]
  | o :: r =>
    if o.prog == p.prog && o.tree == p.tree && o.round == p.round && o.ord == p.ord && o.op == p.op then
      { o with data := o.data ++ p.data } :: r
    else o :: convLand p r

/-! Arrival -/

/-- Packets of the data that returns to a packet's source, 512 bytes each (R250); the last one completes the operation. -/
def State.respond (s : State) (p : Packet) (data : List Byte) : State :=
  let n := cdiv data.length 512
  { s with felt := { s.felt with responses := s.felt.responses ++ (List.range n).map fun i =>
    ({ prog := p.prog, dst := p.src, ctx := p.ctx, pieces := [(p.ret + 512 * i, (data.drop (512 * i)).take 512)]
       ctr := p.ctr, cen := p.cen, op := p.op, last := decide (i + 1 = n), src := p.dst
       mid := s.bind.applied.midOf (p.dst / 16) (p.src / 16) } : Response) } }

/-- A line of the copy engine returns to it: the pieces that its operation takes. -/
def State.respondLine (s : State) (p : Packet) (data : List Byte) : State :=
  { s with felt := { s.felt with responses := s.felt.responses ++
    [{ prog := p.prog, dst := p.src, ctx := p.ctx, opId := p.opId, op := p.op, src := p.dst
       mid := s.bind.applied.midOf (p.dst / 16) (p.src / 16)
       pieces := p.dest.map fun d => (d.2.1, (data.drop d.1).take d.2.2) }] } }

/-- A packet is performed at its destination tile (R202 to R206); the operation ends with its last packet. -/
def State.land (s : State) (e : Env) (p : Packet) : State :=
  let vc := p.chan.vc
  let fin := fun (s : State) => if p.last then (s.remoteInc e p).ackPacket p.src p.ctx p.dst p.op else s
  let put := fun (d : List Byte) (k : State → State) => s.landWrite e p.src p.ctx vc (if d.isEmpty then [] else [(p.addr, d)]) k
  match p.kind with
  | .put => put p.data fin
  | .mcast => put p.data fin
  | .get =>
    if p.len = 0 then fin s
    else s.landRead e p.src p.ctx vc p.addr p.len fun d s => fin (s.respond p d)
  | .copyRead => s.landRead e p.src p.ctx vc p.addr p.len fun d s => fin (s.respondLine p d)
  | .conv =>
    let s := { s with felt := { s.felt with conv := convLand p s.felt.conv } }
    State.foldRounds e p.prog (s.felt.conv.length + 1) s
  | k =>
    if p.data.isEmpty then fin s
    else s.landRead e p.src p.ctx vc p.addr p.data.length fun old s =>
      let (d, sat) := atomicBytes k (p.elem == 1) old p.data
      s.landWrite e p.src p.ctx vc [(p.addr, d)] fun s =>
        let s := s.noteSat e.slot p.ctx sat
        fin (if p.kind = .rswap then s.respond p old else s)

/-- A packet passes its intermediate cluster, if it has one, where it changes to sub-channel 1 (R261). -/
def Packet.travel (p : Packet) : Packet := { p with sub := if p.mid.isSome then 1 else 0 }

/-- What stays of a packet once its copy for a tile is delivered: an MCAST's copies for the others (R273). -/
def Packet.rest (p : Packet) (dst : Nat) : List Packet :=
  let ds := p.dests.filter (· != dst)
  if ds.isEmpty then [] else [{ p with copies := ds }]

/-- Take the oldest packet of a flow, if nothing holds it (R207, R265); of an MCAST, the copy for the tile (R273). -/
def takePacket (src : Nat) (c : Ctx) (dst : Nat) : List Packet → Option (Packet × List Packet)
  | [] => none
  | p :: r =>
    if p.src == src && p.ctx == c && p.dests.contains dst then
      (if p.held || flitBad p.errs then none else some ({ p with dst := dst }, p.rest dst ++ r))
    else (takePacket src c dst r).map fun q => (q.1, p :: q.2)

/-- The second path of an MCAST's copy: along the entry row and a column where the spread reaches the tile's cluster, which
is the XY path, or from the entry cluster by the route of R260 (R273). -/
def State.copyMid (s : State) (p : Packet) (dst : Nat) : Option Nat :=
  match p.entry with
  | some m => s.bind.applied.midOf m (dst / 16)
  | none => p.mid

/-- The next packet of a flow reaches its destination tile, which performs it (R207, R208); an unclocked tile performs none
(R254). -/
def execRemoteArrival (src : Nat) (c : Ctx) (dst : Nat) (s : State) : Out :=
  if !tileOk src || !tileOk dst then .fault .noSuchUnit
  else match takePacket src c dst s.felt.packets, s.unitEnv dst c with
    | some (p, r), some e =>
      .next (({ s with felt := { s.felt with packets := r } }.flitReads p.errs).land e
        { p with mid := s.copyMid p dst }.travel)
    | _, _ => .next s

/-- A response passes its intermediate cluster, if it has one (R261). -/
def Response.travel (r : Response) : Response := { r with sub := if r.mid.isSome then 1 else 0 }

/-- Take the first response for a tile that is not its copy engine's. -/
def takeResponse (t : Nat) : List Response → Option (Response × List Response)
  | [] => none
  | p :: r =>
    if p.dst == t && p.opId.isNone then (if flitBad p.errs then none else some (p, r))
    else (takeResponse t r).map fun q => (q.1, p :: q.2)

/-- Data of a GET or old values of an RSWAP arrive and are written, and the issuing counter increments with the last of
them (R204). -/
def execGetResponse (t : Nat) (s : State) : Out :=
  if !tileOk t then .fault .noSuchUnit
  else match takeResponse t s.felt.responses with
    | none => .next s
    | some (r, rest) => match s.unitEnv t r.ctx with
      | none => .next s
      | some e =>
        let s := { s with felt := { s.felt with responses := rest } }.flitReads r.errs
        let r := r.travel
        .next (s.landWrite e r.src r.ctx r.chan.vc r.pieces fun s =>
          if r.last then s.setTile e.slot ((s.tile e.slot).complete r.ctr r.cen) else s)

/-! Acknowledgements (R265) -/

/-- Take the first acknowledged operation of a flow whose flit arrives well. -/
def dropAcked (src : Nat) (c : Ctx) (dst : Nat) : List Unacked → Option (Unacked × List Unacked)
  | [] => none
  | u :: r =>
    if u.src == src && u.ctx == c && u.dst == dst && u.acked then (if flitBad u.errs then none else some (u, r))
    else (dropAcked src c dst r).map fun q => (q.1, u :: q.2)

/-- A held packet of a flow goes once every earlier operation that travels on another channel is acknowledged. -/
def releaseHeld (src : Nat) (c : Ctx) (dst : Nat) (us : List Unacked) (ps : List Packet) : List Packet :=
  ps.map fun p =>
    if p.held && p.src == src && p.ctx == c && p.dests.contains dst then
      { p with held := us.any fun u => u.src == src && u.ctx == c && p.dests.contains u.dst && decide (u.op < p.op) &&
        u.chan != p.chan }
    else p

/-- An acknowledgement returns to the issuing interface, which releases what it held (R265). -/
def execAcknowledgement (t : Nat) (c : Ctx) (dst : Nat) (s : State) : Out :=
  if !tileOk t || !tileOk dst then .fault .noSuchUnit
  else match dropAcked t c dst s.felt.unacked with
    | none => .next s
    | some (u, us) => .next ({ s with felt := { s.felt with
        unacked := us, packets := releaseHeld t c dst us s.felt.packets } }.flitReads u.errs)

end Sys2Proof.Machine
end

