-- ==== Sys2Proof/Machine/Startup.lean ====
section
/-! DEFINITION. Start-up: supplies valid, the waves of field power-up, and what the steps up to Ready leave (R22 to R30,
R272, R289, R410, R418, R458, R460, R473 to R476). Steps 2 to 8 end one by one while no command waits. -/

namespace Sys2Proof.Machine

/-- The fields of each wave (R473). -/
def waveFields : List (List Nat) :=
  [[3, 10, 19, 13, 28, 44], [0, 1, 2, 4, 5, 6], [8, 9, 11, 7, 12, 14], [16, 17, 18, 15, 20, 21]] ++
  [[24, 25, 26, 22, 23, 29], [27, 32, 33, 30, 31, 36], [34, 35, 40, 37, 38, 39], [41, 42, 43, 45, 46, 47]]

/-! What lasts from one start-up to the next -/

/-- Retirements that start-up finds in force: never undone, whether a unit was retired for itself or with its field; a
field itself closes its fuse again (R24, R30, R290, R460). -/
def Retire.persisted (r : Retire) : Retire := { r with fields := [] }

/-- The units of the fuse map join a retirement state, a vat's port with its site (R272, R289, R475). -/
def Retire.join (r x : Retire) : Retire :=
  let add := fun (a b : List Nat) => a ++ b.filter fun k => !a.contains k
  { clusters := add r.clusters x.clusters, slots := add r.slots x.slots, links := add r.links x.links
    fields := r.fields, vatPorts := add r.vatPorts (x.vatPorts ++ x.sites.filterMap siteVat), sites := add r.sites x.sites }

/-- Security state over a start-up: slots and counters are stored, and the memories hold nothing to scrub (R397, R419,
R476). -/
def Security.restart (x : Security) : Security :=
  { x with tamperLatch := false, scrubBusy := false, violCount := 0, taintVat := [], taintSram := false }

/-- An image that passes the boot checks runs: the one verified in the inactive bank becomes active and may raise the
minimum (R410). -/
def Security.activate (x : Security) : Security :=
  match x.inactive with
  | none => x
  | some f => { x with firmware := f, svn := f.svn, svnMin := max x.svnMin f.raisedMin, inactive := none }

/-- A retired replica stays retired; the others vote, or compare when fewer than three are left (R22, R24). -/
def Control.restart (c : Control) : Control :=
  let d : Control := [Replica.cca, Replica.ccb, Replica.ccc].foldl (fun d r =>
    if c.rep r = 2 then d.setRep r 2 else d) {}
  if d.voting.length < 3 then d.voting.foldl (fun d v => d.setRep v 1) d else d

/-- A calender port that was retired, or whose site is, keeps that mark. -/
def calRestart (t : Twin) (sites : List Nat) : Twin :=
  (List.range 4).foldl (fun d k =>
    if sites.contains (calSite k) || (t.port k).retired then d.setPort k { retired := true } else d) { compat := t.compat }

/-- What stays of a host port: the host's own memory, and the messages that it has received. -/
def HostPort.restart (h : HostPort) (retired : Bool) : HostPort :=
  { mem := h.mem, images := h.images, msgs := h.msgs, link := if retired then 3 else 0 }

/-- The state at supplies valid: everything that is not stored is as after reset. -/
def State.powerOn (s : State) (r : StartupReport) : State :=
  let kept := s.bind.found.persisted.join s.bind.fused
  { pending := s.pending
    h0 := s.h0.restart (kept.sites.contains 19), h1 := s.h1.restart (kept.sites.contains 28)
    repair := s.repair
    ident := { serial := s.ident.serial, fwVersion := s.ident.fwVersion, slotId := s.ident.slotId, moduleId := s.ident.moduleId
               vendor := s.ident.vendor }
    power := { report := some r, refOk := true }
    sec := s.sec.restart
    twin := calRestart s.twin kept.sites
    bind := { found := kept, fused := s.bind.fused, fusedPkgs := s.bind.fusedPkgs }
    cc := s.cc.restart
    vats := { vats := (List.range 40).foldl (fun l v =>
      sput {} l v { rows := (s.vats.vat v).rows, port := if kept.vatPorts.contains v then 2 else 0 }) [] }
    free := s.free }

/-- Both buses are in range with precharge and reference: start-up begins (R458, R474). A switch found operated counts as
a tamper event first (R418). -/
def execSuppliesValid (r : StartupReport) (s : State) : Out :=
  if !r.wf then .fault .noSuchUnit
  else
    let s := s.powerOn r
    .next (if r.tamperOpen then s.tampered else s)

/-! Steps 2 to 8 -/

/-- An entry for a unit of the fuse map is in the log already. -/
def State.fuseLogged (s : State) (kind unit : Nat) : Bool :=
  s.repair.entries.any fun e => e.source == 0 && e.kind == kind && e.unit == unit

/-- Enter a fused unit once (R475). -/
def State.logFused (s : State) (kind unit : Nat) : State :=
  if s.fuseLogged kind unit then s else s.logRepair 0 0 kind unit

/-- Unit of a package in the repair log: the first bank of its first channel, four channels to a package (R452; log entry
46). -/
def pkgUnit (k : Nat) : Nat := k / 8 * 1024 + k % 8 * 4 * 32

/-- Report a segment short of clusters, whose entry the repair log may hold already (R28, R452). -/
def State.reportShort (s : State) (fc y : Nat) : State :=
  let f := y / 5 * 8 + fc
  if (s.bind.found.segment fc y).length < 5 && !s.bind.found.fields.contains f then
    let s := s.recordFault (pgField f) fSPARES_EXHAUSTED (y * 256 + fc)
    if s.repair.entries.any fun e => e.code == fSPARES_EXHAUSTED && e.kind == 0x10 && e.unit == f then s
    else s.logRepair fSPARES_EXHAUSTED 2 0x10 f
  else s

/-- Enter the fuse map's bad units (R452, R475). -/
def State.logFuses (s : State) : State :=
  let x := s.bind.fused
  let s := x.slots.foldl (fun s p => s.logFused 0x12 (p / 17 * 32 + p % 17)) s
  let s := x.clusters.foldl (fun s c => s.logFused 0x12 (c * 32 + 31)) s
  let s := x.links.foldl (fun s l => s.logFused 0x12 ((linkEnds l).1.1 * 32 + 17 + (linkEnds l).1.2)) s
  let s := x.sites.foldl (fun s f => s.logFused 0x11 f) s
  s.bind.fusedPkgs.foldl (fun s k => s.logFused 0x13 (pkgUnit k)) s

/-- What follows from the units that are retired before any test of this start-up (R25, R28, R30, R281): a cluster with two
retired slots or without a usable edge is retired, and a segment short of clusters is reported. -/
def State.settleUnits (s : State) : State :=
  let short := ((s.bind.found.clusters.map fun c => (c % 48 / 6, c / 48)).eraseDups)
  let s := short.foldl (fun s q => s.reportShort q.1 q.2) s
  let s := s.bind.found.slots.foldl (fun s p =>
    if s.bind.found.living (p / 17) && decide ((s.bind.found.liveSlots (p / 17)).length < 16) then
      s.retireCluster (p / 17) else s) s
  let s := s.bind.found.links.foldl (fun s l => s.isolate 50000 [(linkEnds l).1.1, (linkEnds l).2.1]) s
  s.bind.found.clusters.foldl (fun s c => s.isolate 50000 (nearClusters c)) s

/-- The pages of retired units keep their values (R427). -/
def State.loseRetired (s : State) : State :=
  let r := s.bind.found
  let s := r.clusters.foldl State.loseClusterPage s
  let s := (r.sites ++ r.vatPorts.map vatSite).foldl (fun s f => s.losePage (pgSite f)) s
  let s := (List.range 4).foldl (fun s p => if (s.twin.port p).retired then s.losePage (pgSite (calSite p)) else s) s
  [Replica.cca, Replica.ccb, Replica.ccc].foldl (fun s v =>
    if s.cc.rep v = 2 then s.losePage (pgCc v.num) else s) s

/-- Units that test bad are retired (R30, R475): tile slots, clusters and sites. -/
def State.testUnits (s : State) (r : StartupReport) : State :=
  let s := r.badSlots.foldl State.retireSlot s.settleUnits
  let s := r.badClusters.foldl State.retireCluster s
  let s := r.badSites.foldl (fun s f => s.loseSite f true) s
  (List.range 48).foldl State.siteEffects s

/-- Links that fail their training are retired, and what they leave without an edge or a site (R272, R279, R281). -/
def State.testLinks (s : State) (r : StartupReport) : State :=
  (List.range 48).foldl State.siteEffects (r.badLinks.foldl State.retireLink s)

/-- A failing row that the vat test finds takes a repair row of its bank, with an entry of source 3; a bank with none left
restricts the module (R366, R452, R474). -/
def State.repairRow (s : State) (b : Nat) : State :=
  let v := b / 1024
  let x := s.vats.vat v
  let used := sget 0 x.rows b
  if Config.repairRows b ≤ used then
    ((s.recordFault (pgVat v) fSPARES_EXHAUSTED 0).logRepair fSPARES_EXHAUSTED 2 0x13 b).restrict fSPARES_EXHAUSTED
  else { s with vats := s.vats.setVat v { x with rows := sput 0 x.rows b (used + 1) } }.logRepair fVAT_UE 3 0x13 b

/-- Vat training and test (R30, R366, R474, R475): packages up and failed, those that the fuse map names among them, the
repair log's entries of the others, the rows repaired, and a vat with no repair row left. -/
def State.testVats (s : State) (r : StartupReport) : State :=
  let s := (r.badPackages.filter fun k => !s.bind.fusedPkgs.contains k).foldl (fun s k =>
    s.logRepair fVAT_UE 1 0x13 (pkgUnit k)) s
  let vs := (List.range 40).foldl (fun l v =>
    let x := sget {} l v
    let fail := (List.range 8).foldl (fun a k => if r.badPackages.contains (v * 8 + k) || s.bind.fusedPkgs.contains (v * 8 + k) then a + 2 ^ k else a) 0
    sput {} l v { x with port := if s.bind.found.vatPorts.contains v then 2 else 1, pkgFail := fail
                         pkgUp := 255 - fail }) s.vats.vats
  let s := { s with vats := { s.vats with vats := vs, stripes := r.stripes } }
  let s := r.failingRows.foldl State.repairRow s
  r.unrepairable.foldl (fun s v =>
    ((s.recordFault (pgVat v) fSPARES_EXHAUSTED 0).logRepair fSPARES_EXHAUSTED 2 0x13 (v * 1024)).restrict
      fSPARES_EXHAUSTED) s

/-- The binding that start-up computes (R30, R476). -/
def State.firstBinding (s : State) : State :=
  let r := s.bind.found
  { s with bind := { s.bind with applied := r }
           ident := { s.ident with holes := r.holes, served := 1200 - r.holes } }.bound

/-- A condition of the restricted state that lasts (R24, R289, R476): the cause is recorded on the pages of the units
concerned too, the two vats of a pair without a port. -/
def State.reconcile (s : State) : State :=
  if s.cc.voting.length < 2 then s.restrict fCONTROL_REPLICA_LOST
  else
    let bad := (List.range 40).filter fun v => s.bind.found.vatServed v == 2
    if bad.isEmpty then s
    else (bad.foldl (fun s v => s.recordFault (pgVat v) fVAT_PORT_RETIRED (vatSite v)) s).restrict fVAT_PORT_RETIRED

/-- Bus voltages are measured: free values within 48 to 56 V. -/
def State.measureBuses (s : State) : State :=
  let mv := fun i => BitVec.ofNat 32 (48000 + (Config.freeWord (s.free + i)).toNat % 8001)
  { s with power := { s.power with busW := mv 0, busE := mv 1 }, free := s.free + 2 }

/-- STAGE goes on (R449, R474). -/
def State.stage (s : State) (n : Nat) : State := { s with ident := { s.ident with stage := n } }

/-- The step in progress ends (R474): 2 the BIST, 3 the fuse map, 4 the reconciliation and the first binding, 5 the links, 6
the vats, 7 the vote, with which the module is Ready. -/
def State.startStep (s : State) (r : StartupReport) : State :=
  match s.ident.stage with
  | 2 => s.stage 3
  | 3 => s.logFuses.stage 4
  | 4 => (s.loseRetired.testUnits r).firstBinding.stage 5
  | 5 => (s.testLinks r).firstBinding.stage 6
  | 6 => (s.testVats r).stage 7
  | 7 =>
    let s := (r.dissent.foldl State.loseReplica s).reconcile.firstBinding.measureBuses
    { s with power := { s.power with report := none }, ident := { s.ident with stage := 8, ready := true } }.setEvt pgIdent 2
  | _ => s

/-- What passes while no command waits: a step of the start-up in progress ends, once the eighth wave has come (R474);
otherwise nothing (log entries 12 and 28). -/
def State.idle (s : State) : State :=
  match s.power.report with
  | some r => if s.power.waves = 8 then s.startStep r else s
  | none => s

/-- A wave closes the fuses of its fields; one that trips opens and its field is lost (R460, R473). -/
def State.closeWave (s : State) (k : Nat) (tripped : List Nat) : State :=
  (nth [] waveFields k).foldl (fun s f =>
    if s.bind.fused.fields.contains f then s.loseField f 4
    else if tripped.contains f then s.loseField f 1
    else s.setField f { s.field f with vcore := classVolt 0 }) s

/-- The boot ROM and the loader pass the image of the first wave: it runs, and a new one shows a version of its own
(R410). -/
def State.boot (s : State) : State :=
  match s.sec.inactive with
  | none => s
  | some _ => { s with sec := s.sec.activate, free := s.free + 1
                       ident := { s.ident with fwVersion := (Config.freeWord s.free).setWidth 32 } }

/-- The boot ROM finds a failing image in the first wave, or one whose version is below the fused minimum: it is not run,
and the start-up ends there (R410, R473; log entry 47). -/
def State.bootFails (s : State) (r : StartupReport) : Bool :=
  s.power.waves == 0 && (r.badImage || decide ((match s.sec.inactive with
    | some f => f.svn
    | none => s.sec.svn) < s.sec.svnMin))

/-- A wave of field power-up falls due; after the eighth the further steps lead to Ready (R473, R474). -/
def execPowerUpWave (tripped : List Nat) (s : State) : Out :=
  if !tripped.all fieldOk then .fault .noSuchUnit
  else match s.power.report with
    | none => .next s
    | some r =>
      if s.bootFails r then
        .next ({ s with power := { s.power with report := none } }.recordFault pgSec fFW_SIG_FAIL 0)
      else
      let k := s.power.waves
      if 8 ≤ k then .next s else
      let s := (if k = 0 then s.boot else s).closeWave k (tripped ++ r.tripped)
      let s := { s with power := { s.power with waves := k + 1 } }
      .next (if k + 1 < 8 then s else s.stage 2)

end Sys2Proof.Machine
end

