-- ==== Sys2Proof/Machine/Dispatch.lean ====
section
/-! DEFINITION. The meaning of each command: one arm per constructor of Instr. -/

namespace Sys2Proof.Machine

/-- The effect of a command on everything but the queue of waiting commands. -/
def exec (i : Instr) (s : State) : Host.Outcome State Fault Refusal :=
  match i with
  | .bind p a dissent => Sys2Proof.Machine.execBind p a s dissent
  | .unbind p a dissent => Sys2Proof.Machine.execUnbind p a s dissent
  | .loadProgram p a dissent => Sys2Proof.Machine.execLoadProgram p a s dissent
  | .runSteps p a dissent => Sys2Proof.Machine.execRunSteps p a dissent s
  | .runQuery p a dissent => Sys2Proof.Machine.execRunQuery p a s dissent
  | .exportSnapshot p a dissent => Sys2Proof.Machine.execExportSnapshot p a s dissent
  | .importState p a dissent => Sys2Proof.Machine.execImportState p a s dissent
  | .attest p a dissent => Sys2Proof.Machine.execAttest p a s dissent
  | .twinJoin p a dissent => Sys2Proof.Machine.execTwinJoin p a s dissent
  | .twinLeave p a dissent => Sys2Proof.Machine.execTwinLeave p a s dissent
  | .resetCompute p a dissent => Sys2Proof.Machine.execResetCompute p a s dissent
  | .scrub p a dissent => Sys2Proof.Machine.execScrub p a s dissent
  | .ownerSet p a dissent => Sys2Proof.Machine.execOwnerSet p a s dissent
  | .slotLoad p a dissent => Sys2Proof.Machine.execSlotLoad p a s dissent
  | .slotClear p a dissent => Sys2Proof.Machine.execSlotClear p a s dissent
  | .zeroize p a dissent => Sys2Proof.Machine.execZeroize p a s dissent
  | .unsealMode p a dissent => Sys2Proof.Machine.execUnsealMode p a s dissent
  | .sealMode p a dissent => Sys2Proof.Machine.execSealMode p a s dissent
  | .cmdAbort p v => Sys2Proof.Machine.execCmdAbort p v s
  | .leaseClaim p v => Sys2Proof.Machine.execLeaseClaim p v s
  | .leaseRelease p v => Sys2Proof.Machine.execLeaseRelease p v s
  | .leaseHeartbeat p v => Sys2Proof.Machine.execLeaseHeartbeat p v s
  | .leaseTimeout p v => Sys2Proof.Machine.execLeaseTimeout p v s
  | .leaseExpiry => Sys2Proof.Machine.execLeaseExpiry s
  | .latencyTolerance p v => Sys2Proof.Machine.execLatencyTolerance p v s
  | .dumpPeriod p v => Sys2Proof.Machine.execDumpPeriod p v s
  | .chkSel p site v => Sys2Proof.Machine.execChkSel p site v s
  | .evtWrite p off v same => Sys2Proof.Machine.execEvtWrite p off v same s
  | .counterValueWrite p off size v same => Sys2Proof.Machine.execCounterValueWrite p off size v same s
  | .rcRead p off same size => Sys2Proof.Machine.execRcRead p off same s size
  | .registerWrite p off size v dissent => Sys2Proof.Machine.execRegisterWrite p off size v s dissent
  | .bar2Access p write addr data => Sys2Proof.Machine.execBar2Access p write addr data s
  | .jtagInstruction ir => Sys2Proof.Machine.execJtagInstruction ir s
  | .smbusBlockWrite data => Sys2Proof.Machine.execSmbusBlockWrite data s
  | .smbusBlockRead n => Sys2Proof.Machine.execSmbusBlockRead n s
  | .perstAssert p => Sys2Proof.Machine.execPerstAssert p s
  | .perstRelease p rate width => Sys2Proof.Machine.execPerstRelease p rate width s
  | .pcieLinkDown p => Sys2Proof.Machine.execPcieLinkDown p s
  | .d3hot p => Sys2Proof.Machine.execD3hot p s
  | .suppliesValid r => Sys2Proof.Machine.execSuppliesValid r s
  | .powerUpWave tripped => Sys2Proof.Machine.execPowerUpWave tripped s
  | .busOutOfRange h => Sys2Proof.Machine.execBusOutOfRange h s
  | .fuseTrip fields => Sys2Proof.Machine.execFuseTrip fields s
  | .refLost field => Sys2Proof.Machine.execRefLost field s
  | .tamper => Sys2Proof.Machine.execTamper s
  | .tamperScrubEnd => Sys2Proof.Machine.execTamperScrubEnd s
  | .tempSample field sensors dissent => Sys2Proof.Machine.execTempSample field sensors s dissent
  | .throttleRepeat field dissent => Sys2Proof.Machine.execThrottleRepeat field s dissent
  | .coolantSample inlet outlet flow => Sys2Proof.Machine.execCoolantSample inlet outlet flow s
  | .lifeCounterTick => Sys2Proof.Machine.execLifeCounterTick s
  | .pstateEntry dissent => Sys2Proof.Machine.execPstateEntry s dissent
  | .wake => Sys2Proof.Machine.execWake s
  | .wakeComplete failedLinks dissent => Sys2Proof.Machine.execWakeComplete failedLinks s dissent
  | .voltageSettled field dissent => Sys2Proof.Machine.execVoltageSettled field s dissent
  | .kx0 port f => Sys2Proof.Machine.execKx0 port f s
  | .kx1 port f => Sys2Proof.Machine.execKx1 port f s
  | .hello h b => Sys2Proof.Machine.execHello h b s
  | .helloRetry port => Sys2Proof.Machine.execHelloRetry port s
  | .heartbeat h state phase1 committed => Sys2Proof.Machine.execHeartbeat h state phase1 committed s
  | .heartbeatSend => Sys2Proof.Machine.execHeartbeatSend s
  | .calenderPortDown port dissent => Sys2Proof.Machine.execCalenderPortDown port s dissent
  | .leave h reason dissent => Sys2Proof.Machine.execLeave h reason s dissent
  | .watermark h w dissent => Sys2Proof.Machine.execWatermark h w s dissent
  | .digest h body => Sys2Proof.Machine.execDigest h body s
  | .watermarkTimeout => Sys2Proof.Machine.execWatermarkTimeout s
  | .leaveWaitEnd dissent => Sys2Proof.Machine.execLeaveWaitEnd s dissent
  | .joinTimeout => Sys2Proof.Machine.execJoinTimeout s
  | .region h body => Sys2Proof.Machine.execRegion h body s
  | .steplog h body => Sys2Proof.Machine.execSteplog h body s
  | .roundEnd h round left => Sys2Proof.Machine.execRoundEnd h round left s
  | .switch h first => Sys2Proof.Machine.execSwitch h first s
  | .nop t c => Sys2Proof.Machine.execNop t c s
  | .seti t c => Sys2Proof.Machine.execSeti t c s
  | .addi t c => Sys2Proof.Machine.execAddi t c s
  | .loop t c => Sys2Proof.Machine.execLoop t c s
  | .tickWait t c => Sys2Proof.Machine.execTickWait t c s
  | .stepEnd t c => Sys2Proof.Machine.execStepEnd t c s
  | .ctrSet t c same => Sys2Proof.Machine.execCtrSet t c same s
  | .ctrWait t c => Sys2Proof.Machine.execCtrWait t c s
  | .engIssue t c => Sys2Proof.Machine.execEngIssue t c s
  | .reamOperation t c => Sys2Proof.Machine.execReamOperation t c s
  | .engineCompletion t e => Sys2Proof.Machine.execEngineCompletion t e s
  | .copy t c => Sys2Proof.Machine.execCopy t c s
  | .permute t c => Sys2Proof.Machine.execPermute t c s
  | .gather t c => Sys2Proof.Machine.execGather t c s
  | .scatter t c => Sys2Proof.Machine.execScatter t c s
  | .scatterAdd t c => Sys2Proof.Machine.execScatterAdd t c s
  | .copyCompletion t => Sys2Proof.Machine.execCopyCompletion t s
  | .vatResponse t idx => Sys2Proof.Machine.execVatResponse t idx s
  | .vconv t c => Sys2Proof.Machine.execVconv t c s
  | .add t c => Sys2Proof.Machine.execAdd t c s
  | .sub t c => Sys2Proof.Machine.execSub t c s
  | .mul t c => Sys2Proof.Machine.execMul t c s
  | .fma t c => Sys2Proof.Machine.execFma t c s
  | .max t c => Sys2Proof.Machine.execMax t c s
  | .min t c => Sys2Proof.Machine.execMin t c s
  | .scale2 t c => Sys2Proof.Machine.execScale2 t c s
  | .maxabs t c => Sys2Proof.Machine.execMaxabs t c s
  | .sum t c => Sys2Proof.Machine.execSum t c s
  | .move t c => Sys2Proof.Machine.execMove t c s
  | .vring t c => Sys2Proof.Machine.execVring t c s
  | .adamw t c => Sys2Proof.Machine.execAdamw t c s
  | .sgdm t c => Sys2Proof.Machine.execSgdm t c s
  | .logpack t c => Sys2Proof.Machine.execLogpack t c s
  | .vtopk t c => Sys2Proof.Machine.execVtopk t c s
  | .vcomp t c => Sys2Proof.Machine.execVcomp t c s
  | .censusClear t c => Sys2Proof.Machine.execCensusClear t c s
  | .censusStore t c => Sys2Proof.Machine.execCensusStore t c s
  | .censusFlags t c => Sys2Proof.Machine.execCensusFlags t c s
  | .vectorCompletion t => Sys2Proof.Machine.execVectorCompletion t s
  | .put t c => Sys2Proof.Machine.execPut t c s
  | .get t c => Sys2Proof.Machine.execGet t c s
  | .radd t c => Sys2Proof.Machine.execRadd t c s
  | .rmax t c => Sys2Proof.Machine.execRmax t c s
  | .rswap t c => Sys2Proof.Machine.execRswap t c s
  | .mcast t c => Sys2Proof.Machine.execMcast t c s
  | .convAdd t c => Sys2Proof.Machine.execConvAdd t c s
  | .remoteArrival src c dst => Sys2Proof.Machine.execRemoteArrival src c dst s
  | .getResponse t => Sys2Proof.Machine.execGetResponse t s
  | .acknowledgement t c dst => Sys2Proof.Machine.execAcknowledgement t c dst s
  | .tickWaveLaunch dissent => Sys2Proof.Machine.execTickWaveLaunch dissent s
  | .waveArrival cluster => Sys2Proof.Machine.execWaveArrival cluster s
  | .tickArrival cluster => Sys2Proof.Machine.execTickArrival cluster s
  | .replayRequest link forward good lane seq => Sys2Proof.Machine.execReplayRequest link forward good s lane seq
  | .linkRetrainDone link pass => Sys2Proof.Machine.execLinkRetrainDone link pass s
  | .bindingApplied dissent => Sys2Proof.Machine.execBindingApplied dissent s
  | .sramWriteBack slot addr => Sys2Proof.Machine.execSramWriteBack slot addr s
  | .vatLineRequest v => Sys2Proof.Machine.execVatLineRequest v s
  | .vatWriteBack v => Sys2Proof.Machine.execVatWriteBack v s
  | .patrol v => Sys2Proof.Machine.execPatrol v s
  | .feedFillPoll dissent => Sys2Proof.Machine.execFeedFillPoll s dissent
  | .stepBegin dissent => Sys2Proof.Machine.execStepBegin s dissent
  | .hostReadCompletion slot entry wire => Sys2Proof.Machine.execHostReadCompletion slot entry wire s
  | .streamEntry slot idx => Sys2Proof.Machine.execStreamEntry slot idx s
  | .viewEntry idx => Sys2Proof.Machine.execViewEntry idx s
  | .stepSeal dissent => Sys2Proof.Machine.execStepSeal dissent s
  | .phase2Chunk => Sys2Proof.Machine.execPhase2Chunk s
  | .commit dissent => Sys2Proof.Machine.execCommit dissent s
  | .rollForward dissent => Sys2Proof.Machine.execRollForward s dissent
  | .qtabFillPoll q dissent => Sys2Proof.Machine.execQtabFillPoll q s dissent
  | .queryOutput q => Sys2Proof.Machine.execQueryOutput q s
  | .counterSnapshot => Sys2Proof.Machine.execCounterSnapshot s
  | .snapshotLatch page => Sys2Proof.Machine.execSnapshotLatch page s
  | .dumpWritten => Sys2Proof.Machine.execDumpWritten s
  | .d0 p => Sys2Proof.Machine.execD0 p s
  | .firmwareUpdate p image svn raisedMin => Sys2Proof.Machine.execFirmwareUpdate p image svn raisedMin s
  | .servicePortPacket site packet check => Sys2Proof.Machine.execServicePortPacket site packet check s
  | .busRange h mv => Sys2Proof.Machine.execBusRange h mv s
  | .refOk => Sys2Proof.Machine.execRefOk s

end Sys2Proof.Machine
end

