-- ==== Sys2Proof/Safety.lean ====
section
/-! DEFINITION. What counts as a safe run, and the terms in which statements say what a command leaves unchanged. -/

namespace Sys2Proof.Machine

/-- A step completes: it neither faults nor refuses. -/
def Completes (s : State) : Prop := ∃ t, step s = .next t

/-- Once the module is ready no start-up is in progress, its stage is 8, and the logical clusters served and the holes are
all 1,200 (R449, R474, R476). -/
def IdentInv (s : State) : Prop :=
  s.ident.ready = true → s.power.report = none ∧ s.ident.stage = 8 ∧ s.ident.holes + s.ident.served = 1200

/-! Pages and ports -/

/-- Every page but the listed ones keeps all but its block counters. -/
def PagesKeep (s u : State) (but : List Nat) : Prop := ∀ k, k ∉ but → u.page k = { s.page k with ctrs := (u.page k).ctrs }

/-- A host port changed in nothing but the MSI-X messages sent and held. -/
def PortKeeps (a b : HostPort) : Prop := b = { a with pba := b.pba, msgs := b.msgs }

/-- Event bits are set on a page, unless its unit is lost (R370, R427). -/
def EvtOn (s u : State) (k bits : Nat) : Prop :=
  (s.page k).lost = false → (u.page k).evt = (s.page k).evt ||| BitVec.ofNat 32 bits

/-- A page has taken one fault: FAULT, CODE, FAULT_INFO and COUNT (R370, R429), unless its unit is lost (R427). -/
def FaultOn (s u : State) (k code info : Nat) : Prop :=
  (s.page k).lost = false →
    (u.page k).evt = (s.page k).evt ||| 1#32 ∧ (u.page k).code = code ∧ (u.page k).info = BitVec.ofNat 32 info ∧
    (u.page k).count = satAdd 16 (s.page k).count 1 ∧ (u.page k).evtEn = (s.page k).evtEn

/-- The ports and pages that a command of port `p` leaves: the other port but for messages, `p` but for its command page
and messages, every page but the listed ones. -/
def HostFrame (s u : State) (p : HPort) (ks : List Nat) : Prop :=
  PortKeeps (s.port p.other) (u.port p.other) ∧ PortKeeps { s.port p with cmd := (u.port p).cmd } (u.port p) ∧
  PagesKeep s u ks

/-- The ports and pages that an event of the module leaves: both ports but for messages, every page but the listed
ones. -/
def EventFrame (s u : State) (ks : List Nat) : Prop := PortKeeps s.h0 u.h0 ∧ PortKeeps s.h1 u.h1 ∧ PagesKeep s u ks

/-- Nothing changes but MSI-X messages, the listed pages and block counters. -/
def OnlyEvents (s u : State) (ks : List Nat) : Prop :=
  EventFrame s u ks ∧ u = { s with h0 := u.h0, h1 := u.h1, pages := u.pages }

/-! Host commands -/

/-- A command as a port stages it (R436). -/
def stagedPage (s : State) (p : HPort) (op : Nat) (a : CmdArgs) : CmdPage := { (s.port p).cmd with op := op, args := a }

/-- CMD_GO of a port is accepted, and the command may begin at once (R24, R418, R432, R437, R470). -/
def Accepts (s : State) (p : HPort) : Prop :=
  s.reaches p = true ∧ (s.port p).d3 = false ∧ s.lease.owner = p.num + 1 ∧ s.run = none ∧ s.ident.ready = true ∧
  s.cc.restricted = none ∧ s.sec.scrubBusy = false ∧ s.power.pstate = 0

/-- The running command as CMD_GO latches it (R437). -/
def latched (s : State) (p : HPort) (op : Nat) (a : CmdArgs) : Running :=
  { op := op, port := p, page := stagedPage s p op a }

/-- The training run once no command runs. -/
def Train.idle (t : Train) : Train := { t with running := false, ending := none, feedWait := false }

/-- The fields that the end of a RUN_STEPS or RUN_QUERY leaves idle take the power state in force (R468). -/
def Rested (s u : State) : Prop :=
  ∀ f, u.field f = if f < 48 ∧ State.idleField { s with run := none, train := s.train.idle } f = true
    then (s.field f).rest s.power.pstate else s.field f

/-- The command of port `p` has ended: no command runs, the command page holds the results (R436, R438), DONE is set. -/
def Ended (s u : State) (p : HPort) (op : Nat) (a : CmdArgs) (status ret0 ret1 : Nat) : Prop :=
  u.run = none ∧ u.train.running = false ∧
  (u.port p).cmd = { stagedPage s p op a with
    resOp := op, status := status, ret0 := BitVec.ofNat 64 ret0, ret1 := BitVec.ofNat 64 ret1, ret2 := 0, ret3 := 0 } ∧
  ((s.page (pgCmd p)).lost = false → (u.page (pgCmd p)).evt.getLsbD 1 = true)

/-- The rows that stage a command and write CMD_GO, with their opcodes (R439); `d` is the replica that differs in the vote on
the command (R22). -/
def hostRows (p : HPort) (a : CmdArgs) (d : Option Replica := none) : List (Nat × Instr) :=
  [(0x01, .bind p a d), (0x02, .unbind p a d), (0x03, .loadProgram p a d), (0x04, .runSteps p a d), (0x05, .runQuery p a d),
   (0x06, .exportSnapshot p a d), (0x07, .importState p a d), (0x09, .attest p a d), (0x0A, .twinJoin p a d),
   (0x0B, .twinLeave p a d), (0x0C, .resetCompute p a d), (0x0D, .scrub p a d)]

/-- The rows of KEY_INSTALL, with the OP of their packages (R403). -/
def keyRows (p : HPort) (a : CmdArgs) (d : Option Replica := none) : List (Nat × Instr) :=
  [(1, .ownerSet p a d), (2, .slotLoad p a d), (3, .slotClear p a d), (4, .zeroize p a d), (5, .unsealMode p a d),
   (6, .sealMode p a d)]

/-- Every row that writes CMD_GO, with its opcode: the rows of KEY_INSTALL run for a package of their own OP, or of no OP
(log entry 13). -/
def goRows (s : State) (p : HPort) (a : CmdArgs) (d : Option Replica := none) : List (Nat × Instr) :=
  hostRows p a d ++ ((keyRows p a d).filter fun r =>
    let k := leNat (memRead (s.port p).mem a.a0.toNat 2)
    k == r.1 || k == 0 || decide (6 < k)).map fun r => (0x08, r.2)

/-- Offsets of the read-to-clear registers (R364, R419, R451, R481, R493). -/
def readClears (off : Nat) : Bool :=
  [0x5124, 0x6110, 0x7130, 0x7138].contains off ||
  (List.range 48).any (fun f => off == 0x100210 + 0x1000 * f || off == 0x200104 + 0x1000 * f || off == 0x200108 + 0x1000 * f) ||
  (List.range 40).any fun v => off == 0xA00108 + 0x1000 * v

/-! Tiles -/

/-- Nothing changes but one tile slot, block counters, tag records and the number of free values drawn. -/
def TileFrame (s u : State) (slot : Nat) : Prop :=
  u = { s with tiles := u.tiles, pages := u.pages, ctr := u.ctr, free := u.free } ∧
  (∀ q, q ≠ slot → u.tile q = s.tile q) ∧ PagesKeep s u [] ∧
  u.ctr = { s.ctr with tags := u.ctr.tags, tagDropped := u.ctr.tagDropped, dropSince := u.ctr.dropSince }

/-- Slot `slot` becomes `t`, but that corrected words may fall due for their write-back (R356); the rest is the frame of
`TileFrame`. -/
def TileBecomes (s u : State) (slot : Nat) (t : Tile) : Prop :=
  TileFrame s u slot ∧ u.tile slot = { t with sram := { t.sram with due := (u.tile slot).sram.due } }

/-- The next word of context `c` of tile `t` is that of `e`, of an opcode (R178, R179). -/
def WordAt (s : State) (t : Nat) (c : Ctx) (op : Nat) (e : Env) : Prop :=
  tileOk t = true ∧ s.fetch t c = .word e ∧ e.op = op

/-- An issue word that its unit can take: room in the unit's queue (R187), its block in the SRAM (R181), no memory error
in the tile (R173). -/
def IssueAt (s : State) (t : Nat) (c : Ctx) (op : Nat) (full : Env → State → Bool) (e : Env) (b : Issue) : Prop :=
  WordAt s t c op e ∧ (s.tile e.slot).sram.errs = [] ∧ full e s = false ∧ s.block e = .ok b

/-- The issuing tile once its context has gone on to the next word. -/
def advanced (s : State) (e : Env) : Tile := (s.tile e.slot).setCtx e.c (s.ctxOf e).advance

/-- An operation of a unit, but for the requests that it still has to make and those that are out. -/
def UnitOp.core (o : UnitOp) : UnitOp := { o with left := 0, todo := [] }

/-- Slot `slot` becomes `t` as under `TileBecomes`, its copy and vector operations make their requests, and line requests
enter queues of vats; nothing else of a vat changes. -/
def TileAsks (s u : State) (slot : Nat) (t : Tile) : Prop :=
  TileFrame { s with vats := u.vats } u slot ∧ u.vats = { s.vats with vats := u.vats.vats } ∧
  (∀ v, u.vats.vat v = { s.vats.vat v with
    qStream := (u.vats.vat v).qStream, qC1 := (u.vats.vat v).qC1, qOther := (u.vats.vat v).qOther }) ∧
  u.tile slot = { t with
    sram := { t.sram with due := (u.tile slot).sram.due }, copyQ := (u.tile slot).copyQ, vecQ := (u.tile slot).vecQ } ∧
  (u.tile slot).copyQ.map UnitOp.core = t.copyQ.map UnitOp.core ∧
  (u.tile slot).vecQ.map UnitOp.core = t.vecQ.map UnitOp.core

/-- A vector word whose checks give job `j`, and which meets no access of another unit. One that runs at once (no operation
before it waits, it reads only the tile and writes only the tile, outside code and descriptor regions): the context goes on,
the results are stored, the census slot counts them, SAT is set under R198, and the operation waits in the queue to report
completion. One that reads vat space, or follows one that waits, stores nothing yet: the context goes on and the operation
waits in the queue. -/
def VecIssues (row : Nat → Ctx → Instr) (op : Nat) (sub : Option Nat) (chk : State → Env → VArgs → Except TFault VJob) :
    Prop :=
  ∀ (s : State) (t : Nat) (c : Ctx) (e : Env) (b : Issue) (j : VJob) (o : VOut),
    IssueAt s t c op vecFull e b → allZero (bytesAt b.blk 32 32) = true → (∀ k, sub = some k → fld e.word 42 37 = k) →
    chk s e (VArgs.parse e.word b) = .ok j → (s.tile e.slot).races .vector (s.vunit e b j o false) = false →
    ((∀ q ∈ (s.tile e.slot).vecQ, q.waiting = false) → (∀ r ∈ j.reads, r.1 = false) → j.run s = (o, none) →
      (∀ w ∈ o.ws, w.1 = false) → s.writable e 9 (o.rangesIn false) = .ok () →
      ∃ u, exec (row t c) s = .next u ∧
        TileBecomes s u e.slot
          (let a := advanced s e
           let k := { a with
             sram := a.sram.writes (o.ws.map fun (w : Bool × Nat × List Byte) => w.2)
             census := match o.clear with
               | some k => sput {} a.census k {}
               | none => a.census
             digests := match o.digest with
               | some (d, v) => sput {} a.digests d v
               | none => a.digests }
           { k.countCensus (VArgs.parse e.word b).cslot o.cls with
             vecQ := a.vecQ ++ [s.vunit e b j o false], nextId := a.nextId + 1 }.setSat e.c o.sat)) ∧
    (((∃ q ∈ (s.tile e.slot).vecQ, q.waiting = true) ∨ vreads e (s.tile e.slot).nextId j ≠ []) → (j.run s).1 = o →
      ∃ u, exec (row t c) s = .next u ∧
        TileAsks s u e.slot
          (let a := advanced s e
           { a with vecQ := a.vecQ ++ [s.vunit e b j o true], nextId := a.nextId + 1 }))

/-- An engine operation is done: the results `os` are stored and counted, their slots kept, and the operation waits in the
engine's queue to report completion. -/
def EngDone (s u : State) (e : Env) (j : EngJob) (os : List OutElem) (rows : Nat) (sat : Bool) : Prop :=
  let a := advanced s e
  let ws := os.flatMap fun o => o.spill ++ o.out
  let g := s.engine e j.x.e
  let k := ({ a with sram := a.sram.writes ws }.countCensus j.x.cslot (os.flatMap fun (o : OutElem) => o.cls)).setSat e.c
    (sat || os.any fun o => o.sat)
  let g' : Engine := { g with slots := os.foldl (fun m o => sput {} m o.slot o.st) g.slots }
  let g' := g'.push (s.engUnit e j os rows) (if j.x.fin then none else some (j.x.last j.mode))
  TileBecomes s u e.slot { k with engines := sput {} k.engines j.x.e g' }

/-- The operation that a copy word starts. -/
def CopyJob.unit (s : State) (e : Env) (b : Issue) (j : CopyJob) (wait : Bool) : UnitOp :=
  { e.unitOp (s.tile e.slot).nextId (s.copyDst e j) with
    vdst := if j.dst.vat then j.dst.ranges else []
    ext := j.ext, waiting := wait, word := e.word, pc := e.pc, xa := b.xa, xb := b.xb, blk := b.blk }

/-- A copy word with operation `op` that passes its checks and meets no access of another unit. -/
def CopyAt (s : State) (t : Nat) (c : Ctx) (op : Nat) (e : Env) (b : Issue) (j : CopyJob) : Prop :=
  IssueAt s t c 0x09 copyFull e b ∧ leAt b.blk 12 1 = op ∧ copyReservedOk e.word b.blk (CopyArgs.parse b.blk) = true ∧
  s.copyCheck e b (CopyArgs.parse b.blk) = .ok j ∧ (s.tile e.slot).races .copy (j.unit s e b false) = false

/-- A copy word. On an idle engine one that `ok` allows, with both sides in the tile, is performed: the memory becomes
`mem`, SAT is set where an add saturates, and the operation waits to report completion; one that `vat` allows moves nothing
yet and asks for the lines that it reads or writes in vat space. On a busy engine either waits for its turn. -/
def CopyIssues (row : Nat → Ctx → Instr) (op : Nat) (ok vat : State → Env → CopyJob → Prop)
    (mem : EccMem → Env → CopyJob → EccMem × Bool) : Prop :=
  ∀ (s : State) (t : Nat) (c : Ctx) (e : Env) (b : Issue) (j : CopyJob), CopyAt s t c op e b j →
    ((s.tile e.slot).copyQ = [] → j.src.vat = false → j.dst.vat = false → ok s e j →
      ∃ u, exec (row t c) s = .next u ∧
        TileBecomes s u e.slot
          (let a := advanced s e
           let r := mem a.sram e j
           { a with sram := r.1, nextId := a.nextId + 1, copyQ := [j.unit s e b false] }.setSat e.c r.2)) ∧
    ((s.tile e.slot).copyQ = [] → vat s e j →
      ∃ u, exec (row t c) s = .next u ∧
        TileAsks s u e.slot
          (let a := advanced s e
           { a with nextId := a.nextId + 1, copyQ := [j.unit s e b false] })) ∧
    ((s.tile e.slot).copyQ ≠ [] →
      ∃ u, exec (row t c) s = .next u ∧
        TileBecomes s u e.slot
          (let a := advanced s e
           { a with nextId := a.nextId + 1, copyQ := a.copyQ ++ [j.unit s e b true] }))

/-- The operation that a remote word sends to tile `d`, but for its channel and hold (R250). A converging add's carries the
tree's address and lane and the operand's length (R206, R263). -/
def packetOf (s : State) (e : Env) (x : RArgs) (d : Nat) : Packet :=
  let n := s.localLen e x
  let entry := if x.mcast then entryCluster (e.t / 16) (e.rectClusters x) else none
  { prog := e.prog, src := e.t, ctx := e.c, dst := d, kind := kindOf x.op
    addr := if x.conv then (s.treeHead e x).2 else x.raddr, lane := if x.conv then (s.treeHead e x).1 else 0
    data := if x.isGet then [] else (s.tile e.slot).sram.read x.laddr n, len := if x.conv then n else x.len
    rctr := x.rctr, ren := x.ren
    elem := x.elem, ret := if x.isGet then x.laddr else x.ret, ctr := e.ctr, cen := e.cen, tree := x.tree, ord := x.ord
    round := sget 0 s.felt.rounds (ordKey e.prog x.tree x.ord), op := (s.tile e.slot).nextId
    mid := s.bind.applied.midOf (e.t / 16) (entry.getD (d / 16)), entry := entry }

/-- A remote word that passes its checks and whose source no operation in flight writes (R200 to R206, R210): its packets of
at most 512 bytes leave, to each destination tile, of an MCAST one to the entry cluster with the tiles that get copies (R273),
and its issuing counter increments unless data must return. Each destination is to acknowledge it, but that of an operation
that the express channel takes (R263, R265). -/
def RemoteIssues (row : Nat → Ctx → Instr) (op : Nat) : Prop :=
  ∀ (s : State) (t : Nat) (c : Ctx) (e : Env) (b : Issue),
    let x := RArgs.parse e.word b
    let n := s.localLen e x
    let ds := s.targets e x
    IssueAt s t c op feltFull e b → remoteReservedOk e.word b x = true → s.remoteCheck e x = .ok () →
    (x.isGet = true ∨ n = 0 ∨ (s.tile e.slot).written .outside [(x.laddr, n)] = false) →
    ∃ u ps us, exec (row t c) s = .next u ∧
      ps.map (fun p => { p with chan := .request, held := false }) =
        (if x.mcast then (if ds = [] then [] else ({ packetOf s e x (ds.headD 0) with copies := ds } : Packet).split)
         else ds.flatMap (fun d => (packetOf s e x d).split)) ∧
      (us.map (fun k => k.dst) = ds ∨ (us = [] ∧ x.len = 0 ∧ x.ren = true ∧ op ∈ [0x20, 0x21])) ∧
      us.all (fun k => k.src == e.t && k.ctx == e.c && !k.acked && k.op == (s.tile e.slot).nextId) = true ∧
      u.felt = { s.felt with
        packets := s.felt.packets ++ ps, unacked := s.felt.unacked ++ us
        rounds := if x.conv then sput 0 s.felt.rounds (ordKey e.prog x.tree x.ord)
          (sget 0 s.felt.rounds (ordKey e.prog x.tree x.ord) + 1) else s.felt.rounds } ∧
      TileBecomes { s with felt := u.felt } u e.slot
        (let a := { advanced s e with nextId := (s.tile e.slot).nextId + 1 }
         if 0 < x.len ∧ (x.isGet ∨ x.swap) then a else a.complete e.ctr e.cen)

end Sys2Proof.Machine
end

