-- ==== Sys2Proof/Certificates/Slice0/Obligations.lean ====
section
/-! DEFINITION. The statements for the provers. -/

open Sys2Proof Sys2Proof.Machine

/-! The queue, reset, and what every command keeps -/

/-- A step runs the command at the front of the queue on the queue's rest; with none waiting a start-up in progress takes its
next step, and otherwise the module stays as it is, which is the model's choice (log entries 12 and 28). -/
def Obligations.StepRunsFront : Prop :=
  (∀ (c : Instr) (q : List Instr) (s : State), step { s with pending := c :: q } = exec c { s with pending := q }) ∧
  (∀ s : State, s.pending = [] → step s = .next s.idle) ∧
  ∀ s : State, s.power.report = none → s.idle = s

/-- Reset leaves every page's EVT, EVT_EN, COUNT, CODE, FAULT_INFO and counters at 0, no lease, a timeout of 1,000 ms and no
timer, tolerance, power state, POWER_W and every field's current 0, start-up stage 1 and not READY, sealed mode without owner
or keys, the snapshot period 0, no program loaded or bound, no command running or waiting, and in every tile both contexts
idle with registers, flags and counters 0 (R397, R419, R429, R433, R436, R446, R449, R450, R469, R481, R489, R493). That no owner and no key is set, and what an
idle context holds, is the model's choice (log entry 2). -/
def Obligations.ResetValues : Prop :=
  let s := State.reset
  s.pending = [] ∧ s.run = none ∧
  (∀ k, (s.page k).evt = 0 ∧ (s.page k).evtEn = 0 ∧ (s.page k).count = 0 ∧ (s.page k).code = 0 ∧ (s.page k).info = 0 ∧
    ∀ i, (sget {} (s.page k).ctrs i : Counter) = { satd := false, mode := false, evsel := 0, value := 0 }) ∧
  s.lease.owner = 0 ∧ s.lease.timeout = 1000 ∧ s.lease.remain = 0 ∧ s.power.tolerance = 0 ∧ s.power.pstate = 0 ∧
  s.power.watts = 0 ∧ (∀ f, (s.field f).inMa = 0) ∧ s.ident.stage = 1 ∧ s.ident.ready = false ∧ s.sec.isSealed = true ∧ s.sec.owner = none ∧ (∀ i, s.sec.slot i = none) ∧
  s.ctr.regs.period = 0 ∧ (∀ i, s.prog i = none) ∧
  ∀ t c, ((s.tile t).ctx c).run = .idle ∧ ((s.tile t).ctx c).flags = 0 ∧ (∀ i, ((s.tile t).ctx c).reg i = 0) ∧
    ∀ i, sget 0 (s.tile t).ctrs i = 0

/-- No command changes the queue of waiting commands: only a step takes from it. -/
def Obligations.ExecKeepsQueue : Prop :=
  ∀ (c : Instr) (s t : State), exec c s = .next t → t.pending = s.pending

/-- Every step keeps `IdentInv`: once the module is ready, no start-up is in progress, its stage is 8, and SERVED and HOLES make
up the 1,200 logical clusters. -/
def Obligations.StepKeepsIdent : Prop := ∀ s t : State, IdentInv s → step s = .next t → IdentInv t

/-- `IdentInv` holds after reset. -/
def Obligations.ResetIdent : Prop := IdentInv State.reset

/-- The life counter advances by LIFE_COUNTER_TICK alone, by 1 modulo 2^64, and that command changes nothing else (R452) but
POWER_W, which is measured anew: the model's choice (log entry 29). -/
def Obligations.LifeCounter : Prop :=
  (∀ (c : Instr) (s t : State), exec c s = .next t → c ≠ .lifeCounterTick → t.repair.life = s.repair.life) ∧
  ∀ s : State, ∃ w, exec .lifeCounterTick s =
    .next { s with repair := { s.repair with life := (s.repair.life + 1) % 2 ^ 64 }
                   power := { s.power with watts := w }, free := s.free + 1 }

/-- No command lowers TAMPER_COUNT, which saturates at 65,535, or the minimum security version (R410, R418, R419). -/
def Obligations.SecurityNeverLowers : Prop :=
  ∀ (c : Instr) (s t : State), exec c s = .next t →
    min s.sec.tamperCount 65535 ≤ t.sec.tamperCount ∧ s.sec.svnMin ≤ t.sec.svnMin

/-- Every command whose operands name existing units completes, but a debug instruction of JTAG in maintenance mode,
which R416 opens without saying what it does. -/
def Obligations.WellFormedCompletes : Prop :=
  ∀ (c : Instr) (s : State), c.wf = true → (∀ n, c = .jtagInstruction (.debug n) → s.sec.isSealed = true) →
    ∃ t, exec c s = .next t

/-! Host commands -/

/-- CMD_GO of a port that does not hold the lease is dropped: LEASE_NOT_HELD with the register's offset on the port's
own page, and no command runs or ends (R432, R437). While a command runs or the module is not ready, a CMD_GO of the lease
holder is refused with CMD_BUSY, and the running command goes on (R437). Either leaves the rest of the module as it was, but
for the staged command, whether or not a replica differs. A command on which a replica differs while fewer than three vote is
not accepted: the module is restricted with CONTROL_REPLICA_LOST and no command runs (R22, R23). The model's choices: CMD_BUSY
with FAULT_INFO 0 (log entry 11), a package whose OP is no row's runs under any row of KEY_INSTALL (log entry 13), a command is
staged also while a tamper scrub runs (log entry 23). -/
def Obligations.CommandRefused : Prop :=
  (∀ (s : State) (p : HPort) (a : CmdArgs) (d : Option Replica), ∀ r ∈ goRows s p a d, s.reaches p = true →
     s.lease.owner ≠ p.num + 1 →
     ∃ u, exec r.2 s = .next u ∧ u = { s with h0 := u.h0, h1 := u.h1, pages := u.pages } ∧
       (u.port p).cmd = stagedPage s p r.1 a ∧ HostFrame s u p [pgCmd p] ∧
       FaultOn s u (pgCmd p) fLEASE_NOT_HELD (0x1148 + 0x1000 * p.num)) ∧
  (∀ (s : State) (p : HPort) (a : CmdArgs) (d : Option Replica), ∀ r ∈ goRows s p a d, s.reaches p = true →
     s.lease.owner = p.num + 1 → (s.run.isSome = true ∨ s.ident.ready = false) →
     ∃ u, exec r.2 s = .next u ∧ u = { s with h0 := u.h0, h1 := u.h1, pages := u.pages } ∧
       (u.port p).cmd = stagedPage s p r.1 a ∧ HostFrame s u p [pgCmd p] ∧ FaultOn s u (pgCmd p) fCMD_BUSY 0) ∧
  ∀ (s : State) (p : HPort) (a : CmdArgs) (d : Replica), ∀ r ∈ goRows s p a (some d), s.reaches p = true →
     s.lease.owner = p.num + 1 → s.run = none → s.ident.ready = true → s.cc.restricted = none → s.cc.rep d ≠ 2 →
     s.cc.voting.length ≠ 3 →
     ∃ u, exec r.2 s = .next u ∧ u.cc.restricted = some fCONTROL_REPLICA_LOST ∧ u.run = none ∧
       (u.port p).cmd = stagedPage s p r.1 a ∧ u.lease = s.lease

/-- BIND of a loaded program to a region on the grid, and UNBIND, run and wait for the binding computation (R36, R440).
RUN_STEPS of COUNT steps, and RUN_QUERY of COUNT queries, that pass their checks run: RUN_STEPS until the step FIRST + COUNT
− 1, and each serves the query slots of CMD_FLAGS; with COUNT 0, which asks for nothing, either ends at once with status 0
(R13, R440, R444, R445; log entry 33). A BIND of an empty slot ends with DESC_INVALID, of a region beyond the grid with
DESC_RANGE, and a run that fails a check with that check's code; none of them begins anything. The end of a run leaves the
idle fields in the power state in force (R468). The returns that no rule names are 0 (log entry 33). -/
def Obligations.RunsAndBindings : Prop :=
  (∀ (s : State) (p : HPort) (a : CmdArgs), Accepts s p → a.flags = 0 → a.a0.toNat < 4 →
     (∀ g, s.prog a.a0.toNat = some g → a.a1.toNat + g.image.w ≤ 40 → a.a2.toNat + g.image.h ≤ 30 → a.a1.toNat < 40 →
         a.a2.toNat < 30 →
       ∃ u, exec (.bind p a) s = .next u ∧
         u = { s with h0 := u.h0, h1 := u.h1, pages := u.pages, run := some { latched s p 0x01 a with begun := true }
                      bind := { s.bind with req := some (.bind a.a0.toNat a.a1.toNat a.a2.toNat) } } ∧
         (u.port p).cmd = stagedPage s p 0x01 a ∧ HostFrame s u p []) ∧
     (∀ c, (s.prog a.a0.toNat = none ∧ c = fDESC_INVALID ∧ a.a1.toNat < 40 ∧ a.a2.toNat < 30) ∨
         (∃ g, s.prog a.a0.toNat = some g ∧ c = fDESC_RANGE ∧ a.a1.toNat < 40 ∧ a.a2.toNat < 30 ∧
           (40 < a.a1.toNat + g.image.w ∨ 30 < a.a2.toNat + g.image.h)) →
       ∃ u, exec (.bind p a) s = .next u ∧ Ended s u p 0x01 a c 0 0 ∧ HostFrame s u p [pgCmd p] ∧
         u = { s with h0 := u.h0, h1 := u.h1, pages := u.pages, train := s.train.idle }) ∧
      ∃ u, exec (.unbind p a) s = .next u ∧
         u = { s with h0 := u.h0, h1 := u.h1, pages := u.pages, run := some { latched s p 0x02 a with begun := true }
                      bind := { s.bind with req := some (.unbind a.a0.toNat) } } ∧
         (u.port p).cmd = stagedPage s p 0x02 a ∧ HostFrame s u p []) ∧
  (∀ (s : State) (p : HPort) (a : CmdArgs), Accepts s p → a.flags &&& 0xFFFFFFF1#32 = 0 →
     (s.stepsFault { latched s p 0x04 a with begun := true } = none →
       ∃ u, exec (.runSteps p a none) s = .next u ∧
         (if a.a1 = 0 then Ended s u p 0x04 a 0 s.train.committed 0 ∧ HostFrame s u p [pgCmd p] ∧ Rested s u ∧
           u = { s with h0 := u.h0, h1 := u.h1, pages := u.pages, fields := u.fields, train := s.train.idle }
         else u = { s with h0 := u.h0, h1 := u.h1, pages := u.pages, run := some { latched s p 0x04 a with begun := true }
                           queries := u.queries
                           train := { s.train with running := true, last := a.a0.toNat + a.a1.toNat - 1, redos := 0
                                                   overrun := false, throttled := false } } ∧
           (∀ q, u.query q = if q ∈ servedSlots a.flags then { s.query q with served := true } else s.query q) ∧
           (u.port p).cmd = stagedPage s p 0x04 a ∧ HostFrame s u p [])) ∧
     (s.slotsFault (servedSlots a.flags) = none →
       ∃ u, exec (.runQuery p a) s = .next u ∧
         (if a.a0 = 0 then Ended s u p 0x05 a 0 0 0 ∧ HostFrame s u p [pgCmd p] ∧ Rested s u ∧
           u = { s with h0 := u.h0, h1 := u.h1, pages := u.pages, fields := u.fields, train := s.train.idle }
         else u = { s with h0 := u.h0, h1 := u.h1, pages := u.pages, run := some { latched s p 0x05 a with begun := true }
                           queries := u.queries } ∧
           (∀ q, u.query q = if q ∈ servedSlots a.flags then { s.query q with served := true } else s.query q) ∧
           (u.port p).cmd = stagedPage s p 0x05 a ∧ HostFrame s u p [])) ∧
     (∀ c, s.stepsFault { latched s p 0x04 a with begun := true } = some c →
       ∃ u, exec (.runSteps p a none) s = .next u ∧ Ended s u p 0x04 a c s.train.committed 0 ∧ HostFrame s u p [pgCmd p] ∧
         Rested s u ∧
         u = { s with h0 := u.h0, h1 := u.h1, pages := u.pages, fields := u.fields, train := s.train.idle }) ∧
     ∀ c, s.slotsFault (servedSlots a.flags) = some c →
       ∃ u, exec (.runQuery p a) s = .next u ∧ Ended s u p 0x05 a c 0 0 ∧ HostFrame s u p [pgCmd p] ∧ Rested s u ∧
         u = { s with h0 := u.h0, h1 := u.h1, pages := u.pages, fields := u.fields, train := s.train.idle })

/-- LOAD_PROGRAM of an image that passes every check of R228 to an empty or unbound slot: the slot holds the image and its
measurement, unbound; RET1 is H·256 + W; slot 0 takes the committed step of the argument, and a query slot starts with no
ring index and leaves training and vat space alone (R228, R411, R440, R441). An image that fails a check loads nothing: the
command ends with that failure's code and names it in RET0. -/
def Obligations.LoadProgramLoads : Prop :=
  ∀ (s : State) (p : HPort) (a : CmdArgs) (i : Image), Accepts s p → argsOk 0x03 a = true →
    (∀ g, s.prog a.a0.toNat = some g → g.bound = none) →
    (s.port p).images.find? (fun q => q.1 == a.a1.toNat && q.2.raw.length == a.a2.toNat) = some (a.a1.toNat, i) →
    (i.loadFail (a.a0.toNat == 0) (s.train.doubled || !s.bind.found.vatPorts.isEmpty) s.vats.vatEnd = none →
      ∃ u, exec (.loadProgram p a) s = .next u ∧ Ended s u p 0x03 a 0 0 (i.h * 256 + i.w) ∧
        u.prog a.a0.toNat = some { image := i, measurement := measure i.raw, bound := none } ∧
        (∀ k, k ≠ a.a0.toNat → u.prog k = s.prog k) ∧
        (a.a0.toNat = 0 → u.train.committed = a.a3.toNat ∧ u.train.ph1 = none ∧ u.train.ph2 = none ∧
          ∀ q, u.query q = s.query q) ∧
        (a.a0.toNat ≠ 0 → u.train = { s.train.idle with invalid := none } ∧ u.query a.a0.toNat = {} ∧ u.vats = s.vats ∧
          ∀ q, q ≠ a.a0.toNat → u.query q = s.query q) ∧
        u.tiles = s.tiles ∧ u.felt = s.felt ∧ u.lease = s.lease ∧ u.repair = s.repair ∧ HostFrame s u p [pgCmd p]) ∧
    (∀ f, i.loadFail (a.a0.toNat == 0) (s.train.doubled || !s.bind.found.vatPorts.isEmpty) s.vats.vatEnd = some f →
      ∃ u, exec (.loadProgram p a) s = .next u ∧ Ended s u p 0x03 a f.code f.record 0 ∧ HostFrame s u p [pgCmd p] ∧
        u = { s with h0 := u.h0, h1 := u.h1, pages := u.pages, sites := u.sites, train := s.train.idle } ∧
        ∀ g, g ≠ hostSite p → u.site g = s.site g)

/-- EXPORT_SNAPSHOT writes objects of 1 MiB, each with its header, ciphertext, tag and trailer, to the buffer under fresh
keys; for one object it changes no other host memory and no vat space (R398, R407, R440, R442). IMPORT_STATE of no bytes sets
the committed step, makes the training extents valid and discards a sealed step; of one object it also places the plaintext
and initialises the couch header; one whose tag fails, or that fails a check, leaves the extents invalid (R400, R402, R442).
ATTEST with room for what its selection names, in the restricted state and during the tamper scrub too, writes the report,
which counts, and the certificates (R411, R412, R440, R442). RET0 of EXPORT_SNAPSHOT counts the trailers, and an IMPORT_STATE of
total 0 succeeds: the model's reading (log entry 34). -/
def Obligations.StateAttested : Prop :=
  (∀ (s : State) (p : HPort) (a : CmdArgs) (i : Image), Accepts s p → a.flags = 0 → s.vats.mem.errs = [] →
     s.trainImage = some i →
     ((∀ kek, s.sec.exportKey a.a0.toNat = .ok kek → 0 < a.a4.toNat → a.a4.toNat ≤ 1048576 →
         s.persistentRange a.a3.toNat a.a4.toNat = true → a.a4.toNat + 96 ≤ a.a2.toNat →
       ∃ u, exec (.exportSnapshot p a) s = .next u ∧ Ended s u p 0x06 a 0 (a.a4.toNat + 96) 0 ∧
         u = { s with h0 := u.h0, h1 := u.h1, pages := u.pages, sites := u.sites, train := s.train.idle
                      sec := { s.sec with drawn := s.sec.drawn + 2 } } ∧
         (u.port p.other).mem = (s.port p.other).mem ∧ PagesKeep s u [pgCmd p] ∧
         (let x := s.site (hostSite p)
          let o := sealObject kek (bytesAt (Config.entropy s.sec.drawn 32) 0 32)
            (bytesAt (Config.entropy (s.sec.drawn + 1) 12) 0 12) 2 a.a0.toNat 0 (s.vats.mem.read a.a3.toNat a.a4.toNat)
          (u.port p).mem = memWrite (s.port p).mem a.a1.toNat
            (o ++ trailer (Check.ofCode x.active) a.a1.toNat x.seqTx (hostSite p) o))) ∧
      (∀ kek, s.sec.exportKey a.a0.toNat = .ok kek → a.a4 ≠ 0 → s.persistentRange a.a3.toNat a.a4.toNat = true →
         exportSize a.a4.toNat ≤ a.a2.toNat → (s.site (hostSite p)).seqTx < 2 ^ 32 →
       ∃ u, exec (.exportSnapshot p a) s = .next u ∧ Ended s u p 0x06 a 0 (exportSize a.a4.toNat) 0 ∧
         u.sec = { s.sec with drawn := s.sec.drawn + 2 * cdiv a.a4.toNat 1048576 } ∧ u.vats = s.vats ∧
         (u.port p.other).mem = (s.port p.other).mem ∧
         ∀ k, k < cdiv a.a4.toNat 1048576 →
           (let n := min 1048576 (a.a4.toNat - 1048576 * k)
            let x := s.site (hostSite p)
            let dest := a.a1.toNat + 1048672 * k
            let o := sealObject kek (bytesAt (Config.entropy (s.sec.drawn + 2 * k) 32) 0 32)
              (bytesAt (Config.entropy (s.sec.drawn + 2 * k + 1) 12) 0 12) 2 a.a0.toNat k
              (s.vats.mem.read (a.a3.toNat + 1048576 * k) n)
            memRead (u.port p).mem dest (n + 96) =
              o ++ trailer (Check.ofCode x.active) dest ((x.seqTx + k) % 2 ^ 32) (hostSite p) o)) ∧
      (∀ pt good, 80 ≤ a.a2.toNat → a.a2.toNat ≤ 1048656 →
         (a.a2.toNat = 80 ∨ s.persistentRange a.a3.toNat (a.a2.toNat - 80) = true) →
         s.sec.ingress (s.port p).mem 1 a.a0.toNat a.a1.toNat a.a2.toNat = .ok (pt, good) →
         (let couch := fun (x : Nat) => (i.couch ≤ x ∧ x < i.couch + 24) ∨
            (i.couch + 0x80000 ≤ x ∧ x < i.couch + 0x2880000)
          ∃ u, exec (.importState p a) s = .next u ∧ u.run = none ∧
            (∀ x, x < pt.length → ¬ couch (a.a3.toNat + x) → u.vats.mem.byte (a.a3.toNat + x) = nth 0 pt x) ∧
            (∀ x, (x < a.a3.toNat ∨ a.a3.toNat + pt.length ≤ x) → ¬ couch x → u.vats.mem.byte x = s.vats.mem.byte x) ∧
            if good then Ended s u p 0x07 a 0 pt.length 0 ∧
              u.vats.mem.read i.couch 24 = leBytes 8 a.a4.toNat ++ leBytes 8 noStep ++ leBytes 8 noStep ∧
              u.train = { s.train.idle with committed := a.a4.toNat, invalid := none, ph1 := none, ph2 := none
                                            sealedStep := none, held := false }
            else Ended s u p 0x07 a fAUTH_TAG_FAIL pt.length 0 ∧
              FaultOn s u (pgSite (hostSite p)) fAUTH_TAG_FAIL 0 ∧
              u.train = { s.train.idle with invalid := some fAUTH_TAG_FAIL })) ∧
      (∀ c, 0 < a.a2.toNat → a.a2.toNat ≤ 1048656 →
         (a.a2.toNat ≤ 80 ∨ s.persistentRange a.a3.toNat (a.a2.toNat - 80) = true) →
         s.sec.ingress (s.port p).mem 1 a.a0.toNat a.a1.toNat a.a2.toNat = .error c →
         ∃ u, exec (.importState p a) s = .next u ∧ Ended s u p 0x07 a c 0 0 ∧ FaultOn s u (pgSite (hostSite p)) c 0 ∧
           u.train = { s.train.idle with invalid := some c } ∧ u.vats = s.vats) ∧
      (a.a2 = 0 →
       ∃ u, exec (.importState p a) s = .next u ∧ Ended s u p 0x07 a 0 0 0 ∧ HostFrame s u p [pgCmd p] ∧
         u = { s with h0 := u.h0, h1 := u.h1, pages := u.pages, vats := u.vats, sec := u.sec, twin := u.twin, free := u.free
                      train := { s.train.idle with committed := a.a4.toNat, invalid := none, ph1 := none, ph2 := none
                                                   sealedStep := none, held := false } }))) ∧
  (∀ (s : State) (p : HPort) (a : CmdArgs), s.reaches p = true → (s.port p).d3 = false → s.lease.owner = p.num + 1 →
     s.run = none → s.ident.ready = true → a.flags = 0 → a.a3.toNat < 8 →
     (let sel := a.a3.toNat
      let n := (if sel.testBit 0 then 2496 else 0) + (if sel.testBit 1 then 3105 else 0) + (if sel.testBit 2 then 2880 else 0)
      n ≤ a.a2.toNat →
       ∃ u, exec (.attest p a) s = .next u ∧ Ended s u p 0x09 a 0 n 0 ∧
         u = { s with h0 := u.h0, h1 := u.h1, pages := u.pages, sites := u.sites, train := s.train.idle
                      sec := { s.sec with
                        reports := if sel.testBit 0 then (s.sec.reports + 1) % 2 ^ 64 else s.sec.reports
                        drawn := if sel.testBit 0 then s.sec.drawn + 1 else s.sec.drawn } } ∧
         (let body := State.reportBody { s with sec := { s.sec with reports := (s.sec.reports + 1) % 2 ^ 64 } }
            (memRead (s.port p).mem a.a0.toNat 32)
          let at1 := a.a1.toNat + if sel.testBit 0 then 2496 else 0
          let at2 := at1 + if sel.testBit 1 then 3105 else 0
          (sel.testBit 0 = true → memRead (u.port p).mem a.a1.toNat 2480 =
            body ++ bytesAt (Config.falconSign body s.sec.drawn) 0 1280) ∧
          (sel.testBit 1 = true → memRead (u.port p).mem at1 3089 = s.idCert) ∧
          (sel.testBit 2 = true → memRead (u.port p).mem at2 2864 = s.kemCert)) ∧
         HostFrame { s with h0 := { s.h0 with mem := u.h0.mem }, h1 := { s.h1 with mem := u.h1.mem } } u p [pgCmd p] ∧
         (u.port p.other).mem = (s.port p.other).mem))

/-- TWIN_JOIN of a loaded program ends at once in lockstep, with the step after the last sealed one in RET0, and otherwise
sends a HELLO on every port that is up and goes on; without a training program it fails with DESC_INVALID and code 5 on the
twin page, and while this member holds a copy, whose joiner the partner is, with PAIR_DIVERGENCE and code 7 (R382, R385, R386,
R440). TWIN_LEAVE of a member in lockstep sends LEAVE on every port that is up,
discards the step in flight and is unpaired; of a member that is in no pair it changes nothing (R380, R390). RESET_COMPUTE
with no step in phase 2 ends phase 1, every query and every felt packet and wave, keeps the programs and a step that a
divergence holds, and returns the committed step, and with no program loaded every tile is empty; SCRUB with no
program loaded zeroes every tainted region and every tile, and with one it fails with DESC_INVALID (R417, R440, R477). The
model's readings: a HELLO on ports that are up already (log entry 30), a TWIN_LEAVE in no pair that changes nothing, and the
held step that RESET_COMPUTE keeps (log entry 31). -/
def Obligations.PairResetScrub : Prop :=
  (∀ (s : State) (p : HPort) (a : CmdArgs), Accepts s p → a.flags = 0 →
     (∀ i, s.trainImage = some i → s.twin.st = 1 →
       ∃ u, exec (.twinJoin p a) s = .next u ∧
         Ended s u p 0x0A a 0 ((s.train.sealedStep.map fun x => x.step + 1).getD s.nextStep) 0 ∧ HostFrame s u p [pgCmd p] ∧
         u = { s with h0 := u.h0, h1 := u.h1, pages := u.pages, train := s.train.idle }) ∧
     (∀ i, s.trainImage = some i → s.twin.st = 3 →
       ∃ u, exec (.twinJoin p a) s = .next u ∧ Ended s u p 0x0A a fPAIR_DIVERGENCE 0 0 ∧
         FaultOn s u pgTwin fPAIR_DIVERGENCE 7 ∧ HostFrame s u p [pgCmd p, pgTwin] ∧
         u = { s with h0 := u.h0, h1 := u.h1, pages := u.pages, train := s.train.idle }) ∧
     (∀ i, s.trainImage = some i → s.twin.st ≠ 1 → s.twin.st ≠ 3 →
       (∀ q, q < 4 → (s.twin.port q).ctrIn < 2 ^ 32 ∧ (s.twin.port q).ctrOut + 1 < 2 ^ 32) →
       ∃ u ms, exec (.twinJoin p a) s = .next u ∧ HostFrame s u p [] ∧
         u = { s with h0 := u.h0, h1 := u.h1, pages := u.pages, run := some { latched s p 0x0A a with begun := true }
                      twin := { s.twin with ports := u.twin.ports, sent := s.twin.sent ++ ms } } ∧
         ms.map (fun m => (m.port, m.type)) = s.twin.upPorts.map (fun q => (q, 1)) ∧
         ∀ q, u.twin.port q = { s.twin.port q with
           aliveOut := (u.twin.port q).aliveOut, ctrOut := (u.twin.port q).ctrOut }) ∧
     (s.trainImage = none → s.twin.st = 0 ∨ s.twin.st = 2 →
       ∃ u, exec (.twinJoin p a) s = .next u ∧ Ended s u p 0x0A a fDESC_INVALID 0 0 ∧ FaultOn s u pgTwin fDESC_INVALID 5 ∧
         HostFrame s u p [pgCmd p, pgTwin] ∧
         u = { s with h0 := u.h0, h1 := u.h1, pages := u.pages, train := s.train.idle, twin := { s.twin with join := none } }) ∧
     (s.twin.st = 1 → (∀ q, q < 4 → (s.twin.port q).ctrIn < 2 ^ 32 ∧ (s.twin.port q).ctrOut + 1 < 2 ^ 32) →
       ∃ u ms, exec (.twinLeave p a) s = .next u ∧ Ended s u p 0x0B a 0 0 0 ∧ HostFrame s u p [pgCmd p, pgTwin] ∧
         u = { s with h0 := u.h0, h1 := u.h1, pages := u.pages, tiles := u.tiles, felt := u.felt, vats := u.vats
                      sec := u.sec, free := u.free
                      train := { s.train.idle with ph1 := none, sealedStep := none, held := false }
                      twin := { s.twin.clear with st := 0, join := none, probe := none, ports := u.twin.ports
                                                  sent := s.twin.sent ++ ms } } ∧
         ms.map (fun m => (m.port, m.type)) = s.twin.upPorts.map (fun q => (q, 3)) ∧
         u.sec = { s.sec with taintVat := u.sec.taintVat } ∧
         ∀ k ∈ u.felt.packets, k ∈ s.felt.packets ∧ ¬(k.prog = 0 ∧ k.ctx = .c0)) ∧
     (s.twin.st = 0 ∨ s.twin.st = 2 →
       ∃ u, exec (.twinLeave p a) s = .next u ∧ Ended s u p 0x0B a 0 0 0 ∧ HostFrame s u p [pgCmd p] ∧
         u = { s with h0 := u.h0, h1 := u.h1, pages := u.pages, train := s.train.idle })) ∧
  (∀ (s : State) (p : HPort) (a : CmdArgs), Accepts s p → a.flags = 0 →
     (s.train.ph2 = none → s.vats.mem.errs = [] →
       ∃ u, exec (.resetCompute p a) s = .next u ∧ Ended s u p 0x0C a 0 s.train.committed 0 ∧ HostFrame s u p [pgCmd p] ∧
         u.train = { s.train.idle with ph1 := none, sealedStep := if s.train.held then s.train.sealedStep else none } ∧
         u.felt.packets = [] ∧ u.felt.responses = [] ∧ u.felt.unacked = [] ∧ u.felt.conv = [] ∧ u.felt.wave = none ∧
         (∀ q, (u.query q).run = none ∧ (u.query q).served = false) ∧ (∀ i, u.prog i = s.prog i) ∧
         (s.loaded = [] → u.tiles = []) ∧ u.lease = s.lease ∧ u.repair = s.repair) ∧
     (s.loaded = [] →
       ∃ u, exec (.scrub p a) s = .next u ∧ Ended s u p 0x0D a 0 0 0 ∧ HostFrame s u p [pgCmd p] ∧
         u = { s with h0 := u.h0, h1 := u.h1, pages := u.pages, train := s.train.idle, tiles := u.tiles, vats := u.vats
                      sec := { s.sec with taintVat := [], taintSram := false } } ∧
         (∀ t x, (u.tile t).sram.byte x = 0) ∧
         ∀ x, u.vats.mem.byte x = if x / 1048576 ∈ s.sec.taintVat then 0 else s.vats.mem.byte x) ∧
     (s.loaded ≠ [] →
       ∃ u, exec (.scrub p a) s = .next u ∧ Ended s u p 0x0D a fDESC_INVALID 0 0 ∧ HostFrame s u p [pgCmd p] ∧
         u = { s with h0 := u.h0, h1 := u.h1, pages := u.pages, train := s.train.idle }))

/-- A key package that fails a check of R404 changes no key, owner or mode: the fault of the first failing check is
recorded on the security page and ends the command. What a verified key package does (R403, R404, R415): OWNER_SET takes
the key and a new owner zeroizes the slots; SLOT_LOAD and SLOT_CLEAR write one slot; ZEROIZE empties all; UNSEAL and
SEAL change the mode, clear the programs and the committed step, end the pair and zero every tile and every tainted region,
and UNSEAL also drops every session key; SEAL in sealed mode changes nothing. An order of OWNER_SET, SLOT_LOAD, SLOT_CLEAR or
UNSEAL takes effect with its sequence number. The model's readings: the faults stand on the security page, and SEAL too ends
the pair and sets the committed step to 0 (log entry 34), a package of OP 0 or above 6 fails its first check under any row (log
entry 13), FAULT_INFO is 0 (log entry 11). ZEROIZE's frame is stated where no calender port is up or the member is in no
pair. -/
def Obligations.KeyPackages : Prop :=
  (∀ (s : State) (p : HPort) (a : CmdArgs) (code : Nat), ∀ r ∈ keyRows p a, Accepts s p → a.flags = 0 →
     (let op := leNat (memRead (s.port p).mem a.a0.toNat 2)
      op = r.1 ∨ op = 0 ∨ 6 < op) →
     s.pkFault (if a.a1.toNat = 4728 then memRead (s.port p).mem a.a0.toNat 4728 else []) a.a1.toNat = some code →
     ∃ u, exec r.2 s = .next u ∧ u.sec = s.sec ∧ Ended s u p 0x08 a code 0 0 ∧ FaultOn s u pgSec code 0 ∧
       u.tiles = s.tiles ∧ u.vats = s.vats ∧ u.bind = s.bind ∧ HostFrame s u p [pgCmd p, pgSec]) ∧
  (∀ (s : State) (p : HPort) (a : CmdArgs) (k : List Byte), Accepts s p → a.flags = 0 → a.a1.toNat = 4728 →
     memRead (s.port p).mem a.a0.toNat 4728 = k → s.pkFault k 4728 = none →
     (pkOp k = 1 → ∃ u, exec (.ownerSet p a) s = .next u ∧ Ended s u p 0x08 a 0 0 0 ∧
       u = { s with h0 := u.h0, h1 := u.h1, pages := u.pages, sites := u.sites, train := s.train.idle, sec := u.sec } ∧
       HostFrame s u p [pgCmd p] ∧
       u.sec = { s.sec with installSeq := leAt k 24 8, owner := some (bytesAt k 1648 1793)
                            slots := if s.sec.owner.isSome then [] else s.sec.slots }) ∧
     (pkOp k = 2 → ∃ u kek, exec (.slotLoad p a) s = .next u ∧ pkKek k = some kek ∧ Ended s u p 0x08 a 0 0 0 ∧
       u.sec.slot (pkSlot k) = some ⟨kek, (leAt k 3 1).testBit 0⟩ ∧
       (∀ i, i ≠ pkSlot k → u.sec.slot i = s.sec.slot i) ∧ HostFrame s u p [pgCmd p] ∧
       u = { s with h0 := u.h0, h1 := u.h1, pages := u.pages, sites := u.sites, train := s.train.idle
                    sec := { s.sec with installSeq := leAt k 24 8, slots := u.sec.slots } }) ∧
     (pkOp k = 3 → ∃ u, exec (.slotClear p a) s = .next u ∧ Ended s u p 0x08 a 0 0 0 ∧ u.sec.slot (pkSlot k) = none ∧
       (∀ i, i ≠ pkSlot k → u.sec.slot i = s.sec.slot i) ∧ HostFrame s u p [pgCmd p] ∧
       u = { s with h0 := u.h0, h1 := u.h1, pages := u.pages, sites := u.sites, train := s.train.idle
                    sec := { s.sec with installSeq := leAt k 24 8, slots := u.sec.slots } }) ∧
     (pkOp k = 4 → ∃ u, exec (.zeroize p a) s = .next u ∧ Ended s u p 0x08 a 0 0 0 ∧ (∀ i, u.sec.slot i = none) ∧
       u.sec.owner = s.sec.owner ∧ u.sec.installSeq = s.sec.installSeq ∧ u.sec.isSealed = s.sec.isSealed ∧
       (∀ c, c < 4 → (u.twin.port c).keyOut = none ∧ (u.twin.port c).keyIn = none) ∧
       (s.twin.upPorts = [] ∨ s.twin.st = 0 ∨ s.twin.st = 2 →
         u = { s with h0 := u.h0, h1 := u.h1, pages := u.pages, sites := u.sites, train := s.train.idle, sec := u.sec
                      twin := { s.twin with ports := u.twin.ports } })) ∧
     (pkOp k = 5 → ∃ u, exec (.unsealMode p a) s = .next u ∧ Ended s u p 0x08 a 0 0 0 ∧
       u.sec = { s.sec with installSeq := leAt k 24 8, slots := [], isSealed := false, taintVat := [], taintSram := false } ∧
       (∀ c, c < 4 → (u.twin.port c).keyOut = none ∧ (u.twin.port c).keyIn = none) ∧ u.train.committed = 0 ∧
       (∀ x, (x / 1048576 ∈ s.sec.taintVat → u.vats.mem.byte x = 0) ∧
         (u.vats.mem.byte x = 0 ∨ u.vats.mem.byte x = s.vats.mem.byte x)) ∧
       (∀ i, u.prog i = none) ∧ u.twin.st = 0 ∧ (∀ t x, (u.tile t).sram.byte x = 0) ∧ u.lease = s.lease ∧
       u.repair = s.repair ∧ u.ident = s.ident) ∧
     (pkOp k = 6 → s.sec.isSealed = false → ∃ u, exec (.sealMode p a) s = .next u ∧ Ended s u p 0x08 a 0 0 0 ∧
       u.sec = { s.sec with isSealed := true, taintVat := [], taintSram := false } ∧ u.train.committed = 0 ∧
       (∀ x, (x / 1048576 ∈ s.sec.taintVat → u.vats.mem.byte x = 0) ∧
         (u.vats.mem.byte x = 0 ∨ u.vats.mem.byte x = s.vats.mem.byte x)) ∧
       (∀ i, u.prog i = none) ∧ u.twin.st = 0 ∧ (∀ t x, (u.tile t).sram.byte x = 0) ∧ u.lease = s.lease ∧
       u.repair = s.repair ∧ u.ident = s.ident) ∧
     (pkOp k = 6 → s.sec.isSealed = true → ∃ u, exec (.sealMode p a) s = .next u ∧ Ended s u p 0x08 a 0 0 0 ∧
       HostFrame s u p [pgCmd p] ∧
       u = { s with h0 := u.h0, h1 := u.h1, pages := u.pages, sites := u.sites, train := s.train.idle }))

/-- A write of 1 to CMD_ABORT by the lease holder ends a RUN_STEPS or RUN_QUERY that waits for its wake with status 1, and so a
RUN_STEPS with a step in phase 1 alone and no query, whose step is discarded. It makes a RUN_STEPS that has a step in phase 2
discard phase 1 and start no further step or query, and a RUN_QUERY with a query in progress start no further one; either goes
on to its end. A TWIN_JOIN that waits for HELLO ends with status 1, and one that copies also leaves its partner and is unpaired
(R386, R390). With no command running nothing changes. A write of 0 by the holder changes nothing, and a write by the
other port changes nothing but LEASE_NOT_HELD on its own page (R432, R439). -/
def Obligations.AbortActs : Prop :=
  ∀ (s : State) (p : HPort) (v : W32), s.reaches p = true →
    (s.lease.owner = p.num + 1 → v.getLsbD 0 = true → ∀ r, s.run = some r → r.op = 4 ∨ r.op = 5 → r.begun = false →
      ∃ u, exec (.cmdAbort p v) s = .next u ∧ (u.port r.port).cmd.status = 1 ∧ (u.port r.port).cmd.resOp = r.op ∧
        ((s.page (pgCmd r.port)).lost = false → (u.page (pgCmd r.port)).evt.getLsbD 1 = true) ∧
        PagesKeep s u [pgCmd r.port] ∧ Rested s u ∧
        u = { s with h0 := u.h0, h1 := u.h1, pages := u.pages, fields := u.fields, run := none, train := s.train.idle }) ∧
    (s.lease.owner = p.num + 1 → v.getLsbD 0 = true → ∀ r a, s.run = some r → r.op = 4 → r.begun = true →
      s.train.ph1 = some a → s.train.ph2 = none → s.train.sealedStep = none → s.train.ending = none →
      (∀ q, 1 ≤ q → q ≤ 3 → (s.query q).run = none) →
      ∃ u, exec (.cmdAbort p v) s = .next u ∧ u.run = none ∧ (u.port r.port).cmd.status = 1 ∧
        (u.port r.port).cmd.ret0 = BitVec.ofNat 64 s.train.committed ∧
        ((s.page (pgCmd r.port)).lost = false → (u.page (pgCmd r.port)).evt.getLsbD 1 = true) ∧
        PagesKeep s u [pgCmd r.port] ∧ u.train = { s.train.idle with ph1 := none } ∧
        (∀ q, (u.query q).served = false) ∧ u.bind = s.bind ∧ u.lease = s.lease) ∧
    (s.lease.owner = p.num + 1 → v.getLsbD 0 = true → ∀ r, s.run = some r → r.op = 0x0A →
      (s.twin.st = 0 ∨ s.twin.st = 2 →
        ∃ u, exec (.cmdAbort p v) s = .next u ∧ (u.port r.port).cmd.status = 1 ∧ PagesKeep s u [pgCmd r.port] ∧
          u = { s with h0 := u.h0, h1 := u.h1, pages := u.pages, run := none, train := s.train.idle
                       twin := { s.twin with join := none } }) ∧
      (s.twin.st = 4 →
        ∃ u ms, exec (.cmdAbort p v) s = .next u ∧ (u.port r.port).cmd.status = 1 ∧ u.run = none ∧ u.twin.st = 0 ∧
          u.twin.join = none ∧ u.twin.sent = s.twin.sent ++ ms ∧
          ms.map (fun m => (m.port, m.type)) = s.twin.upPorts.map (fun q => (q, 3)) ∧ u.vats = s.vats ∧
          u.tiles = s.tiles ∧ u.train = s.train.idle)) ∧
    (s.lease.owner = p.num + 1 → v.getLsbD 0 = true → s.run = none → exec (.cmdAbort p v) s = .next s) ∧
    (s.lease.owner = p.num + 1 → v.getLsbD 0 = true → ∀ r, s.run = some r → r.op = 4 → r.begun = true →
      s.train.ph2 ≠ none → s.train.ending = none →
      ∃ u, exec (.cmdAbort p v) s = .next u ∧ u.run = some { r with aborting := true } ∧
        u.train = { s.train with ph1 := none, feedWait := false } ∧ (∀ q, (u.query q).served = false) ∧
        (∀ q, (u.query q).run = (s.query q).run) ∧ u.h0 = s.h0 ∧ u.h1 = s.h1 ∧ u.pages = s.pages ∧ u.bind = s.bind ∧
        u.lease = s.lease) ∧
    (s.lease.owner = p.num + 1 → v.getLsbD 0 = true → ∀ r, s.run = some r → r.op = 5 → r.begun = true →
      ∀ q, 1 ≤ q → q ≤ 3 → (s.query q).runs = true →
      ∃ u, exec (.cmdAbort p v) s = .next u ∧ (∀ k, (u.query k).served = false) ∧
        (∀ k, (u.query k).run = (s.query k).run) ∧
        u = { s with run := some { r with aborting := true }, queries := u.queries
                     train := { s.train with feedWait := false } }) ∧
    (s.lease.owner = p.num + 1 → v.getLsbD 0 = false → exec (.cmdAbort p v) s = .next s) ∧
    (s.lease.owner ≠ p.num + 1 →
      ∃ u, exec (.cmdAbort p v) s = .next u ∧ OnlyEvents s u [pgCmd p] ∧ (u.port p).cmd = (s.port p).cmd ∧
        FaultOn s u (pgCmd p) fLEASE_NOT_HELD (0x1150 + 0x1000 * p.num))

/-! Registers -/

/-- A claim of a free lease makes the claiming port its owner and starts the timer at the timeout; a claim while there is an
owner changes nothing (R433, R434). A heartbeat of the owner restarts the timer, its release and the timer's expiry leave the
lease free, and of another port neither changes anything; without an owner no timer expires. A timeout of 10 to 60,000 ms is
taken from the owner, or from any port while there is none, and any other is ignored. A claim, heartbeat or release written
with bit 0 clear changes nothing. Every change of the owner sets CHANGED, and an expiry EXPIRED too. Nothing else changes but
the events of the lease page. -/
def Obligations.LeasePage : Prop :=
  (∀ (s : State) (p : HPort) (v : W32), s.reaches p = true → (s.page pgLease).lost = false →
     (s.lease.owner = 0 → v.getLsbD 0 = true →
       ∃ u, exec (.leaseClaim p v) s = .next u ∧ EvtOn s u pgLease 2 ∧ EventFrame s u [pgLease] ∧
         u = { s with lease := { s.lease with owner := p.num + 1, remain := s.lease.timeout }, h0 := u.h0, h1 := u.h1
                      pages := u.pages }) ∧
     (s.lease.owner = p.num + 1 → v.getLsbD 0 = true →
       exec (.leaseHeartbeat p v) s = .next { s with lease := { s.lease with remain := s.lease.timeout } } ∧
       ∃ u, exec (.leaseRelease p v) s = .next u ∧ EvtOn s u pgLease 2 ∧ EventFrame s u [pgLease] ∧
         u = { s with lease := { s.lease with owner := 0, remain := 0 }, h0 := u.h0, h1 := u.h1, pages := u.pages }) ∧
     ((s.lease.owner = p.num + 1 ∨ s.lease.owner = 0) → 10 ≤ v.toNat % 65536 → v.toNat % 65536 ≤ 60000 →
       exec (.leaseTimeout p v) s = .next { s with lease := { s.lease with timeout := v.toNat % 65536 } })) ∧
  (∀ s : State,
     (s.lease.owner ≠ 0 →
       ∃ u, exec .leaseExpiry s = .next u ∧ EvtOn s u pgLease 6 ∧ EventFrame s u [pgLease] ∧
         u = { s with lease := { s.lease with owner := 0, remain := 0 }, h0 := u.h0, h1 := u.h1, pages := u.pages }) ∧
     (s.lease.owner = 0 → exec .leaseExpiry s = .next s)) ∧
  (∀ (s : State) (p : HPort) (v : W32),
     (s.lease.owner ≠ 0 → exec (.leaseClaim p v) s = .next s) ∧
     (s.lease.owner ≠ p.num + 1 → exec (.leaseHeartbeat p v) s = .next s ∧ exec (.leaseRelease p v) s = .next s) ∧
     (v.getLsbD 0 = false → exec (.leaseClaim p v) s = .next s ∧ exec (.leaseHeartbeat p v) s = .next s ∧
       exec (.leaseRelease p v) s = .next s) ∧
     (s.lease.owner ≠ 0 → s.lease.owner ≠ p.num + 1 → exec (.leaseTimeout p v) s = .next s) ∧
     (v.toNat % 65536 < 10 ∨ 60000 < v.toNat % 65536 → exec (.leaseTimeout p v) s = .next s))

/-- A write of LATENCY_TOLERANCE, DUMP_PERIOD, CHK_SEL of a selectable site, the dump control register or the binding page's
EVT by a port that does not hold the lease is dropped, with LEASE_NOT_HELD and the register's offset on that port's own page,
and changes nothing else (R432). Written by the lease holder, DUMP_PERIOD takes a value up to 10,000 and ignores a greater
one, CHK_SEL takes 0 to 2 and ignores 3, LATENCY_TOLERANCE and EVT_EN take any value, and the dump control register takes its port and its
destination, 3 leaving the latter; CMD_OP, CMD_FLAGS, the arguments, the feed registers and the query tables of the port's own
page take their values without the lease (R364, R432, R436, R469, R493). -/
def Obligations.RegisterWrites : Prop :=
  (∀ (s : State) (p : HPort) (v : W32) (f : Nat), s.reaches p = true → s.ident.ready = true → s.sec.scrubBusy = false →
     s.lease.owner ≠ p.num + 1 → f ∈ selectableSites →
     ∀ r ∈ [(0x4100, Instr.latencyTolerance p v), (0x7100, .dumpPeriod p v), (0x200100 + 0x1000 * f, .chkSel p f v),
         (0x7104, .registerWrite p 0x7104 4 (v.setWidth 64)), (0x9010, .registerWrite p 0x9010 4 (v.setWidth 64))],
       ∃ u, exec r.2 s = .next u ∧ OnlyEvents s u [pgCmd p] ∧ FaultOn s u (pgCmd p) fLEASE_NOT_HELD r.1) ∧
  (∀ (s : State) (p : HPort) (v : W32) (f : Nat), s.reaches p = true → s.ident.ready = true → s.sec.scrubBusy = false →
     (∀ k, k < 10 → (s.page k).lost = false) →
     (s.lease.owner = p.num + 1 →
       (∃ u, exec (.latencyTolerance p v) s = .next u ∧
         u = { s with power := { s.power with tolerance := v, waking := u.power.waking } }) ∧
       (v.toNat ≤ 10000 → exec (.dumpPeriod p v) s =
         .next { s with ctr := { s.ctr with regs := { s.ctr.regs with period := v } } }) ∧
       (10000 < v.toNat → exec (.dumpPeriod p v) s = .next s) ∧
       (∀ k, k < 10 → k ≠ pgCmd p.other → ∃ u, exec (.registerWrite p (0x1000 * k + 0x14) 4 (v.setWidth 64)) s = .next u ∧
         OnlyEvents s u [k] ∧ (∀ j, j ≠ k → u.page j = s.page j) ∧ u.page k = { s.page k with evtEn := v }) ∧
       exec (.registerWrite p 0x7104 4 (v.setWidth 64)) s = .next { s with ctr := { s.ctr with regs := { s.ctr.regs with
         port := v.getLsbD 4, dest := if v.toNat % 4 = 3 then s.ctr.regs.dest else v.toNat % 4 } } } ∧
       (f ∈ selectableSites → (s.page (pgSite f)).lost = false →
         (v.toNat % 4 ≠ 3 → ∃ u, exec (.chkSel p f v) s = .next u ∧ u = { s with sites := u.sites } ∧
           u.site f = { s.site f with chkSel := v.toNat % 4 } ∧ ∀ g, g ≠ f → u.site g = s.site g) ∧
         (v.toNat % 4 = 3 → exec (.chkSel p f v) s = .next s))) ∧
     (∃ u, exec (.registerWrite p (0x1100 + 0x1000 * p.num) 4 (v.setWidth 64)) s = .next u ∧
       u = { s with h0 := u.h0, h1 := u.h1 } ∧ u.port p.other = s.port p.other ∧
       u.port p = { s.port p with cmd := { (s.port p).cmd with op := v.toNat % 256 } })) ∧
  ∀ (s : State) (p : HPort) (v : W64), s.reaches p = true → s.ident.ready = true → s.sec.scrubBusy = false →
    (s.page (pgCmd p)).lost = false →
    (let c := (s.port p).cmd
     let lo : W32 := v.extractLsb' 0 32
     let tab : Nat → QTab → (QTab → CmdPage) → List (Nat × Nat × CmdPage) := fun o t k =>
       [(o, 8, k { t with base := v }), (o + 8, 4, k { t with count := lo }), (o + 0x10, 8, k { t with fill := v }),
        (o + 0x18, 8, k { t with done := v })]
     ∀ r ∈ [(0x104, 4, { c with args := { c.args with flags := lo } }), (0x108, 8, { c with args := { c.args with a0 := v } }),
         (0x110, 8, { c with args := { c.args with a1 := v } }), (0x118, 8, { c with args := { c.args with a2 := v } }),
         (0x120, 8, { c with args := { c.args with a3 := v } }), (0x128, 8, { c with args := { c.args with a4 := v } }),
         (0x130, 8, { c with args := { c.args with a5 := v } }), (0x138, 8, { c with args := { c.args with a6 := v } }),
         (0x140, 8, { c with args := { c.args with a7 := v } }), (0x180, 8, { c with feedBase := v }),
         (0x188, 4, { c with feedCount := lo }), (0x190, 8, { c with feedFill := v })] ++
         tab 0x1A0 c.q1 (fun t => { c with q1 := t }) ++ tab 0x1C0 c.q2 (fun t => { c with q2 := t }) ++
         tab 0x1E0 c.q3 (fun t => { c with q3 := t }),
       exec (.registerWrite p (0x1000 + 0x1000 * p.num + r.1) r.2.1 v) s =
         .next (s.setPort p { s.port p with cmd := r.2.2 }))

/-- A write to EVT clears the bits written as 1, a write to EVT_EN sets it, and a bit that the module sets in that cycle
stays set (R12, R429, R447); an 8-byte write of a block counter sets its mode, its event and its value, clears SATD, and an
increment of the same cycle is lost (R489, R492). Other pages stay as they are, and so do the other counters of the page, but
that those which count with time have gone on (R490). A host port sends a message for a group that becomes pending unless its
vector, the MSI-X function or the function's messages are masked or off, in which case the vector's bit of the PBA holds it, and
an unmasked vector sends what it held while its group is still pending (R446, R447). The function's enable and mask are the
family's (log entry 5). -/
def Obligations.EventsAndCounters : Prop :=
  (∀ (s : State) (p : HPort) (k : Nat) (v same : W32), k < 10 → s.reaches p = true → s.ident.ready = true →
     s.sec.scrubBusy = false → s.lease.owner = p.num + 1 → k ≠ pgCmd p.other → (s.page k).lost = false →
     ∃ u, exec (.evtWrite p (0x1000 * k + 0x10) v same) s = .next u ∧ OnlyEvents s u [k] ∧
       (∀ j, j ≠ k → u.page j = s.page j) ∧ u.page k = { s.page k with evt := (s.page k).evt &&& ~~~v ||| same } ∧
     ∃ u, exec (.evtWrite p (0x1000 * k + 0x14) v same) s = .next u ∧ OnlyEvents s u [k] ∧
       (∀ j, j ≠ k → u.page j = s.page j) ∧ u.page k = { s.page k with evt := (s.page k).evt ||| same, evtEn := v }) ∧
  (∀ (s : State) (p : HPort) (k i same : Nat) (v : W64), k < 10 → i < 8 → s.reaches p = true → s.ident.ready = true →
     s.sec.scrubBusy = false → s.lease.owner = p.num + 1 → k ≠ pgCmd p.other → (s.page k).lost = false →
     ∃ u, exec (.counterValueWrite p (0x1000 * k + 0x40 + 8 * i) 8 v same) s = .next u ∧
       u = { s with pages := u.pages, free := u.free } ∧ (∀ j, j ≠ k → u.page j = s.page j) ∧
       u.page k = { s.page k with ctrs := (u.page k).ctrs } ∧
       (∀ j, j ≠ i → ((sget {} (s.page k).ctrs j : Counter).timed (pageKind k) = false →
           sget {} (u.page k).ctrs j = sget {} (s.page k).ctrs j) ∧
         (sget {} (u.page k).ctrs j : Counter).evsel = (sget {} (s.page k).ctrs j : Counter).evsel) ∧
       sget {} (u.page k).ctrs i =
         { satd := false, mode := v.getLsbD 56, evsel := v.toNat / 2 ^ 48 % 256, value := v.toNat % 2 ^ 48 }) ∧
  (let sent : HostPort → Nat → HostPort := fun h n =>
     if h.perst = true ∨ h.d3 = true ∨ h.fn.msixOn = false then h
     else if h.fn.funcMask = true ∨ (sget 0 h.msix (16 * n + 12) : Byte).getLsbD 0 = true then
       { h with pba := h.pba ||| BitVec.ofNat 64 (2 ^ n) }
     else { h with msgs := h.msgs ++ [n] }
   let has : HPort → Nat → Option Nat := fun q g =>
     if g = 0 then (if q = .h0 then some 0 else none) else if g = 10 then (if q = .h1 then some 0 else none) else some g
   let sends : State → State → Nat → Prop := fun s u g => ∀ q, u.port q = match has q g with
     | none => s.port q
     | some n => sent (s.port q) n
   (∀ (s : State) (k bits : Nat), (s.page k).lost = false →
      (let u := s.setEvt k bits
       let g := pageGroup k
       OnlyEvents s u [k] ∧ (u.page k).evt = (s.page k).evt ||| BitVec.ofNat 32 bits ∧
       if groupPending s.pages g = false ∧ groupPending u.pages g = true then sends s u g
       else ∀ q, u.port q = s.port q)) ∧
   (∀ (s u : State) (p : HPort) (k o : Nat) (v same : W32), k < 10 → o ∈ [0x10, 0x14] → s.reaches p = true →
      s.ident.ready = true → s.sec.scrubBusy = false → s.lease.owner = p.num + 1 → k ≠ pgCmd p.other →
      (s.page k).lost = false → exec (.evtWrite p (0x1000 * k + o) v same) s = .next u →
      (let g := pageGroup k
       if groupPending u.pages g = true then sends s u g
       else ∀ q, u.port q = match has q g with
         | none => s.port q
         | some n => { s.port q with pba := (s.port q).pba &&& ~~~(BitVec.ofNat 64 (2 ^ n)) })) ∧
   ∀ (s : State) (p : HPort) (n : Nat), n < 64 → s.reaches p = true → s.sec.scrubBusy = false →
     (s.port p).pba.getLsbD n = true →
     (let h := s.port p
      let h' := { h with
        msix := sputs 0 h.msix (16 * n + 12) (leBytes 4 0), pba := h.pba &&& ~~~(BitVec.ofNat 64 (2 ^ n)) }
      exec (.registerWrite p (0xF0000 + 16 * n + 12) 4 0) s = .next (s.setPort p
        (if groupPending s.pages (if n = 0 then (if p = .h0 then 0 else 10) else n) then sent h' n else h'))))

/-- A read of each read-to-clear register answers its value and leaves the increments of that cycle; a read of 1, 2, 4 or 8
bytes that names no such register answers the bytes there and changes nothing else, but that the counters of a page have
counted up to now when it reads one of them, and of LEASE_OWNER and TAMPER_COUNT it answers those (R11, R12, R364, R419, R426,
R433, R451, R481, R490, R493). -/
def Obligations.ReadClears : Prop :=
  ∀ (s : State) (p : HPort) (same : Nat), s.reaches p = true → s.ident.ready = true → (∀ k, (s.page k).lost = false) →
    same < 2 ^ 32 →
    (let reads : Nat → Nat → State → Prop := fun off v t =>
       exec (.rcRead p off same) s = .next { t with readData := BitVec.ofNat 64 (v % 2 ^ 32), free := s.free + 1 }
     reads 0x5124 s.sec.violCount { s with sec := { s.sec with violCount := same } } ∧
     reads 0x6110 s.twin.mismatches { s with twin := { s.twin with mismatches := same } } ∧
     reads 0x7130 s.ctr.missedCnt { s with ctr := { s.ctr with missedCnt := same } } ∧
     reads 0x7138 s.ctr.tagDropped { s with ctr := { s.ctr with tagDropped := same } } ∧
     (∀ f, f < 48 →
       reads (0x100210 + 0x1000 * f) (s.field f).throttles (s.setField f { s.field f with throttles := same }) ∧
       reads (0x200104 + 0x1000 * f) (s.site f).chkFail (s.setSite f { s.site f with chkFail := same }) ∧
       reads (0x200108 + 0x1000 * f) (s.site f).replays (s.setSite f { s.site f with replays := same })) ∧
     (∀ v, v < 40 → reads (0xA00108 + 0x1000 * v) (s.vats.vat v).ce
       { s with vats := s.vats.setVat v { s.vats.vat v with ce := same } }) ∧
     reads 0x511C s.sec.tamperCount s ∧ reads 0x3100 s.lease.owner s) ∧
    ∀ off size, readOk off size = true → readClears (off / 4 * 4) = false → (size = 8 → readClears (off + 4) = false) →
      ∃ u, exec (.rcRead p off same size) s = .next u ∧ PagesKeep s u [] ∧
        u = { s with readData := u.readData, pages := u.pages, free := u.free } ∧
        (off % 0x1000 < 0x40 ∨ 0x80 ≤ off % 0x1000 → u.pages = s.pages ∧
          u.readData = BitVec.ofNat 64 (if size = 8 then s.readWord p off + 2 ^ 32 * s.readWord p (off + 4)
            else s.readWord p (off / 4 * 4) / 2 ^ (8 * (off % 4)) % 2 ^ (8 * size)))

/-- In sealed mode a request to the BAR2 window completes with Unsupported Request, which the port's AER notes, and a JTAG instruction other than IDCODE
and BYPASS is refused: either records SEAL_VIOLATION on the security page, is counted, and changes nothing else; IDCODE and
BYPASS run in either mode (R370, R416). In maintenance mode a one-byte write through the BAR2 window reaches vat space at the
address that the window maps and changes no other byte, and a read answers what is stored there and changes no memory, but
while the scrub of a tamper event runs either is refused (R416, R418, R421, R423). FAULT_INFO 0 (log entry 11), the address map
of the window (log entry 10) and AER's bit (log entry 5) are the model's choices. -/
def Obligations.SealedAndOpen : Prop :=
  (∀ (s : State) (p : HPort) (w : Bool) (a n : Nat) (d : List Byte),
     (let x := (s.port p).fn
      let noted : State := s.setPort p { s.port p with fn := { x with aerUncorrectable := x.aerUncorrectable ||| 0x100000#32 } }
      (s.sec.isSealed = true → s.reaches p = true → a + d.length ≤ 2 ^ 36 →
       ∃ u, exec (.bar2Access p w a d) s = .next u ∧ FaultOn s u pgSec fSEAL_VIOLATION 0 ∧ EventFrame noted u [pgSec] ∧
         u = { s with sec := { s.sec with violCount := satAdd 32 s.sec.violCount 1 }, bar2Bad := true
                      h0 := u.h0, h1 := u.h1, pages := u.pages }) ∧
      (s.sec.isSealed = false → s.sec.scrubBusy = true → s.reaches p = true → a + d.length ≤ 2 ^ 36 →
       exec (.bar2Access p w a d) s = .next { noted with bar2Bad := true })) ∧
     (s.sec.isSealed = true → ∀ ir, ir = .standard n ∨ ir = .debug n →
       ∃ u, exec (.jtagInstruction ir) s = .next u ∧ FaultOn s u pgSec fSEAL_VIOLATION 0 ∧ EventFrame s u [pgSec] ∧
         u = { s with sec := { s.sec with violCount := satAdd 32 s.sec.violCount 1 }, svc := { s.svc with jtag := .bypass }
                      h0 := u.h0, h1 := u.h1, pages := u.pages }) ∧
     exec (.jtagInstruction .bypass) s = .next { s with svc := { s.svc with jtag := .bypass } } ∧
     exec (.jtagInstruction .idcode) s = .next { s with
       svc := { s.svc with jtag := .idcode }, readData := BitVec.ofNat 64 Config.idcode.toNat }) ∧
  (∀ (s : State) (p : HPort) (a : Nat) (b : Byte), s.sec.isSealed = false → s.sec.scrubBusy = false → s.reaches p = true →
     s.ident.ready = true → s.vats.mem.errs = [] → a < 2 ^ 36 →
     (∃ u, exec (.bar2Access p true a [b]) s = .next u ∧ u.vats.mem.byte (Config.bar2Map a) = b ∧
       (∀ x, x ≠ Config.bar2Map a → u.vats.mem.byte x = s.vats.mem.byte x) ∧ PagesKeep s u [] ∧
       u = { s with vats := u.vats, pages := u.pages, twin := { s.twin with join := u.twin.join }, bar2Bad := false
                    sec := { s.sec with taintVat := u.sec.taintVat } }) ∧
     ∃ u, exec (.bar2Access p false a [b]) s = .next u ∧ PagesKeep s u [] ∧ u = { s with
       pages := u.pages, readData := BitVec.ofNat 64 (s.vats.mem.byte (Config.bar2Map a)).toNat, bar2Bad := false })

/-- An SMBus Block Write of three bytes sets the offset, and a Block Read of four reads there and advances it by 4
modulo 2^24, answering 0 outside the pages that the SMBus may read; neither writes or clears a register (R486). A packet at a
service port whose CRC-32C over the fold prefix and the packet agrees is served and SEQ_RX advances; one that fails is counted
in CHK_FAIL and REPLAYS, and the failure of the eighth replay raises LINK_REPLAY_FAIL on the site's page (R357 to R362).
That a read by SMBus clears nothing, that a served packet has no further effect, and FAULT_INFO 0 is the model's choice (log
entries 42, 27 and 11). -/
def Obligations.SmbusAndService : Prop :=
  (∀ (s : State) (x y z : Byte),
     exec (.smbusBlockWrite [x, y, z]) s = .next { s with svc := { s.svc with
       smbusOff := x.toNat + 256 * y.toNat + 65536 * z.toNat } } ∧
     ∃ u v, exec (.smbusBlockRead 4) s = .next u ∧ PagesKeep s u [] ∧
       u = { s with pages := u.pages, free := u.free, svc := { s.svc with
         smbusOff := (s.svc.smbusOff + 4) % 2 ^ 24, smbusOut := s.svc.smbusOut ++ [v] } } ∧
       (let off := s.svc.smbusOff / 4 * 4
        (smbusPage (off / 0x1000) = false → v = 0) ∧
        (smbusPage (off / 0x1000) = true → off % 0x1000 < 0x40 ∨ 0x80 ≤ off % 0x1000 →
          v = BitVec.ofNat 32 (s.readWord .h0 off)))) ∧
  (∀ (s : State) (f check : Nat) (d : List Byte), f ∈ [3, 44] → s.bind.found.sites.contains f = false →
     (check = (Check.ofCode 0).of (foldPrefix 0 (s.site f).seqRx f false ++ d) →
       ∃ u, exec (.servicePortPacket f d check) s = .next u ∧
         u = { s with svc := { s.svc with served := s.svc.served + 1 }, sites := u.sites } ∧
         u.site f = { s.site f with seqRx := ((s.site f).seqRx + 1) % 2 ^ 32, fails := 0 } ∧
         ∀ g, g ≠ f → u.site g = s.site g) ∧
     (check ≠ (Check.ofCode 0).of (foldPrefix 0 (s.site f).seqRx f false ++ d) →
       ∃ u, exec (.servicePortPacket f d check) s = .next u ∧
         u = { s with sites := u.sites, h0 := u.h0, h1 := u.h1, pages := u.pages } ∧ EventFrame s u [pgSite f] ∧
         u.site f = { s.site f with
           chkFail := satAdd 32 (s.site f).chkFail 1, replays := satAdd 32 (s.site f).replays 1
           fails := if (s.site f).fails < 8 then (s.site f).fails + 1 else 0 } ∧
         (∀ g, g ≠ f → u.site g = s.site g) ∧
         if (s.site f).fails < 8 then PagesKeep s u [] else FaultOn s u (pgSite f) fLINK_REPLAY_FAIL 0))

/-! Host links -/

/-- PERST# resets the function: its MSI-X table, command page, per-port registers and page are as after reset, its link
is off, and a lease that it holds is released; host memory and the messages sent stay (R424, R434). Its release trains the
link to the rate and width given, with the check selected in force and sequence numbers 0, or disables it below ×4 (R360,
R361, R421, R422), and does not come up at another rate or width; the loss of a link releases the lease and leaves the registers (R434). A function enters D3hot and returns to D0
(R421). Nothing else of the module changes. -/
def Obligations.PortResets : Prop :=
  (∀ (s : State) (p : HPort),
     (∃ u, exec (.perstAssert p) s = .next u ∧
       u = { s with h0 := u.h0, h1 := u.h1, pages := u.pages, lease := u.lease } ∧
       u.port p = { State.reset.h0 with
         mem := (s.port p).mem, images := (s.port p).images, msgs := (s.port p).msgs
         link := if s.bind.found.sites.contains (hostSite p) then 3 else 0 } ∧
       u.page (pgCmd p) = {} ∧
       u.lease = (if s.lease.owner = p.num + 1 then { s.lease with owner := 0, remain := 0 } else s.lease) ∧
       (if s.lease.owner = p.num + 1 then EvtOn s u pgLease 2 else u.page pgLease = s.page pgLease) ∧
       PortKeeps (s.port p.other) (u.port p.other) ∧ PagesKeep s u [pgCmd p, pgLease]) ∧
     (∀ rate width, (s.port p).perst = true → s.run = none → s.bind.found.sites.contains (hostSite p) = false →
       4 ≤ width → (rate = 0 ∨ 4 ≤ rate ∨ width ∉ [4, 8, 16]) → exec (.perstRelease p rate width) s = .next s) ∧
     (∀ rate width, (s.port p).perst = true → s.run = none → (width < 4 ∨ (1 ≤ rate ∧ rate < 4 ∧ width ∈ [4, 8, 16])) →
       s.bind.found.sites.contains (hostSite p) = false →
       ∃ u, exec (.perstRelease p rate width) s = .next u ∧ u = { s with h0 := u.h0, h1 := u.h1, sites := u.sites } ∧
         u.port p.other = s.port p.other ∧ (∀ g, g ≠ hostSite p → u.site g = s.site g) ∧
         if width < 4 then
           u.port p = { s.port p with perst := false, link := 3, rate := 0, width := 0 } ∧
           u.site (hostSite p) = s.site (hostSite p)
         else u.port p = { s.port p with perst := false, link := 2, rate := rate, width := width } ∧
           u.site (hostSite p) = { s.site (hostSite p) with
             active := (s.site (hostSite p)).chkSel, seqTx := 0, seqRx := 0, fails := 0 }) ∧
     ((s.port p).link = 2 →
       ∃ u, exec (.pcieLinkDown p) s = .next u ∧
         u = { s with h0 := u.h0, h1 := u.h1, pages := u.pages, lease := u.lease } ∧
         PortKeeps { s.port p with link := 0, rate := 0, width := 0 } (u.port p) ∧
         PortKeeps (s.port p.other) (u.port p.other) ∧
         u.lease = (if s.lease.owner = p.num + 1 then { s.lease with owner := 0, remain := 0 } else s.lease) ∧
         (if s.lease.owner = p.num + 1 then EvtOn s u pgLease 2 else u.page pgLease = s.page pgLease) ∧
         PagesKeep s u [pgLease])) ∧
  (∀ (s : State) (p : HPort), s.reaches p = true → s.run = none →
     exec (.d3hot p) s = .next (s.setPort p { s.port p with d3 := true }) ∧
     exec (.d0 p) s = .next (s.setPort p { s.port p with d3 := false }))

/-! Start-up, power and heat -/

/-- SUPPLIES_VALID starts the module anew: not ready, in stage 1, with no lease, command, program, tile or vat content; every
retirement but the fields' own stays, as do the repair log, the life counter, the owner and the key slots (R24, R30, R397,
R458, R474, R476). Each wave brings its fields to 850 mV, and the first runs a firmware image that waits (R410, R473); after
the eighth the steps 2 to 7 end one by one, and the last leaves the module Ready, with every unit found retired out of the
binding (R449, R474, R476); a failing firmware image found with the first wave ends the start-up with FW_SIG_FAIL (R410). The
model's readings: when each step ends and which retirements survive SUPPLIES_VALID (log entry 28), that the start-up ends with
FW_SIG_FAIL (log entry 47), its FAULT_INFO 0 (log entry 11). -/
def Obligations.StartUp : Prop :=
  (∀ (s : State) (r : StartupReport), r.wf = true → r.tamperOpen = false →
    ∃ u, exec (.suppliesValid r) s = .next u ∧ u.ident.ready = false ∧ u.ident.stage = 1 ∧ u.lease = {} ∧ u.run = none ∧
      (∀ i, u.prog i = none) ∧ u.tiles = [] ∧ u.vats.mem = {} ∧ u.train = {} ∧ u.power.waves = 0 ∧
      u.power.report = some r ∧ u.repair = s.repair ∧ u.sec.slots = s.sec.slots ∧ u.sec.owner = s.sec.owner ∧
      u.bind.found.fields = [] ∧ (∀ c ∈ s.bind.found.clusters, c ∈ u.bind.found.clusters) ∧
      (∀ k ∈ s.bind.found.slots, k ∈ u.bind.found.slots) ∧ (∀ l ∈ s.bind.found.links, l ∈ u.bind.found.links) ∧
      (∀ v ∈ s.bind.found.vatPorts, v ∈ u.bind.found.vatPorts) ∧ (∀ f ∈ s.bind.found.sites, f ∈ u.bind.found.sites) ∧
      (∀ c, s.cc.rep c = 2 → u.cc.rep c = 2) ∧ ∀ k, u.page k = {}) ∧
  ∀ (s : State) (r : StartupReport), s.power.report = some r →
    (s.bootFails r = true → ∃ u, exec (.powerUpWave []) s = .next u ∧ FaultOn s u pgSec fFW_SIG_FAIL 0 ∧
      EventFrame s u [pgSec] ∧
      u = { s with power := { s.power with report := none }, h0 := u.h0, h1 := u.h1, pages := u.pages }) ∧
    (s.power.waves < 8 → s.bootFails r = false → r.tripped = [] → s.bind.fused.fields = [] →
      ∃ u, exec (.powerUpWave []) s = .next u ∧
        u = { s with fields := u.fields, power := { s.power with waves := s.power.waves + 1 }, sec := u.sec
                     ident := u.ident, free := u.free } ∧
        (s.power.waves ≠ 0 ∨ s.sec.inactive = none → u.sec = s.sec ∧ u.free = s.free ∧
          u.ident = if s.power.waves = 7 then { s.ident with stage := 2 } else s.ident) ∧
        (∀ f, s.power.waves = 0 → s.sec.inactive = some f → u.sec = { s.sec with
          firmware := f, svn := f.svn, svnMin := max s.sec.svnMin f.raisedMin, inactive := none }) ∧
        ∀ f, u.field f = if f ∈ nth [] waveFields s.power.waves then { s.field f with vcore := 850 } else s.field f) ∧
    (s.pending = [] → s.power.waves = 8 → 2 ≤ s.ident.stage → s.ident.stage < 7 →
      ∃ u, step s = .next u ∧ u.ident.stage = s.ident.stage + 1 ∧ u.ident.ready = s.ident.ready ∧
        u.power.report = some r ∧ u.power.waves = 8) ∧
    (s.pending = [] → s.power.waves = 8 → s.ident.stage = 7 →
      ∃ u, step s = .next u ∧ u.ident.ready = true ∧ u.ident.stage = 8 ∧ u.ident.holes + u.ident.served = 1200 ∧
        u.power.report = none ∧ u.bind.applied = u.bind.found ∧ EvtOn s u pgIdent 2)

/-- Measurements set their registers and the events of R479 and R480: a bus outside 48 to 56 V, an inlet outside 20 to
35 °C, a flow below 60 l/min; the loss of a field's reference input clears REF_OK and sets its event, and the reference's
return sets it (R450, R466). Nothing else changes but POWER_W, which a coolant sample measures anew. The model's readings: each
sample out of range sets its event, and when POWER_W is measured (log entry 29). -/
def Obligations.PowerMeasurements : Prop :=
  ∀ (s : State),
    (∀ mv, ∃ u, exec (.busRange .west mv) s = .next u ∧ EventFrame s u [pgPower] ∧
      u = { s with power := { s.power with busW := BitVec.ofNat 32 mv }, h0 := u.h0, h1 := u.h1, pages := u.pages } ∧
      EvtOn s u pgPower (if mv < 48000 ∨ 56000 < mv then 16 else 0)) ∧
    (∀ mv, ∃ u, exec (.busRange .east mv) s = .next u ∧ EventFrame s u [pgPower] ∧
      u = { s with power := { s.power with busE := BitVec.ofNat 32 mv }, h0 := u.h0, h1 := u.h1, pages := u.pages } ∧
      EvtOn s u pgPower (if mv < 48000 ∨ 56000 < mv then 16 else 0)) ∧
    (∀ i o f, ∃ u, exec (.coolantSample i o f) s = .next u ∧ EventFrame s u [pgPower] ∧
      u = { s with power := { s.power with inlet := BitVec.ofNat 32 i, outlet := BitVec.ofNat 32 o
                                           flow := BitVec.ofNat 32 f, watts := u.power.watts }
                   h0 := u.h0, h1 := u.h1, pages := u.pages, free := s.free + 1 } ∧
      EvtOn s u pgPower ((if i < 20000 ∨ 35000 < i then 4 else 0) + (if f < 60000 then 8 else 0))) ∧
    (∀ f, f < 48 → ∃ u, exec (.refLost f) s = .next u ∧ EventFrame s u [pgPower] ∧
      u = { s with power := { s.power with refOk := false }, fields := u.fields, h0 := u.h0, h1 := u.h1, pages := u.pages } ∧
      u.field f = { s.field f with refLost := true } ∧ (∀ g, g ≠ f → u.field g = s.field g) ∧ EvtOn s u pgPower 32) ∧
    (∃ u, exec .refOk s = .next u ∧ u = { s with fields := u.fields, power := { s.power with refOk := true } } ∧
      ∀ f, u.field f = if f < 48 then { s.field f with refLost := false } else s.field f)

/-- A field whose fuse trips is lost: its fuse is open, its tiles are off, and its page keeps FIELD_LOST with the cause and its
event; its 25 logical clusters are holes, which the next binding computation shows in HOLES and SERVED. So is every field of a
half whose bus is out of range after Ready, which is also an event of the bus (R29, R427, R449, R459, R460, R461, R480). A field
lost already changes nothing, and no lost field returns. -/
def Obligations.FieldsLost : Prop :=
  ∀ (s : State) (f cause : Nat), f < 48 →
    (s.bind.found.fields.contains f = true → exec (.fuseTrip [(f, cause)]) s = .next s) ∧
    (s.bind.found.fields.contains f = false → ∃ u, exec (.fuseTrip [(f, cause)]) s = .next u ∧
      f ∈ u.bind.found.fields ∧ (u.field f).fuse = 1 ∧ (u.field f).tstate = 3 ∧ (u.page (pgField f)).lost = true ∧
      ((s.page (pgField f)).lost = false → (u.page (pgField f)).code = fFIELD_LOST ∧
        (u.page (pgField f)).info = (if cause = 2 then 2#32 else 1#32) ∧
        (u.page (pgField f)).evt = (s.page (pgField f)).evt ||| 9#32) ∧
      (∀ l, l < 1200 → fieldOfLogical l = f → u.bind.found.server l = none) ∧
      (s.twin.probe = none → u.bind.applied ≠ u.bind.found → ∃ w, exec (.bindingApplied none) u = .next w ∧
        w.ident.holes = ((List.range 1200).filter fun l => (u.bind.found.server l).isNone).length ∧
        w.ident.served = 1200 - w.ident.holes) ∧
      (∀ g ∈ s.bind.found.fields, g ∈ u.bind.found.fields) ∧ ∀ g, g ≠ f → u.field g = s.field g) ∧
    (s.ident.ready = true → ∀ h, ∃ u, exec (.busOutOfRange h) s = .next u ∧
      (∀ g ∈ halfFields h, g ∈ u.bind.found.fields ∧
        (s.bind.found.fields.contains g = false → (u.field g).fuse = 2 ∧ (u.field g).tstate = 3 ∧
          ((s.page (pgField g)).lost = false → (u.page (pgField g)).code = fFIELD_LOST ∧ (u.page (pgField g)).info = 3#32))) ∧
      ((s.page pgPower).lost = false → (u.page pgPower).evt = (s.page pgPower).evt ||| 16#32) ∧
      (∀ g ∈ s.bind.found.fields, g ∈ u.bind.found.fields) ∧ ∀ g, g ∉ halfFields h → u.field g = s.field g) ∧
    (s.ident.ready = false → ∀ h, exec (.busOutOfRange h) s = .next s)

/-- A field cooler than 105 °C runs on, with its reading and its current stored and HOT set from 100 °C; the second reading in a row at
or above 105 °C, and each millisecond after it, lowers the class by one step; one at or above 115 °C gates the tiles at
once; each records THERMAL_THROTTLE and counts (R465). A raised field takes its class when its voltage has settled (R464).
The module enters the deepest power state that R469 allows when that is deeper than the one in force, a wake event in a
deeper state starts a wake, and the end of a wake is P0, a field that a throttle holds at the throttle's class (R467 to R471).
That two readings in a row make the 10 µs, that gated is the lowest class, and when a current is measured is the model's
reading (log entry 29). -/
def Obligations.PowerAndHeat : Prop :=
  (∀ (s : State) (f t : Nat), f < 48 → (s.field f).fuse = 0 → (s.page (pgField f)).lost = false →
     (t < 105000 → ∃ u, exec (.tempSample f [t] none) s = .next u ∧ EventFrame s u [pgField f] ∧
       u = { s with fields := u.fields, h0 := u.h0, h1 := u.h1, pages := u.pages, free := s.free + 1 } ∧
       u.field f = { s.field f with tempMax := t, hot := 0, inMa := (u.field f).inMa } ∧ (∀ g, g ≠ f → u.field g = s.field g) ∧
       EvtOn s u (pgField f) (if 100000 ≤ t then 2 else 0)) ∧
     (s.train.stretch = none → (s.field f).classNow < 5 → ∀ i cls,
       (105000 ≤ t ∧ t < 115000 ∧ (s.field f).hot = 1 ∧ cls = (s.field f).classNow + 1 ∧ i = .tempSample f [t] none) ∨
       (115000 ≤ t ∧ cls = 5 ∧ i = .tempSample f [t] none) ∨
       ((s.field f).hot = 2 ∧ 105000 ≤ (s.field f).tempMax ∧ t = (s.field f).tempMax ∧ cls = (s.field f).classNow + 1 ∧
         i = .throttleRepeat f none) →
       ∃ u, exec i s = .next u ∧ EventFrame s u [pgField f] ∧ (∀ g, g ≠ f → u.field g = s.field g) ∧
         u.field f = { s.field f with
           tempMax := t, hot := 2, classNow := cls, raiseTo := none, throttled := true, throttleCls := cls
           inMa := (u.field f).inMa
           tstate := if cls = 5 then 1 else (s.field f).tstate, throttles := satAdd 32 (s.field f).throttles 1 } ∧
         (u.page (pgField f)).code = fTHERMAL_THROTTLE ∧
         u = { s with fields := u.fields, h0 := u.h0, h1 := u.h1, pages := u.pages, free := u.free
                      felt := { s.felt with holdStale := true }, queries := u.queries
                      train := { s.train with throttled := s.train.throttled || s.train.ph1.isSome } }) ∧
     (∀ c, (s.field f).raiseTo = some c → ∃ u, exec (.voltageSettled f none) s = .next u ∧ PagesKeep s u [] ∧
       u = { s with fields := u.fields, pages := u.pages
                    felt := { s.felt with holdCls := u.felt.holdCls, holdStale := u.felt.holdStale } } ∧
       (∀ g, g ≠ f → u.field g = s.field g) ∧
       u.field f = { s.field f with
         classNow := c, vcore := classVolt c, tstate := if c = 5 then 1 else 0, raiseTo := none })) ∧
  (∀ s : State,
     (s.ident.ready = true → s.power.waking = false → s.power.pstate < s.wantState → s.wantState < 4 →
       ∃ u, exec (.pstateEntry none) s = .next u ∧ EventFrame s u [pgPower] ∧ EvtOn s u pgPower 2 ∧
         u = { s with power := { s.power with pstate := s.wantState }, fields := u.fields, h0 := u.h0, h1 := u.h1
                      pages := u.pages } ∧
         ∀ f, f < 48 → u.field f = if s.idleField f then (s.field f).rest s.wantState else s.field f) ∧
     (s.wantState ≤ s.power.pstate → exec (.pstateEntry none) s = .next s) ∧
     exec .wake s = .next (if s.power.pstate = 0 then s else { s with power := { s.power with waking := true } }) ∧
     (s.power.waking = true → s.power.pstate < 3 → s.run = none →
       ∃ u, exec (.wakeComplete [] none) s = .next u ∧ EventFrame s u [pgPower] ∧ EvtOn s u pgPower 2 ∧
         u = { s with power := { s.power with pstate := 0, waking := false }, fields := u.fields, h0 := u.h0, h1 := u.h1
                      pages := u.pages } ∧
         ∀ f, f < 48 → u.field f = (s.field f).toRun (!s.idleField f)))

/-! Security events -/

/-- A tamper event of an unpaired module with no port up and no command running: steps and queries stop, the key slots are
empty, the latch is set, the scrub runs, TAMPER_COUNT rises, and TAMPER is recorded on the security page (R396, R418, R419). The end of the scrub
leaves sealed mode, zeroed tiles and no tainted region, every byte of which is 0 (R417). A firmware image is kept for the next
start-up only if its signature verifies under the authority's key and its security version and raised minimum are allowed; any
other is dropped with FW_SIG_FAIL (R410). The image in force stays in force. What the signature covers is the model's reading
(log entry 35), and FAULT_INFO 0 its choice (log entry 11). -/
def Obligations.SecurityEvents : Prop :=
  (∀ s : State,
     (s.twin.st = 0 → s.twin.upPorts = [] → s.run = none →
       ∃ u, exec .tamper s = .next u ∧ FaultOn s u pgSec fTAMPER 0 ∧
         u.sec = { s.sec with slots := [], tamperLatch := true, scrubBusy := true, taintVat := u.sec.taintVat
                              tamperCount := satAdd 16 s.sec.tamperCount 1 } ∧
         u.train.ph1 = none ∧ u.train.ph2 = none ∧ u.train.running = false ∧ (∀ q, (u.query q).run = none) ∧
         u.repair = s.repair ∧ u.lease = s.lease) ∧
     (s.sec.scrubBusy = true →
       ∃ u, exec .tamperScrubEnd s = .next u ∧
         u.sec = { s.sec with scrubBusy := false, isSealed := true, taintVat := [], taintSram := false } ∧
         (∀ t x, (u.tile t).sram.byte x = 0) ∧
         (∀ x, u.vats.mem.byte x = if x / 1048576 ∈ s.sec.taintVat then 0 else s.vats.mem.byte x) ∧
         u = { s with sec := u.sec, tiles := u.tiles, vats := u.vats
                      ctr := if s.sec.isSealed then s.ctr else s.ctr.masked })) ∧
  (∀ (s : State) (p : HPort) (img : List Byte) (svn raised : Nat), s.reaches p = true → s.ident.ready = true →
     s.sec.scrubBusy = false →
     (s.fwOk img svn raised = true →
       exec (.firmwareUpdate p img svn raised) s = .next { s with sec := { s.sec with inactive := some ⟨img, svn, raised⟩ } }) ∧
     (s.fwOk img svn raised = false →
       ∃ u, exec (.firmwareUpdate p img svn raised) s = .next u ∧ FaultOn s u pgSec fFW_SIG_FAIL 0 ∧
         EventFrame s u [pgSec] ∧
         u = { s with sec := { s.sec with inactive := none }, h0 := u.h0, h1 := u.h1, pages := u.pages }) ∧
     (s.fwOk img svn raised = true ↔ Config.falconVerify Config.authorityKey img [] = true ∧ s.sec.svnMin ≤ svn ∧
       svn < 65536 ∧ raised ≤ svn))

/-! The calender -/

/-- A KX0 that fails a check leaves the port down without session or frames, with CALENDER_DEGRADED and the check's number, and
a good one is kept and answered by a KX1 under two draws of the generator; a KX1 whose signature fails is refused as check 4,
and a good one gives the port both session keys and sends HELLO (R383, R413). The text that KX1 signs is the model's reading
(log entry 30). -/
def Obligations.KeyExchange : Prop :=
  ∀ (s : State) (p : Nat), p < 4 → s.mayTrain p = true → (s.twin.port p).keyIn = none →
    (let refused := fun (u : State) (n : Nat) =>
       u = { s with twin := u.twin, h0 := u.h0, h1 := u.h1, pages := u.pages } ∧ EventFrame s u [pgSite (calSite p)] ∧
       FaultOn s u (pgSite (calSite p)) fCALENDER_DEGRADED n ∧ u.twin = { s.twin with ports := u.twin.ports } ∧
       u.twin.port p = { s.twin.port p with
         myKx0 := none, peer := none, myKx1 := none, keyOut := none, keyIn := none, hello := none } ∧
       ∀ q, q ≠ p → u.twin.port q = s.twin.port q
     (∀ f n, s.kx0Fault f = some n → ∃ u, exec (.kx0 p f) s = .next u ∧ refused u n) ∧
     (∀ f, s.kx0Fault f = none → ∃ u, exec (.kx0 p f) s = .next u ∧
       u = { s with twin := u.twin, sec := { s.sec with drawn := s.sec.drawn + 2 } } ∧
       u.twin = { s.twin with ports := u.twin.ports } ∧
       (let ct := (Config.kemEncap (bytesAt f.kemCert 16 1568) s.sec.drawn).1
        u.twin.port p = { s.twin.port p with
          myKx0 := some (s.myKx0 p), peer := some f, encap := s.sec.drawn
          myKx1 := some ⟨ct, bytesAt (Config.falconSign (s.kx1Text p f ct) (s.sec.drawn + 1)) 0 1280⟩ }) ∧
       ∀ q, q ≠ p → u.twin.port q = s.twin.port q) ∧
     ∀ f peer mine, (s.twin.port p).peer = some peer → (s.twin.port p).myKx1 = some mine →
       (Config.falconVerify (certKey peer.idCert) (s.kx1Text p peer f.ct) f.sig = false →
         ∃ u, exec (.kx1 p f) s = .next u ∧ refused u 4) ∧
       (Config.falconVerify (certKey peer.idCert) (s.kx1Text p peer f.ct) f.sig = true →
         ∃ u m, exec (.kx1 p f) s = .next u ∧ u = { s with twin := u.twin, pages := u.pages } ∧ PagesKeep s u [] ∧
           u.twin = { s.twin with ports := u.twin.ports, sent := s.twin.sent ++ [m] } ∧ m.port = p ∧ m.type = 1 ∧
           (u.twin.port p).up = false ∧
           (let k := s.sessionKeys p peer mine (s.twin.port p).encap f
            (u.twin.port p).keyOut = some (if s.rankTo (certSerial peer.idCert) = 0 then k.1 else k.2) ∧
            (u.twin.port p).keyIn = some (if s.rankTo (certSerial peer.idCert) = 0 then k.2 else k.1)) ∧
           ∀ q, q ≠ p → u.twin.port q = s.twin.port q))

/-- The first good HELLO on a down port with a session brings it up when the check selections agree, with the selected check in
force and sequence numbers 0, and the partner and the rank follow from the peer's serial; with different selections the port
stays down with CALENDER_DEGRADED (R360, R383, R386). HELLO_RETRY sends HELLO again while the peer's has not come, and
otherwise forms a new KX0 frame; a port without a valid message goes down and loses its session, and with the last one a
member in lockstep or divergence goes on in simplex with PARTNER_LOST, its sealed step entering phase 2 (R59, R384). Where the
bytes of a message are given, the port opens and checks them, and what it finds is what the message says (R359, R381, R414).
What brings a port up and what HELLO_RETRY sends is the model's reading (log entry 30), FAULT_INFO 0 its choice (log
entry 11). -/
def Obligations.PortsUpAndDown : Prop :=
  ∀ (s : State) (p : Nat), p < 4 →
    (∀ h b h' body, h.port = p → h.wire.isSome = true → s.heard h 0x01 = some (h', some body) →
      h'.port = p ∧ exec (.hello h b) s = exec (.hello h' (parseHello body)) s) ∧
    (∀ h b f, h.port = p → h.wire = none → h.ok = true → h.typed = true → s.run = none → b.role = 1 → (s.twin.port p).keyIn ≠ none →
      (s.twin.port p).aliveIn ≠ some (h.seq % 16) → (s.twin.port p).up = false → (s.twin.port p).ctrIn + 1 < 2 ^ 32 →
      (s.twin.port p).ctrOut < 2 ^ 32 → (s.twin.port p).peer = some f → certSerial f.idCert ≠ s.ident.serial →
      ∃ u, exec (.hello h b) s = .next u ∧ (∀ q, q ≠ p → u.twin.port q = s.twin.port q) ∧
        (∀ g, g ≠ calSite p → u.site g = s.site g) ∧
        if b.chkSel = (s.site (calSite p)).chkSel then
          u = { s with twin := u.twin, sites := u.sites, pages := u.pages } ∧ PagesKeep s u [] ∧
          u.twin = { s.twin with ports := u.twin.ports, partner := certSerial f.idCert, partnerKey := certKey f.idCert
                                 rank := if s.ident.serial < certSerial f.idCert then 0 else 1 } ∧
          u.twin.port p = { s.twin.port p with
            up := true, hello := some b, aliveIn := some (h.seq % 16), aliveFails := 0
            ctrIn := (s.twin.port p).ctrIn + 1 } ∧
          u.site (calSite p) = { s.site (calSite p) with
            active := (s.site (calSite p)).chkSel, seqTx := 0, seqRx := 0, fails := 0, lacks := none }
        else u = { s with twin := u.twin, sites := u.sites, h0 := u.h0, h1 := u.h1, pages := u.pages } ∧
          u.twin = { s.twin with ports := u.twin.ports } ∧ (u.twin.port p).up = false ∧
          EventFrame s u [pgSite (calSite p)] ∧ FaultOn s u (pgSite (calSite p)) fCALENDER_DEGRADED 0) ∧
    (s.mayTrain p = true → (s.twin.port p).keyOut ≠ none → (s.twin.port p).hello = none →
      ∃ u m, exec (.helloRetry p) s = .next u ∧ u = { s with twin := u.twin, pages := u.pages } ∧ PagesKeep s u [] ∧
        m.port = p ∧ m.type = 1 ∧
        u.twin = { s.twin with ports := u.twin.ports, sent := s.twin.sent ++ [m] } ∧
        ∀ q, q ≠ p → u.twin.port q = s.twin.port q) ∧
    (s.mayTrain p = true → (s.twin.port p).keyOut = none →
      ∃ u, exec (.helloRetry p) s = .next u ∧ u = { s with twin := { s.twin with ports := u.twin.ports } } ∧
        u.twin.port p = { s.twin.port p with
          myKx0 := some s.newKx0, peer := none, myKx1 := none, keyOut := none, keyIn := none, hello := none
          aliveIn := none, aliveFails := 0 } ∧
        ∀ q, q ≠ p → u.twin.port q = s.twin.port q) ∧
    ((s.twin.port p).up = true → ∀ r, r < 4 → r ≠ p → (s.twin.port r).up = true →
      ∃ u, exec (.calenderPortDown p) s = .next u ∧
        u = { s with twin := { s.twin with ports := u.twin.ports }, h0 := u.h0, h1 := u.h1, pages := u.pages } ∧
        EventFrame s u [pgSite (calSite p)] ∧
        u.twin.port p = { s.twin.port p with
          up := false, hello := none, myKx0 := none, peer := none, myKx1 := none, keyOut := none, keyIn := none } ∧
        (∀ q, q ≠ p → u.twin.port q = s.twin.port q) ∧ FaultOn s u (pgSite (calSite p)) fCALENDER_DEGRADED 0) ∧
    ((s.twin.port p).up = true → (∀ r, r < 4 → r ≠ p → (s.twin.port r).up = false) → s.twin.st = 1 ∨ s.twin.st = 5 →
      ∃ u, exec (.calenderPortDown p) s = .next u ∧ u.twin.st = 2 ∧ (u.twin.port p).up = false ∧
        FaultOn s u (pgSite (calSite p)) fCALENDER_DEGRADED 0 ∧ EventFrame s u [pgTwin, pgSite (calSite p)] ∧
        ((s.page pgTwin).lost = false → (u.page pgTwin).code = fPARTNER_LOST ∧
          (u.page pgTwin).evt = (s.page pgTwin).evt ||| 3#32) ∧
        u.run = s.run ∧ u.bind = s.bind ∧ u.felt = s.felt ∧
        (s.train.sealedStep = none → u.train = s.train ∧ u.tiles = s.tiles ∧ u.vats = s.vats) ∧
        ∀ x i, s.train.sealedStep = some x → s.trainImage = some i →
          u.train = { s.train with ph2 := some x, sealedStep := none, held := false, base := s.vats.mem.cells }) ∧
    ((s.twin.port p).up = false → exec (.calenderPortDown p) s = .next s)

/-- A HEARTBEAT with a new alive counter gives the partner's state; one with the last counter is dropped, and a message of an
undefined TYPE is dropped and counted in CHK_FAIL; the module sends its own HEARTBEAT on every port that is up (R363, R381,
R382). A LEAVE from the partner in lockstep or divergence ends it: the member goes on in simplex with PARTNER_LOST, and its
sealed step enters phase 2 (R59, R319, R380, R384). -/
def Obligations.PartnerMessages : Prop :=
  ∀ (s : State) (h : CalHdr), h.port < 4 → (s.twin.port h.port).keyIn ≠ none → h.wire = none → h.ok = true →
    (s.twin.port h.port).ctrIn + 1 < 2 ^ 32 → (∀ p, p < 4 → (s.twin.port p).ctrOut + 1 < 2 ^ 32) →
    (∀ p, p < 4 → (s.twin.port p).ctrIn < 2 ^ 32) →
    (h.typed = true → (s.twin.port h.port).aliveIn ≠ some (h.seq % 16) → ∀ st ph c,
      ∃ u, exec (.heartbeat h st ph c) s = .next u ∧ u = { s with twin := u.twin, pages := u.pages } ∧ PagesKeep s u [] ∧
        u.twin = { s.twin with ports := u.twin.ports, partnerState := st, partnerPh1 := ph, partnerCommitted := c } ∧
        u.twin.port h.port = { s.twin.port h.port with
          aliveIn := some (h.seq % 16), aliveFails := 0, ctrIn := (s.twin.port h.port).ctrIn + 1 } ∧
        (∀ q, q ≠ h.port → u.twin.port q = s.twin.port q)) ∧
    (h.typed = true → (s.twin.port h.port).aliveIn = some (h.seq % 16) → ∀ st ph c,
      ∃ u, exec (.heartbeat h st ph c) s = .next u ∧ u = { s with pages := u.pages } ∧ PagesKeep s u []) ∧
    (h.typed = false → ∀ st ph c,
      ∃ u, exec (.heartbeat h st ph c) s = .next u ∧ PagesKeep s u [] ∧
        u = { s with twin := u.twin, sites := u.sites, pages := u.pages } ∧
        u.twin = { s.twin with ports := u.twin.ports } ∧ (∀ g, g ≠ calSite h.port → u.site g = s.site g) ∧
        u.site (calSite h.port) = { s.site (calSite h.port) with
          chkFail := satAdd 32 (s.site (calSite h.port)).chkFail 1 }) ∧
    (∃ u ms, exec .heartbeatSend s = .next u ∧ u = { s with twin := u.twin, free := s.free + 1, pages := u.pages } ∧
      PagesKeep s u [] ∧
      u.twin = { s.twin with ports := u.twin.ports, sent := s.twin.sent ++ ms } ∧
      ms.map (fun m => (m.port, m.type)) = s.twin.upPorts.map (fun q => (q, 2)) ∧
      ∀ q, q < 4 → u.twin.port q = { s.twin.port q with
        aliveOut := (u.twin.port q).aliveOut, ctrOut := (u.twin.port q).ctrOut }) ∧
    (h.typed = true → (s.twin.port h.port).aliveIn ≠ some (h.seq % 16) → s.twin.ignoreLeave = false →
      s.twin.leaveWait = false → s.twin.st = 1 ∨ s.twin.st = 5 → ∀ i, s.trainImage = some i → s.vats.mem.errs = [] →
      ∀ reason,
      ∃ u, exec (.leave h reason) s = .next u ∧ u.twin.st = 2 ∧ u.run = s.run ∧ u.bind = s.bind ∧ u.felt = s.felt ∧
        EventFrame s u [pgTwin] ∧ ((s.page pgTwin).lost = false →
          (u.page pgTwin).code = fPARTNER_LOST ∧ (u.page pgTwin).evt = (s.page pgTwin).evt ||| 3#32) ∧
        (s.train.sealedStep = none → u.train = s.train ∧ u.tiles = s.tiles ∧ u.vats = s.vats) ∧
        ∀ x, s.train.sealedStep = some x →
          u.train = { s.train with ph2 := some x, sealedStep := none, held := false, base := s.vats.mem.cells } ∧
          u.vats.mem.read (i.couch + 8) 8 = leBytes 8 x.step ∧
          ∀ a, a < i.couch + 8 ∨ i.couch + 16 ≤ a → u.vats.mem.byte a = s.vats.mem.byte a)

/-- In lockstep the partner's WATERMARK of the sealed step decides: when it equals the own one the step enters phase 2; the
first time that it differs WATERMARK_MISMATCH is counted and the step is redone as its next attempt (R52, R319, R375, R376). A
DIGEST piece is kept with its bytes. Without a WATERMARK within 60 s the member sends LEAVE on every port that is up and
waits, and at the end of the wait goes on in simplex with its step in phase 2 (R384). A sequenced message that the partner
formed and sealed under the port's key and next counter is heard as it was sent (R359, R381, R382, R414). -/
def Obligations.Comparison : Prop :=
  (∀ (s : State) (m : SentMsg) (key ct tag : List Byte), m.port < 4 → m.type ∈ [0x10, 0x11, 0x20, 0x21, 0x22, 0x23] →
     m.attempt < 256 → m.step < 2 ^ 64 → m.offset < 2 ^ 64 → m.body.length < 2 ^ 32 →
     (s.twin.port m.port).keyIn = some key → m.seq = (s.site (calSite m.port)).seqRx →
     gcmSeal key (calIv m.port (1 - (s.twin.port m.port).dir) (s.twin.port m.port).ctrIn) []
       (m.checked (Check.ofCode (s.site (calSite m.port)).active)) = (ct, tag) → tag.length = 16 →
     s.heard { port := m.port, wire := some (ct ++ tag) } m.type = some
       ({ port := m.port, attempt := m.attempt, step := m.step, offset := m.offset, seq := m.seq }, some m.body)) ∧
  ∀ (s : State) (h : CalHdr) (x : SealedStep) (i : Image), h.port < 4 → h.wire = none → s.twin.st = 1 → s.train.sealedStep = some x →
    s.trainImage = some i → s.twin.leaveWait = false → s.vats.mem.errs = [] →
    ((s.twin.port h.port).up = true → h.ok = true → h.typed = true → h.seq = (s.site (calSite h.port)).seqRx →
      (s.twin.port h.port).ctrIn + 1 < 2 ^ 32 → (s.twin.port h.port).ctrOut < 2 ^ 32 → h.step = x.step →
      (∀ w, bytesAt w 0 32 = x.wmark → s.twin.own2 = none →
        ∃ u, exec (.watermark h w none) s = .next u ∧ PagesKeep s u [] ∧
          u = { s with twin := u.twin, sites := u.sites, pages := u.pages, tiles := u.tiles, vats := u.vats, sec := u.sec
                       train := { s.train with ph2 := some x, sealedStep := none, held := false, base := s.vats.mem.cells } } ∧
          u.twin.st = 1 ∧ u.twin.mismatches = s.twin.mismatches ∧
          (∀ k, (u.tile k).sram = (s.tile k).sram ∧ (u.tile k).c0 = (s.tile k).c0) ∧
          u.vats.mem.read (i.couch + 8) 8 = leBytes 8 x.step ∧
          ∀ a, a < i.couch + 8 ∨ i.couch + 16 ≤ a → u.vats.mem.byte a = s.vats.mem.byte a) ∧
      (∀ w, bytesAt w 0 32 ≠ x.wmark → s.twin.mism = 0 → s.train.redos < 3 →
        ∃ u, exec (.watermark h w none) s = .next u ∧ EventFrame s u [pgTwin] ∧
          u = { s with twin := u.twin, sites := u.sites, h0 := u.h0, h1 := u.h1, pages := u.pages
                       train := { s.train with
                         sealedStep := none, overrun := false, throttled := false, redos := s.train.redos + 1
                         ph1 := some { step := x.step, attempt := x.attempt + 1 } } } ∧
          u.twin = { s.twin with ports := u.twin.ports, mism := 1, theirs := none
                                 mismatches := satAdd 32 s.twin.mismatches 1 } ∧
          ((s.page pgTwin).lost = false → (u.page pgTwin).code = fWATERMARK_MISMATCH)) ∧
      (∀ body, s.twin.mism ≠ 2 → h.offset < 2 ^ 40 →
        ∃ u, exec (.digest h body) s = .next u ∧ PagesKeep s u [] ∧
          u = { s with twin := u.twin, sites := u.sites, pages := u.pages } ∧
          u.twin = { s.twin with ports := u.twin.ports, dlog := sputs 0 s.twin.dlog h.offset body
                                 dlogGot := s.twin.dlogGot + body.length })) ∧
    (s.twin.theirs = none → s.twin.own2 = none → s.twin.upPorts ≠ [] →
      (∀ q, q < 4 → (s.twin.port q).ctrIn < 2 ^ 32 ∧ (s.twin.port q).ctrOut + 1 < 2 ^ 32) →
      ∃ u ms, exec .watermarkTimeout s = .next u ∧ u = { s with twin := u.twin, pages := u.pages } ∧ PagesKeep s u [] ∧
        u.twin = { s.twin with ports := u.twin.ports, sent := s.twin.sent ++ ms, leaveWait := true } ∧
        ms.map (fun m => (m.port, m.type)) = s.twin.upPorts.map (fun q => (q, 3))) ∧
    ∃ u, exec .leaveWaitEnd { s with twin := { s.twin with leaveWait := true } } = .next u ∧ u.twin.st = 2 ∧
      u.twin.ignoreLeave = true ∧ u.twin.leaveWait = false ∧ EventFrame s u [pgTwin] ∧
      u.train = { s.train with ph2 := some x, sealedStep := none, held := false, base := s.vats.mem.cells }

/-- While a joiner copies (R387 to R389): a REGION's bytes land in vat space and the region stands at its version; a STEPLOG
piece is kept until the step's stream is whole; ROUND_END gives the round and what is left; SWITCH sets the committed step,
begins lockstep and ends TWIN_JOIN with the named step. TWIN_JOIN without a port that is up ends with PARTNER_LOST and code 8
(R386). -/
def Obligations.Joining : Prop :=
  ∀ (s : State) (h : CalHdr) (j : JoinState) (i : Image), h.port < 4 → h.wire = none → s.trainImage = some i →
    ((s.twin.port h.port).up = true → h.ok = true → h.typed = true → h.seq = (s.site (calSite h.port)).seqRx →
      (s.twin.port h.port).ctrIn + 1 < 2 ^ 32 → (s.twin.port h.port).ctrOut < 2 ^ 32 → s.twin.st = 4 →
      s.twin.join = some j → j.joiner = true →
      (∀ body, s.vats.mem.errs = [] → body.length ≤ 1048576 → h.offset + body.length ≤ s.vats.vatEnd →
        ∃ u, exec (.region h body) s = .next u ∧ u.vats.mem.read h.offset body.length = body ∧
          (∀ a, a < h.offset ∨ h.offset + body.length ≤ a → u.vats.mem.byte a = s.vats.mem.byte a) ∧
          u.twin = { s.twin with ports := u.twin.ports, join := some { j with
            versions := sput 0 j.versions (h.offset / 1048576) (h.step + 1)
            stale := j.stale.filter (· != h.offset / 1048576), dirty := j.dirty.filter (· != h.offset / 1048576)
            todo := j.todo.filter (· != h.offset / 1048576) } } ∧ PagesKeep s u [] ∧
          u = { s with twin := u.twin, sites := u.sites, vats := u.vats, pages := u.pages
                       sec := { s.sec with taintVat := u.sec.taintVat } }) ∧
      (∀ body, (j.log ++ [(h.offset, body)]).foldl (fun n p => n + p.2.length) 0 < stepLogLen i →
        ∃ u, exec (.steplog h body) s = .next u ∧ PagesKeep s u [] ∧
          u = { s with twin := u.twin, sites := u.sites, pages := u.pages } ∧
          u.twin = { s.twin with ports := u.twin.ports, join := some { j with log := j.log ++ [(h.offset, body)] } }) ∧
      (∀ round left, round < 2 ^ 32 → left < 2 ^ 32 →
        ∃ u, exec (.roundEnd h round left) s = .next u ∧ PagesKeep s u [] ∧
          u = { s with twin := u.twin, sites := u.sites, pages := u.pages } ∧
          u.twin = { s.twin with ports := u.twin.ports, copyRound := round, copyLeft := left
                                 join := some { j with round := round, left := left } }) ∧
      (∀ first, ∃ u, exec (.switch h first) s = .next u ∧ u.twin.st = 1 ∧ u.twin.join = none ∧
        u.train.committed = first - 1 ∧ u.train.invalid = none ∧ u.train.held = false ∧ u.tiles = s.tiles ∧
        u.felt = s.felt ∧ u.bind = s.bind ∧
        ∀ r, s.run = some r → r.op = 0x0A → u.run = none ∧ (u.port r.port).cmd.status = 0 ∧
          (u.port r.port).cmd.ret0 = BitVec.ofNat 64 first)) ∧
    (∀ r, s.run = some r → r.op = 0x0A → r.begun = true → s.twin.join = none → s.twin.upPorts = [] →
      ∃ u, exec .joinTimeout s = .next u ∧ (u.port r.port).cmd.status = fPARTNER_LOST ∧
        ((s.page pgTwin).lost = false → (u.page pgTwin).code = fPARTNER_LOST ∧ (u.page pgTwin).info = 8) ∧
        u = { s with h0 := u.h0, h1 := u.h1, pages := u.pages, run := none, train := s.train.idle
                     twin := { s.twin with st := if s.twin.st = 4 then 0 else if s.twin.st = 3 then 2 else s.twin.st } })

/-! Sequencer words -/

/-- NOP, TICK_WAIT and STEP_END with their low bits 0 move their context on by one word and change nothing else of the
tile: after TICK_WAIT the context waits for the next tick, after STEP_END its work for the step is over (R179, R211,
R213). A control word whose reserved bits are not 0, a CTR_SET of context 0 on counters 48 to 63, and a LOOP without a body,
nested a fifth time, or whose body ends beyond the code region or the body around it raise DESC_INVALID: the fault is recorded on the page of the tile's cluster with the tile's number (R175, R183, R185,
R216). -/
def Obligations.ControlWords : Prop :=
  (∀ (s : State) (t : Nat) (c : Ctx) (e : Env), e.word % 2 ^ 58 = 0 →
     (WordAt s t c 0x00 e → ∃ u, exec (.nop t c) s = .next u ∧ TileBecomes s u e.slot (advanced s e)) ∧
     (WordAt s t c 0x04 e → ∃ u, exec (.tickWait t c) s = .next u ∧
       TileBecomes s u e.slot ((s.tile e.slot).setCtx e.c { (s.ctxOf e).advance with run := .tickWait })) ∧
     (WordAt s t c 0x05 e → ∃ u, exec (.stepEnd t c) s = .next u ∧
       TileBecomes s u e.slot ((s.tile e.slot).setCtx e.c { (s.ctxOf e).advance with run := .ended }))) ∧
  (∀ (s : State) (t : Nat) (c : Ctx) (e : Env) (i : Instr),
     ((i = .nop t c ∧ WordAt s t c 0x00 e ∧ e.word % 2 ^ 58 ≠ 0) ∨
      (i = .seti t c ∧ WordAt s t c 0x01 e ∧ fld e.word 53 48 ≠ 0) ∨
      (i = .addi t c ∧ WordAt s t c 0x02 e ∧ fld e.word 49 32 ≠ 0) ∨
      (i = .tickWait t c ∧ WordAt s t c 0x04 e ∧ e.word % 2 ^ 58 ≠ 0) ∨
      (i = .stepEnd t c ∧ WordAt s t c 0x05 e ∧ e.word % 2 ^ 58 ≠ 0) ∨
      ((∃ n, i = .ctrSet t c n) ∧ WordAt s t c 0x06 e ∧ (fld e.word 51 32 ≠ 0 ∨ (c = .c0 ∧ 48 ≤ e.ctr))) ∨
      (i = .ctrWait t c ∧ WordAt s t c 0x07 e ∧ fld e.word 47 32 ≠ 0) ∨
      (i = .loop t c ∧ WordAt s t c 0x03 e ∧ (fld e.word 57 48 ≠ 0 ∨ fld e.word 47 36 = 0 ∨
        (s.ctxOf e).codeBase + (s.ctxOf e).codeLen < e.pc + 8 + 8 * fld e.word 47 36 ∨ 4 ≤ (s.ctxOf e).loops.length ∨
        ∃ l r, (s.ctxOf e).loops = l :: r ∧ l.stop < e.pc + 8 + 8 * fld e.word 47 36))) →
     (s.page (pgCluster (e.slot / 17))).lost = false → s.run = none →
     ∃ u, exec i s = .next u ∧ (u.page (pgCluster (e.slot / 17))).code = fDESC_INVALID ∧
       (u.page (pgCluster (e.slot / 17))).info = BitVec.ofNat 32 (t % 16 * 2 ^ 28) ∧
       (u.cluster (e.slot / 17)).seqPc = BitVec.ofNat 32 e.pc)

/-- SETI writes the sign-extended 48-bit immediate, ADDI adds the sign-extended 32-bit immediate modulo 2^64, to a register
of the issuing context; x0 ignores the write (R175, R180, R184). -/
def Obligations.ScalarWords : Prop :=
  ∀ (s : State) (t : Nat) (c : Ctx) (e : Env),
    (WordAt s t c 0x01 e → fld e.word 53 48 = 0 → ∃ u, exec (.seti t c) s = .next u ∧
      TileBecomes s u e.slot ((s.tile e.slot).setCtx e.c
        (((s.ctxOf e).setReg (fld e.word 57 54) (toTwos 64 (sx 48 (fld e.word 47 0)))).advance))) ∧
    (WordAt s t c 0x02 e → fld e.word 49 32 = 0 → ∃ u, exec (.addi t c) s = .next u ∧
      TileBecomes s u e.slot ((s.tile e.slot).setCtx e.c
        (((s.ctxOf e).setReg (fld e.word 57 54)
          (((s.ctxOf e).reg (fld e.word 53 50) + toTwos 64 (sx 32 (fld e.word 31 0))) % 2 ^ 64)).advance))) ∧
    (∀ (x : CtxState) (v : Nat), (x.setReg 0 v) = x ∧ x.reg 0 = 0) ∧
    (∀ (x : CtxState) (i v : Nat), i ≠ 0 → v < 2 ^ 64 → (x.setReg i v).reg i = v ∧
      ∀ k, k ≠ i → (x.setReg i v).reg k = x.reg k)

/-- LOOP with a body and a count enters the body and remembers where it ends, a count of 0 goes on after it (R185); a
context that reaches the end of its innermost body returns to the body's start while iterations are left, and otherwise
leaves it. CTR_SET sets a counter, and increments of the same cycle are added to the new value; CTR_WAIT goes on when
its counter is at or above the target, and otherwise leaves its context where it is (R180, R186). -/
def Obligations.LoopsAndCounters : Prop :=
  ((∀ (s : State) (t : Nat) (c : Ctx) (e : Env) (x : CtxState) (stop n : Nat), WordAt s t c 0x03 e → x = s.ctxOf e →
     stop = e.pc + 8 + 8 * fld e.word 47 36 → fld e.word 57 48 = 0 → fld e.word 47 36 ≠ 0 → stop ≤ x.codeBase + x.codeLen →
     x.loops.length < 4 → (∀ l r, x.loops = l :: r → stop ≤ l.stop) →
     n = (if fld e.word 35 32 = 0 then fld e.word 31 0 else x.reg (fld e.word 35 32) % 2 ^ 32) →
     ∃ u, exec (.loop t c) s = .next u ∧
       TileBecomes s u e.slot ((s.tile e.slot).setCtx e.c
         (if n = 0 then x.goto stop else { x with pc := e.pc + 8, loops := ⟨e.pc + 8, stop, n⟩ :: x.loops }))) ∧
   (∀ (x : CtxState) (l : LoopLevel) (r : List LoopLevel), x.loops = l :: r → 1 < l.left →
     x.goto l.stop = { x with pc := l.start, loops := { l with left := l.left - 1 } :: r }) ∧
   (∀ (x : CtxState) (l : LoopLevel), x.loops = [l] → l.left ≤ 1 → x.goto l.stop = { x with pc := l.stop, loops := [] }) ∧
   ∀ (x : CtxState) (a : Nat), (∀ l r, x.loops = l :: r → a ≠ l.stop) → x.goto a = { x with pc := a }) ∧
  (∀ (s : State) (t : Nat) (c : Ctx) (e : Env),
     (WordAt s t c 0x06 e → fld e.word 51 32 = 0 → (c = .c0 → e.ctr < 48) → ∀ same,
       ∃ u, exec (.ctrSet t c same) s = .next u ∧
         TileBecomes s u e.slot { advanced s e with
           ctrs := sput 0 (s.tile e.slot).ctrs e.ctr (min (fld e.word 31 0 + same) (2 ^ 32 - 1)) }) ∧
     (WordAt s t c 0x07 e → fld e.word 47 32 = 0 →
       ∃ u, exec (.ctrWait t c) s = .next u ∧
         TileBecomes s u e.slot
           (if (fld e.word 31 0 + (s.ctxOf e).reg (fld e.word 51 48)) % 2 ^ 32 ≤ sget 0 (s.tile e.slot).ctrs e.ctr
            then advanced s e else s.tile e.slot)))

/-! Remote memory operations -/

/-- The remote words issue (R200 to R206): to each destination tile go the packets of the operation, 512 bytes each, with
its operands, and the issuing counter increments at once but for a GET or RSWAP of bytes, whose data must return. -/
def Obligations.RemoteWords : Prop :=
  RemoteIssues .put 0x20 ∧ RemoteIssues .get 0x21 ∧ RemoteIssues .radd 0x22 ∧ RemoteIssues .rmax 0x23 ∧
  RemoteIssues .rswap 0x24 ∧ RemoteIssues .mcast 0x25 ∧ RemoteIssues .convAdd 0x26

/-- The oldest packet of a flow that nothing holds is performed at its destination, outside its code and descriptor regions
(R202 to R204, R207): a PUT or MCAST stores its bytes, an atomic operation the elements that it computes, of which RSWAP
sends back the old ones and an I32 RADD is the sum modulo 2^32, a GET sends its bytes back, 512 to a packet; with the last
packet the remote counter increments and the operation is acknowledged. Data that returns is stored, and with the last
packet the issuing counter increments. An acknowledgement takes its operation off the list. An operand of a converging add
waits at its destination for its turn; the operands whose turn has come are added to the destination, in F32 one after another
in ascending ordinal, and with the round's last DCTR increments when ordinal N−1 asked for it (R206, R277; log entry 44). -/
def Obligations.RemoteLands : Prop :=
  (∀ (s : State) (src dst : Nat) (c : Ctx) (e : Env) (p : Packet) (r : List Packet), src < 19200 → dst < 19200 →
    takePacket src c dst s.felt.packets = some (p, r) → s.unitEnv dst c = some e → (s.tile e.slot).sram.errs = [] →
    (let t := s.tile e.slot
     let fin := fun (t : Tile) => if p.last then t.complete p.rctr p.ren else t
     let way := fun (o : Nat) => s.bind.applied.midOf (dst / 16) (o / 16)
     let us := if p.last then ackOp p.src p.ctx p.dst p.op (way src) s.felt.unacked else s.felt.unacked
     let back := fun (bs : List Byte) => (List.range (cdiv bs.length 512)).map fun i =>
       ({ prog := p.prog, dst := p.src, ctx := p.ctx, pieces := [(p.ret + 512 * i, (bs.drop (512 * i)).take 512)]
          ctr := p.ctr, cen := p.cen, op := p.op, last := decide (i + 1 = cdiv bs.length 512), src := dst
          mid := way src } : Response)
     (p.data ≠ [] → (s.guarded e).any (overlap (p.addr, p.data.length)) = false →
        (∀ o ∈ t.others .outside, o.meets [(p.addr, p.data.length)] = false) →
        ((p.kind = .put ∨ p.kind = .mcast) →
          ∃ u, exec (.remoteArrival src c dst) s = .next u ∧ TileFrame { s with felt := u.felt } u e.slot ∧
            u.felt = { s.felt with packets := r, unacked := us } ∧
            u.tile e.slot = fin { t with sram := t.sram.write p.addr p.data }) ∧
        ((p.kind = .radd ∨ p.kind = .rmax ∨ p.kind = .rswap) → p.data.length % 4 = 0 →
          t.written .outside [(p.addr, p.data.length)] = false →
          (let old := t.sram.read p.addr p.data.length
           let v := atomicBytes p.kind (p.elem == 1) old p.data
           ∃ u, exec (.remoteArrival src c dst) s = .next u ∧ TileFrame { s with felt := u.felt } u e.slot ∧
             u.felt = { s.felt with
               packets := r, unacked := us
               responses := s.felt.responses ++ if p.kind = .rswap then back old else [] } ∧
             u.tile e.slot = fin ({ t with sram := t.sram.write p.addr v.1 }.setSat p.ctx v.2) ∧
             (p.kind = .radd → p.elem ≠ 1 → p.data.length = 4 →
               v = (leBytes 4 ((leNat old + leNat p.data) % 2 ^ 32), false))))) ∧
     (p.kind = .conv →
        (let s1 := { s with felt := { s.felt with packets := r, conv := convLand p s.felt.conv } }
         ((∀ k ∈ s1.convTrees p.prog dst, ∀ h, s1.tree e k = some h → s1.convNext dst h p.prog k = none) →
            ∃ u, exec (.remoteArrival src c dst) s = .next u ∧ TileFrame { s with felt := u.felt } u e.slot ∧
              u.felt = s1.felt ∧ u.tile e.slot = t) ∧
         ∀ h os, e.prog = p.prog → s.tree e p.tree = some h → (s.treeDest p.prog p.tree).any (·.1 == dst) = true →
           (∀ o ∈ s.felt.conv, o.prog = p.prog ∧ o.tree = p.tree ∧ o.round = p.round) →
           s1.convNext dst h p.prog p.tree = some os → 0 < leAt h 8 2 →
           (let a := leAt h 4 4
            let n := 4 * leAt h 8 2
            let key := treeKey p.prog p.tree
            let i := sget 0 s.felt.next key
            let k := sget 0 s.felt.done key
            let gs := s.treeGroups p.prog p.tree (leAt h 3 1 == 1) (leAt h 10 2)
            (s.guarded e).any (overlap (a, n)) = false → (∀ o ∈ t.others .outside, o.meets [(a, n)] = false) →
            t.written .outside [(a, n)] = false → p.round = k →
            (∀ g, gs[i + 1]? = some g → (g.filterMap (s1.convOp p.prog p.tree k n)).length ≠ g.length) →
            (let v := atomicBytes .radd (leAt h 3 1 == 1) (t.sram.read a n) (sumOperands os)
             let t' := { t with sram := t.sram.write a v.1 }.setSat ((os.map fun (o : ConvOperand) => o.ctx).headD c) v.2
             let acks := os.foldl (fun us o => ackOp o.src o.ctx dst o.op (way o.src) us) s.felt.unacked
             let ren := s1.felt.conv.any fun o => o.ord + 1 == leAt h 10 2 && o.ren
             (leAt h 3 1 = 1 → os.map (fun o => o.ord) = [i]) ∧ (∀ o ∈ os, o.round = k) ∧
             ∃ u, exec (.remoteArrival src c dst) s = .next u ∧ TileFrame { s with felt := u.felt } u e.slot ∧
               if gs.length ≤ i + 1 then
                 u.felt = { s1.felt with
                   unacked := acks, conv := [], done := sput 0 s.felt.done key (k + 1), next := sput 0 s.felt.next key 0 } ∧
                 u.tile e.slot = t'.complete (leAt h 12 1) ren
               else u.felt = { s1.felt with unacked := acks, next := sput 0 s.felt.next key (i + 1) } ∧
                 u.tile e.slot = t')))) ∧
     (p.kind = .get → p.len ≠ 0 → t.written .outside [(p.addr, p.len)] = false →
        ∃ u, exec (.remoteArrival src c dst) s = .next u ∧ TileFrame { s with felt := u.felt } u e.slot ∧
          u.felt = { s.felt with
            packets := r, unacked := us, responses := s.felt.responses ++ back (t.sram.read p.addr p.len) } ∧
          u.tile e.slot = fin t))) ∧
  (∀ (s : State) (t : Nat) (e : Env) (p : Response) (r : List Response), t < 19200 →
    takeResponse t s.felt.responses = some (p, r) → s.unitEnv t p.ctx = some e →
    (writeRanges p.pieces).all (fun w => !(s.guarded e).any (overlap w)) = true →
    (∀ o ∈ (s.tile e.slot).others .outside, o.meets (writeRanges p.pieces) = false) →
    ∃ u, exec (.getResponse t) s = .next u ∧ TileFrame { s with felt := u.felt } u e.slot ∧
      u.felt = { s.felt with responses := r } ∧
      (let x := { s.tile e.slot with sram := (s.tile e.slot).sram.writes p.pieces }
       u.tile e.slot = if p.last then x.complete p.ctr p.cen else x)) ∧
  ∀ (s : State) (t dst : Nat) (c : Ctx) (k : Unacked) (us : List Unacked), t < 19200 → dst < 19200 →
    dropAcked t c dst s.felt.unacked = some (k, us) →
    ∃ u, exec (.acknowledgement t c dst) s = .next u ∧ u = { s with felt := u.felt, pages := u.pages } ∧ PagesKeep s u [] ∧
      u.felt = { s.felt with unacked := us, packets := u.felt.packets } ∧
      u.felt.packets.map (fun p => { p with held := false }) = s.felt.packets.map fun p => { p with held := false }

/-! Matrix engine -/

/-- A matrix operation that passes its checks, reads no bad memory and meets no access of another unit stores what its
elements give, keeps their slots and waits to report (R97 to R126, R143, R198); one without rows or columns stores nothing;
a ream operation does so for its segments, and without non-zeros or an empty shape stores nothing (R123, R163 to R171). -/
def Obligations.EngineWords : Prop :=
  ∀ (s : State) (t : Nat) (c : Ctx) (e : Env) (b : Issue) (x : EngArgs), IssueAt s t c 0x08 engFull e b →
    x = EngArgs.parse e.word b.blk → engReservedOk e.word b.blk = true →
    (let nothing := fun (u : State) (l : Option LastOp) => TileBecomes s u e.slot { advanced s e with
       engines := sput {} (s.tile e.slot).engines x.e ((s.engine e x.e).push (e.unitOp 0 []) l) }
     (∀ j, x.ream = false → s.engCheck e b x = .ok j →
       (x.me ≠ 0 → x.ne ≠ 0 → j.stop (s.tile e.slot).sram (s.engine e j.x.e) = none →
         (let os := (pairs (List.range j.x.me) (List.range j.x.ne)).map fun q =>
            j.element (s.tile e.slot).seed e.ptile (s.tile e.slot).sram (s.engine e j.x.e) q.1 q.2
          s.writable e (1 + j.x.e) (writeRanges (os.flatMap fun o => o.spill ++ o.out)) = .ok () →
          (s.tile e.slot).races (.engine j.x.e) (s.engUnit e j os j.x.me) = false →
          ∃ u, exec (.engIssue t c) s = .next u ∧ EngDone s u e j os j.x.me (j.loadSat (s.tile e.slot).sram))) ∧
       (x.me = 0 ∨ x.ne = 0 → ∃ u, exec (.engIssue t c) s = .next u ∧ nothing u (s.engine e x.e).open_)) ∧
     ∀ j nnz, x.ream = true → s.reamCheck e b x = .ok (j, nnz) →
       (∀ p, j.ptr = some p → x.me ≠ 0 → x.ne ≠ 0 → nnz ≠ 0 →
         (let m := (s.tile e.slot).sram
          let lo := 512 * j.x.q
          let gs := segments m p (ptrRead m p (min nnz (lo + 512))) lo (min nnz (lo + 512))
          let os := (List.range j.x.ne).flatMap (j.reamElements (s.tile e.slot).seed e.ptile m (s.engine e j.x.e) lo gs)
          ptrFault m p nnz (ptrRead m p (min nnz (lo + 512))) = none → gs.length ≤ nth 0 j.d.dims 1 →
          s.writable e (1 + j.x.e) (writeRanges (os.flatMap fun o => o.spill ++ o.out)) = .ok () →
          (s.tile e.slot).races (.engine j.x.e) (s.engUnit e j os gs.length) = false →
          ∃ u sat, exec (.reamOperation t c) s = .next u ∧ EngDone s u e j os gs.length sat)) ∧
       (x.me = 0 ∨ x.ne = 0 → ∃ u, exec (.reamOperation t c) s = .next u ∧ nothing u (s.engine e x.e).open_) ∧
       (x.me ≠ 0 → x.ne ≠ 0 → nnz = 0 →
         ∃ u, exec (.reamOperation t c) s = .next u ∧ nothing u (if x.fin then none else some (x.last .ream))))

/-- A unit of a clocked tile reports its oldest operation's completion (R181, R186, R188, R254): the operation leaves the
queue and its counter increments by 1, saturating, when CEN is 1; what it wrote, the rest of its destination and an
engine's slots become unspecified when a write of another unit met it (R146, R209), which passes to an operation that
continues it. The vector and the copy engine do so once every line of the operation is served, here with
no operation behind it that waits. -/
def Obligations.UnitsComplete : Prop :=
  ∀ (s : State) (t : Nat) (v : Env) (o : UnitOp) (r : List UnitOp), t < 19200 → s.unitEnv t .c0 = some v →
    (let x := s.tile v.slot
     let m := fun (f : Nat) => if o.race then (fillFree (o.dst ++ o.lose) x.sram f).1 else x.sram
     let frame := fun (u : State) => u = { s with tiles := u.tiles, free := u.free } ∧
       (o.race = false → u.free = s.free) ∧ ∀ q, q ≠ v.slot → u.tile q = s.tile q
     (∀ e, e < 8 → (s.engine v e).q = o :: r → ∃ u, exec (.engineCompletion t e) s = .next u ∧ frame u ∧
       (let g : Engine := { s.engine v e with q := r }
        let k := if o.race then g.leave o s.free else (g, s.free)
        u.tile v.slot = { x.complete o.ctr o.cen with sram := m k.2, engines := sput {} x.engines e k.1 })) ∧
     (x.vecQ = o :: r → o.left = 0 → o.waiting = false → (∀ k ∈ r, k.waiting = false) →
       ∃ u, exec (.vectorCompletion t) s = .next u ∧ frame u ∧
         u.tile v.slot = { x.complete o.ctr o.cen with sram := m s.free, vecQ := r }) ∧
     (x.copyQ = o :: r → o.left = 0 → o.waiting = false → (∀ k ∈ r, k.waiting = false) →
       ∃ u, exec (.copyCompletion t) s = .next u ∧ frame u ∧
         u.tile v.slot = { x.complete o.ctr o.cen with sram := m s.free, copyQ := r })) ∧
    ∀ x : Tile, (x.complete o.ctr true) = { x with ctrs := sput 0 x.ctrs o.ctr (min (sget 0 x.ctrs o.ctr + 1) (2 ^ 32 - 1)) } ∧
      x.complete o.ctr false = x

/-! Copy engine -/

/-- Copy words (R190, R237, R238, R241, R244 to R247): between extents of the tile COPY and PERMUTE move every unit of the
source, GATHER the slices that the index tensor names, SCATTER and SCATTER_ADD the slices to where it names; an operation on
an empty tensor moves nothing. One with a side in vat space asks for its lines, a GATHER also reads lines of other tiles,
and one behind another waits. -/
def Obligations.CopyWords : Prop :=
  let none_ := fun (j : CopyJob) => j.dst.empty = true ∨ j.src.empty = true ∨ j.n = 0
  let named := fun (s : State) (e : Env) (j : CopyJob) =>
    j.dst.empty = false ∧ j.src.empty = false ∧ j.n ≠ 0 ∧ j.badIndex (s.tile e.slot).sram = none
  let fits := fun (s : State) (e : Env) (ms : List Move) => s.writable e 10 (dstRanges ms) = .ok ()
  let slices := fun (s : State) (e : Env) (j : CopyJob) => (j.gather (s.tile e.slot).sram e).flatMap fun g => g.moves
  (∀ r ∈ [(0, Instr.copy), (1, .permute)],
    CopyIssues r.2 r.1 (fun s e j => fits s e j.moves)
      (fun s e j => j.dst.vat = true ∨ (j.src.vat = true ∧ j.dst.vat = false ∧ fits s e j.moves))
      (fun m _ j => (m.moves j.moves, false))) ∧
  (∀ r ∈ [(2, Instr.gather), (3, .scatter), (4, .scatterAdd)],
    CopyIssues r.2 r.1 (fun _ _ j => none_ j) (fun _ _ j => none_ j) (fun m _ _ => (m, false))) ∧
  CopyIssues .gather 2 (fun s e j => named s e j ∧ j.parts = none ∧ fits s e (slices s e j))
    (fun s e j => named s e j ∧ j.src.vat = true ∧ fits s e (slices s e j))
    (fun m e j => (m.moves ((j.gather m e).flatMap fun g => g.moves), false)) ∧
  CopyIssues .scatter 3 (fun s e j => named s e j ∧ fits s e (j.scatter (s.tile e.slot).sram)) (fun _ _ j => none_ j)
    (fun m _ j => (m.moves (j.scatter m), false)) ∧
  CopyIssues .scatterAdd 4 (fun s e j => named s e j ∧ fits s e (j.scatter (s.tile e.slot).sram)) (fun _ _ j => none_ j)
    (fun m _ j => scatterAdds (j.src.fmt == .f32) m (j.scatter m) m false) ∧
  ∀ (s : State) (t : Nat) (c : Ctx) (e : Env) (b : Issue) (j : CopyJob), CopyAt s t c 2 e b j →
    (s.tile e.slot).copyQ = [] → j.src.vat = false → named s e j → fits s e (slices s e j) →
    ∃ u ps, exec (.gather t c) s = .next u ∧ TileFrame { s with felt := u.felt } u e.slot ∧
      u.felt = { s.felt with packets := s.felt.packets ++ ps, unacked := u.felt.unacked } ∧
      (∀ p ∈ ps, p.kind = .copyRead ∧ p.src = e.t ∧ p.ctx = e.c) ∧
      (let own := ((j.gather (s.tile e.slot).sram e).filter fun g => g.tile.isNone).flatMap fun g => g.moves
       u.tile e.slot = { advanced s e with
         sram := (s.tile e.slot).sram.moves own, nextId := (u.tile e.slot).nextId
         copyQ := (u.tile e.slot).copyQ, vecQ := (u.tile e.slot).vecQ })

/-- Moves whose destinations meet neither each other nor any source deliver to each destination what its source held before
the first of them, and leave every byte outside the destinations alone (R237, R239). -/
def Obligations.MovesDeliver : Prop :=
  ∀ (m : EccMem) (ms : List Move), m.errs = [] →
    ms.Pairwise (fun a b => overlap (a.dst, a.len) (b.dst, b.len) = false) →
    (∀ a ∈ ms, ∀ b ∈ ms, overlap (a.dst, a.len) (b.src, b.len) = false) →
    (∀ a ∈ ms, (m.moves ms).read a.dst a.len = m.read a.src a.len) ∧
    ∀ x, (∀ a ∈ ms, x < a.dst ∨ a.dst + a.len ≤ x) → (m.moves ms).byte x = m.byte x

/-! Vector engine -/

/-- Every vector word that passes its checks stores the results that its operation gives, counts them in its census slot
and waits to report; one that reads vat space, or follows one that waits for vat space, waits first (R191 to R197, R309 to
R311, R334 to R339). -/
def Obligations.VectorWords : Prop :=
  VecIssues .vconv 0x10 none State.vconv ∧
  (∀ r ∈ [(0, Instr.add), (1, .sub), (2, .mul), (3, .fma), (4, .max), (5, .min), (6, .scale2), (7, .maxabs), (8, .sum),
      (9, .move)], VecIssues r.2 0x11 (some r.1) State.varith) ∧
  VecIssues .vring 0x12 none State.vring ∧
  (∀ r ∈ [(0, Instr.adamw), (1, .sgdm), (2, .logpack)], VecIssues r.2 0x13 (some r.1) voptChk) ∧
  VecIssues .vtopk 0x14 none State.vtopk ∧ VecIssues .vcomp 0x15 none State.vcomp

/-- CENSUS clears its slot, stores its four counts as 16 bytes, or stores the context's flag word as 4 bytes at the address
that its block and XB give, outside the code and descriptor regions (R182, R198). -/
def Obligations.CensusWords : Prop :=
  ∀ (s : State) (t : Nat) (c : Ctx) (e : Env) (b : Issue) (x : VArgs), IssueAt s t c 0x16 vecFull e b →
    (∀ q ∈ (s.tile e.slot).vecQ, q.waiting = false) → x = VArgs.parse e.word b → x.auxs = 0 →
    allZero (bytesAt b.blk 4 60) = true →
    (let unit := fun (ws : List (Bool × Nat × List Byte)) => s.vunit e b { run := fun _ => ({}, none) } { ws := ws } false
     (x.sub = 0 → ∃ u, exec (.censusClear t c) s = .next u ∧ TileBecomes s u e.slot { advanced s e with
       census := sput {} (s.tile e.slot).census x.cslot {}, vecQ := (s.tile e.slot).vecQ ++ [unit []]
       nextId := (s.tile e.slot).nextId + 1 }) ∧
     (∀ a n bs, (x.sub = 1 ∧ n = 16 ∧ bs = (sget {} (s.tile e.slot).census x.cslot).bytes) ∨
         (x.sub = 2 ∧ n = 4 ∧ bs = leBytes 4 (s.ctxOf e).flags.toNat) →
       x.s0 ≠ noneAddr → a = (x.s0 + x.xb) % 2 ^ 64 → a + n ≤ 0x280000 → s.writable e 9 [(a, n)] = .ok () →
       (s.tile e.slot).races .vector (unit [(false, a, bs)]) = false →
       ∃ u, exec (if x.sub = 1 then .censusStore t c else .censusFlags t c) s = .next u ∧
         TileBecomes s u e.slot { advanced s e with
           sram := (s.tile e.slot).sram.write a bs, vecQ := (s.tile e.slot).vecQ ++ [unit [(false, a, bs)]]
           nextId := (s.tile e.slot).nextId + 1
           census := sput {} (s.tile e.slot).census x.cslot (sget {} (s.tile e.slot).census x.cslot) }))

/-! Ticks, links and binding -/

/-- A tick wave is launched by vote when a program takes a tick and the wave before it has been delivered, and counts that
program's tick; after an emergency throttle the holds are computed first; which step and tick one wave of several programs
carries is the model's choice (log entry 38). The wave reaches a router after the router before it, and one whose flit the
router cannot correct waits for its replay (R251); the router then delivers it once: a program's tiles start at their entry address with the step seed at its first tick, and at the word after TICK_WAIT
later; elsewhere only context 1 goes on (R22, R40, R116, R178, R211, R212, R268, R269). -/
def Obligations.TickWaves : Prop :=
  (∀ s : State, s.cc.restricted = none → s.ticking ≠ [] → s.waveDone = true →
    ∃ u, exec (.tickWaveLaunch none) s = .next u ∧ PagesKeep s u [] ∧
      u = { s with
        pages := u.pages, sec := { s.sec with taintSram := true }, queries := u.queries
        train := { s.train with ph1 := if 0 ∈ s.ticking then s.train.ph1.map fun a => { a with tick := a.tick + 1 }
                                       else s.train.ph1 }
        felt := { s.felt with
          wave := some { step := (s.train.ph1.map fun a => a.step).getD 0, tick := (s.nextTick (s.ticking.headD 0)).getD 0
                         progs := s.ticking, starts := s.ticking.filter fun i => s.nextTick i == some 0 }
          holdCls := if s.felt.holdStale then s.classes else s.felt.holdCls, holdStale := false } } ∧
      ∀ q, u.query q = if q ∈ s.ticking ∧ q ≠ 0 then
          { s.query q with run := (s.query q).run.map fun r => { r with tick := r.tick + 1 } } else s.query q) ∧
  (∀ (s : State) (c l : Nat) (w : Wave), c < 1440 → s.felt.wave = some w → s.bind.applied.serves c = some l →
    (let bad := (flitsInto c w.errs).any (fun x => x.err.fix.1.isNone) = true
     let comes := ∃ u, exec (.waveArrival c) s = .next u ∧ PagesKeep s u [] ∧
       u = { s with pages := u.pages, felt := { s.felt with wave := some { w with reached := w.reached ++ [c] } } }
     (bad → exec (.waveArrival c) s = .next s) ∧
     (w.reached.contains c = false → ¬ bad → s.bind.applied.wavePred l = none → comes) ∧
     ∀ q d, w.reached.contains c = false → ¬ bad → s.bind.applied.wavePred l = some q → s.bind.applied.server q = some d →
       if w.reached.contains d then comes else exec (.waveArrival c) s = .next s) ∧
    (w.reached.contains c = true → w.delivered.contains c = false →
      (let ts := s.bind.applied.tilesAt l
       let frame := fun (u : State) => PagesKeep s u [] ∧ (∀ k, k ∉ ts.map Prod.snd → u.tile k = s.tile k) ∧
         u = { s with
           pages := u.pages, tiles := u.tiles, felt := { s.felt with wave := some { w with delivered := w.delivered ++ [c] } } }
       (s.owner l = none → (∀ q ∈ ts, s.workDone (l * 16 + q.1) q.2 .c1 = true) →
         ∃ u, exec (.tickArrival c) s = .next u ∧ frame u ∧ ∀ q ∈ ts, u.tile q.2 = (s.tile q.2).tickC1) ∧
       ∀ i g x y, s.owner l = some i → s.prog i = some g → g.bound = some (x, y) →
         g.image.isUnused (l % 40 - x) (l / 40 - y) = false → i ∈ w.progs →
         (∀ q ∈ ts, if i ∈ w.starts then s.workDone (l * 16 + q.1) q.2 .c1 = true
           else s.overruns (l * 16 + q.1) q.2 (decide (g.image.ticks < (s.workIndex i).2 + 1)) = false) →
         ∃ u, exec (.tickArrival c) s = .next u ∧ frame u ∧
           ∀ q ∈ ts, u.tile q.2 = (s.tile q.2).tick (if i ∈ w.starts then
             some (g.image.tile? (g.image.ptileOf (l % 40 - x) (l / 40 - y) q.1), (s.seedOf i).getD 0) else none)))) ∧
  ∀ (t : Tile) (i : TileImage) (seed : Nat), t.c1.run ≠ .tickWait →
    t.tick (some (some i, seed)) = { t with
      seed := seed, c0 := { t.c0 with pc := i.entry, run := .running, codeBase := i.codeBase, codeLen := i.codeLen } } ∧
    (t.c0.run = .tickWait → t.tick none = { t with c0 := { t.c0 with run := .running } }) ∧
    (t.c0.run = .ended → t.tick none = t)

/-- A replay on a lane of a link sends the flits from the one named again, as far as the 64 of the replay buffer reach, so that
what of them was in error arrives well, and one without error ends the failures in a row; a failure counts
up for its flit, and from 1 for another, and the eighth in a row of one flit gives the link up: what the felt carried but
express signals is dropped with the tree rounds (R249, R280). Retraining that passes returns a link that no fault of the
last 24 hours names; one that fails retires the link (R281, R365). That a link which is retired or ends on a retired cluster
takes no part is the model's reading (log entries 36 and 38). -/
def Obligations.LinkReplays : Prop :=
  ∀ (s : State) (l lane seq : Nat) (fw : Bool), linkOk l = true → lane < 2 → seq < 256 → s.bind.found.linkUp l = true →
    (s.felt.gaveUp.contains l = false → s.bind.found.living (linkEnds l).1.1 = true →
      s.bind.found.living (linkEnds l).2.1 = true →
      (let key := laneKey l fw lane
       let last := sget (0, 0) s.felt.replays key
       let n := if last.1 = seq then last.2 + 1 else 1
       let stays := fun (es : List FlitErr) => es.filter fun x => !(x.link == l && x.forward == fw && x.lane == lane &&
         decide ((x.seq + 256 - seq) % 256 < 64) && x.err.fix.1.isNone)
       let lines := fun (qs : List LineReq) => qs.map fun q => { q with errs := stays q.errs }
       (∃ u, exec (.replayRequest l fw true lane seq) s = .next u ∧ PagesKeep s u [] ∧
         u = { s with
           pages := u.pages, vats := { s.vats with vats := u.vats.vats }
           felt := { s.felt with
             replays := sput (0, 0) s.felt.replays key (0, 0)
             packets := s.felt.packets.map fun p => { p with errs := stays p.errs }
             responses := s.felt.responses.map fun p => { p with errs := stays p.errs }
             unacked := s.felt.unacked.map fun p => { p with errs := stays p.errs }
             wave := s.felt.wave.map fun p => { p with errs := stays p.errs } } } ∧
         ∀ v, u.vats.vat v = { s.vats.vat v with
           qStream := lines (s.vats.vat v).qStream, qC1 := lines (s.vats.vat v).qC1, qOther := lines (s.vats.vat v).qOther }) ∧
       (n < 8 → ∃ u, exec (.replayRequest l fw false lane seq) s = .next u ∧ PagesKeep s u [] ∧
         u = { s with
           pages := u.pages, felt := { s.felt with replays := sput (0, 0) s.felt.replays key (seq, n) } }) ∧
       (8 ≤ n → s.felt.gaveUp = [] → s.felt.attemptLinks = [] → ∃ u, exec (.replayRequest l fw false lane seq) s = .next u ∧
         u.felt.gaveUp = [l] ∧ u.felt.responses = [] ∧ u.felt.unacked = [] ∧ u.felt.conv = [] ∧ u.felt.rounds = [] ∧
         u.felt.done = [] ∧ u.felt.next = [] ∧ (∀ p ∈ u.felt.packets, p.chan = .express) ∧
         sget (0, 0) u.felt.replays key = (0, 0) ∧ u.bind = s.bind))) ∧
    (s.felt.gaveUp = [l] → (∀ w ∈ s.repair.windows, w.1 ≠ fLINK_REPLAY_FAIL * 2 ^ 32 + l) →
      (∃ u, exec (.linkRetrainDone l true) s = .next u ∧
        u = { s with felt := { s.felt with gaveUp := [] }
                     repair := { s.repair with windows := u.repair.windows } }) ∧
      ∃ u, exec (.linkRetrainDone l false) s = .next u ∧ l ∈ u.bind.found.links ∧ u.felt.gaveUp = [])

/-- BINDING_APPLIED with nothing found and nothing waiting changes nothing. A waiting BIND whose region meets no other
program, can be served, and moves no busy program is applied: the program stands there, BIND_GEN counts a change of owner,
and the command ends; one that meets another program or would move a busy one ends with BIND_CONFLICT, one that cannot be
served with PLACEMENT_HOLE. A waiting UNBIND of an idle program takes it off the grid, of a busy one ends with
BIND_CONFLICT. A retirement that was found is applied before either (R33 to R36, R453). That a BIND to the corner where the
program stands counts no change is the model's reading (log entry 45). -/
def Obligations.BindingApplied : Prop :=
  ∀ s : State,
    (s.target = s.bind.applied → s.bind.req = none → exec (.bindingApplied none) s = .next s) ∧
    (∀ r : Running, s.target = s.bind.applied → s.awake = true → s.run = some r →
      (let held := fun (u : State) => u.felt = { s.felt with holdCls := u.felt.holdCls, holdStale := u.felt.holdStale } ∧
         u.vats = s.vats ∧ u.twin = s.twin ∧ u.lease = s.lease ∧ u.bind.applied = s.bind.applied ∧
         u.bind.found = s.bind.found ∧ u.bind.req = none ∧ u.run = none
       let ended := fun (u : State) (code : Nat) => held u ∧ u.bind = { s.bind with req := none } ∧ u.tiles = s.tiles ∧
         (u.port r.port).cmd.status = code
       (∀ slot x y g, s.bind.req = some (.bind slot x y) → s.prog slot = some g →
         (let meets := ∃ i q x' y', i < 4 ∧ i ≠ slot ∧ s.prog i = some q ∧ q.bound = some (x', y') ∧
            rectsMeet x y g.image.w g.image.h x' y' q.image.w q.image.h = true
          let moves := s.busy slot = true ∧ g.bound ≠ some (x, y)
          (meets ∨ moves → ∃ u, exec (.bindingApplied none) s = .next u ∧ ended u fBIND_CONFLICT) ∧
          (¬ meets → ¬ moves → s.bind.applied.broken (usedClusters g.image x y) = true →
            ∃ u, exec (.bindingApplied none) s = .next u ∧ ended u fPLACEMENT_HOLE) ∧
          (¬ meets → ¬ moves → s.bind.applied.broken (usedClusters g.image x y) = false →
            ∃ u, exec (.bindingApplied none) s = .next u ∧ held u ∧ (u.port r.port).cmd.status = 0 ∧
              u.prog slot = some { g with bound := some (x, y), stopped := false } ∧
              (∀ k, k ≠ slot → u.prog k = s.prog k) ∧
              if g.bound = some (x, y) then u.bind.gen = s.bind.gen ∧ u.tiles = s.tiles
              else u.bind.gen = (s.bind.gen + 1) % 2 ^ 32))) ∧
       ∀ slot g, s.bind.req = some (.unbind slot) → s.prog slot = some g → g.bound ≠ none →
         (s.busy slot = true → ∃ u, exec (.bindingApplied none) s = .next u ∧ ended u fBIND_CONFLICT) ∧
         (s.busy slot = false → ∃ u, exec (.bindingApplied none) s = .next u ∧ held u ∧
           (u.port r.port).cmd.status = 0 ∧ u.prog slot = some { g with bound := none } ∧
           (∀ k, k ≠ slot → u.prog k = s.prog k) ∧ u.bind.gen = (s.bind.gen + 1) % 2 ^ 32 ∧ u.tiles = s.tiles))) ∧
    (s.target ≠ s.bind.applied →
      (∀ r, s.run = some r → r.begun = true ∨ s.power.waking = true) →
      ∃ u, exec (.bindingApplied none) s = .next u ∧ u.bind.applied = s.target ∧ u.bind.req = s.bind.req ∧
        u.ident.holes = s.target.holes ∧ u.ident.holes + u.ident.served = 1200 ∧
        ((∀ i, i < 4 → s.prog i = none) → u.tiles = s.tiles))

/-! Memories -/

/-- The SECDED code corrects every single-bit error of a word, of its data or of its check bits, and detects every double
error (R353 to R355). A word without error reads as it is stored. -/
def Obligations.SecdedCorrects : Prop :=
  (∀ i, i < 64 → ({ d := 2 ^ i } : WordErr).fix = (some 0, true)) ∧
  (∀ i, i < 8 → ({ c := 2 ^ i } : WordErr).fix = (some 0, true)) ∧
  (∀ i j, i < 64 → j < i → ({ d := 2 ^ i + 2 ^ j } : WordErr).fix = (none, false)) ∧
  (∀ i j, i < 64 → j < 8 → ({ d := 2 ^ i, c := 2 ^ j } : WordErr).fix = (none, false)) ∧
  (∀ i j, i < 8 → j < i → ({ c := 2 ^ i + 2 ^ j } : WordErr).fix = (none, false)) ∧
  ∀ r, ({ reads := r } : WordErr).fix = (some 0, false)

/-- The write-back of a corrected word stores the bytes that its reads deliver, with valid check bits, and is no longer due
(R356), in the SRAM of a clocked tile (R254); the patrol of a vat whose words hold no error changes nothing but its counters,
and is off when PATROL is 0 (R322). -/
def Obligations.WriteBacks : Prop :=
  (∀ (s : State) (k a : Nat), k < 24480 → (s.field (fieldOfCluster (k / 17))).tstate ≠ 0 →
    exec (.sramWriteBack k a) s = .next s) ∧
  (∀ (s : State) (k a : Nat), k < 24480 → (s.field (fieldOfCluster (k / 17))).tstate = 0 →
    (s.tile k).sram.due.contains (a / 8 * 8) = true →
    ∃ u, exec (.sramWriteBack k a) s = .next u ∧ u = { s with tiles := u.tiles } ∧ (∀ q, q ≠ k → u.tile q = s.tile q) ∧
      (∀ e ∈ (u.tile k).sram.errs, e.1 ≠ a / 8 * 8) ∧ (u.tile k).sram.due.contains (a / 8 * 8) = false ∧
      (∀ x, (u.tile k).sram.byte x = (s.tile k).sram.byte x) ∧
      u.tile k = { s.tile k with sram := (u.tile k).sram }) ∧
  (∀ (s : State) (v w : Nat), v < 40 → s.vats.mem.due.find? (fun w => vatOf w == v) = some w → w % 8 = 0 →
    s.bind.applied.servingPort v ≠ none →
    ∃ u, exec (.vatWriteBack v) s = .next u ∧ u = { s with vats := { s.vats with mem := u.vats.mem } } ∧
      (∀ x, u.vats.mem.byte x = s.vats.mem.byte x) ∧
      (∀ e ∈ u.vats.mem.errs, e.1 ≠ w) ∧ u.vats.mem.due.contains w = false) ∧
  ∀ (s : State) (v : Nat), v < 40 →
    ((s.vats.vat v).patrol = false → exec (.patrol v) s = .next s) ∧
    ((s.vats.vat v).patrol = true → s.bind.applied.servingPort v ≠ none → s.vats.mem.errs = [] →
      ∃ u, exec (.patrol v) s = .next u ∧ u = { s with pages := u.pages } ∧ PagesKeep s u [])

/-- A vat port performs the request that its queues offer, here of a copy operation that follows no other (R286, R291,
R293): a line read answers its tile with the bytes stored, and a line write of one piece stores them, counts the line as
done, and changes no other byte; the port's sequence numbers advance (R359, R364). A request whose packet fails its check is
counted and stays to be sent again (R357, R362). A line of a vector operation stays with it until its last has come (R292). A
request with a flit that no router can correct has not reached its port, and the line of a tile that is not clocked waits
there, which is the model's reading (R251, R254; log entry 50). A response that waits for a tile's copy engine is written into
the tile (R241). -/
def Obligations.LinesServed : Prop :=
  (∀ (s : State) (v : Nat) (r : LineReq) (t id : Nat) (c : Ctx), v < 40 → s.bind.applied.servedBy v = [v] →
    s.vats.mem.errs = [] → (s.vats.vat v).turn = 2 → (s.vats.vat v).qOther = [r] → r.asker = .tile t c id →
    s.trainImage = none → ∀ e, s.env t c = some e →
    (flitBad r.errs = true ∨ (s.field (fieldOfCluster (e.slot / 17))).tstate ≠ 0 → (s.vats.vat v).qStream = [] →
      (s.vats.vat v).qC1 = [] → exec (.vatLineRequest v) s = .next s) ∧
    (flitBad r.errs = false → (s.field (fieldOfCluster (e.slot / 17))).tstate = 0 →
     let vats := fun (u : State) (q : List LineReq) (n : Nat) => PagesKeep s u [] ∧
       (∀ f, f ≠ vatSite v → u.site f = s.site f) ∧ u.vats.stripes = s.vats.stripes ∧
       u.vats.vat v = { s.vats.vat v with qOther := q, turn := n } ∧ ∀ k, k ≠ v → u.vats.vat k = s.vats.vat k
     let taken := fun (u : State) => vats u [] 0 ∧ u.site (vatSite v) = { s.site (vatSite v) with
       fails := 0, seqTx := ((s.site (vatSite v)).seqTx + 1) % 2 ^ 32, seqRx := ((s.site (vatSite v)).seqRx + 1) % 2 ^ 32 }
     (r.fails ≠ 0 → (s.site (vatSite v)).fails < 8 → ∃ u, exec (.vatLineRequest v) s = .next u ∧
       vats u [{ r with fails := r.fails - 1 }] 2 ∧
       u = { s with pages := u.pages, sites := u.sites, vats := { s.vats with vats := u.vats.vats } } ∧
       u.site (vatSite v) = { s.site (vatSite v) with
         chkFail := satAdd 32 (s.site (vatSite v)).chkFail 1, replays := satAdd 32 (s.site (vatSite v)).replays 1
         fails := (s.site (vatSite v)).fails + 1 }) ∧
     (∀ o, r.fails = 0 → r.write = false → (s.tile e.slot).vecQ = [o] → o.id = id → o.todo = [] → 2 ≤ o.left →
       (∀ k ∈ (s.tile e.slot).copyQ, k.id ≠ id) →
       ∃ u, exec (.vatLineRequest v) s = .next u ∧ taken u ∧ u.vats.mem = s.vats.mem ∧
         u = { s with pages := u.pages, sites := u.sites, vats := u.vats, tiles := u.tiles } ∧
         (∀ q, q ≠ e.slot → u.tile q = s.tile q) ∧
         u.tile e.slot = { s.tile e.slot with
           vecQ := [{ o with got := o.got ++ [(r.addr, s.vats.mem.read r.addr 64)], left := o.left - 1 }] }) ∧
     (r.fails = 0 → r.write = false → (∀ o ∈ (s.tile e.slot).vecQ, o.id ≠ id) →
       ∃ u, exec (.vatLineRequest v) s = .next u ∧ taken u ∧ u.vats.mem = s.vats.mem ∧
         u = { s with
           pages := u.pages, sites := u.sites, vats := u.vats
           felt := { s.felt with responses := s.felt.responses ++ [{
             prog := (s.owner (t / 16)).getD 0, dst := t, ctx := c, opId := some id, mid := r.mid
             pieces := r.dest.map fun d => (d.2.1, s.vats.mem.read (r.addr + d.1) d.2.2) }] } }) ∧
     (∀ off bs, r.fails = 0 → r.write = true → r.data = [(off, bs)] →
       (∀ o ∈ (s.tile e.slot).vecQ, o.id ≠ id) → (∀ o ∈ (s.tile e.slot).copyQ, o.id = id → o.todo = []) →
       ∃ u, exec (.vatLineRequest v) s = .next u ∧ taken u ∧
         u = { s with
           pages := u.pages, sites := u.sites, vats := u.vats, tiles := u.tiles
           sec := { s.sec with taintVat := u.sec.taintVat }, twin := { s.twin with join := u.twin.join } } ∧
         u.vats.mem.read (r.addr + off) bs.length = bs ∧
         (∀ x, x < r.addr + off ∨ r.addr + off + bs.length ≤ x → u.vats.mem.byte x = s.vats.mem.byte x) ∧
         (∀ q, q ≠ e.slot → u.tile q = s.tile q) ∧
         u.tile e.slot = { s.tile e.slot with
           copyQ := (s.tile e.slot).copyQ.map fun o => if o.id = id then { o with left := o.left - 1 } else o }))) ∧
  ∀ (s : State) (t : Nat) (v : Env) (r : Response) (id : Nat), t < 19200 → s.unitEnv t .c0 = some v →
    s.felt.responses = [r] → r.dst = t → r.opId = some id → flitBad r.errs = false →
    (∀ o ∈ (s.tile v.slot).copyQ ++ (s.tile v.slot).vecQ, o.id = id → o.todo = []) →
    (∀ o ∈ (s.tile v.slot).others .copy, o.meets (writeRanges r.pieces) = false) →
    ∃ u, exec (.vatResponse t 0) s = .next u ∧ PagesKeep s u [] ∧
      u = { s with pages := u.pages, tiles := u.tiles, felt := { s.felt with responses := [] } } ∧
      (∀ q, q ≠ v.slot → u.tile q = s.tile q) ∧
      u.tile v.slot = { s.tile v.slot with sram := (s.tile v.slot).sram.writes r.pieces }.modOp id
        fun o => { o with left := o.left - 1 }

/-! Steps and queries -/

/-- STEP_BEGIN of a step whose entries the feed does not yet hold waits and sets FEED_WAIT on the command page, and a poll
that still finds too few leaves the module waiting; with the entries posted either begins the next step at its attempt 0,
with the entries that the ring holds; a redone attempt begins without another read of the fill index. Each begins once no
remote operation of an earlier attempt is in the felt, here outside a moving copy; the serving tiles start anew (R43, R52,
R176, R177, R444). The holder of a moving copy begins none, redone or fresh, while a step is in phase 2 (R387). -/
def Obligations.StepsBegin : Prop :=
  ∀ (s : State) (r : Running) (i : Image), s.run = some r → s.trainImage = some i → s.mayBegin = true →
    s.feltClear 0 = true → (s.port r.port).dmaUp = true →
    (let took := fun (u : State) (n : Nat) => (∀ f, f ≠ hostSite r.port → u.site f = s.site f) ∧
       u.site (hostSite r.port) = { s.site (hostSite r.port) with
         fails := 0, seqRx := ((s.site (hostSite r.port)).seqRx + n) % 2 ^ 32 }
     let fill := leNat (memRead (s.port r.port).mem r.page.feedFill.toNat 8)
     let begun := fun (n att : Nat) =>
       ({ step := n, attempt := att, started := true
          inputs := (List.range i.feedE).map fun j =>
            ({ ring := ringIndex n i.feedE j r.page.feedCount.toNat
               entry := memRead (s.port r.port).mem (r.page.feedBase.toNat +
                 32 * ringIndex n i.feedE j r.page.feedCount.toNat) 32 } : Input) } : Phase1)
     let anew := fun (u : State) => u.vats.mem = s.vats.mem ∧ u.twin = s.twin ∧ u.bind = s.bind ∧ u.queries = s.queries ∧
       (∀ q ∈ s.tilesOf 0, ∀ k, s.bind.applied.tileSlot q.2 = some k → u.tile k = (s.tile k).startAttempt) ∧
       ∀ k, (∀ q ∈ s.tilesOf 0, s.bind.applied.tileSlot q.2 ≠ some k) → u.tile k = s.tile k
     (s.train.ph1 = none → s.nextStep ≤ s.train.last → (s.twin.st = 3 → s.train.ph2 = none) → fill < s.nextStep →
       (s.train.feedWait = false → ∃ u, exec (.stepBegin none) s = .next u ∧ EvtOn s u (pgCmd r.port) 8 ∧
         EventFrame s u [pgCmd r.port] ∧ took u 1 ∧
         u = { s with
           train := { s.train with feedWait := true }, sites := u.sites, h0 := u.h0, h1 := u.h1, pages := u.pages }) ∧
       (s.train.feedWait = true → ∃ u, exec (.feedFillPoll none) s = .next u ∧ took u 1 ∧
         u = { s with sites := u.sites })) ∧
     (s.twin.st = 3 → s.train.ph2 ≠ none → exec (.stepBegin none) s = .next s ∧ exec (.feedFillPoll none) s = .next s) ∧
     (∀ a, s.train.ph1 = some a → a.started = false → s.twin.join = none → (s.twin.st = 3 → s.train.ph2 = none) →
       ∃ u, exec (.stepBegin none) s = .next u ∧ u.train = { s.train with ph1 := some (begun a.step a.attempt) } ∧
         u.felt = { s.felt with attemptLinks := [] } ∧ u.pages = s.pages ∧ u.fields = s.fields ∧ took u i.feedE ∧ anew u) ∧
     (∀ c ∈ [(false, Instr.stepBegin none), (true, .feedFillPoll none)], s.train.feedWait = c.1 → s.train.ph1 = none →
       s.nextStep ≤ s.train.last → (s.twin.st = 3 → s.train.ph2 = none) → s.nextStep ≤ fill → s.twin.join = none →
       ({ s with train := { s.train with feedWait := false, redos := 0, overrun := false, throttled := false } }
         : State).boundary.periodOf 0 ≤ 64 →
       ∃ u, exec c.2 s = .next u ∧ PagesKeep s u [] ∧ took u (1 + i.feedE) ∧ anew u ∧
         u.felt = { s.felt with holdCls := u.felt.holdCls, holdStale := u.felt.holdStale, attemptLinks := [] } ∧
         u.train = { s.train with
           feedWait := false, redos := 0, overrun := false, throttled := false, ph1 := some (begun s.nextStep 0)
           doubled := s.train.doubled || !s.bind.found.vatPorts.isEmpty, stretch := u.train.stretch }))

/-- A transfer that fails the port's check is counted and repeated (R362). An input of the step whose object passes its
checks and whose tag verifies is placed in its tile after its length and TAG, the tile's counter increments and the input
counts as verified; an entry of length 0 skips every check and places no plaintext (R399, R400, R506). One that fails a
check ends RUN_STEPS with that fault on the page of the port site (R401). An input for a tile that is not clocked waits, which
is the model's reading (R254; log entry 50). A stream or view entry whose tick has arrived and
whose layer phase 2 has completed starts once, and its lines wait at their vats (R300, R333). -/
def Obligations.InputsAndEntries : Prop :=
  (∀ (s : State) (slot j : Nat) (p : HPort) (x : Input), slot < 4 → s.inputPort slot = some p → s.inputAt slot j = some x →
    x.placed = false → x.coming = false → (s.port p).dmaUp = true → s.inputHeld slot j = false → (s.site (hostSite p)).fails < 8 →
    ∃ u, exec (.hostReadCompletion slot j false) s = .next u ∧ u = { s with sites := u.sites, pages := u.pages } ∧
      PagesKeep s u [] ∧ (∀ f, f ≠ hostSite p → u.site f = s.site f) ∧
      u.site (hostSite p) = { s.site (hostSite p) with
        chkFail := satAdd 32 (s.site (hostSite p)).chkFail 1, replays := satAdd 32 (s.site (hostSite p)).replays 1
        fails := (s.site (hostSite p)).fails + 1 }) ∧
  (∀ (s : State) (r : Running) (a : Phase1) (j : Nat) (x : Input) (g : Prog), s.run = some r → s.train.ph1 = some a →
    a.inputs[j]? = some x → x.placed = false → x.coming = false → (s.port r.port).dmaUp = true → s.prog 0 = some g →
    (s.inputHeld 0 j = true → ∀ b, exec (.hostReadCompletion 0 j b) s = .next s) ∧
    (s.inputHeld 0 j = false →
    leAt (nth [] g.image.inputs j) 0 1 = 0 → leAt x.entry 8 8 = 0 ∨ allZero (bytesAt x.entry 17 7) = true →
    (let m := nth [] g.image.inputs j
     let o := s.sec.ingress (s.port r.port).mem 0 (leAt x.entry 16 1) (leAt x.entry 0 8) (leAt x.entry 8 8)
     (leAt x.entry 8 8 = 0 → o = .ok ([], true)) ∧
     (∀ px py k pt, g.bound = some (px, py) →
       s.bind.applied.tileSlot (((py + leAt m 3 1) * 40 + px + leAt m 2 1) * 16 + leAt m 4 1) = some k →
       o = .ok (pt, true) → pt.length ≤ leAt m 16 8 →
       (∀ q ∈ (s.tile k).others .outside, q.meets [(leAt m 8 8, 16 + pt.length)] = false) →
       ∃ u, exec (.hostReadCompletion 0 j true) s = .next u ∧ PagesKeep s u [] ∧
         u = { s with pages := u.pages, sites := u.sites, tiles := u.tiles
                      train := { s.train with ph1 := some { a with
                        inputs := setNth a.inputs j { x with placed := true, plain := pt, good := true } } } } ∧
         u.site (hostSite r.port) = { s.site (hostSite r.port) with
           fails := 0, seqRx := ((s.site (hostSite r.port)).seqRx + 1) % 2 ^ 32 } ∧
         (∀ f, f ≠ hostSite r.port → u.site f = s.site f) ∧ (∀ q, q ≠ k → u.tile q = s.tile q) ∧
         u.tile k = { (s.tile k).incCtr (leAt m 1 1) 1 with
           sram := (s.tile k).sram.write (leAt m 8 8) (leBytes 8 pt.length ++ bytesAt x.entry 24 8 ++ pt) }) ∧
     (∀ c, o = .error c → r.op = 4 → s.train.ph2 = none →
       ∃ u, exec (.hostReadCompletion 0 j true) s = .next u ∧ u.run = none ∧ u.train.ph1 = none ∧
         u.train.running = false ∧ (u.port r.port).cmd.status = c ∧ u.train.committed = s.train.committed ∧
         ((s.page (pgSite (hostSite r.port))).lost = false →
           (u.page (pgSite (hostSite r.port))).code = c ∧
           (u.page (pgSite (hostSite r.port))).info = BitVec.ofNat 32 x.ring))))) ∧
  (∀ (s : State) (p : Nat) (i : Image) (k : Nat) (e : List Byte), p < 4 → s.image? p = some i → i.streams[k]? = some e →
    s.tickArrived p (RectEntry.parse e).tick = true → (p = 0 → s.layerReady i (streamLayer e) = true) →
    (streamLen e = 0 → ∀ q ∈ s.destSlots p (RectEntry.parse e), s.unclocked q = false) →
    (k ∈ s.startedEntries p false → exec (.streamEntry p k) s = .next s) ∧
    (k ∉ s.startedEntries p false → ∃ u, exec (.streamEntry p k) s = .next u ∧
      u.startedEntries p false = s.startedEntries p false ++ [k] ∧
      u = { s with
        train := { s.train with ph1 := u.train.ph1 }, queries := u.queries, tiles := u.tiles
        vats := { s.vats with vats := u.vats.vats } } ∧
      (s.destSlots p (RectEntry.parse e) ≠ [] → u.tiles = s.tiles ∨ streamLen e = 0) ∧
      (s.destSlots p (RectEntry.parse e) ≠ [] → ∀ a ∈ linesOf (streamSrc e) (streamLen e),
        ∃ q ∈ (u.vats.vat (vatOf a)).qStream, q.addr = a ∧ q.write = false ∧ q.asker = .stream p k))) ∧
  ∀ (s : State) (i : Image) (k : Nat) (e : List Byte) (l : LayerImage), s.trainImage = some i → i.views[k]? = some e →
    i.layers[viewLayer e]? = some l → s.tickArrived 0 (RectEntry.parse e).tick = true →
    s.layerReady i (viewLayer e) = true →
    (viewNblk e = 0 → ∀ q ∈ s.destSlots 0 (RectEntry.parse e), s.unclocked q = false) →
    (k ∈ s.startedEntries 0 true → exec (.viewEntry k) s = .next s) ∧
    (k ∉ s.startedEntries 0 true → ∃ u, exec (.viewEntry k) s = .next u ∧
      u.startedEntries 0 true = s.startedEntries 0 true ++ [k] ∧
      u = { s with
        train := { s.train with ph1 := u.train.ph1 }, tiles := u.tiles, vats := { s.vats with vats := u.vats.vats } } ∧
      (s.destSlots 0 (RectEntry.parse e) ≠ [] → ∀ b, b < viewNblk e →
        ∃ q ∈ (u.vats.vat (vatOf (i.gradEntry l (viewFirst e + b) / 64 * 64))).qStream,
          q.addr = i.gradEntry l (viewFirst e + b) / 64 * 64 ∧ q.write = false ∧ q.asker = .view k))

/-- The seal ends phase 1 when its work is over, and outside lockstep the step enters phase 2 at once, with its number in
the couch header, its record and its watermark; a commit with every chunk done makes that step the committed one, in the
couch header too, and keeps its watermark. With no PHASE2 in the couch a roll-forward changes nothing; one of a step that
PHASE2 names and whose layer states are staged, or whose chunks are all done, commits it, and one of a committed step clears
PHASE2 (R49, R305, R316, R319, R320, R372). -/
def Obligations.SealAndCommit : Prop :=
  ∀ (s : State) (i : Image), s.trainImage = some i → s.vats.mem.errs = [] →
    (let commits := fun (u : State) (x : SealedStep) => PagesKeep s u [pgCmd .h0, pgCmd .h1, pgCtr] ∧
       u.train.committed = x.step ∧ u.train.ph2 = none ∧ u.train.base = [] ∧ u.train.ph1 = s.train.ph1 ∧ u.twin.lastWm = x.wmark ∧
       u.ctr.cenStep = x.step ∧ u.vats.mem.read i.couch 8 = leBytes 8 x.step ∧
       u.vats.mem.read (i.couch + 8) 8 = leBytes 8 noStep ∧ u.tiles = s.tiles ∧ u.felt = s.felt ∧ u.bind = s.bind
     (∀ a, s.train.ph1 = some a → a.started = true → s.train.ph2 = none → s.cc.restricted = none → s.twin.st ≠ 1 →
       s.workOver 0 a.tick i a.inputs = true →
       ∃ u x, exec (.stepSeal none) s = .next u ∧ PagesKeep s u [] ∧ u.train.ph1 = none ∧
         u.train = { s.train with ph1 := none, ph2 := some x, sealedStep := none, held := false, base := u.train.base } ∧
         (i.red = none → u.train.base = s.vats.mem.cells) ∧
         x.step = a.step ∧ x.attempt = a.attempt ∧ x.wmark = shake256 x.record 32 ∧ x.record = s.sealRecord i a.step ∧
         x.layers.length = i.layers.length ∧ u.vats.mem.read (i.couch + 8) 8 = leBytes 8 a.step ∧ u.felt = s.felt ∧
         u.bind = s.bind ∧ ∀ k, u.tile k = { s.tile k with c1 := (u.tile k).c1, ctrs := (u.tile k).ctrs }) ∧
     (∀ x, s.train.ph2 = some x → s.nextChunk i x.step = none → s.twin.join = none →
       ∃ u, exec (.commit none) s = .next u ∧ commits u x) ∧
     (∀ n, leAt (s.vats.mem.read i.couch 24) 8 8 = n →
       (n = noStep → ∃ u, exec (.rollForward none) s = .next u ∧ u = { s with pages := u.pages } ∧ PagesKeep s u []) ∧
       (n ≠ noStep → leAt (s.vats.mem.read i.couch 24) 0 8 = n →
         ∃ u, exec (.rollForward none) s = .next u ∧ PagesKeep s u [] ∧ leNat (u.vats.mem.read (i.couch + 8) 8) = noStep ∧
           (∀ a, a < i.couch + 8 ∨ i.couch + 16 ≤ a → u.vats.mem.byte a = s.vats.mem.byte a) ∧
           u = { s with pages := u.pages, vats := u.vats, sec := { s.sec with taintVat := u.sec.taintVat } }) ∧
       (∀ x, n ≠ noStep → leAt (s.vats.mem.read i.couch 24) 0 8 ≠ n → s.train.ph2 = some x → s.twin.join = none →
         (leAt (s.vats.mem.read i.couch 24) 16 8 = n → ∃ u, exec (.rollForward none) s = .next u ∧ commits u x) ∧
         (leAt (s.vats.mem.read i.couch 24) 16 8 ≠ n → x.step = n → s.nextChunk i n = none →
           ∃ u, exec (.rollForward none) s = .next u ∧ commits u x))))

/-- Phase 2 takes the first chunk that is not done, and ends with its journal entry COMPLETE and its done byte at the step's
number; it leaves to the tiles their census slot 31 and SAT of context 1 (R307, R314, R317, R374); a chunk of a skipped layer
writes the journal entry and the done byte alone. For another chunk the writes follow one another as R317 lists them: the entry
EMPTY for the chunk, the new state of the optimiser into the slot, the entry with the step and then WRITTEN, the same state to
the home masters, moments, working copy and sizing region, COMPLETE, the done byte; every other byte stays (R307, R315). The
journal slot is a free value of the model among those that R318 allows (log entry 1). -/
def Obligations.ChunksComplete : Prop :=
  ∀ (s : State) (i : Image) (x : SealedStep) (g k c : Nat) (l : LayerImage) (y : LayerSeal), s.trainImage = some i →
    s.train.ph2 = some x → s.vats.mem.errs = [] → s.nextChunk i x.step = some g → i.layerOf g = some (k, l, c) →
    x.layers[k]? = some y →
    (let slot := (s.takeSlot i x.step).1
     ∃ u, exec .phase2Chunk s = .next u ∧ PagesKeep s u [] ∧
       u.vats.mem.read (i.journal slot + 8) 8 = journalWord g 2 ∧
       (u.vats.mem.byte (i.couch + 0x880000 + g)).toNat = x.step % 256 ∧
       (y.skip = true → u.tiles = s.tiles ∧
         ∀ a, (a < i.journal slot + 8 ∨ i.journal slot + 16 ≤ a) → a ≠ i.couch + 0x880000 + g →
           u.vats.mem.byte a = s.vats.mem.byte a) ∧
       (y.skip = false →
         (let m := s.vats.mem.write (i.journal slot + 8) (journalWord g 0)
          let new := chunkState m i l c x.step y
          let home := fun (p : Nat × List Byte) =>
            (((chunkPieces i l c).find? fun h => h.2.1 == p.1).map fun h => (h.1, p.2)).toList
          let all := new.map (fun p => (i.couchSlot slot + p.1, p.2)) ++ [(i.journal slot, leBytes 8 x.step),
            (i.journal slot + 8, journalWord g 1)] ++ new.flatMap home ++ [(i.journal slot + 8, journalWord g 2),
            (i.couch + 0x880000 + g, leBytes 1 (x.step % 256))]
          ∀ a, u.vats.mem.byte a = (m.writes all).byte a)) ∧
       (∀ q, q ∉ (s.bind.applied.chunkTiles g).map Prod.snd → u.tile q = s.tile q) ∧
       (∀ q, u.tile q = { s.tile q with
         census := (u.tile q).census, c1 := { (s.tile q).c1 with flags := (u.tile q).c1.flags } }) ∧
       u.felt = s.felt ∧ u.train = s.train ∧ u.twin = s.twin ∧ u.bind = s.bind)

/-- A served slot starts a query by vote at its next ring entry once one is posted, no remote operation of an earlier one is
in the felt, and not before, from the committed state of its program's extents: what they hold, or held when the step now in
phase 2 entered it (R48, R54, R55); a redone query starts with the entry that it holds. The output of a query whose work is over is
sealed under the slot that its entry names, numbered within its command, and sent; the slot's completed count rises and is
written to host memory, and RUN_QUERY ends at its count (R22, R177, R398, R407, R440, R445). -/
def Obligations.Queries : Prop :=
  ∀ (s : State) (q : Nat) (r : Running), 1 ≤ q → q ≤ 3 → s.run = some r →
    (let tab := r.page.qtab q
     let fill := leNat (memRead (s.port r.port).mem tab.fill.toNat 8)
     ((s.query q).run = none → fill ≤ (s.query q).next →
       ∃ u, exec (.qtabFillPoll q none) s = .next u ∧ u = { s with sites := u.sites }) ∧
     ((s.port r.port).dmaUp = true → s.queryReady q r = true → s.feltClear q = true → tab.count ≠ 0 →
       (s.query q).next < fill → s.boundary.periodOf q ≤ 64 →
       ∃ u, exec (.qtabFillPoll q none) s = .next u ∧ PagesKeep s u [] ∧
         u.felt = { s.felt with holdCls := u.felt.holdCls, holdStale := u.felt.holdStale, attemptLinks := [] } ∧
         u.train.ph1 = s.train.ph1 ∧ u.run = s.run ∧ u.vats.mem = s.vats.mem ∧ u.bind = s.bind ∧
         (∀ k, k ≠ q → u.query k = s.query k) ∧
         (let k := (s.query q).next
          let n := k % tab.count.toNat
          let e := memRead (s.port r.port).mem (tab.base.toNat + 64 * n) 64
          u.query q = { s.query q with
            next := k + 1
            run := some { k := k, entry := e, input := { ring := n, entry := e }, started := true, port := r.port
                          tab := tab, start := s.committedCells q } })) ∧
     (∀ a, (s.query q).run = some a → a.started = false → s.rebindDue = false → s.feltClear q = true → s.awake = true →
       ∃ u, exec (.qtabFillPoll q none) s = .next u ∧
         u.query q = { s.query q with run := some { a with started := true } } ∧ (∀ k, k ≠ q → u.query k = s.query k) ∧
         u = { s with tiles := u.tiles, queries := u.queries, felt := { s.felt with attemptLinks := [] } }) ∧
     (∀ a i kek, (s.query q).run = some a → a.started = true → s.image? q = some i → (s.port a.port).dmaUp = true →
       s.workOver q a.tick i [a.input] = true → s.sec.exportKey (leAt a.entry 17 1) = .ok kek →
       96 + (a.output i).length ≤ leAt a.entry 32 8 → a.rseq = none → r.op = 5 → r.aborting = false →
       ∃ u, exec (.queryOutput q) s = .next u ∧ (u.query q).completed = (s.query q).completed + 1 ∧
         (u.query q).run = none ∧
         (if r.page.args.a0.toNat ≤ r.count + 1 then u.run = none ∧ (u.port r.port).cmd.status = 0
          else u.run = some { r with count := r.count + 1 }) ∧
         (let x := s.site (hostSite a.port)
          let o := sealObject kek (bytesAt (Config.entropy s.sec.drawn 32) 0 32)
            (bytesAt (Config.entropy (s.sec.drawn + 1) 12) 0 12) 3 (leAt a.entry 17 1) r.count (a.output i)
          (u.port a.port).mem = memWrite
            (memWrite (s.port a.port).mem (leAt a.entry 24 8)
              (o ++ trailer (Check.ofCode x.active) (leAt a.entry 24 8) x.seqTx (hostSite a.port) o))
            a.tab.done.toNat (leBytes 8 ((s.query q).completed + 1)))))

/-! Counters -/

/-- A snapshot that falls due while the one before it is not written is skipped and counted; one that is launched takes the
next number, the registers of now and the tag records held, and its pages latch as they have counted up to then; a snapshot for which a page has not latched is not written, and a host record carries its
magic and its number (R493 to R496). -/
def Obligations.Snapshots : Prop :=
  ∀ s : State, s.ctr.regs.period ≠ 0 → s.ident.ready = true →
    (∀ x, s.ctr.snap = some x → ∃ u, exec .counterSnapshot s = .next u ∧ EvtOn s u pgCtr 4 ∧ EventFrame s u [pgCtr] ∧
      u = { s with
        ctr := { s.ctr with
          missedCnt := satAdd 32 s.ctr.missedCnt 1, missedSince := satAdd 32 s.ctr.missedSince 1
          tagOn := s.ctr.tagEn, dumping := true }
        h0 := u.h0, h1 := u.h1, pages := u.pages }) ∧
    (s.skipsSnapshot = false → ∃ u x, exec .counterSnapshot s = .next u ∧ u.ctr.snap = some x ∧ x.seq = s.ctr.seq ∧
      x.step = s.train.committed ∧ x.missed = s.ctr.missedSince ∧ u.ctr.seq = (s.ctr.seq + 1) % 2 ^ 64 ∧
      x.regs = s.ctr.regs ∧ x.tags = s.ctr.tags ∧ u.ctr.tags = [] ∧ u.ctr.tagOn = s.ctr.tagEn ∧ PagesKeep s u [] ∧
      (∀ k, k < 10 → x.hasLatched k = true) ∧ u = { s with ctr := u.ctr, free := u.free, pages := u.pages }) ∧
    (∀ x k, s.ctr.snap = some x → pageExists k = true → x.hasLatched k = false →
      ∃ u, exec (.snapshotLatch k) s = .next u ∧ PagesKeep s u [] ∧
        u = { s with
          ctr := { s.ctr with snap := some { x with latched := (k, (u.page k).ctrs) :: x.latched } }
          free := u.free, pages := u.pages } ∧
        ((s.page k).ctrs ≠ [] → exec .dumpWritten s = .next s)) ∧
    (∀ x, s.ctr.snap = some x → (∀ k, pageExists k = true → x.hasLatched k = true) → x.regs.dest = 0 →
      x.seq < 2 ^ 64 → (s.port x.regs.hport).dmaUp = true →
      ∃ u, exec .dumpWritten s = .next u ∧ EvtOn s u pgCtr 2 ∧ PagesKeep s u [pgCtr] ∧
        u = { s with
          ctr := { s.ctr with snap := none }, free := s.free + 1, h0 := u.h0, h1 := u.h1, pages := u.pages
          sites := u.sites } ∧
        (x.regs.hostSlots ≠ 0 →
          (let a := x.regs.hostBase.toNat + 0x20000 * (x.seq % x.regs.hostSlots.toNat)
           memRead (u.port x.regs.hport).mem a 2 = leBytes 2 0x5302 ∧
           leNat (memRead (u.port x.regs.hport).mem (a + 8) 8) = x.seq)))

/-! Faults -/

/-- Faults that fall on one page in one cycle: CODE and FAULT_INFO are those of the fault that comes first in the order of
R371, which is ascending; COUNT rises by their number and saturates; FAULT is set; other pages keep their registers
(R370, R429, R431). The page of a lost unit keeps its values (R427). -/
def Obligations.FaultRecords : Prop :=
  ∀ (s : State) (k : Nat) (fs : List (Nat × Nat)), fs ≠ [] →
    ((s.page k).lost = true → s.recordFaults k fs = s) ∧
    ((s.page k).lost = false →
      (∃ f ∈ fs, (∀ g ∈ fs, f.1 ≤ g.1) ∧ ((s.recordFaults k fs).page k).code = f.1 ∧
        ((s.recordFaults k fs).page k).info = BitVec.ofNat 32 f.2) ∧
      ((s.recordFaults k fs).page k).evt = (s.page k).evt ||| 1#32 ∧
      ((s.recordFaults k fs).page k).count = min ((s.page k).count + fs.length) 65535 ∧
      ∀ j, j ≠ k → (s.recordFaults k fs).page j = s.page j)

/-! Numbers and places -/

/-- The scale fit of G8 for a maximum magnitude A = m·2^e is the smallest s from −128 to 127 with A ≤ 127·2^s; it is −128
for A = 0, and 127 when no s in range satisfies the condition (R87). -/
def Obligations.GradientFit : Prop :=
  ∀ (m : Nat) (e : Int),
    let fits : Int → Prop := fun t => (m : ℚ) * (2 : ℚ) ^ e ≤ 127 * (2 : ℚ) ^ t
    (m = 0 → g8Fit m e = -128) ∧
    ((∃ t, -128 ≤ t ∧ t ≤ 127 ∧ fits t) →
      -128 ≤ g8Fit m e ∧ g8Fit m e ≤ 127 ∧ fits (g8Fit m e) ∧ ∀ t, -128 ≤ t → t < g8Fit m e → ¬ fits t) ∧
    ((∀ t, -128 ≤ t → t ≤ 127 → ¬ fits t) → g8Fit m e = 127)

/-- The codes of E2M3, E3M2 and E2M1 under a scale byte S stand for the values of R70, with their sign, times
2^(S − 127), and none is Inf or NaN; the largest magnitudes are 7.5, 28 and 6; under S of 0xFF every code is NaN (R70 to
R75). -/
def Obligations.NarrowValues : Prop :=
  (∀ f ∈ [(ElemFmt.e2m3, 6, 3, (1 : Int)), (.e3m2, 6, 2, 3), (.e2m1, 4, 1, 1)],
    ∀ c S, c < 2 ^ f.2.1 → S < 255 →
      ∃ g m x, narrowVal f.1 S c = .fin g m x ∧ (g = true ↔ 2 ^ (f.2.1 - 1) ≤ c) ∧
        (let M : ℚ := ((c % 2 ^ f.2.2.1 : Nat) : ℚ)
         let E : Nat := c / 2 ^ f.2.2.1 % 2 ^ (f.2.1 - 1 - f.2.2.1)
         (m : ℚ) * (2 : ℚ) ^ x = (2 : ℚ) ^ ((S : Int) - 127) *
           (if E = 0 then (2 : ℚ) ^ (1 - f.2.2.2) * (M / 2 ^ f.2.2.1)
            else (2 : ℚ) ^ ((E : Int) - f.2.2.2) * (1 + M / 2 ^ f.2.2.1)))) ∧
  (∀ f c, narrowVal f 0xFF c = .nan) ∧
  narrowVal .e2m3 127 0x1F = .fin false 15 (-1) ∧ narrowVal .e3m2 127 0x1F = .fin false 7 2 ∧
  narrowVal .e2m1 127 0x7 = .fin false 3 1

/-- The generator of stochastic rounding never leaves its non-zero states of 32 bits: every seed is one, and every draw
keeps to them (R113 to R115). An add draws once and leaves the spill buffer alone; a NaN group sum leaves the canonical NaN,
and a zero one the accumulator as it was (R112, R114, R118). -/
def Obligations.RoundingGenerator : Prop :=
  (∀ a b c d e, 0 < lfsrSeed a b c d e ∧ lfsrSeed a b c d e < 2 ^ 32) ∧
  (∀ x, 0 < x → x < 2 ^ 32 → 0 < lfsrStep x ∧ lfsrStep x < 2 ^ 32 ∧ 0 < lfsrAdvance x ∧ lfsrAdvance x < 2 ^ 32) ∧
  (∀ (s : Slot) (g : GroupSum), (s.add g).lfsr = lfsrAdvance s.lfsr ∧ (s.add g).buf = s.buf ∧ (s.add g).cnt = s.cnt + 1) ∧
  ∀ s : Slot, (s.add .nan).a32 = f32.nan ∧ (s.add (.fin 0 0)).a32 = s.a32

/-- A logical cluster is served by the living cluster of its row segment with as many living clusters before it as its
place in the segment says, and a logical tile by the living slot of that cluster with as many living slots before it as its
number says (R3, R25, R26). -/
def Obligations.ServingUnits : Prop :=
  ∀ (r : Retire) (l t k c : Nat), l < 1200 → t < 16 →
    (r.server l = some c ↔ c / 48 = l / 40 ∧ c % 48 / 6 = l % 40 / 5 ∧ r.living c = true ∧
      ((List.range (c % 6)).filter fun i => r.living (c - c % 6 + i)).length = l % 5) ∧
    (r.server l = some c → (r.tileSlot (l * 16 + t) = some k ↔ k / 17 = c ∧ r.slots.contains k = false ∧
      ((List.range (k % 17)).filter fun j => !r.slots.contains (c * 17 + j)).length = t))
end

