-- ==== Sys2Proof/Laws/Sparse.lean ====
section
/-! SUPPORT. Laws of sparse maps: a read after a write, and the canonical form that every write keeps. -/

namespace Sys2Proof.Machine

variable {α : Type} [DecidableEq α]

omit [DecidableEq α] in
theorem sget_sins_ne (d : α) (m : List (Nat × α)) (i j : Nat) (v : α) (h : j ≠ i) :
    sget d (sins m i v) j = sget d m j := by
  induction m with
  | nil => simp [sins, sget, h]
  | cons a r ih =>
    unfold sins
    split
    · simp [sget, h]
    · simp only [sget, ih]

omit [DecidableEq α] in
theorem sget_filter_ne (d : α) (m : List (Nat × α)) (i j : Nat) (h : j ≠ i) :
    sget d (m.filter fun kv => kv.1 != i) j = sget d m j := by
  induction m with
  | nil => rfl
  | cons a r ih =>
    obtain ⟨k, w⟩ := a
    rw [List.filter_cons]
    split
    · simp only [sget, ih]
    · rename_i hk
      have hki : k = i := by simpa using hk
      subst hki
      simp [sget, h, ih]

omit [DecidableEq α] in
theorem sget_filter_self (d : α) (m : List (Nat × α)) (i : Nat) : sget d (m.filter fun kv => kv.1 != i) i = d := by
  induction m with
  | nil => rfl
  | cons a r ih =>
    obtain ⟨k, w⟩ := a
    rw [List.filter_cons]
    split
    · rename_i hk
      have hki : i ≠ k := fun e => by simp [e] at hk
      simp [sget, hki, ih]
    · exact ih

omit [DecidableEq α] in
theorem sget_sins_filter (d : α) (m : List (Nat × α)) (i : Nat) (v : α) :
    sget d (sins (m.filter fun kv => kv.1 != i) i v) i = v := by
  induction m with
  | nil => simp [sins, sget]
  | cons a r ih =>
    obtain ⟨k, w⟩ := a
    rw [List.filter_cons]
    split
    · rename_i hk
      have hki : i ≠ k := fun e => by simp [e] at hk
      unfold sins
      split
      · simp [sget]
      · simp [sget, hki, ih]
    · exact ih

/-- A write leaves every other key alone. -/
@[simp] theorem sget_sput_ne (d : α) (m : List (Nat × α)) (i j : Nat) (v : α) (h : j ≠ i) :
    sget d (sput d m i v) j = sget d m j := by
  unfold sput
  dsimp only
  split
  · exact sget_filter_ne d m i j h
  · rw [sget_sins_ne _ _ _ _ _ h, sget_filter_ne d m i j h]

/-- A write is read back. -/
@[simp] theorem sget_sput_self (d : α) (m : List (Nat × α)) (i : Nat) (v : α) : sget d (sput d m i v) i = v := by
  unfold sput
  dsimp only
  split
  · rename_i h; rw [h]; exact sget_filter_self d m i
  · exact sget_sins_filter d m i v

/-- What a key reads after a write of any key. -/
theorem sget_sput (d : α) (m : List (Nat × α)) (i j : Nat) (v : α) :
    sget d (sput d m i v) j = if j = i then v else sget d m j := by
  split
  · rename_i h; subst h; exact sget_sput_self d m j v
  · rename_i h; exact sget_sput_ne d m i j v h

theorem swfFrom_mono (d : α) (m : List (Nat × α)) (b c : Nat) (h : swfFrom d (some b) m = true) (hc : c ≤ b) :
    swfFrom d (some c) m = true := by
  cases m with
  | nil => rfl
  | cons a r =>
    obtain ⟨k, w⟩ := a
    simp only [swfFrom, Bool.and_eq_true, decide_eq_true_eq] at h ⊢
    exact ⟨⟨by omega, h.1.2⟩, h.2⟩

theorem swfFrom_none (d : α) (m : List (Nat × α)) (b : Nat) (h : swfFrom d (some b) m = true) :
    swfFrom d none m = true := by
  cases m with
  | nil => rfl
  | cons a r =>
    obtain ⟨k, w⟩ := a
    simp only [swfFrom, Bool.and_eq_true, decide_eq_true_eq] at h ⊢
    exact ⟨⟨trivial, h.1.2⟩, h.2⟩

theorem swfFrom_cons (d : α) (b : Option Nat) (k : Nat) (v : α) (r : List (Nat × α)) :
    swfFrom d b ((k, v) :: r) = true ↔ (∀ j, b = some j → j < k) ∧ v ≠ d ∧ swfFrom d (some k) r = true := by
  cases b <;> simp [swfFrom, and_assoc]

theorem swfFrom_filter (d : α) (m : List (Nat × α)) (b : Option Nat) (p : Nat × α → Bool)
    (h : swfFrom d b m = true) : swfFrom d b (m.filter p) = true := by
  induction m generalizing b with
  | nil => rfl
  | cons a r ih =>
    obtain ⟨k, w⟩ := a
    simp only [swfFrom, Bool.and_eq_true, decide_eq_true_eq] at h
    rw [List.filter_cons]
    split
    · simp only [swfFrom, Bool.and_eq_true, decide_eq_true_eq]
      exact ⟨h.1, ih _ h.2⟩
    · have := ih _ h.2
      cases b with
      | none => exact swfFrom_none d _ k this
      | some j => exact swfFrom_mono d _ k j this (Nat.le_of_lt (by simpa using h.1.1))

theorem swfFrom_sins (d : α) (m : List (Nat × α)) (b : Option Nat) (i : Nat) (v : α)
    (h : swfFrom d b m = true) (hb : ∀ j, b = some j → j < i) (hn : ∀ p ∈ m, p.1 ≠ i) (hv : v ≠ d) :
    swfFrom d b (sins m i v) = true := by
  induction m generalizing b with
  | nil => exact (swfFrom_cons ..).mpr ⟨hb, hv, rfl⟩
  | cons a r ih =>
    obtain ⟨k, w⟩ := a
    rw [swfFrom_cons] at h
    have hk := hn (k, w) (by simp)
    unfold sins
    split
    · rename_i hik
      exact (swfFrom_cons ..).mpr ⟨hb, hv, (swfFrom_cons ..).mpr ⟨fun j hj => by cases hj; exact hik, h.2⟩⟩
    · refine (swfFrom_cons ..).mpr ⟨h.1, h.2.1, ih (some k) h.2.2 (fun j hj => ?_) fun p hp => hn p (by simp [hp])⟩
      cases hj
      simp only at hk
      omega

theorem swfFrom_sput (d : α) (m : List (Nat × α)) (b : Option Nat) (i : Nat) (v : α)
    (h : swfFrom d b m = true) (hb : ∀ j, b = some j → j < i) : swfFrom d b (sput d m i v) = true := by
  unfold sput
  dsimp only
  split
  · exact swfFrom_filter d m b _ h
  · rename_i hv
    exact swfFrom_sins d _ b i v (swfFrom_filter d m b _ h) hb (fun p hp => by simpa using (List.mem_filter.mp hp).2) hv

/-- A write keeps the canonical form. -/
@[simp] theorem swf_sput (d : α) (m : List (Nat × α)) (i : Nat) (v : α) (h : swf d m = true) :
    swf d (sput d m i v) = true := swfFrom_sput d m none i v h (fun _ h => nomatch h)

/-- Writes of consecutive keys keep the canonical form. -/
@[simp] theorem swf_sputs (d : α) (m : List (Nat × α)) (i : Nat) (vs : List α) (h : swf d m = true) :
    swf d (sputs d m i vs) = true := by
  induction vs generalizing m i with
  | nil => exact h
  | cons v r ih => exact ih _ _ (swf_sput d m i v h)

/-- Writes of consecutive keys leave the keys outside them alone. -/
theorem sget_sputs_outside (d : α) (m : List (Nat × α)) (i : Nat) (vs : List α) (j : Nat)
    (h : j < i ∨ i + vs.length ≤ j) : sget d (sputs d m i vs) j = sget d m j := by
  induction vs generalizing m i with
  | nil => rfl
  | cons v r ih =>
    simp only [List.length_cons] at h
    rw [sputs, ih _ _ (by omega), sget_sput_ne _ _ _ _ _ (by omega)]

/-- Writes of consecutive keys are read back. -/
theorem sgets_sputs (d : α) (m : List (Nat × α)) (i : Nat) (vs : List α) :
    sgets d (sputs d m i vs) i vs.length = vs := by
  induction vs generalizing m i with
  | nil => rfl
  | cons v r ih =>
    simp only [List.length_cons, sgets, sputs]
    rw [sget_sputs_outside _ _ _ _ _ (by omega), sget_sput_self, ih]

/-- Clearing a range keeps the canonical form. -/
@[simp] theorem swf_sclear (d : α) (m : List (Nat × α)) (lo hi : Nat) (h : swf d m = true) :
    swf d (sclear m lo hi) = true := swfFrom_filter d m none _ h

end Sys2Proof.Machine
end

