-- ==== Sys2Proof/Laws/State.lean ====
section
/-! SUPPORT. What each update of State leaves alone, field by field, and what it sets. -/

namespace Sys2Proof.Machine

variable (s : State)

@[simp] theorem State.setField_pending (f : Nat) (v : FieldState) : (s.setField f v).pending = s.pending := rfl
@[simp] theorem State.setField_h0 (f : Nat) (v : FieldState) : (s.setField f v).h0 = s.h0 := rfl
@[simp] theorem State.setField_h1 (f : Nat) (v : FieldState) : (s.setField f v).h1 = s.h1 := rfl
@[simp] theorem State.setField_run (f : Nat) (v : FieldState) : (s.setField f v).run = s.run := rfl
@[simp] theorem State.setField_readData (f : Nat) (v : FieldState) : (s.setField f v).readData = s.readData := rfl
@[simp] theorem State.setField_bar2Bad (f : Nat) (v : FieldState) : (s.setField f v).bar2Bad = s.bar2Bad := rfl
@[simp] theorem State.setField_pages (f : Nat) (v : FieldState) : (s.setField f v).pages = s.pages := rfl
@[simp] theorem State.setField_clusters (f : Nat) (v : FieldState) : (s.setField f v).clusters = s.clusters := rfl
@[simp] theorem State.setField_sites (f : Nat) (v : FieldState) : (s.setField f v).sites = s.sites := rfl
@[simp] theorem State.setField_lease (f : Nat) (v : FieldState) : (s.setField f v).lease = s.lease := rfl
@[simp] theorem State.setField_ident (f : Nat) (v : FieldState) : (s.setField f v).ident = s.ident := rfl
@[simp] theorem State.setField_power (f : Nat) (v : FieldState) : (s.setField f v).power = s.power := rfl
@[simp] theorem State.setField_sec (f : Nat) (v : FieldState) : (s.setField f v).sec = s.sec := rfl
@[simp] theorem State.setField_twin (f : Nat) (v : FieldState) : (s.setField f v).twin = s.twin := rfl
@[simp] theorem State.setField_ctr (f : Nat) (v : FieldState) : (s.setField f v).ctr = s.ctr := rfl
@[simp] theorem State.setField_repair (f : Nat) (v : FieldState) : (s.setField f v).repair = s.repair := rfl
@[simp] theorem State.setField_bind (f : Nat) (v : FieldState) : (s.setField f v).bind = s.bind := rfl
@[simp] theorem State.setField_cc (f : Nat) (v : FieldState) : (s.setField f v).cc = s.cc := rfl
@[simp] theorem State.setField_tiles (f : Nat) (v : FieldState) : (s.setField f v).tiles = s.tiles := rfl
@[simp] theorem State.setField_felt (f : Nat) (v : FieldState) : (s.setField f v).felt = s.felt := rfl
@[simp] theorem State.setField_vats (f : Nat) (v : FieldState) : (s.setField f v).vats = s.vats := rfl
@[simp] theorem State.setField_train (f : Nat) (v : FieldState) : (s.setField f v).train = s.train := rfl
@[simp] theorem State.setField_queries (f : Nat) (v : FieldState) : (s.setField f v).queries = s.queries := rfl
@[simp] theorem State.setField_svc (f : Nat) (v : FieldState) : (s.setField f v).svc = s.svc := rfl
@[simp] theorem State.setField_free (f : Nat) (v : FieldState) : (s.setField f v).free = s.free := rfl

@[simp] theorem State.setSite_pending (f : Nat) (v : SiteRegs) : (s.setSite f v).pending = s.pending := rfl
@[simp] theorem State.setSite_h0 (f : Nat) (v : SiteRegs) : (s.setSite f v).h0 = s.h0 := rfl
@[simp] theorem State.setSite_h1 (f : Nat) (v : SiteRegs) : (s.setSite f v).h1 = s.h1 := rfl
@[simp] theorem State.setSite_run (f : Nat) (v : SiteRegs) : (s.setSite f v).run = s.run := rfl
@[simp] theorem State.setSite_readData (f : Nat) (v : SiteRegs) : (s.setSite f v).readData = s.readData := rfl
@[simp] theorem State.setSite_bar2Bad (f : Nat) (v : SiteRegs) : (s.setSite f v).bar2Bad = s.bar2Bad := rfl
@[simp] theorem State.setSite_pages (f : Nat) (v : SiteRegs) : (s.setSite f v).pages = s.pages := rfl
@[simp] theorem State.setSite_clusters (f : Nat) (v : SiteRegs) : (s.setSite f v).clusters = s.clusters := rfl
@[simp] theorem State.setSite_fields (f : Nat) (v : SiteRegs) : (s.setSite f v).fields = s.fields := rfl
@[simp] theorem State.setSite_lease (f : Nat) (v : SiteRegs) : (s.setSite f v).lease = s.lease := rfl
@[simp] theorem State.setSite_ident (f : Nat) (v : SiteRegs) : (s.setSite f v).ident = s.ident := rfl
@[simp] theorem State.setSite_power (f : Nat) (v : SiteRegs) : (s.setSite f v).power = s.power := rfl
@[simp] theorem State.setSite_sec (f : Nat) (v : SiteRegs) : (s.setSite f v).sec = s.sec := rfl
@[simp] theorem State.setSite_twin (f : Nat) (v : SiteRegs) : (s.setSite f v).twin = s.twin := rfl
@[simp] theorem State.setSite_ctr (f : Nat) (v : SiteRegs) : (s.setSite f v).ctr = s.ctr := rfl
@[simp] theorem State.setSite_repair (f : Nat) (v : SiteRegs) : (s.setSite f v).repair = s.repair := rfl
@[simp] theorem State.setSite_bind (f : Nat) (v : SiteRegs) : (s.setSite f v).bind = s.bind := rfl
@[simp] theorem State.setSite_cc (f : Nat) (v : SiteRegs) : (s.setSite f v).cc = s.cc := rfl
@[simp] theorem State.setSite_tiles (f : Nat) (v : SiteRegs) : (s.setSite f v).tiles = s.tiles := rfl
@[simp] theorem State.setSite_felt (f : Nat) (v : SiteRegs) : (s.setSite f v).felt = s.felt := rfl
@[simp] theorem State.setSite_vats (f : Nat) (v : SiteRegs) : (s.setSite f v).vats = s.vats := rfl
@[simp] theorem State.setSite_train (f : Nat) (v : SiteRegs) : (s.setSite f v).train = s.train := rfl
@[simp] theorem State.setSite_queries (f : Nat) (v : SiteRegs) : (s.setSite f v).queries = s.queries := rfl
@[simp] theorem State.setSite_svc (f : Nat) (v : SiteRegs) : (s.setSite f v).svc = s.svc := rfl
@[simp] theorem State.setSite_free (f : Nat) (v : SiteRegs) : (s.setSite f v).free = s.free := rfl

@[simp] theorem State.setTile_pending (p : Nat) (t : Tile) : (s.setTile p t).pending = s.pending := rfl
@[simp] theorem State.setTile_h0 (p : Nat) (t : Tile) : (s.setTile p t).h0 = s.h0 := rfl
@[simp] theorem State.setTile_h1 (p : Nat) (t : Tile) : (s.setTile p t).h1 = s.h1 := rfl
@[simp] theorem State.setTile_run (p : Nat) (t : Tile) : (s.setTile p t).run = s.run := rfl
@[simp] theorem State.setTile_readData (p : Nat) (t : Tile) : (s.setTile p t).readData = s.readData := rfl
@[simp] theorem State.setTile_bar2Bad (p : Nat) (t : Tile) : (s.setTile p t).bar2Bad = s.bar2Bad := rfl
@[simp] theorem State.setTile_pages (p : Nat) (t : Tile) : (s.setTile p t).pages = s.pages := rfl
@[simp] theorem State.setTile_clusters (p : Nat) (t : Tile) : (s.setTile p t).clusters = s.clusters := rfl
@[simp] theorem State.setTile_fields (p : Nat) (t : Tile) : (s.setTile p t).fields = s.fields := rfl
@[simp] theorem State.setTile_sites (p : Nat) (t : Tile) : (s.setTile p t).sites = s.sites := rfl
@[simp] theorem State.setTile_lease (p : Nat) (t : Tile) : (s.setTile p t).lease = s.lease := rfl
@[simp] theorem State.setTile_ident (p : Nat) (t : Tile) : (s.setTile p t).ident = s.ident := rfl
@[simp] theorem State.setTile_power (p : Nat) (t : Tile) : (s.setTile p t).power = s.power := rfl
@[simp] theorem State.setTile_sec (p : Nat) (t : Tile) : (s.setTile p t).sec = s.sec := rfl
@[simp] theorem State.setTile_twin (p : Nat) (t : Tile) : (s.setTile p t).twin = s.twin := rfl
@[simp] theorem State.setTile_ctr (p : Nat) (t : Tile) : (s.setTile p t).ctr = s.ctr := rfl
@[simp] theorem State.setTile_repair (p : Nat) (t : Tile) : (s.setTile p t).repair = s.repair := rfl
@[simp] theorem State.setTile_bind (p : Nat) (t : Tile) : (s.setTile p t).bind = s.bind := rfl
@[simp] theorem State.setTile_cc (p : Nat) (t : Tile) : (s.setTile p t).cc = s.cc := rfl
@[simp] theorem State.setTile_felt (p : Nat) (t : Tile) : (s.setTile p t).felt = s.felt := rfl
@[simp] theorem State.setTile_vats (p : Nat) (t : Tile) : (s.setTile p t).vats = s.vats := rfl
@[simp] theorem State.setTile_train (p : Nat) (t : Tile) : (s.setTile p t).train = s.train := rfl
@[simp] theorem State.setTile_queries (p : Nat) (t : Tile) : (s.setTile p t).queries = s.queries := rfl
@[simp] theorem State.setTile_svc (p : Nat) (t : Tile) : (s.setTile p t).svc = s.svc := rfl
@[simp] theorem State.setTile_free (p : Nat) (t : Tile) : (s.setTile p t).free = s.free := rfl

@[simp] theorem State.setProg_pending (i : Nat) (p : Option Prog) : (s.setProg i p).pending = s.pending := rfl
@[simp] theorem State.setProg_h0 (i : Nat) (p : Option Prog) : (s.setProg i p).h0 = s.h0 := rfl
@[simp] theorem State.setProg_h1 (i : Nat) (p : Option Prog) : (s.setProg i p).h1 = s.h1 := rfl
@[simp] theorem State.setProg_run (i : Nat) (p : Option Prog) : (s.setProg i p).run = s.run := rfl
@[simp] theorem State.setProg_readData (i : Nat) (p : Option Prog) : (s.setProg i p).readData = s.readData := rfl
@[simp] theorem State.setProg_bar2Bad (i : Nat) (p : Option Prog) : (s.setProg i p).bar2Bad = s.bar2Bad := rfl
@[simp] theorem State.setProg_pages (i : Nat) (p : Option Prog) : (s.setProg i p).pages = s.pages := rfl
@[simp] theorem State.setProg_clusters (i : Nat) (p : Option Prog) : (s.setProg i p).clusters = s.clusters := rfl
@[simp] theorem State.setProg_fields (i : Nat) (p : Option Prog) : (s.setProg i p).fields = s.fields := rfl
@[simp] theorem State.setProg_sites (i : Nat) (p : Option Prog) : (s.setProg i p).sites = s.sites := rfl
@[simp] theorem State.setProg_lease (i : Nat) (p : Option Prog) : (s.setProg i p).lease = s.lease := rfl
@[simp] theorem State.setProg_ident (i : Nat) (p : Option Prog) : (s.setProg i p).ident = s.ident := rfl
@[simp] theorem State.setProg_power (i : Nat) (p : Option Prog) : (s.setProg i p).power = s.power := rfl
@[simp] theorem State.setProg_sec (i : Nat) (p : Option Prog) : (s.setProg i p).sec = s.sec := rfl
@[simp] theorem State.setProg_twin (i : Nat) (p : Option Prog) : (s.setProg i p).twin = s.twin := rfl
@[simp] theorem State.setProg_ctr (i : Nat) (p : Option Prog) : (s.setProg i p).ctr = s.ctr := rfl
@[simp] theorem State.setProg_repair (i : Nat) (p : Option Prog) : (s.setProg i p).repair = s.repair := rfl
@[simp] theorem State.setProg_cc (i : Nat) (p : Option Prog) : (s.setProg i p).cc = s.cc := rfl
@[simp] theorem State.setProg_tiles (i : Nat) (p : Option Prog) : (s.setProg i p).tiles = s.tiles := rfl
@[simp] theorem State.setProg_felt (i : Nat) (p : Option Prog) : (s.setProg i p).felt = s.felt := rfl
@[simp] theorem State.setProg_vats (i : Nat) (p : Option Prog) : (s.setProg i p).vats = s.vats := rfl
@[simp] theorem State.setProg_train (i : Nat) (p : Option Prog) : (s.setProg i p).train = s.train := rfl
@[simp] theorem State.setProg_queries (i : Nat) (p : Option Prog) : (s.setProg i p).queries = s.queries := rfl
@[simp] theorem State.setProg_svc (i : Nat) (p : Option Prog) : (s.setProg i p).svc = s.svc := rfl
@[simp] theorem State.setProg_free (i : Nat) (p : Option Prog) : (s.setProg i p).free = s.free := rfl

@[simp] theorem State.setQuery_pending (i : Nat) (q : QSlot) : (s.setQuery i q).pending = s.pending := rfl
@[simp] theorem State.setQuery_h0 (i : Nat) (q : QSlot) : (s.setQuery i q).h0 = s.h0 := rfl
@[simp] theorem State.setQuery_h1 (i : Nat) (q : QSlot) : (s.setQuery i q).h1 = s.h1 := rfl
@[simp] theorem State.setQuery_run (i : Nat) (q : QSlot) : (s.setQuery i q).run = s.run := rfl
@[simp] theorem State.setQuery_readData (i : Nat) (q : QSlot) : (s.setQuery i q).readData = s.readData := rfl
@[simp] theorem State.setQuery_bar2Bad (i : Nat) (q : QSlot) : (s.setQuery i q).bar2Bad = s.bar2Bad := rfl
@[simp] theorem State.setQuery_pages (i : Nat) (q : QSlot) : (s.setQuery i q).pages = s.pages := rfl
@[simp] theorem State.setQuery_clusters (i : Nat) (q : QSlot) : (s.setQuery i q).clusters = s.clusters := rfl
@[simp] theorem State.setQuery_fields (i : Nat) (q : QSlot) : (s.setQuery i q).fields = s.fields := rfl
@[simp] theorem State.setQuery_sites (i : Nat) (q : QSlot) : (s.setQuery i q).sites = s.sites := rfl
@[simp] theorem State.setQuery_lease (i : Nat) (q : QSlot) : (s.setQuery i q).lease = s.lease := rfl
@[simp] theorem State.setQuery_ident (i : Nat) (q : QSlot) : (s.setQuery i q).ident = s.ident := rfl
@[simp] theorem State.setQuery_power (i : Nat) (q : QSlot) : (s.setQuery i q).power = s.power := rfl
@[simp] theorem State.setQuery_sec (i : Nat) (q : QSlot) : (s.setQuery i q).sec = s.sec := rfl
@[simp] theorem State.setQuery_twin (i : Nat) (q : QSlot) : (s.setQuery i q).twin = s.twin := rfl
@[simp] theorem State.setQuery_ctr (i : Nat) (q : QSlot) : (s.setQuery i q).ctr = s.ctr := rfl
@[simp] theorem State.setQuery_repair (i : Nat) (q : QSlot) : (s.setQuery i q).repair = s.repair := rfl
@[simp] theorem State.setQuery_bind (i : Nat) (q : QSlot) : (s.setQuery i q).bind = s.bind := rfl
@[simp] theorem State.setQuery_cc (i : Nat) (q : QSlot) : (s.setQuery i q).cc = s.cc := rfl
@[simp] theorem State.setQuery_tiles (i : Nat) (q : QSlot) : (s.setQuery i q).tiles = s.tiles := rfl
@[simp] theorem State.setQuery_felt (i : Nat) (q : QSlot) : (s.setQuery i q).felt = s.felt := rfl
@[simp] theorem State.setQuery_vats (i : Nat) (q : QSlot) : (s.setQuery i q).vats = s.vats := rfl
@[simp] theorem State.setQuery_train (i : Nat) (q : QSlot) : (s.setQuery i q).train = s.train := rfl
@[simp] theorem State.setQuery_svc (i : Nat) (q : QSlot) : (s.setQuery i q).svc = s.svc := rfl
@[simp] theorem State.setQuery_free (i : Nat) (q : QSlot) : (s.setQuery i q).free = s.free := rfl

@[simp] theorem State.countTime_pending (k : Nat) : (s.countTime k).pending = s.pending := by
  unfold State.countTime; dsimp only; split <;> rfl
@[simp] theorem State.countTime_h0 (k : Nat) : (s.countTime k).h0 = s.h0 := by
  unfold State.countTime; dsimp only; split <;> rfl
@[simp] theorem State.countTime_h1 (k : Nat) : (s.countTime k).h1 = s.h1 := by
  unfold State.countTime; dsimp only; split <;> rfl
@[simp] theorem State.countTime_run (k : Nat) : (s.countTime k).run = s.run := by
  unfold State.countTime; dsimp only; split <;> rfl
@[simp] theorem State.countTime_readData (k : Nat) : (s.countTime k).readData = s.readData := by
  unfold State.countTime; dsimp only; split <;> rfl
@[simp] theorem State.countTime_bar2Bad (k : Nat) : (s.countTime k).bar2Bad = s.bar2Bad := by
  unfold State.countTime; dsimp only; split <;> rfl
@[simp] theorem State.countTime_clusters (k : Nat) : (s.countTime k).clusters = s.clusters := by
  unfold State.countTime; dsimp only; split <;> rfl
@[simp] theorem State.countTime_fields (k : Nat) : (s.countTime k).fields = s.fields := by
  unfold State.countTime; dsimp only; split <;> rfl
@[simp] theorem State.countTime_sites (k : Nat) : (s.countTime k).sites = s.sites := by
  unfold State.countTime; dsimp only; split <;> rfl
@[simp] theorem State.countTime_lease (k : Nat) : (s.countTime k).lease = s.lease := by
  unfold State.countTime; dsimp only; split <;> rfl
@[simp] theorem State.countTime_ident (k : Nat) : (s.countTime k).ident = s.ident := by
  unfold State.countTime; dsimp only; split <;> rfl
@[simp] theorem State.countTime_power (k : Nat) : (s.countTime k).power = s.power := by
  unfold State.countTime; dsimp only; split <;> rfl
@[simp] theorem State.countTime_sec (k : Nat) : (s.countTime k).sec = s.sec := by
  unfold State.countTime; dsimp only; split <;> rfl
@[simp] theorem State.countTime_twin (k : Nat) : (s.countTime k).twin = s.twin := by
  unfold State.countTime; dsimp only; split <;> rfl
@[simp] theorem State.countTime_ctr (k : Nat) : (s.countTime k).ctr = s.ctr := by
  unfold State.countTime; dsimp only; split <;> rfl
@[simp] theorem State.countTime_repair (k : Nat) : (s.countTime k).repair = s.repair := by
  unfold State.countTime; dsimp only; split <;> rfl
@[simp] theorem State.countTime_bind (k : Nat) : (s.countTime k).bind = s.bind := by
  unfold State.countTime; dsimp only; split <;> rfl
@[simp] theorem State.countTime_cc (k : Nat) : (s.countTime k).cc = s.cc := by
  unfold State.countTime; dsimp only; split <;> rfl
@[simp] theorem State.countTime_tiles (k : Nat) : (s.countTime k).tiles = s.tiles := by
  unfold State.countTime; dsimp only; split <;> rfl
@[simp] theorem State.countTime_felt (k : Nat) : (s.countTime k).felt = s.felt := by
  unfold State.countTime; dsimp only; split <;> rfl
@[simp] theorem State.countTime_vats (k : Nat) : (s.countTime k).vats = s.vats := by
  unfold State.countTime; dsimp only; split <;> rfl
@[simp] theorem State.countTime_train (k : Nat) : (s.countTime k).train = s.train := by
  unfold State.countTime; dsimp only; split <;> rfl
@[simp] theorem State.countTime_queries (k : Nat) : (s.countTime k).queries = s.queries := by
  unfold State.countTime; dsimp only; split <;> rfl
@[simp] theorem State.countTime_svc (k : Nat) : (s.countTime k).svc = s.svc := by
  unfold State.countTime; dsimp only; split <;> rfl

@[simp] theorem State.edge_pending (k ev : Nat) : (s.edge k ev).pending = s.pending := by
  unfold State.edge; dsimp only; split <;> rfl
@[simp] theorem State.edge_h0 (k ev : Nat) : (s.edge k ev).h0 = s.h0 := by
  unfold State.edge; dsimp only; split <;> rfl
@[simp] theorem State.edge_h1 (k ev : Nat) : (s.edge k ev).h1 = s.h1 := by
  unfold State.edge; dsimp only; split <;> rfl
@[simp] theorem State.edge_run (k ev : Nat) : (s.edge k ev).run = s.run := by
  unfold State.edge; dsimp only; split <;> rfl
@[simp] theorem State.edge_readData (k ev : Nat) : (s.edge k ev).readData = s.readData := by
  unfold State.edge; dsimp only; split <;> rfl
@[simp] theorem State.edge_bar2Bad (k ev : Nat) : (s.edge k ev).bar2Bad = s.bar2Bad := by
  unfold State.edge; dsimp only; split <;> rfl
@[simp] theorem State.edge_clusters (k ev : Nat) : (s.edge k ev).clusters = s.clusters := by
  unfold State.edge; dsimp only; split <;> rfl
@[simp] theorem State.edge_fields (k ev : Nat) : (s.edge k ev).fields = s.fields := by
  unfold State.edge; dsimp only; split <;> rfl
@[simp] theorem State.edge_sites (k ev : Nat) : (s.edge k ev).sites = s.sites := by
  unfold State.edge; dsimp only; split <;> rfl
@[simp] theorem State.edge_lease (k ev : Nat) : (s.edge k ev).lease = s.lease := by
  unfold State.edge; dsimp only; split <;> rfl
@[simp] theorem State.edge_ident (k ev : Nat) : (s.edge k ev).ident = s.ident := by
  unfold State.edge; dsimp only; split <;> rfl
@[simp] theorem State.edge_power (k ev : Nat) : (s.edge k ev).power = s.power := by
  unfold State.edge; dsimp only; split <;> rfl
@[simp] theorem State.edge_sec (k ev : Nat) : (s.edge k ev).sec = s.sec := by
  unfold State.edge; dsimp only; split <;> rfl
@[simp] theorem State.edge_twin (k ev : Nat) : (s.edge k ev).twin = s.twin := by
  unfold State.edge; dsimp only; split <;> rfl
@[simp] theorem State.edge_ctr (k ev : Nat) : (s.edge k ev).ctr = s.ctr := by
  unfold State.edge; dsimp only; split <;> rfl
@[simp] theorem State.edge_repair (k ev : Nat) : (s.edge k ev).repair = s.repair := by
  unfold State.edge; dsimp only; split <;> rfl
@[simp] theorem State.edge_bind (k ev : Nat) : (s.edge k ev).bind = s.bind := by
  unfold State.edge; dsimp only; split <;> rfl
@[simp] theorem State.edge_cc (k ev : Nat) : (s.edge k ev).cc = s.cc := by
  unfold State.edge; dsimp only; split <;> rfl
@[simp] theorem State.edge_tiles (k ev : Nat) : (s.edge k ev).tiles = s.tiles := by
  unfold State.edge; dsimp only; split <;> rfl
@[simp] theorem State.edge_felt (k ev : Nat) : (s.edge k ev).felt = s.felt := by
  unfold State.edge; dsimp only; split <;> rfl
@[simp] theorem State.edge_vats (k ev : Nat) : (s.edge k ev).vats = s.vats := by
  unfold State.edge; dsimp only; split <;> rfl
@[simp] theorem State.edge_train (k ev : Nat) : (s.edge k ev).train = s.train := by
  unfold State.edge; dsimp only; split <;> rfl
@[simp] theorem State.edge_queries (k ev : Nat) : (s.edge k ev).queries = s.queries := by
  unfold State.edge; dsimp only; split <;> rfl
@[simp] theorem State.edge_svc (k ev : Nat) : (s.edge k ev).svc = s.svc := by
  unfold State.edge; dsimp only; split <;> rfl
@[simp] theorem State.edge_free (k ev : Nat) : (s.edge k ev).free = s.free := by
  unfold State.edge; dsimp only; split <;> rfl

@[simp] theorem State.losePage_pending (k : Nat) : (s.losePage k).pending = s.pending := by simp [State.losePage]
@[simp] theorem State.losePage_h0 (k : Nat) : (s.losePage k).h0 = s.h0 := by simp [State.losePage]
@[simp] theorem State.losePage_h1 (k : Nat) : (s.losePage k).h1 = s.h1 := by simp [State.losePage]
@[simp] theorem State.losePage_run (k : Nat) : (s.losePage k).run = s.run := by simp [State.losePage]
@[simp] theorem State.losePage_readData (k : Nat) : (s.losePage k).readData = s.readData := by simp [State.losePage]
@[simp] theorem State.losePage_bar2Bad (k : Nat) : (s.losePage k).bar2Bad = s.bar2Bad := by simp [State.losePage]
@[simp] theorem State.losePage_clusters (k : Nat) : (s.losePage k).clusters = s.clusters := by simp [State.losePage]
@[simp] theorem State.losePage_fields (k : Nat) : (s.losePage k).fields = s.fields := by simp [State.losePage]
@[simp] theorem State.losePage_sites (k : Nat) : (s.losePage k).sites = s.sites := by simp [State.losePage]
@[simp] theorem State.losePage_lease (k : Nat) : (s.losePage k).lease = s.lease := by simp [State.losePage]
@[simp] theorem State.losePage_ident (k : Nat) : (s.losePage k).ident = s.ident := by simp [State.losePage]
@[simp] theorem State.losePage_power (k : Nat) : (s.losePage k).power = s.power := by simp [State.losePage]
@[simp] theorem State.losePage_sec (k : Nat) : (s.losePage k).sec = s.sec := by simp [State.losePage]
@[simp] theorem State.losePage_twin (k : Nat) : (s.losePage k).twin = s.twin := by simp [State.losePage]
@[simp] theorem State.losePage_ctr (k : Nat) : (s.losePage k).ctr = s.ctr := by simp [State.losePage]
@[simp] theorem State.losePage_repair (k : Nat) : (s.losePage k).repair = s.repair := by simp [State.losePage]
@[simp] theorem State.losePage_bind (k : Nat) : (s.losePage k).bind = s.bind := by simp [State.losePage]
@[simp] theorem State.losePage_cc (k : Nat) : (s.losePage k).cc = s.cc := by simp [State.losePage]
@[simp] theorem State.losePage_tiles (k : Nat) : (s.losePage k).tiles = s.tiles := by simp [State.losePage]
@[simp] theorem State.losePage_felt (k : Nat) : (s.losePage k).felt = s.felt := by simp [State.losePage]
@[simp] theorem State.losePage_vats (k : Nat) : (s.losePage k).vats = s.vats := by simp [State.losePage]
@[simp] theorem State.losePage_train (k : Nat) : (s.losePage k).train = s.train := by simp [State.losePage]
@[simp] theorem State.losePage_queries (k : Nat) : (s.losePage k).queries = s.queries := by simp [State.losePage]
@[simp] theorem State.losePage_svc (k : Nat) : (s.losePage k).svc = s.svc := by simp [State.losePage]

@[simp] theorem State.dropGroup_pending (g : Nat) : (s.dropGroup g).pending = s.pending := by
  unfold State.dropGroup; (repeat' split) <;> rfl
@[simp] theorem State.dropGroup_run (g : Nat) : (s.dropGroup g).run = s.run := by
  unfold State.dropGroup; (repeat' split) <;> rfl
@[simp] theorem State.dropGroup_readData (g : Nat) : (s.dropGroup g).readData = s.readData := by
  unfold State.dropGroup; (repeat' split) <;> rfl
@[simp] theorem State.dropGroup_bar2Bad (g : Nat) : (s.dropGroup g).bar2Bad = s.bar2Bad := by
  unfold State.dropGroup; (repeat' split) <;> rfl
@[simp] theorem State.dropGroup_pages (g : Nat) : (s.dropGroup g).pages = s.pages := by
  unfold State.dropGroup; (repeat' split) <;> rfl
@[simp] theorem State.dropGroup_clusters (g : Nat) : (s.dropGroup g).clusters = s.clusters := by
  unfold State.dropGroup; (repeat' split) <;> rfl
@[simp] theorem State.dropGroup_fields (g : Nat) : (s.dropGroup g).fields = s.fields := by
  unfold State.dropGroup; (repeat' split) <;> rfl
@[simp] theorem State.dropGroup_sites (g : Nat) : (s.dropGroup g).sites = s.sites := by
  unfold State.dropGroup; (repeat' split) <;> rfl
@[simp] theorem State.dropGroup_lease (g : Nat) : (s.dropGroup g).lease = s.lease := by
  unfold State.dropGroup; (repeat' split) <;> rfl
@[simp] theorem State.dropGroup_ident (g : Nat) : (s.dropGroup g).ident = s.ident := by
  unfold State.dropGroup; (repeat' split) <;> rfl
@[simp] theorem State.dropGroup_power (g : Nat) : (s.dropGroup g).power = s.power := by
  unfold State.dropGroup; (repeat' split) <;> rfl
@[simp] theorem State.dropGroup_sec (g : Nat) : (s.dropGroup g).sec = s.sec := by
  unfold State.dropGroup; (repeat' split) <;> rfl
@[simp] theorem State.dropGroup_twin (g : Nat) : (s.dropGroup g).twin = s.twin := by
  unfold State.dropGroup; (repeat' split) <;> rfl
@[simp] theorem State.dropGroup_ctr (g : Nat) : (s.dropGroup g).ctr = s.ctr := by
  unfold State.dropGroup; (repeat' split) <;> rfl
@[simp] theorem State.dropGroup_repair (g : Nat) : (s.dropGroup g).repair = s.repair := by
  unfold State.dropGroup; (repeat' split) <;> rfl
@[simp] theorem State.dropGroup_bind (g : Nat) : (s.dropGroup g).bind = s.bind := by
  unfold State.dropGroup; (repeat' split) <;> rfl
@[simp] theorem State.dropGroup_cc (g : Nat) : (s.dropGroup g).cc = s.cc := by
  unfold State.dropGroup; (repeat' split) <;> rfl
@[simp] theorem State.dropGroup_tiles (g : Nat) : (s.dropGroup g).tiles = s.tiles := by
  unfold State.dropGroup; (repeat' split) <;> rfl
@[simp] theorem State.dropGroup_felt (g : Nat) : (s.dropGroup g).felt = s.felt := by
  unfold State.dropGroup; (repeat' split) <;> rfl
@[simp] theorem State.dropGroup_vats (g : Nat) : (s.dropGroup g).vats = s.vats := by
  unfold State.dropGroup; (repeat' split) <;> rfl
@[simp] theorem State.dropGroup_train (g : Nat) : (s.dropGroup g).train = s.train := by
  unfold State.dropGroup; (repeat' split) <;> rfl
@[simp] theorem State.dropGroup_queries (g : Nat) : (s.dropGroup g).queries = s.queries := by
  unfold State.dropGroup; (repeat' split) <;> rfl
@[simp] theorem State.dropGroup_svc (g : Nat) : (s.dropGroup g).svc = s.svc := by
  unfold State.dropGroup; (repeat' split) <;> rfl
@[simp] theorem State.dropGroup_free (g : Nat) : (s.dropGroup g).free = s.free := by
  unfold State.dropGroup; (repeat' split) <;> rfl

@[simp] theorem State.setPort_pending (p : HPort) (v : HostPort) : (s.setPort p v).pending = s.pending := by cases p <;> rfl
@[simp] theorem State.setPort_run (p : HPort) (v : HostPort) : (s.setPort p v).run = s.run := by cases p <;> rfl
@[simp] theorem State.setPort_readData (p : HPort) (v : HostPort) : (s.setPort p v).readData = s.readData := by cases p <;> rfl
@[simp] theorem State.setPort_bar2Bad (p : HPort) (v : HostPort) : (s.setPort p v).bar2Bad = s.bar2Bad := by cases p <;> rfl
@[simp] theorem State.setPort_pages (p : HPort) (v : HostPort) : (s.setPort p v).pages = s.pages := by cases p <;> rfl
@[simp] theorem State.setPort_clusters (p : HPort) (v : HostPort) : (s.setPort p v).clusters = s.clusters := by cases p <;> rfl
@[simp] theorem State.setPort_fields (p : HPort) (v : HostPort) : (s.setPort p v).fields = s.fields := by cases p <;> rfl
@[simp] theorem State.setPort_sites (p : HPort) (v : HostPort) : (s.setPort p v).sites = s.sites := by cases p <;> rfl
@[simp] theorem State.setPort_lease (p : HPort) (v : HostPort) : (s.setPort p v).lease = s.lease := by cases p <;> rfl
@[simp] theorem State.setPort_ident (p : HPort) (v : HostPort) : (s.setPort p v).ident = s.ident := by cases p <;> rfl
@[simp] theorem State.setPort_power (p : HPort) (v : HostPort) : (s.setPort p v).power = s.power := by cases p <;> rfl
@[simp] theorem State.setPort_sec (p : HPort) (v : HostPort) : (s.setPort p v).sec = s.sec := by cases p <;> rfl
@[simp] theorem State.setPort_twin (p : HPort) (v : HostPort) : (s.setPort p v).twin = s.twin := by cases p <;> rfl
@[simp] theorem State.setPort_ctr (p : HPort) (v : HostPort) : (s.setPort p v).ctr = s.ctr := by cases p <;> rfl
@[simp] theorem State.setPort_repair (p : HPort) (v : HostPort) : (s.setPort p v).repair = s.repair := by cases p <;> rfl
@[simp] theorem State.setPort_bind (p : HPort) (v : HostPort) : (s.setPort p v).bind = s.bind := by cases p <;> rfl
@[simp] theorem State.setPort_cc (p : HPort) (v : HostPort) : (s.setPort p v).cc = s.cc := by cases p <;> rfl
@[simp] theorem State.setPort_tiles (p : HPort) (v : HostPort) : (s.setPort p v).tiles = s.tiles := by cases p <;> rfl
@[simp] theorem State.setPort_felt (p : HPort) (v : HostPort) : (s.setPort p v).felt = s.felt := by cases p <;> rfl
@[simp] theorem State.setPort_vats (p : HPort) (v : HostPort) : (s.setPort p v).vats = s.vats := by cases p <;> rfl
@[simp] theorem State.setPort_train (p : HPort) (v : HostPort) : (s.setPort p v).train = s.train := by cases p <;> rfl
@[simp] theorem State.setPort_queries (p : HPort) (v : HostPort) : (s.setPort p v).queries = s.queries := by cases p <;> rfl
@[simp] theorem State.setPort_svc (p : HPort) (v : HostPort) : (s.setPort p v).svc = s.svc := by cases p <;> rfl
@[simp] theorem State.setPort_free (p : HPort) (v : HostPort) : (s.setPort p v).free = s.free := by cases p <;> rfl

@[simp] theorem State.modCmd_pending (p : HPort) (f : CmdPage → CmdPage) : (s.modCmd p f).pending = s.pending := by cases p <;> rfl
@[simp] theorem State.modCmd_run (p : HPort) (f : CmdPage → CmdPage) : (s.modCmd p f).run = s.run := by cases p <;> rfl
@[simp] theorem State.modCmd_readData (p : HPort) (f : CmdPage → CmdPage) : (s.modCmd p f).readData = s.readData := by cases p <;> rfl
@[simp] theorem State.modCmd_bar2Bad (p : HPort) (f : CmdPage → CmdPage) : (s.modCmd p f).bar2Bad = s.bar2Bad := by cases p <;> rfl
@[simp] theorem State.modCmd_pages (p : HPort) (f : CmdPage → CmdPage) : (s.modCmd p f).pages = s.pages := by cases p <;> rfl
@[simp] theorem State.modCmd_clusters (p : HPort) (f : CmdPage → CmdPage) : (s.modCmd p f).clusters = s.clusters := by cases p <;> rfl
@[simp] theorem State.modCmd_fields (p : HPort) (f : CmdPage → CmdPage) : (s.modCmd p f).fields = s.fields := by cases p <;> rfl
@[simp] theorem State.modCmd_sites (p : HPort) (f : CmdPage → CmdPage) : (s.modCmd p f).sites = s.sites := by cases p <;> rfl
@[simp] theorem State.modCmd_lease (p : HPort) (f : CmdPage → CmdPage) : (s.modCmd p f).lease = s.lease := by cases p <;> rfl
@[simp] theorem State.modCmd_ident (p : HPort) (f : CmdPage → CmdPage) : (s.modCmd p f).ident = s.ident := by cases p <;> rfl
@[simp] theorem State.modCmd_power (p : HPort) (f : CmdPage → CmdPage) : (s.modCmd p f).power = s.power := by cases p <;> rfl
@[simp] theorem State.modCmd_sec (p : HPort) (f : CmdPage → CmdPage) : (s.modCmd p f).sec = s.sec := by cases p <;> rfl
@[simp] theorem State.modCmd_twin (p : HPort) (f : CmdPage → CmdPage) : (s.modCmd p f).twin = s.twin := by cases p <;> rfl
@[simp] theorem State.modCmd_ctr (p : HPort) (f : CmdPage → CmdPage) : (s.modCmd p f).ctr = s.ctr := by cases p <;> rfl
@[simp] theorem State.modCmd_repair (p : HPort) (f : CmdPage → CmdPage) : (s.modCmd p f).repair = s.repair := by cases p <;> rfl
@[simp] theorem State.modCmd_bind (p : HPort) (f : CmdPage → CmdPage) : (s.modCmd p f).bind = s.bind := by cases p <;> rfl
@[simp] theorem State.modCmd_cc (p : HPort) (f : CmdPage → CmdPage) : (s.modCmd p f).cc = s.cc := by cases p <;> rfl
@[simp] theorem State.modCmd_tiles (p : HPort) (f : CmdPage → CmdPage) : (s.modCmd p f).tiles = s.tiles := by cases p <;> rfl
@[simp] theorem State.modCmd_felt (p : HPort) (f : CmdPage → CmdPage) : (s.modCmd p f).felt = s.felt := by cases p <;> rfl
@[simp] theorem State.modCmd_vats (p : HPort) (f : CmdPage → CmdPage) : (s.modCmd p f).vats = s.vats := by cases p <;> rfl
@[simp] theorem State.modCmd_train (p : HPort) (f : CmdPage → CmdPage) : (s.modCmd p f).train = s.train := by cases p <;> rfl
@[simp] theorem State.modCmd_queries (p : HPort) (f : CmdPage → CmdPage) : (s.modCmd p f).queries = s.queries := by cases p <;> rfl
@[simp] theorem State.modCmd_svc (p : HPort) (f : CmdPage → CmdPage) : (s.modCmd p f).svc = s.svc := by cases p <;> rfl
@[simp] theorem State.modCmd_free (p : HPort) (f : CmdPage → CmdPage) : (s.modCmd p f).free = s.free := by cases p <;> rfl

@[simp] theorem State.sendGroup_pending (g : Nat) : (s.sendGroup g).pending = s.pending := by
  unfold State.sendGroup; (repeat' split) <;> rfl
@[simp] theorem State.sendGroup_run (g : Nat) : (s.sendGroup g).run = s.run := by
  unfold State.sendGroup; (repeat' split) <;> rfl
@[simp] theorem State.sendGroup_readData (g : Nat) : (s.sendGroup g).readData = s.readData := by
  unfold State.sendGroup; (repeat' split) <;> rfl
@[simp] theorem State.sendGroup_bar2Bad (g : Nat) : (s.sendGroup g).bar2Bad = s.bar2Bad := by
  unfold State.sendGroup; (repeat' split) <;> rfl
@[simp] theorem State.sendGroup_pages (g : Nat) : (s.sendGroup g).pages = s.pages := by
  unfold State.sendGroup; (repeat' split) <;> rfl
@[simp] theorem State.sendGroup_clusters (g : Nat) : (s.sendGroup g).clusters = s.clusters := by
  unfold State.sendGroup; (repeat' split) <;> rfl
@[simp] theorem State.sendGroup_fields (g : Nat) : (s.sendGroup g).fields = s.fields := by
  unfold State.sendGroup; (repeat' split) <;> rfl
@[simp] theorem State.sendGroup_sites (g : Nat) : (s.sendGroup g).sites = s.sites := by
  unfold State.sendGroup; (repeat' split) <;> rfl
@[simp] theorem State.sendGroup_lease (g : Nat) : (s.sendGroup g).lease = s.lease := by
  unfold State.sendGroup; (repeat' split) <;> rfl
@[simp] theorem State.sendGroup_ident (g : Nat) : (s.sendGroup g).ident = s.ident := by
  unfold State.sendGroup; (repeat' split) <;> rfl
@[simp] theorem State.sendGroup_power (g : Nat) : (s.sendGroup g).power = s.power := by
  unfold State.sendGroup; (repeat' split) <;> rfl
@[simp] theorem State.sendGroup_sec (g : Nat) : (s.sendGroup g).sec = s.sec := by
  unfold State.sendGroup; (repeat' split) <;> rfl
@[simp] theorem State.sendGroup_twin (g : Nat) : (s.sendGroup g).twin = s.twin := by
  unfold State.sendGroup; (repeat' split) <;> rfl
@[simp] theorem State.sendGroup_ctr (g : Nat) : (s.sendGroup g).ctr = s.ctr := by
  unfold State.sendGroup; (repeat' split) <;> rfl
@[simp] theorem State.sendGroup_repair (g : Nat) : (s.sendGroup g).repair = s.repair := by
  unfold State.sendGroup; (repeat' split) <;> rfl
@[simp] theorem State.sendGroup_bind (g : Nat) : (s.sendGroup g).bind = s.bind := by
  unfold State.sendGroup; (repeat' split) <;> rfl
@[simp] theorem State.sendGroup_cc (g : Nat) : (s.sendGroup g).cc = s.cc := by
  unfold State.sendGroup; (repeat' split) <;> rfl
@[simp] theorem State.sendGroup_tiles (g : Nat) : (s.sendGroup g).tiles = s.tiles := by
  unfold State.sendGroup; (repeat' split) <;> rfl
@[simp] theorem State.sendGroup_felt (g : Nat) : (s.sendGroup g).felt = s.felt := by
  unfold State.sendGroup; (repeat' split) <;> rfl
@[simp] theorem State.sendGroup_vats (g : Nat) : (s.sendGroup g).vats = s.vats := by
  unfold State.sendGroup; (repeat' split) <;> rfl
@[simp] theorem State.sendGroup_train (g : Nat) : (s.sendGroup g).train = s.train := by
  unfold State.sendGroup; (repeat' split) <;> rfl
@[simp] theorem State.sendGroup_queries (g : Nat) : (s.sendGroup g).queries = s.queries := by
  unfold State.sendGroup; (repeat' split) <;> rfl
@[simp] theorem State.sendGroup_svc (g : Nat) : (s.sendGroup g).svc = s.svc := by
  unfold State.sendGroup; (repeat' split) <;> rfl
@[simp] theorem State.sendGroup_free (g : Nat) : (s.sendGroup g).free = s.free := by
  unfold State.sendGroup; (repeat' split) <;> rfl

@[simp] theorem State.bump_pending (k ev n : Nat) : (s.bump k ev n).pending = s.pending := by
  unfold State.bump; dsimp only; split <;> rfl
@[simp] theorem State.bump_h0 (k ev n : Nat) : (s.bump k ev n).h0 = s.h0 := by
  unfold State.bump; dsimp only; split <;> rfl
@[simp] theorem State.bump_h1 (k ev n : Nat) : (s.bump k ev n).h1 = s.h1 := by
  unfold State.bump; dsimp only; split <;> rfl
@[simp] theorem State.bump_run (k ev n : Nat) : (s.bump k ev n).run = s.run := by
  unfold State.bump; dsimp only; split <;> rfl
@[simp] theorem State.bump_readData (k ev n : Nat) : (s.bump k ev n).readData = s.readData := by
  unfold State.bump; dsimp only; split <;> rfl
@[simp] theorem State.bump_bar2Bad (k ev n : Nat) : (s.bump k ev n).bar2Bad = s.bar2Bad := by
  unfold State.bump; dsimp only; split <;> rfl
@[simp] theorem State.bump_clusters (k ev n : Nat) : (s.bump k ev n).clusters = s.clusters := by
  unfold State.bump; dsimp only; split <;> rfl
@[simp] theorem State.bump_fields (k ev n : Nat) : (s.bump k ev n).fields = s.fields := by
  unfold State.bump; dsimp only; split <;> rfl
@[simp] theorem State.bump_sites (k ev n : Nat) : (s.bump k ev n).sites = s.sites := by
  unfold State.bump; dsimp only; split <;> rfl
@[simp] theorem State.bump_lease (k ev n : Nat) : (s.bump k ev n).lease = s.lease := by
  unfold State.bump; dsimp only; split <;> rfl
@[simp] theorem State.bump_ident (k ev n : Nat) : (s.bump k ev n).ident = s.ident := by
  unfold State.bump; dsimp only; split <;> rfl
@[simp] theorem State.bump_power (k ev n : Nat) : (s.bump k ev n).power = s.power := by
  unfold State.bump; dsimp only; split <;> rfl
@[simp] theorem State.bump_sec (k ev n : Nat) : (s.bump k ev n).sec = s.sec := by
  unfold State.bump; dsimp only; split <;> rfl
@[simp] theorem State.bump_twin (k ev n : Nat) : (s.bump k ev n).twin = s.twin := by
  unfold State.bump; dsimp only; split <;> rfl
@[simp] theorem State.bump_ctr (k ev n : Nat) : (s.bump k ev n).ctr = s.ctr := by
  unfold State.bump; dsimp only; split <;> rfl
@[simp] theorem State.bump_repair (k ev n : Nat) : (s.bump k ev n).repair = s.repair := by
  unfold State.bump; dsimp only; split <;> rfl
@[simp] theorem State.bump_bind (k ev n : Nat) : (s.bump k ev n).bind = s.bind := by
  unfold State.bump; dsimp only; split <;> rfl
@[simp] theorem State.bump_cc (k ev n : Nat) : (s.bump k ev n).cc = s.cc := by
  unfold State.bump; dsimp only; split <;> rfl
@[simp] theorem State.bump_tiles (k ev n : Nat) : (s.bump k ev n).tiles = s.tiles := by
  unfold State.bump; dsimp only; split <;> rfl
@[simp] theorem State.bump_felt (k ev n : Nat) : (s.bump k ev n).felt = s.felt := by
  unfold State.bump; dsimp only; split <;> rfl
@[simp] theorem State.bump_vats (k ev n : Nat) : (s.bump k ev n).vats = s.vats := by
  unfold State.bump; dsimp only; split <;> rfl
@[simp] theorem State.bump_train (k ev n : Nat) : (s.bump k ev n).train = s.train := by
  unfold State.bump; dsimp only; split <;> rfl
@[simp] theorem State.bump_queries (k ev n : Nat) : (s.bump k ev n).queries = s.queries := by
  unfold State.bump; dsimp only; split <;> rfl
@[simp] theorem State.bump_svc (k ev n : Nat) : (s.bump k ev n).svc = s.svc := by
  unfold State.bump; dsimp only; split <;> rfl
@[simp] theorem State.bump_free (k ev n : Nat) : (s.bump k ev n).free = s.free := by
  unfold State.bump; dsimp only; split <;> rfl

@[simp] theorem State.modPage_pending (k : Nat) (f : Page → Page) : (s.modPage k f).pending = s.pending := by
  unfold State.modPage; dsimp only; (repeat' split) <;> simp
@[simp] theorem State.modPage_run (k : Nat) (f : Page → Page) : (s.modPage k f).run = s.run := by
  unfold State.modPage; dsimp only; (repeat' split) <;> simp
@[simp] theorem State.modPage_readData (k : Nat) (f : Page → Page) : (s.modPage k f).readData = s.readData := by
  unfold State.modPage; dsimp only; (repeat' split) <;> simp
@[simp] theorem State.modPage_bar2Bad (k : Nat) (f : Page → Page) : (s.modPage k f).bar2Bad = s.bar2Bad := by
  unfold State.modPage; dsimp only; (repeat' split) <;> simp
@[simp] theorem State.modPage_clusters (k : Nat) (f : Page → Page) : (s.modPage k f).clusters = s.clusters := by
  unfold State.modPage; dsimp only; (repeat' split) <;> simp
@[simp] theorem State.modPage_fields (k : Nat) (f : Page → Page) : (s.modPage k f).fields = s.fields := by
  unfold State.modPage; dsimp only; (repeat' split) <;> simp
@[simp] theorem State.modPage_sites (k : Nat) (f : Page → Page) : (s.modPage k f).sites = s.sites := by
  unfold State.modPage; dsimp only; (repeat' split) <;> simp
@[simp] theorem State.modPage_lease (k : Nat) (f : Page → Page) : (s.modPage k f).lease = s.lease := by
  unfold State.modPage; dsimp only; (repeat' split) <;> simp
@[simp] theorem State.modPage_ident (k : Nat) (f : Page → Page) : (s.modPage k f).ident = s.ident := by
  unfold State.modPage; dsimp only; (repeat' split) <;> simp
@[simp] theorem State.modPage_power (k : Nat) (f : Page → Page) : (s.modPage k f).power = s.power := by
  unfold State.modPage; dsimp only; (repeat' split) <;> simp
@[simp] theorem State.modPage_sec (k : Nat) (f : Page → Page) : (s.modPage k f).sec = s.sec := by
  unfold State.modPage; dsimp only; (repeat' split) <;> simp
@[simp] theorem State.modPage_twin (k : Nat) (f : Page → Page) : (s.modPage k f).twin = s.twin := by
  unfold State.modPage; dsimp only; (repeat' split) <;> simp
@[simp] theorem State.modPage_ctr (k : Nat) (f : Page → Page) : (s.modPage k f).ctr = s.ctr := by
  unfold State.modPage; dsimp only; (repeat' split) <;> simp
@[simp] theorem State.modPage_repair (k : Nat) (f : Page → Page) : (s.modPage k f).repair = s.repair := by
  unfold State.modPage; dsimp only; (repeat' split) <;> simp
@[simp] theorem State.modPage_bind (k : Nat) (f : Page → Page) : (s.modPage k f).bind = s.bind := by
  unfold State.modPage; dsimp only; (repeat' split) <;> simp
@[simp] theorem State.modPage_cc (k : Nat) (f : Page → Page) : (s.modPage k f).cc = s.cc := by
  unfold State.modPage; dsimp only; (repeat' split) <;> simp
@[simp] theorem State.modPage_tiles (k : Nat) (f : Page → Page) : (s.modPage k f).tiles = s.tiles := by
  unfold State.modPage; dsimp only; (repeat' split) <;> simp
@[simp] theorem State.modPage_felt (k : Nat) (f : Page → Page) : (s.modPage k f).felt = s.felt := by
  unfold State.modPage; dsimp only; (repeat' split) <;> simp
@[simp] theorem State.modPage_vats (k : Nat) (f : Page → Page) : (s.modPage k f).vats = s.vats := by
  unfold State.modPage; dsimp only; (repeat' split) <;> simp
@[simp] theorem State.modPage_train (k : Nat) (f : Page → Page) : (s.modPage k f).train = s.train := by
  unfold State.modPage; dsimp only; (repeat' split) <;> simp
@[simp] theorem State.modPage_queries (k : Nat) (f : Page → Page) : (s.modPage k f).queries = s.queries := by
  unfold State.modPage; dsimp only; (repeat' split) <;> simp
@[simp] theorem State.modPage_svc (k : Nat) (f : Page → Page) : (s.modPage k f).svc = s.svc := by
  unfold State.modPage; dsimp only; (repeat' split) <;> simp
@[simp] theorem State.modPage_free (k : Nat) (f : Page → Page) : (s.modPage k f).free = s.free := by
  unfold State.modPage; dsimp only; (repeat' split) <;> simp

@[simp] theorem State.setEvt_pending (k bits : Nat) : (s.setEvt k bits).pending = s.pending := by simp [State.setEvt]
@[simp] theorem State.setEvt_run (k bits : Nat) : (s.setEvt k bits).run = s.run := by simp [State.setEvt]
@[simp] theorem State.setEvt_readData (k bits : Nat) : (s.setEvt k bits).readData = s.readData := by simp [State.setEvt]
@[simp] theorem State.setEvt_bar2Bad (k bits : Nat) : (s.setEvt k bits).bar2Bad = s.bar2Bad := by simp [State.setEvt]
@[simp] theorem State.setEvt_clusters (k bits : Nat) : (s.setEvt k bits).clusters = s.clusters := by simp [State.setEvt]
@[simp] theorem State.setEvt_fields (k bits : Nat) : (s.setEvt k bits).fields = s.fields := by simp [State.setEvt]
@[simp] theorem State.setEvt_sites (k bits : Nat) : (s.setEvt k bits).sites = s.sites := by simp [State.setEvt]
@[simp] theorem State.setEvt_lease (k bits : Nat) : (s.setEvt k bits).lease = s.lease := by simp [State.setEvt]
@[simp] theorem State.setEvt_ident (k bits : Nat) : (s.setEvt k bits).ident = s.ident := by simp [State.setEvt]
@[simp] theorem State.setEvt_power (k bits : Nat) : (s.setEvt k bits).power = s.power := by simp [State.setEvt]
@[simp] theorem State.setEvt_sec (k bits : Nat) : (s.setEvt k bits).sec = s.sec := by simp [State.setEvt]
@[simp] theorem State.setEvt_twin (k bits : Nat) : (s.setEvt k bits).twin = s.twin := by simp [State.setEvt]
@[simp] theorem State.setEvt_ctr (k bits : Nat) : (s.setEvt k bits).ctr = s.ctr := by simp [State.setEvt]
@[simp] theorem State.setEvt_repair (k bits : Nat) : (s.setEvt k bits).repair = s.repair := by simp [State.setEvt]
@[simp] theorem State.setEvt_bind (k bits : Nat) : (s.setEvt k bits).bind = s.bind := by simp [State.setEvt]
@[simp] theorem State.setEvt_cc (k bits : Nat) : (s.setEvt k bits).cc = s.cc := by simp [State.setEvt]
@[simp] theorem State.setEvt_tiles (k bits : Nat) : (s.setEvt k bits).tiles = s.tiles := by simp [State.setEvt]
@[simp] theorem State.setEvt_felt (k bits : Nat) : (s.setEvt k bits).felt = s.felt := by simp [State.setEvt]
@[simp] theorem State.setEvt_vats (k bits : Nat) : (s.setEvt k bits).vats = s.vats := by simp [State.setEvt]
@[simp] theorem State.setEvt_train (k bits : Nat) : (s.setEvt k bits).train = s.train := by simp [State.setEvt]
@[simp] theorem State.setEvt_queries (k bits : Nat) : (s.setEvt k bits).queries = s.queries := by simp [State.setEvt]
@[simp] theorem State.setEvt_svc (k bits : Nat) : (s.setEvt k bits).svc = s.svc := by simp [State.setEvt]
@[simp] theorem State.setEvt_free (k bits : Nat) : (s.setEvt k bits).free = s.free := by simp [State.setEvt]

@[simp] theorem State.recordFaults_pending (k : Nat) (fs : List (Nat × Nat)) : (s.recordFaults k fs).pending = s.pending := by
  unfold State.recordFaults; split <;> simp
@[simp] theorem State.recordFaults_run (k : Nat) (fs : List (Nat × Nat)) : (s.recordFaults k fs).run = s.run := by
  unfold State.recordFaults; split <;> simp
@[simp] theorem State.recordFaults_readData (k : Nat) (fs : List (Nat × Nat)) : (s.recordFaults k fs).readData = s.readData := by
  unfold State.recordFaults; split <;> simp
@[simp] theorem State.recordFaults_bar2Bad (k : Nat) (fs : List (Nat × Nat)) : (s.recordFaults k fs).bar2Bad = s.bar2Bad := by
  unfold State.recordFaults; split <;> simp
@[simp] theorem State.recordFaults_clusters (k : Nat) (fs : List (Nat × Nat)) : (s.recordFaults k fs).clusters = s.clusters := by
  unfold State.recordFaults; split <;> simp
@[simp] theorem State.recordFaults_fields (k : Nat) (fs : List (Nat × Nat)) : (s.recordFaults k fs).fields = s.fields := by
  unfold State.recordFaults; split <;> simp
@[simp] theorem State.recordFaults_sites (k : Nat) (fs : List (Nat × Nat)) : (s.recordFaults k fs).sites = s.sites := by
  unfold State.recordFaults; split <;> simp
@[simp] theorem State.recordFaults_lease (k : Nat) (fs : List (Nat × Nat)) : (s.recordFaults k fs).lease = s.lease := by
  unfold State.recordFaults; split <;> simp
@[simp] theorem State.recordFaults_ident (k : Nat) (fs : List (Nat × Nat)) : (s.recordFaults k fs).ident = s.ident := by
  unfold State.recordFaults; split <;> simp
@[simp] theorem State.recordFaults_power (k : Nat) (fs : List (Nat × Nat)) : (s.recordFaults k fs).power = s.power := by
  unfold State.recordFaults; split <;> simp
@[simp] theorem State.recordFaults_sec (k : Nat) (fs : List (Nat × Nat)) : (s.recordFaults k fs).sec = s.sec := by
  unfold State.recordFaults; split <;> simp
@[simp] theorem State.recordFaults_twin (k : Nat) (fs : List (Nat × Nat)) : (s.recordFaults k fs).twin = s.twin := by
  unfold State.recordFaults; split <;> simp
@[simp] theorem State.recordFaults_ctr (k : Nat) (fs : List (Nat × Nat)) : (s.recordFaults k fs).ctr = s.ctr := by
  unfold State.recordFaults; split <;> simp
@[simp] theorem State.recordFaults_repair (k : Nat) (fs : List (Nat × Nat)) : (s.recordFaults k fs).repair = s.repair := by
  unfold State.recordFaults; split <;> simp
@[simp] theorem State.recordFaults_bind (k : Nat) (fs : List (Nat × Nat)) : (s.recordFaults k fs).bind = s.bind := by
  unfold State.recordFaults; split <;> simp
@[simp] theorem State.recordFaults_cc (k : Nat) (fs : List (Nat × Nat)) : (s.recordFaults k fs).cc = s.cc := by
  unfold State.recordFaults; split <;> simp
@[simp] theorem State.recordFaults_tiles (k : Nat) (fs : List (Nat × Nat)) : (s.recordFaults k fs).tiles = s.tiles := by
  unfold State.recordFaults; split <;> simp
@[simp] theorem State.recordFaults_felt (k : Nat) (fs : List (Nat × Nat)) : (s.recordFaults k fs).felt = s.felt := by
  unfold State.recordFaults; split <;> simp
@[simp] theorem State.recordFaults_vats (k : Nat) (fs : List (Nat × Nat)) : (s.recordFaults k fs).vats = s.vats := by
  unfold State.recordFaults; split <;> simp
@[simp] theorem State.recordFaults_train (k : Nat) (fs : List (Nat × Nat)) : (s.recordFaults k fs).train = s.train := by
  unfold State.recordFaults; split <;> simp
@[simp] theorem State.recordFaults_queries (k : Nat) (fs : List (Nat × Nat)) : (s.recordFaults k fs).queries = s.queries := by
  unfold State.recordFaults; split <;> simp
@[simp] theorem State.recordFaults_svc (k : Nat) (fs : List (Nat × Nat)) : (s.recordFaults k fs).svc = s.svc := by
  unfold State.recordFaults; split <;> simp
@[simp] theorem State.recordFaults_free (k : Nat) (fs : List (Nat × Nat)) : (s.recordFaults k fs).free = s.free := by
  unfold State.recordFaults; split <;> simp

@[simp] theorem State.recordFault_pending (k code info : Nat) : (s.recordFault k code info).pending = s.pending := by simp [State.recordFault]
@[simp] theorem State.recordFault_run (k code info : Nat) : (s.recordFault k code info).run = s.run := by simp [State.recordFault]
@[simp] theorem State.recordFault_readData (k code info : Nat) : (s.recordFault k code info).readData = s.readData := by simp [State.recordFault]
@[simp] theorem State.recordFault_bar2Bad (k code info : Nat) : (s.recordFault k code info).bar2Bad = s.bar2Bad := by simp [State.recordFault]
@[simp] theorem State.recordFault_clusters (k code info : Nat) : (s.recordFault k code info).clusters = s.clusters := by simp [State.recordFault]
@[simp] theorem State.recordFault_fields (k code info : Nat) : (s.recordFault k code info).fields = s.fields := by simp [State.recordFault]
@[simp] theorem State.recordFault_sites (k code info : Nat) : (s.recordFault k code info).sites = s.sites := by simp [State.recordFault]
@[simp] theorem State.recordFault_lease (k code info : Nat) : (s.recordFault k code info).lease = s.lease := by simp [State.recordFault]
@[simp] theorem State.recordFault_ident (k code info : Nat) : (s.recordFault k code info).ident = s.ident := by simp [State.recordFault]
@[simp] theorem State.recordFault_power (k code info : Nat) : (s.recordFault k code info).power = s.power := by simp [State.recordFault]
@[simp] theorem State.recordFault_sec (k code info : Nat) : (s.recordFault k code info).sec = s.sec := by simp [State.recordFault]
@[simp] theorem State.recordFault_twin (k code info : Nat) : (s.recordFault k code info).twin = s.twin := by simp [State.recordFault]
@[simp] theorem State.recordFault_ctr (k code info : Nat) : (s.recordFault k code info).ctr = s.ctr := by simp [State.recordFault]
@[simp] theorem State.recordFault_repair (k code info : Nat) : (s.recordFault k code info).repair = s.repair := by simp [State.recordFault]
@[simp] theorem State.recordFault_bind (k code info : Nat) : (s.recordFault k code info).bind = s.bind := by simp [State.recordFault]
@[simp] theorem State.recordFault_cc (k code info : Nat) : (s.recordFault k code info).cc = s.cc := by simp [State.recordFault]
@[simp] theorem State.recordFault_tiles (k code info : Nat) : (s.recordFault k code info).tiles = s.tiles := by simp [State.recordFault]
@[simp] theorem State.recordFault_felt (k code info : Nat) : (s.recordFault k code info).felt = s.felt := by simp [State.recordFault]
@[simp] theorem State.recordFault_vats (k code info : Nat) : (s.recordFault k code info).vats = s.vats := by simp [State.recordFault]
@[simp] theorem State.recordFault_train (k code info : Nat) : (s.recordFault k code info).train = s.train := by simp [State.recordFault]
@[simp] theorem State.recordFault_queries (k code info : Nat) : (s.recordFault k code info).queries = s.queries := by simp [State.recordFault]
@[simp] theorem State.recordFault_svc (k code info : Nat) : (s.recordFault k code info).svc = s.svc := by simp [State.recordFault]
@[simp] theorem State.recordFault_free (k code info : Nat) : (s.recordFault k code info).free = s.free := by simp [State.recordFault]

@[simp] theorem State.writeEvt_pending (k : Nat) (f : Page → Page) : (s.writeEvt k f).pending = s.pending := by
  unfold State.writeEvt; dsimp only; (repeat' split) <;> simp
@[simp] theorem State.writeEvt_run (k : Nat) (f : Page → Page) : (s.writeEvt k f).run = s.run := by
  unfold State.writeEvt; dsimp only; (repeat' split) <;> simp
@[simp] theorem State.writeEvt_readData (k : Nat) (f : Page → Page) : (s.writeEvt k f).readData = s.readData := by
  unfold State.writeEvt; dsimp only; (repeat' split) <;> simp
@[simp] theorem State.writeEvt_bar2Bad (k : Nat) (f : Page → Page) : (s.writeEvt k f).bar2Bad = s.bar2Bad := by
  unfold State.writeEvt; dsimp only; (repeat' split) <;> simp
@[simp] theorem State.writeEvt_clusters (k : Nat) (f : Page → Page) : (s.writeEvt k f).clusters = s.clusters := by
  unfold State.writeEvt; dsimp only; (repeat' split) <;> simp
@[simp] theorem State.writeEvt_fields (k : Nat) (f : Page → Page) : (s.writeEvt k f).fields = s.fields := by
  unfold State.writeEvt; dsimp only; (repeat' split) <;> simp
@[simp] theorem State.writeEvt_sites (k : Nat) (f : Page → Page) : (s.writeEvt k f).sites = s.sites := by
  unfold State.writeEvt; dsimp only; (repeat' split) <;> simp
@[simp] theorem State.writeEvt_lease (k : Nat) (f : Page → Page) : (s.writeEvt k f).lease = s.lease := by
  unfold State.writeEvt; dsimp only; (repeat' split) <;> simp
@[simp] theorem State.writeEvt_ident (k : Nat) (f : Page → Page) : (s.writeEvt k f).ident = s.ident := by
  unfold State.writeEvt; dsimp only; (repeat' split) <;> simp
@[simp] theorem State.writeEvt_power (k : Nat) (f : Page → Page) : (s.writeEvt k f).power = s.power := by
  unfold State.writeEvt; dsimp only; (repeat' split) <;> simp
@[simp] theorem State.writeEvt_sec (k : Nat) (f : Page → Page) : (s.writeEvt k f).sec = s.sec := by
  unfold State.writeEvt; dsimp only; (repeat' split) <;> simp
@[simp] theorem State.writeEvt_twin (k : Nat) (f : Page → Page) : (s.writeEvt k f).twin = s.twin := by
  unfold State.writeEvt; dsimp only; (repeat' split) <;> simp
@[simp] theorem State.writeEvt_ctr (k : Nat) (f : Page → Page) : (s.writeEvt k f).ctr = s.ctr := by
  unfold State.writeEvt; dsimp only; (repeat' split) <;> simp
@[simp] theorem State.writeEvt_repair (k : Nat) (f : Page → Page) : (s.writeEvt k f).repair = s.repair := by
  unfold State.writeEvt; dsimp only; (repeat' split) <;> simp
@[simp] theorem State.writeEvt_bind (k : Nat) (f : Page → Page) : (s.writeEvt k f).bind = s.bind := by
  unfold State.writeEvt; dsimp only; (repeat' split) <;> simp
@[simp] theorem State.writeEvt_cc (k : Nat) (f : Page → Page) : (s.writeEvt k f).cc = s.cc := by
  unfold State.writeEvt; dsimp only; (repeat' split) <;> simp
@[simp] theorem State.writeEvt_tiles (k : Nat) (f : Page → Page) : (s.writeEvt k f).tiles = s.tiles := by
  unfold State.writeEvt; dsimp only; (repeat' split) <;> simp
@[simp] theorem State.writeEvt_felt (k : Nat) (f : Page → Page) : (s.writeEvt k f).felt = s.felt := by
  unfold State.writeEvt; dsimp only; (repeat' split) <;> simp
@[simp] theorem State.writeEvt_vats (k : Nat) (f : Page → Page) : (s.writeEvt k f).vats = s.vats := by
  unfold State.writeEvt; dsimp only; (repeat' split) <;> simp
@[simp] theorem State.writeEvt_train (k : Nat) (f : Page → Page) : (s.writeEvt k f).train = s.train := by
  unfold State.writeEvt; dsimp only; (repeat' split) <;> simp
@[simp] theorem State.writeEvt_queries (k : Nat) (f : Page → Page) : (s.writeEvt k f).queries = s.queries := by
  unfold State.writeEvt; dsimp only; (repeat' split) <;> simp
@[simp] theorem State.writeEvt_svc (k : Nat) (f : Page → Page) : (s.writeEvt k f).svc = s.svc := by
  unfold State.writeEvt; dsimp only; (repeat' split) <;> simp
@[simp] theorem State.writeEvt_free (k : Nat) (f : Page → Page) : (s.writeEvt k f).free = s.free := by
  unfold State.writeEvt; dsimp only; (repeat' split) <;> simp

@[simp] theorem State.logRepair_pending (code source kind unit : Nat) : (s.logRepair code source kind unit).pending = s.pending := rfl
@[simp] theorem State.logRepair_h0 (code source kind unit : Nat) : (s.logRepair code source kind unit).h0 = s.h0 := rfl
@[simp] theorem State.logRepair_h1 (code source kind unit : Nat) : (s.logRepair code source kind unit).h1 = s.h1 := rfl
@[simp] theorem State.logRepair_run (code source kind unit : Nat) : (s.logRepair code source kind unit).run = s.run := rfl
@[simp] theorem State.logRepair_readData (code source kind unit : Nat) : (s.logRepair code source kind unit).readData = s.readData := rfl
@[simp] theorem State.logRepair_bar2Bad (code source kind unit : Nat) : (s.logRepair code source kind unit).bar2Bad = s.bar2Bad := rfl
@[simp] theorem State.logRepair_pages (code source kind unit : Nat) : (s.logRepair code source kind unit).pages = s.pages := rfl
@[simp] theorem State.logRepair_clusters (code source kind unit : Nat) : (s.logRepair code source kind unit).clusters = s.clusters := rfl
@[simp] theorem State.logRepair_fields (code source kind unit : Nat) : (s.logRepair code source kind unit).fields = s.fields := rfl
@[simp] theorem State.logRepair_sites (code source kind unit : Nat) : (s.logRepair code source kind unit).sites = s.sites := rfl
@[simp] theorem State.logRepair_lease (code source kind unit : Nat) : (s.logRepair code source kind unit).lease = s.lease := rfl
@[simp] theorem State.logRepair_ident (code source kind unit : Nat) : (s.logRepair code source kind unit).ident = s.ident := rfl
@[simp] theorem State.logRepair_power (code source kind unit : Nat) : (s.logRepair code source kind unit).power = s.power := rfl
@[simp] theorem State.logRepair_sec (code source kind unit : Nat) : (s.logRepair code source kind unit).sec = s.sec := rfl
@[simp] theorem State.logRepair_twin (code source kind unit : Nat) : (s.logRepair code source kind unit).twin = s.twin := rfl
@[simp] theorem State.logRepair_ctr (code source kind unit : Nat) : (s.logRepair code source kind unit).ctr = s.ctr := rfl
@[simp] theorem State.logRepair_bind (code source kind unit : Nat) : (s.logRepair code source kind unit).bind = s.bind := rfl
@[simp] theorem State.logRepair_cc (code source kind unit : Nat) : (s.logRepair code source kind unit).cc = s.cc := rfl
@[simp] theorem State.logRepair_tiles (code source kind unit : Nat) : (s.logRepair code source kind unit).tiles = s.tiles := rfl
@[simp] theorem State.logRepair_felt (code source kind unit : Nat) : (s.logRepair code source kind unit).felt = s.felt := rfl
@[simp] theorem State.logRepair_vats (code source kind unit : Nat) : (s.logRepair code source kind unit).vats = s.vats := rfl
@[simp] theorem State.logRepair_train (code source kind unit : Nat) : (s.logRepair code source kind unit).train = s.train := rfl
@[simp] theorem State.logRepair_queries (code source kind unit : Nat) : (s.logRepair code source kind unit).queries = s.queries := rfl
@[simp] theorem State.logRepair_svc (code source kind unit : Nat) : (s.logRepair code source kind unit).svc = s.svc := rfl
@[simp] theorem State.logRepair_free (code source kind unit : Nat) : (s.logRepair code source kind unit).free = s.free := rfl

@[simp] theorem State.logRepair_life (code source kind unit : Nat) : (s.logRepair code source kind unit).repair.life = s.repair.life := by
  unfold State.logRepair; (repeat' split) <;> rfl

/-! What an update sets -/

@[simp] theorem State.setPort_port (p : HPort) (v : HostPort) : (s.setPort p v).port p = v := by cases p <;> rfl
@[simp] theorem State.setPort_port_ne (p q : HPort) (v : HostPort) (h : q ≠ p) : (s.setPort p v).port q = s.port q := by
  cases p <;> cases q <;> first | rfl | exact absurd rfl h
@[simp] theorem State.setTile_tile_ne (p q : Nat) (t : Tile) (h : q ≠ p) : (s.setTile p t).tile q = s.tile q :=
  sget_sput_ne _ _ _ _ _ h
@[simp] theorem State.setTile_tile (p : Nat) (t : Tile) : (s.setTile p t).tile p = t :=
  sget_sput_self _ _ _ _
@[simp] theorem State.setField_field_ne (p q : Nat) (t : FieldState) (h : q ≠ p) : (s.setField p t).field q = s.field q :=
  sget_sput_ne _ _ _ _ _ h
@[simp] theorem State.setField_field (p : Nat) (t : FieldState) : (s.setField p t).field p = t :=
  sget_sput_self _ _ _ _
@[simp] theorem State.setSite_site_ne (p q : Nat) (t : SiteRegs) (h : q ≠ p) : (s.setSite p t).site q = s.site q :=
  sget_sput_ne _ _ _ _ _ h
@[simp] theorem State.setSite_site (p : Nat) (t : SiteRegs) : (s.setSite p t).site p = t :=
  sget_sput_self _ _ _ _
@[simp] theorem State.setProg_prog_ne (i j : Nat) (p : Option Prog) (h : j ≠ i) : (s.setProg i p).prog j = s.prog j :=
  sget_sput_ne _ _ _ _ _ h
@[simp] theorem State.setProg_prog (i : Nat) (p : Option Prog) : (s.setProg i p).prog i = p :=
  sget_sput_self _ _ _ _
@[simp] theorem State.setQuery_query_ne (i j : Nat) (q : QSlot) (h : j ≠ i) : (s.setQuery i q).query j = s.query j :=
  sget_sput_ne _ _ _ _ _ h
@[simp] theorem State.setQuery_query (i : Nat) (q : QSlot) : (s.setQuery i q).query i = q :=
  sget_sput_self _ _ _ _

/-- A page that is not the one changed keeps its registers. -/
@[simp] theorem State.modPage_page_ne (k j : Nat) (f : Page → Page) (h : j ≠ k) : (s.modPage k f).page j = s.page j := by
  have h' : ∀ x : State, x.pages = sput {} s.pages k (f (s.page k)) → x.page j = s.page j := fun x hx => by
    unfold State.page; rw [hx]; exact sget_sput_ne _ _ _ _ _ h
  unfold State.modPage
  dsimp only
  split
  · rfl
  · split
    · apply h'
      unfold State.sendGroup
      (repeat' split) <;> rfl
    · exact h' _ rfl

/-- A fault leaves the other pages alone (R370). -/
@[simp] theorem State.recordFault_page_ne (k j code info : Nat) (h : j ≠ k) :
    (s.recordFault k code info).page j = s.page j := State.modPage_page_ne s k j _ h

@[simp] theorem State.setEvt_page_ne (k j bits : Nat) (h : j ≠ k) : (s.setEvt k bits).page j = s.page j :=
  State.modPage_page_ne s k j _ h

/-- What an increment of events leaves of another page. -/
@[simp] theorem State.bump_page_ne (k j ev n : Nat) (h : j ≠ k) : (s.bump k ev n).page j = s.page j := by
  unfold State.bump
  dsimp only
  split
  · rfl
  · exact sget_sput_ne _ _ _ _ _ h

end Sys2Proof.Machine
end

