-- ==== Sys2Proof/Laws/Events.lean ====
section
/-! SUPPORT. What events, fault records and votes change: MSI-X messages and pages, and nothing else. -/

namespace Sys2Proof.Machine

theorem PortKeeps.refl (a : HostPort) : PortKeeps a a := rfl
theorem PortKeeps.trans {a b c : HostPort} (h : PortKeeps a b) (h' : PortKeeps b c) : PortKeeps a c := by
  unfold PortKeeps at *; rw [h', h]
theorem PagesKeep.refl (s : State) (ks : List Nat) : PagesKeep s s ks := fun _ _ => rfl
theorem PagesKeep.trans {s t u : State} {ks : List Nat} (h : PagesKeep s t ks) (h' : PagesKeep t u ks) : PagesKeep s u ks := by
  intro k hk; rw [h' k hk, h k hk]
theorem PagesKeep.mono {s t : State} {ks ls : List Nat} (h : PagesKeep s t ks) (hs : ∀ k ∈ ks, k ∈ ls) : PagesKeep s t ls :=
  fun k hk => h k fun hk' => hk (hs k hk')
theorem EventFrame.refl (s : State) (ks : List Nat) : EventFrame s s ks := ⟨rfl, rfl, .refl s ks⟩
theorem EventFrame.trans {s t u : State} {ks : List Nat} (h : EventFrame s t ks) (h' : EventFrame t u ks) : EventFrame s u ks :=
  ⟨h.1.trans h'.1, h.2.1.trans h'.2.1, h.2.2.trans h'.2.2⟩
theorem EventFrame.mono {s t : State} {ks ls : List Nat} (h : EventFrame s t ks) (hs : ∀ k ∈ ks, k ∈ ls) : EventFrame s t ls :=
  ⟨h.1, h.2.1, h.2.2.mono hs⟩

theorem HostPort.send_keeps (h : HostPort) (v : Nat) : PortKeeps h (h.send v) := by
  unfold HostPort.send PortKeeps; (repeat' split) <;> rfl

theorem State.sendGroup_eq (s : State) (g : Nat) :
    s.sendGroup g = { s with h0 := (s.sendGroup g).h0, h1 := (s.sendGroup g).h1 } := by
  unfold State.sendGroup; (repeat' split) <;> rfl
theorem State.sendGroup_h0 (s : State) (g : Nat) : PortKeeps s.h0 (s.sendGroup g).h0 := by
  unfold State.sendGroup; (repeat' split) <;> first | exact HostPort.send_keeps _ _ | rfl
theorem State.sendGroup_h1 (s : State) (g : Nat) : PortKeeps s.h1 (s.sendGroup g).h1 := by
  unfold State.sendGroup; (repeat' split) <;> first | exact HostPort.send_keeps _ _ | rfl
theorem State.sendGroup_page (s : State) (g k : Nat) : (s.sendGroup g).page k = s.page k := by
  unfold State.sendGroup; (repeat' split) <;> rfl

/-- A page's change keeps the rest of the module. -/
theorem State.modPage_only (s : State) (k : Nat) (f : Page → Page) : OnlyEvents s (s.modPage k f) [k] := by
  refine ⟨⟨?_, ?_, ?_⟩, ?_⟩
  · unfold State.modPage; dsimp only; (repeat' split) <;> first | rfl | exact State.sendGroup_h0 _ _
  · unfold State.modPage; dsimp only; (repeat' split) <;> first | rfl | exact State.sendGroup_h1 _ _
  · intro j hj
    rw [State.modPage_page_ne s k j f (by simpa using hj)]
  · unfold State.modPage; dsimp only; (repeat' split) <;> first | rfl | (unfold State.sendGroup; (repeat' split) <;> rfl)

/-- The page that changes, unless its unit is lost. -/
theorem State.modPage_page (s : State) (k : Nat) (f : Page → Page) :
    (s.modPage k f).page k = if (s.page k).lost then s.page k else f (s.page k) := by
  unfold State.modPage; dsimp only; split
  · rfl
  · split
    · rw [State.sendGroup_page]; exact sget_sput_self _ _ _ _
    · exact sget_sput_self _ _ _ _

theorem OnlyEvents.refl (s : State) (ks : List Nat) : OnlyEvents s s ks := ⟨.refl s ks, rfl⟩
theorem OnlyEvents.trans {s t u : State} {ks : List Nat} (h : OnlyEvents s t ks) (h' : OnlyEvents t u ks) : OnlyEvents s u ks :=
  ⟨h.1.trans h'.1, by rw [h'.2, h.2]⟩
theorem OnlyEvents.mono {s t : State} {ks ls : List Nat} (h : OnlyEvents s t ks) (hs : ∀ k ∈ ks, k ∈ ls) : OnlyEvents s t ls :=
  ⟨h.1.mono hs, h.2⟩

theorem State.setEvt_only (s : State) (k bits : Nat) : OnlyEvents s (s.setEvt k bits) [k] := s.modPage_only _ _
theorem State.setEvt_on (s : State) (k bits : Nat) : EvtOn s (s.setEvt k bits) k bits := by
  intro h; rw [State.setEvt, State.modPage_page, h]; rfl
theorem State.recordFault_only (s : State) (k code info : Nat) : OnlyEvents s (s.recordFault k code info) [k] :=
  s.modPage_only _ _
/-- What a fault record does to its page (R370, R429). -/
theorem State.recordFault_on (s : State) (k code info : Nat) : FaultOn s (s.recordFault k code info) k code info := by
  intro h
  have e : (s.recordFault k code info).page k = _ := State.modPage_page s k _
  rw [e, h]; exact ⟨rfl, rfl, rfl, rfl, rfl⟩
theorem State.recordFault_lost (s : State) (k code info j : Nat) :
    ((s.recordFault k code info).page j).lost = (s.page j).lost := by
  by_cases h : j = k
  · subst h
    have e : (s.recordFault j code info).page j = _ := State.modPage_page s j _
    rw [e]; split <;> simp_all
  · rw [State.recordFault_page_ne _ _ _ _ _ h]
theorem State.setEvt_lost (s : State) (k bits j : Nat) : ((s.setEvt k bits).page j).lost = (s.page j).lost := by
  by_cases h : j = k
  · subst h
    rw [State.setEvt, State.modPage_page]; split <;> simp_all
  · rw [State.setEvt_page_ne _ _ _ _ h]

/-- A count of events changes nothing but block counters. -/
theorem State.bump_only (s : State) (k ev n : Nat) : OnlyEvents s (s.bump k ev n) [] := by
  refine ⟨⟨?_, ?_, ?_⟩, ?_⟩
  · unfold State.bump; dsimp only; split <;> rfl
  · unfold State.bump; dsimp only; split <;> rfl
  · intro j _
    by_cases h : j = k
    · subst h
      unfold State.bump; dsimp only
      split
      · rfl
      · have : ∀ x : State, x.pages = sput {} s.pages j ((s.page j).bump ev n) → x.page j = (s.page j).bump ev n :=
          fun x hx => by unfold State.page; rw [hx]; exact sget_sput_self _ _ _ _
        rw [this _ rfl]; unfold Page.bump; split <;> rfl
    · rw [State.bump_page_ne _ _ _ _ _ h]
  · unfold State.bump; dsimp only; split <;> rfl

/-- A decision that no replica dissents from counts in the three complexes' counters (R22). -/
theorem State.decided_only (s : State) : OnlyEvents s s.decided [] :=
  ((s.bump_only _ _ _).trans (State.bump_only _ _ _ _)).trans (State.bump_only _ _ _ _)

end Sys2Proof.Machine
end

