-- ==== Sys2Proof/Laws/Commands.lean ====
section
/-! SUPPORT. How a command of the lease holder begins, and what the end of a command leaves. -/

namespace Sys2Proof.Machine

theorem State.modCmd_eq (s : State) (p : HPort) (f : CmdPage → CmdPage) :
    s.modCmd p f = { s with h0 := (s.modCmd p f).h0, h1 := (s.modCmd p f).h1 } := by cases p <;> rfl
theorem State.modCmd_page (s : State) (p : HPort) (f : CmdPage → CmdPage) (k : Nat) : (s.modCmd p f).page k = s.page k := by
  cases p <;> rfl

/-- The staging of a command and what only events change after it (R436). -/
theorem hostFrame_of {s t : State} {p : HPort} {f : CmdPage → CmdPage} {ks : List Nat}
    (h : EventFrame (s.modCmd p f) t ks) : HostFrame s t p ks ∧ (t.port p).cmd = f (s.port p).cmd := by
  obtain ⟨h0, h1, hp⟩ := h
  have hp' : PagesKeep s t ks := fun k hk => by rw [hp k hk, State.modCmd_page]
  cases p
  · have e : t.port .h0 = { (s.modCmd .h0 f).h0 with pba := t.h0.pba, msgs := t.h0.msgs } := h0
    have hc : (t.port .h0).cmd = f (s.port .h0).cmd := by rw [e]; rfl
    exact ⟨⟨h1, by unfold PortKeeps; rw [hc]; exact e, hp'⟩, hc⟩
  · have e : t.port .h1 = { (s.modCmd .h1 f).h1 with pba := t.h1.pba, msgs := t.h1.msgs } := h1
    have hc : (t.port .h1).cmd = f (s.port .h1).cmd := by rw [e]; rfl
    exact ⟨⟨h0, by unfold PortKeeps; rw [hc]; exact e, hp'⟩, hc⟩

/-- A command of the lease holder, staged, voted on and begun (R436, R437). -/
def State.begun (s : State) (p : HPort) (op : Nat) (a : CmdArgs) : State :=
  { (s.modCmd p fun c => { c with op := op, args := a }).decided with run := some { latched s p op a with begun := true } }

theorem State.begun_frame (s : State) (p : HPort) (op : Nat) (a : CmdArgs) :
    EventFrame (s.modCmd p fun c => { c with op := op, args := a }) (s.begun p op a) [] := by
  have h := (State.decided_only (s.modCmd p fun c => { c with op := op, args := a })).1
  exact h

theorem State.begun_eq (s : State) (p : HPort) (op : Nat) (a : CmdArgs) :
    s.begun p op a = { s with h0 := (s.begun p op a).h0, h1 := (s.begun p op a).h1, pages := (s.begun p op a).pages
                              run := some { latched s p op a with begun := true } } := by
  have h := (State.decided_only (s.modCmd p fun c => { c with op := op, args := a })).2
  unfold State.begun
  rw [h, State.modCmd_eq]

theorem Accepts.dmaUp {s : State} {p : HPort} (h : Accepts s p) : (s.port p).dmaUp = true := by
  obtain ⟨h1, h2, -⟩ := h
  unfold State.reaches at h1
  simp only [Bool.and_eq_true, Bool.not_eq_true', beq_iff_eq] at h1
  simp [HostPort.dmaUp, h1.1, h1.2, h2]

theorem modCmd_staged (s : State) (p : HPort) (op : Nat) (a : CmdArgs) :
    ((s.modCmd p fun c => { c with op := op, args := a }).port p).cmd = stagedPage s p op a := by cases p <;> rfl

/-- A command that is accepted at once begins (R437). -/
theorem hostCommand_begins {s : State} {p : HPort} (h : Accepts s p) (op : Nat) (a : CmdArgs) (ha : argsOk op a = true) :
    s.hostCommand p op a none = State.advance { s.begun p op a with run := some (latched s p op a) } := by
  have hd := h.dmaUp
  obtain ⟨h1, h2, h3, h4, h5, h6, h7, h8⟩ := h
  have hm : s.modCmd p (fun c => { c with op := op, args := a }) = _ := State.modCmd_eq s p _
  generalize hs : s.modCmd p (fun c => { c with op := op, args := a }) = t at hm
  have ho := State.decided_only t
  have hcmd : (t.decided.port p).cmd = stagedPage s p op a := by
    have := (hostFrame_of (s := s) (p := p) (f := fun c => { c with op := op, args := a }) (t := t.decided) (ks := [])
      (by rw [hs]; exact ho.1)).2
    exact this
  have e : t.decided = { s with h0 := t.decided.h0, h1 := t.decided.h1, pages := t.decided.pages } := by
    rw [ho.2, hm]
  unfold State.hostCommand
  rw [h1, hs]
  simp only [Bool.not_true, Bool.false_eq_true, if_false]
  have hl : t.lease = s.lease := by rw [hm]
  have hr : t.run = s.run := by rw [hm]
  have hi : t.ident = s.ident := by rw [hm]
  have hc : t.cc = s.cc := by rw [hm]
  unfold State.cmdGo
  simp only [hl, h3, ne_eq, not_true_eq_false, if_false, State.busyBit, hr, h4, hi, h5, hc, h6, Option.isSome_none,
    Bool.not_true, Bool.or_self, Bool.false_eq_true, State.vote, if_true]
  unfold State.startCommand
  have hd1 : t.decided.power = s.power := by rw [e]
  have hd2 : t.decided.cc = s.cc := by rw [e]
  have hd3 : t.decided.sec = s.sec := by rw [e]
  simp only [hd1, hd2, hd3, h6, h7, h8, hcmd, State.wake, decide_true, Bool.true_or, Option.isSome_none,
    Bool.false_eq_true, and_false, if_false, if_true, ite_self]
  have : argsOk (stagedPage s p op a).op (stagedPage s p op a).args = true := ha
  rw [this]
  simp only [if_true]
  unfold State.begun
  rw [hs, ← hd1, ← hd2, ← hd3]
  rfl

/-- A command that the lease holder starts does its work at once (R437). -/
theorem hostCommand_runs {s : State} {p : HPort} (h : Accepts s p) (op : Nat) (a : CmdArgs) (ha : argsOk op a = true) :
    s.hostCommand p op a none =
      (s.begun p op a).doCommand (latched s p op a) := by
  rw [hostCommand_begins h op a ha]
  have hd := h.dmaUp
  have hp : ((s.begun p op a).port p).dmaUp = true := by
    have := (hostFrame_of (s.begun_frame p op a)).1.2.1
    unfold PortKeeps at this
    unfold HostPort.dmaUp at *
    rw [this]; exact hd
  unfold State.advance
  simp only [latched, Bool.false_or, Bool.not_true, Bool.or_self]
  have : (needsDma op && !(State.port { s.begun p op a with run := some { op := op, port := p, page := stagedPage s p op a } } p).dmaUp) = false := by
    have : (State.port { s.begun p op a with run := some { op := op, port := p, page := stagedPage s p op a } } p) = (s.begun p op a).port p := by cases p <;> rfl
    rw [this, hp]; simp
  rw [this]
  rfl

/-- Resting the idle fields changes the fields alone. -/
theorem State.restFields_eq (s : State) : s.restFields = { s with fields := s.restFields.fields } := by
  unfold State.restFields
  generalize List.range 48 = l
  have h : ∀ (l : List Nat) (t : State), t = { s with fields := t.fields } →
      l.foldl (fun s f => if s.idleField f then s.setField f ((s.field f).rest s.power.pstate) else s) t =
        { s with fields :=
          (l.foldl (fun s f => if s.idleField f then s.setField f ((s.field f).rest s.power.pstate) else s) t).fields } := by
    intro l
    induction l with
    | nil => intro t ht; exact ht
    | cons f l ih =>
      intro t ht
      rw [List.foldl_cons]
      refine ih _ ?_
      split
      · rw [ht]; rfl
      · exact ht
  exact h l s rfl

theorem State.idleField_congr (s : State) (m : List (Nat × FieldState)) (f : Nat) :
    State.idleField { s with fields := m } f = s.idleField f := rfl

/-- Each idle field rests, and no other changes. -/
theorem State.restFields_field (s : State) (f : Nat) :
    s.restFields.field f = if f < 48 ∧ s.idleField f = true then (s.field f).rest s.power.pstate else s.field f := by
  unfold State.restFields
  have h : ∀ (l : List Nat) (t : State), l.Nodup → (∀ g, t.idleField g = s.idleField g) → t.power = s.power →
      (l.foldl (fun s f => if s.idleField f then s.setField f ((s.field f).rest s.power.pstate) else s) t).field f =
        if f ∈ l ∧ s.idleField f = true then (t.field f).rest s.power.pstate else t.field f := by
    intro l
    induction l with
    | nil => intro t _ _ _; simp
    | cons g l ih =>
      intro t hn ht hp
      obtain ⟨hg, hl⟩ := List.nodup_cons.mp hn
      rw [List.foldl_cons]
      by_cases hi : s.idleField g = true
      · rw [ih _ hl (by intro k; rw [ht g, hi]; exact ht k) (by rw [ht g, hi]; exact hp)]
        rw [ht g, hi, hp]
        simp only [if_true]
        by_cases e : f = g
        · subst e
          have : (t.setField f ((t.field f).rest s.power.pstate)).field f = (t.field f).rest s.power.pstate :=
            sget_sput_self _ _ _ _
          simp [hg, hi, this]
        · have : (t.setField g ((t.field g).rest s.power.pstate)).field f = t.field f := sget_sput_ne _ _ _ _ _ e
          simp [e, this]
      · rw [ht g, if_neg hi, ih t hl ht hp]
        by_cases e : f = g
        · subst e; simp [hi]
        · simp [e]
  rw [h _ s List.nodup_range (fun _ => rfl) rfl]
  simp

/-- What the end of a command leaves (R438, R468). -/
theorem endWith_ended {s : State} (r : Running) (hr : s.run = some r) (status r0 r1 : Nat) :
    let u := s.endWith status r0 r1
    OnlyEvents (State.modCmd { s with run := none, train := s.train.idle, fields := u.fields } r.port fun c => { c with
      resOp := r.op, status := status, ret0 := BitVec.ofNat 64 r0, ret1 := BitVec.ofNat 64 r1, ret2 := 0, ret3 := 0 })
      u [pgCmd r.port] ∧
    ((s.page (pgCmd r.port)).lost = false → (u.page (pgCmd r.port)).evt = (s.page (pgCmd r.port)).evt ||| 2#32) ∧
    (r.op ≠ 4 → r.op ≠ 5 → u.fields = s.fields) ∧ (r.op = 4 ∨ r.op = 5 → Rested s u) := by
  intro u
  let t : State := State.modCmd { s with run := none, train := s.train.idle } r.port fun c => { c with
    resOp := r.op, status := status, ret0 := BitVec.ofNat 64 r0, ret1 := BitVec.ofNat 64 r1, ret2 := 0, ret3 := 0 }
  let v : State := if r.op = 4 ∨ r.op = 5 then t.restFields else t
  have hu : u = v.setEvt (pgCmd r.port) 2 := by
    show s.endWith status r0 r1 = _
    unfold State.endWith
    rw [hr]
    rfl
  have hv : v = { t with fields := v.fields } := by
    show (if r.op = 4 ∨ r.op = 5 then t.restFields else t) = { t with fields := (if r.op = 4 ∨ r.op = 5 then t.restFields else t).fields }
    split
    · exact State.restFields_eq t
    · rfl
  have ho := State.setEvt_only v (pgCmd r.port) 2
  rw [← hu] at ho
  have hf : u.fields = v.fields := by rw [ho.2]
  have ht : State.modCmd { s with run := none, train := s.train.idle, fields := u.fields } r.port (fun c => { c with
      resOp := r.op, status := status, ret0 := BitVec.ofNat 64 r0, ret1 := BitVec.ofNat 64 r1, ret2 := 0, ret3 := 0 }) = v := by
    rw [hv, hf]
    show _ = { t with fields := v.fields }
    cases hp : r.port <;> simp only [t, hp] <;> rfl
  have hpg : v.page (pgCmd r.port) = s.page (pgCmd r.port) := by
    rw [hv]
    show t.page (pgCmd r.port) = _
    exact State.modCmd_page _ _ _ _
  refine ⟨?_, ?_, ?_, ?_⟩
  · rw [ht]; exact ho
  · intro hl
    rw [hu, State.setEvt, State.modPage_page, hpg, hl]
    rfl
  · intro h4 h5
    rw [hf]
    show (if r.op = 4 ∨ r.op = 5 then t.restFields else t).fields = _
    rw [if_neg (by simp [h4, h5])]
    show (State.modCmd _ _ _).fields = _
    rw [State.modCmd_eq]
  · intro h f
    have : u.field f = v.field f := by unfold State.field; rw [hf]
    rw [this]
    show (if r.op = 4 ∨ r.op = 5 then t.restFields else t).field f = _
    rw [if_pos h, State.restFields_field]
    have ht' := State.modCmd_eq { s with run := none, train := s.train.idle } r.port (fun c => { c with
      resOp := r.op, status := status, ret0 := BitVec.ofNat 64 r0, ret1 := BitVec.ofNat 64 r1, ret2 := 0, ret3 := 0 })
    have e1 : t.idleField f = State.idleField { s with run := none, train := s.train.idle } f := by
      show State.idleField (State.modCmd _ _ _) f = _
      rw [ht']; rfl
    have e2 : t.field f = s.field f := by
      show State.field (State.modCmd _ _ _) f = _
      rw [ht']; rfl
    have e3 : t.power = s.power := by
      show State.power (State.modCmd _ _ _) = _
      rw [ht']
    rw [e1, e2, e3]

/-- The end of a command that port `p` staged: its results, and what else changes (R438, R468). -/
theorem endWith_spec {s v : State} {p : HPort} {op : Nat} {a : CmdArgs} {ks : List Nat}
    (hf : EventFrame (s.modCmd p fun c => { c with op := op, args := a }) v ks) (r : Running) (hr : v.run = some r)
    (hp : r.port = p) (ho : r.op = op) (hl : (v.page (pgCmd p)).lost = (s.page (pgCmd p)).lost) (status r0 r1 : Nat) :
    let u := v.endWith status r0 r1
    Ended s u p op a status r0 r1 ∧ HostFrame s u p (pgCmd p :: ks) ∧
    u = { v with h0 := u.h0, h1 := u.h1, pages := u.pages, fields := u.fields, run := none, train := v.train.idle } ∧
    (op ≠ 4 → op ≠ 5 → u.fields = v.fields) ∧ (op = 4 ∨ op = 5 → Rested v u) := by
  intro u
  subst hp ho
  obtain ⟨⟨hu, hu'⟩, hd, hf4, hf5⟩ := endWith_ended (s := v) r hr status r0 r1
  have hu0 : u = _ := hu'
  have hc := (hostFrame_of hf).2
  have hfin : EventFrame (State.modCmd s r.port fun c =>
      { c with op := r.op, args := a, resOp := r.op, status := status, ret0 := BitVec.ofNat 64 r0
               ret1 := BitVec.ofNat 64 r1, ret2 := 0, ret3 := 0 }) u (pgCmd r.port :: ks) := by
    obtain ⟨f0, f1, fp⟩ := hf
    obtain ⟨g0, g1, gp⟩ := hu
    refine ⟨?_, ?_, ?_⟩
    · revert f0 g0 hc
      generalize r.port = q
      cases q
      · intro hc f0 g0
        unfold PortKeeps at *
        rw [show u.h0 = _ from g0]
        show ({ State.h0 _ with pba := _, msgs := _ } : HostPort) = _
        simp only [State.modCmd, State.setPort, State.port] at *
        rw [f0]
      · intro hc f0 g0
        unfold PortKeeps at *
        rw [show u.h0 = _ from g0]
        simp only [State.modCmd, State.setPort, State.port] at *
        rw [f0]
    · revert f1 g1 hc
      generalize r.port = q
      cases q
      · intro hc f0 g0
        unfold PortKeeps at *
        rw [show u.h1 = _ from g0]
        simp only [State.modCmd, State.setPort, State.port] at *
        rw [f0]
      · intro hc f0 g0
        unfold PortKeeps at *
        rw [show u.h1 = _ from g0]
        simp only [State.modCmd, State.setPort, State.port] at *
        rw [f0]
    · intro k hk
      have hk1 : k ∉ [pgCmd r.port] := fun h => hk (by simp at h; simp [h])
      have hk2 : k ∉ ks := fun h => hk (by simp [h])
      rw [show u.page k = _ from gp k hk1, State.modCmd_page, State.modCmd_page]
      have := fp k hk2
      rw [State.modCmd_page] at this
      show ({ v.page k with ctrs := _ } : Page) = _
      rw [this]
  obtain ⟨hh, hcmd⟩ := hostFrame_of hfin
  refine ⟨⟨?_, ?_, ?_, ?_⟩, hh, ?_, hf4, hf5⟩
  · rw [hu0, State.modCmd_eq]
  · rw [hu0, State.modCmd_eq]; rfl
  · rw [hcmd]; rfl
  · intro h
    rw [← hl] at h
    have := hd h
    rw [show u.page (pgCmd r.port) = _ from rfl, this]
    simp
  · rw [hu0, State.modCmd_eq]

end Sys2Proof.Machine
end

