-- ==== Sys2Proof/Laws/FrameOps.lean ====
section
/-! SUPPORT. The operations of Ops.lean keep the steady part of the state: the queue of waiting commands, the identity
page, the life counter, the tamper count and the security versions. -/

namespace Sys2Proof.Machine

/-- What few commands change: the queue, the identity page, the life counter, the tamper count, the security versions. -/
def State.steady (s : State) : List Instr × Ident × Nat × Nat × Nat × Nat :=
  (s.pending, s.ident, s.repair.life, s.sec.tamperCount, s.sec.svn, s.sec.svnMin)

@[simp] theorem State.steady_mk (pending h0 h1 run readData bar2Bad pages clusters fields sites lease ident power sec twin ctr repair
   bind cc tiles felt vats train queries svc free) :
  (State.mk pending h0 h1 run readData bar2Bad pages clusters fields sites lease ident power sec twin ctr repair
   bind cc tiles felt vats train queries svc free).steady = (pending, ident, repair.life, sec.tamperCount, sec.svn, sec.svnMin) := rfl
@[simp] theorem State.steady_eta (s : State) :
  (s.pending, s.ident, s.repair.life, s.sec.tamperCount, s.sec.svn, s.sec.svnMin) = s.steady := rfl
@[simp] theorem ite_steady (c : Prop) [Decidable c] (a b : State) :
  (if c then a else b).steady = if c then a.steady else b.steady := by split <;> rfl
@[simp] theorem foldl_steady {α : Type} (f : State → α → State) (h : ∀ s a, (f s a).steady = s.steady) (l : List α) (s : State) :
  (l.foldl f s).steady = s.steady := by
  induction l generalizing s with
  | nil => rfl
  | cons a r ih => rw [List.foldl_cons, ih, h]
@[simp] theorem Security.setSlot_tamperCount (x : Security) (i : Nat) (v : Option KeySlot) :
  (x.setSlot i v).tamperCount = x.tamperCount := rfl
@[simp] theorem Security.setSlot_svn (x : Security) (i : Nat) (v : Option KeySlot) : (x.setSlot i v).svn = x.svn := rfl
@[simp] theorem Security.setSlot_svnMin (x : Security) (i : Nat) (v : Option KeySlot) :
  (x.setSlot i v).svnMin = x.svnMin := rfl
theorem foldl_fst_steady {α β : Type} (f : State × β → α → State × β) (h : ∀ x a, (f x a).1.steady = x.1.steady)
    (l : List α) (x : State × β) : (l.foldl f x).1.steady = x.1.steady := by
  induction l generalizing x with
  | nil => rfl
  | cons a r ih => rw [List.foldl_cons, ih, h]

@[simp] theorem State.setPort_steady (s : State) (p : HPort) (v : HostPort)  :
  (State.setPort s p v).steady = s.steady := by
  unfold State.setPort; (try dsimp only); (repeat' split) <;> (first | (simp; done) | (simp [*]; done) | (simp_all; done))

@[simp] theorem State.modCmd_steady (s : State) (p : HPort) (f : CmdPage → CmdPage)  :
  (State.modCmd s p f).steady = s.steady := by simp [State.modCmd]

@[simp] theorem State.setField_steady (s : State) (f : Nat) (v : FieldState)  :
  (State.setField s f v).steady = s.steady := by simp [State.setField]

@[simp] theorem State.setSite_steady (s : State) (f : Nat) (v : SiteRegs)  :
  (State.setSite s f v).steady = s.steady := by simp [State.setSite]

@[simp] theorem State.setTile_steady (s : State) (p : Nat) (t : Tile)  :
  (State.setTile s p t).steady = s.steady := by simp [State.setTile]

@[simp] theorem State.setProg_steady (s : State) (i : Nat) (p : Option Prog)  :
  (State.setProg s i p).steady = s.steady := by simp [State.setProg]

@[simp] theorem State.setQuery_steady (s : State) (i : Nat) (q : QSlot)  :
  (State.setQuery s i q).steady = s.steady := by simp [State.setQuery]

@[simp] theorem State.drawByte_steady (s : State)  :
  (State.drawByte s).2.steady = s.steady := by simp [State.drawByte]

end Sys2Proof.Machine
end

