-- ==== Sys2Proof/Laws/FrameFlags.lean ====
section
/-! SUPPORT. The operations of Flags.lean keep the steady part of the state: the queue of waiting commands, the identity
page, the life counter, the tamper count and the security versions. -/

namespace Sys2Proof.Machine

@[simp] theorem State.sendGroup_steady (s : State) (g : Nat)  :
  (State.sendGroup s g).steady = s.steady := by simp [State.sendGroup]

@[simp] theorem State.dropGroup_steady (s : State) (g : Nat)  :
  (State.dropGroup s g).steady = s.steady := by simp [State.dropGroup]

@[simp] theorem State.modPage_steady (s : State) (k : Nat) (f : Page → Page)  :
  (State.modPage s k f).steady = s.steady := by simp [State.modPage]

@[simp] theorem State.writeEvt_steady (s : State) (k : Nat) (f : Page → Page)  :
  (State.writeEvt s k f).steady = s.steady := by simp [State.writeEvt]

@[simp] theorem State.setEvt_steady (s : State) (k : Nat) (bits : Nat)  :
  (State.setEvt s k bits).steady = s.steady := by simp [State.setEvt]

@[simp] theorem State.edge_steady (s : State) (k ev : Nat)  :
  (State.edge s k ev).steady = s.steady := by simp [State.edge]

@[simp] theorem State.countTime_steady (s : State) (k : Nat)  :
  (State.countTime s k).steady = s.steady := by simp [State.countTime]

@[simp] theorem State.bump_steady (s : State) (k ev n : Nat)  :
  (State.bump s k ev n).steady = s.steady := by simp [State.bump]

@[simp] theorem State.checkFailed_steady (s : State) (f : Nat)  :
  (State.checkFailed s f).2.steady = s.steady := by simp [State.checkFailed]

@[simp] theorem State.retrains_steady (s : State)  :
  (State.retrains s).2.steady = s.steady := by simp [State.retrains]

@[simp] theorem State.recordFaults_steady (s : State) (k : Nat) (fs : List (Nat × Nat))  :
  (State.recordFaults s k fs).steady = s.steady := by
  unfold State.recordFaults; (try dsimp only); (repeat' split) <;> (first | (simp; done) | (simp [*]; done) | (simp_all; done))

@[simp] theorem State.recordFault_steady (s : State) (k code info : Nat)  :
  (State.recordFault s k code info).steady = s.steady := by simp [State.recordFault]

@[simp] theorem State.losePage_steady (s : State) (k : Nat)  :
  (State.losePage s k).steady = s.steady := by simp [State.losePage]

@[simp] theorem State.logRepair_steady (s : State) (code source kind unit : Nat)  :
  (State.logRepair s code source kind unit).steady = s.steady := by simp [State.logRepair]

@[simp] theorem State.recurs_steady (s : State) (key : Nat)  :
  (State.recurs s key).2.steady = s.steady := by simp [State.recurs]

end Sys2Proof.Machine
end

