-- ==== Sys2Proof/Laws/FramePlaces.lean ====
section
/-! SUPPORT. The operations of Places.lean keep the steady part of the state: the queue of waiting commands, the identity
page, the life counter, the tamper count and the security versions. -/

namespace Sys2Proof.Machine

@[simp] theorem State.restFields_steady (s : State)  :
  (State.restFields s).steady = s.steady := by simp [State.restFields]

@[simp] theorem State.loseClusterPage_steady (s : State) (c : Nat)  :
  (State.loseClusterPage s c).steady = s.steady := by simp [State.loseClusterPage]

end Sys2Proof.Machine
end

