-- ==== Sys2Proof/Laws/FrameRecovery.lean ====
section
/-! SUPPORT. The operations of Recovery.lean keep the steady part of the state: the queue of waiting commands, the identity
page, the life counter, the tamper count and the security versions. -/

namespace Sys2Proof.Machine

@[simp] theorem State.vatWrite_steady (s : State) (a : Nat) (bs : List Byte)  :
  (State.vatWrite s a bs).steady = s.steady := by simp [State.vatWrite]

@[simp] theorem State.countLines_steady (s : State) (ev : Nat) (r : Nat × Nat)  :
  (State.countLines s ev r).steady = s.steady := by simp [State.countLines]

@[simp] theorem State.vatStore_steady (s : State) (a : Nat) (bs : List Byte)  :
  (State.vatStore s a bs).steady = s.steady := by simp [State.vatStore]

@[simp] theorem State.endWith_steady (s : State) (status r0 r1 : Nat)  :
  (State.endWith s status r0 r1).steady = s.steady := by
  unfold State.endWith; (try dsimp only); (repeat' split) <;> (first | (simp; done) | (simp [*]; done) | (simp_all; done))

@[simp] theorem State.endCommand_steady (s : State) (status : Nat)  :
  (State.endCommand s status).steady = s.steady := by
  unfold State.endCommand; (try dsimp only); (repeat' split) <;> (first | (simp; done) | (simp [*]; done) | (simp_all; done))

@[simp] theorem State.meetReads_steady (s : State) (slot : Nat) (u : TileUnit) (ext rs : List (Nat × Nat))  :
  (State.meetReads s slot u ext rs).steady = s.steady := by simp [State.meetReads]

@[simp] theorem State.conflicts_steady (s : State) (slot : Nat) (u : TileUnit) (ws : List (Nat × Nat))  :
  (State.conflicts s slot u ws).steady = s.steady := by simp [State.conflicts]

@[simp] theorem State.leave_steady (s : State) (slot : Nat) (o : UnitOp)  :
  (State.leave s slot o).steady = s.steady := by simp [State.leave]

@[simp] theorem State.freeTiles_steady (s : State) (rs : List (Nat × Nat × Nat))  :
  (State.freeTiles s rs).steady = s.steady := by
  unfold State.freeTiles; (try dsimp only)
  apply foldl_steady; intro s a; (try dsimp only); (repeat' split) <;> (first | (simp; done) | (simp [*]; done) | (simp_all; done))

@[simp] theorem State.freeVat_steady (s : State) (rs : List (Nat × Nat))  :
  (State.freeVat s rs).steady = s.steady := by simp [State.freeVat]

@[simp] theorem State.discard_steady (s : State) (prog : Nat)  :
  (State.discard s prog).steady = s.steady := by simp [State.discard]

@[simp] theorem State.stopQueries_steady (s : State)  :
  (State.stopQueries s).steady = s.steady := by simp [State.stopQueries]

@[simp] theorem State.endService_steady (s : State)  :
  (State.endService s).steady = s.steady := by simp [State.endService]

@[simp] theorem State.settleCommand_steady (s : State)  :
  (State.settleCommand s).steady = s.steady := by
  unfold State.settleCommand; (try dsimp only); (repeat' split) <;> (first | (simp; done) | (simp [*]; done) | (simp_all; done))

@[simp] theorem State.endRun_steady (s : State) (code : Nat)  :
  (State.endRun s code).steady = s.steady := by
  unfold State.endRun; (try dsimp only); (repeat' split) <;> (first | (simp; done) | (simp [*]; done) | (simp_all; done))

@[simp] theorem State.queryFault_steady (s : State) (q code : Nat)  :
  (State.queryFault s q code).steady = s.steady := by
  unfold State.queryFault; (try dsimp only); (repeat' split) <;> (first | (simp; done) | (simp [*]; done) | (simp_all; done))

@[simp] theorem State.progFault_steady (s : State) (prog code : Nat)  :
  (State.progFault s prog code).steady = s.steady := by simp [State.progFault]

@[simp] theorem State.restart_steady (s : State) (prog : Nat)  :
  (State.restart s prog).steady = s.steady := by
  unfold State.restart; (try dsimp only); (repeat' split) <;> (first | (simp; done) | (simp [*]; done) | (simp_all; done))

@[simp] theorem State.redoStep_steady (s : State) (code : Nat)  :
  (State.redoStep s code).steady = s.steady := by
  unfold State.redoStep; (try dsimp only); (repeat' split) <;> (first | (simp; done) | (simp [*]; done) | (simp_all; done))

@[simp] theorem State.redoQuery_steady (s : State) (q code : Nat)  :
  (State.redoQuery s q code).steady = s.steady := by
  unfold State.redoQuery; (try dsimp only); (repeat' split) <;> (first | (simp; done) | (simp [*]; done) | (simp_all; done))

@[simp] theorem State.absorb_steady (s : State) (prog code : Nat)  :
  (State.absorb s prog code).steady = s.steady := by simp [State.absorb]

@[simp] theorem State.absorbAll_steady (s : State) (code : Nat)  :
  (State.absorbAll s code).steady = s.steady := by simp [State.absorbAll]

@[simp] theorem State.scheduleOverrun_steady (s : State) (prog page : Nat)  :
  (State.scheduleOverrun s prog page).steady = s.steady := by simp [State.scheduleOverrun]

@[simp] theorem State.placementHole_steady (s : State) (prog : Nat)  :
  (State.placementHole s prog).steady = s.steady := by
  unfold State.placementHole; (try dsimp only); (repeat' split) <;> (first | (simp; done) | (simp [*]; done) | (simp_all; done))

@[simp] theorem State.calUnits_steady (s : State) (p n : Nat)  :
  (State.calUnits s p n).steady = s.steady := by simp [State.calUnits]

@[simp] theorem State.sendAlive_steady (s : State) (p type : Nat) (body : List Byte)  :
  (State.sendAlive s p type body).steady = s.steady := by simp [State.sendAlive]

@[simp] theorem State.sendAliveAll_steady (s : State) (type : Nat) (body : List Byte)  :
  (State.sendAliveAll s type body).steady = s.steady := by simp [State.sendAliveAll]

@[simp] theorem State.portOff_steady (s : State) (p : Nat) (retire : Bool)  :
  (State.portOff s p retire).steady = s.steady := by simp [State.portOff]

@[simp] theorem State.sendLeave_steady (s : State) (reason : Nat)  :
  (State.sendLeave s reason).steady = s.steady := by simp [State.sendLeave]

@[simp] theorem State.setTwin_steady (s : State) (st : Nat)  :
  (State.setTwin s st).steady = s.steady := by simp [State.setTwin]

@[simp] theorem State.leavePair_steady (s : State) (reason : Nat)  :
  (State.leavePair s reason).steady = s.steady := by simp [State.leavePair]

@[simp] theorem State.recordCause_steady (s : State) (r cause : Nat)  :
  (State.recordCause s r cause).steady = s.steady := by simp [State.recordCause]

@[simp] theorem State.restrict_steady (s : State) (cause : Nat)  :
  (State.restrict s cause).steady = s.steady := by simp [State.restrict]

@[simp] theorem State.loseReplica_steady (s : State) (r : Replica)  :
  (State.loseReplica s r).steady = s.steady := by simp [State.loseReplica]

@[simp] theorem State.decided_steady (s : State)  :
  (State.decided s).steady = s.steady := by simp [State.decided]

@[simp] theorem State.vote_steady (s : State) (dissent : Option Replica)  :
  (State.vote s dissent).2.steady = s.steady := by
  unfold State.vote; (try dsimp only); (repeat' split) <;> (first | (simp; done) | (simp [*]; done) | (simp_all; done))

@[simp] theorem State.voteThen_steady (s : State) (dissent : Option Replica) (k : State → State) (hk : ∀ s, (k s).steady = s.steady) :
  (State.voteThen s dissent k).steady = s.steady := by
  unfold State.voteThen; (try dsimp only); (repeat' split) <;> (first | (simp; done) | (simp [*]; done) | (simp_all; done))

@[simp] theorem State.loadRoutine_steady (s : State)  :
  (State.loadRoutine s).steady = s.steady := by simp [State.loadRoutine]

@[simp] theorem State.beginPhase2_steady (s : State)  :
  (State.beginPhase2 s).steady = s.steady := by
  unfold State.beginPhase2; (try dsimp only); (repeat' split) <;> (first | (simp; done) | (simp [*]; done) | (simp_all; done))

@[simp] theorem State.enterPhase2_steady (s : State) (dissent : Option Replica)  :
  (State.enterPhase2 s dissent).steady = s.steady := by
  unfold State.enterPhase2; (try dsimp only); (repeat' split) <;> (first | (simp; done) | (simp [*]; done) | (simp_all; done))

@[simp] theorem State.toSimplex_steady (s : State) (dissent : Option Replica := none)  :
  (State.toSimplex s dissent).steady = s.steady := by simp [State.toSimplex]

@[simp] theorem State.joinFails_steady (s : State) (code info : Nat)  :
  (State.joinFails s code info).steady = s.steady := by
  unfold State.joinFails; (try dsimp only); (repeat' split) <;> (first | (simp; done) | (simp [*]; done) | (simp_all; done))

@[simp] theorem State.endJoin_steady (s : State) (code : Nat)  :
  (State.endJoin s code).steady = s.steady := by
  unfold State.endJoin; (try dsimp only); (repeat' split) <;> (first | (simp; done) | (simp [*]; done) | (simp_all; done))

@[simp] theorem State.partnerLost_steady (s : State) (dissent : Option Replica := none)  :
  (State.partnerLost s dissent).steady = s.steady := by simp [State.partnerLost]

@[simp] theorem State.calDown_steady (s : State) (p : Nat) (retire : Bool) (dissent : Option Replica := none)  :
  (State.calDown s p retire dissent).steady = s.steady := by simp [State.calDown]

@[simp] theorem State.rekey_steady (s : State) (p : Nat)  :
  (State.rekey s p).steady = s.steady := by simp [State.rekey]

@[simp] theorem State.sendSeq_steady (s : State) (type attempt step offset : Nat) (body : List Byte)  :
  (State.sendSeq s type attempt step offset body).steady = s.steady := by
  unfold State.sendSeq; (try dsimp only); (repeat' split) <;> (first | (simp; done) | (simp [*]; done) | (simp_all; done))

@[simp] theorem State.retireVatPort_steady (s : State) (v : Nat)  :
  (State.retireVatPort s v).steady = s.steady := by simp [State.retireVatPort]

@[simp] theorem State.dropLease_steady (s : State) (p : HPort)  :
  (State.dropLease s p).steady = s.steady := by simp [State.dropLease]

@[simp] theorem State.loseSite_steady (s : State) (f : Nat) (link : Bool)  :
  (State.loseSite s f link).steady = s.steady := by
  unfold State.loseSite; (try dsimp only); (repeat' split) <;> (first | (simp; done) | (simp [*]; done) | (simp_all; done))

@[simp] theorem State.siteEffects_steady (s : State) (f : Nat)  :
  (State.siteEffects s f).steady = s.steady := by simp [State.siteEffects]

@[simp] theorem State.segmentEffects_steady (s : State) (fc y : Nat)  :
  (State.segmentEffects s fc y).steady = s.steady := by simp [State.segmentEffects]

@[simp] theorem State.loseCluster_steady (s : State) (c : Nat)  :
  (State.loseCluster s c).steady = s.steady := by simp [State.loseCluster]

@[simp] theorem State.isolate_steady (n : Nat) (l : List Nat) (s : State) : (State.isolate n l s).steady = s.steady := by
  induction n generalizing l s with
  | zero => rfl
  | succ n ih =>
    cases l with
    | nil => rfl
    | cons c r => rw [State.isolate]; split <;> (rw [ih]; try simp)

@[simp] theorem State.retireCluster_steady (s : State) (c : Nat)  :
  (State.retireCluster s c).steady = s.steady := by simp [State.retireCluster]

@[simp] theorem State.retireSlot_steady (s : State) (p : Nat)  :
  (State.retireSlot s p).steady = s.steady := by simp [State.retireSlot]

@[simp] theorem State.linkFault_steady (s : State) (l code : Nat)  :
  (State.linkFault s l code).steady = s.steady := by simp [State.linkFault]

@[simp] theorem State.retireLink_steady (s : State) (l : Nat)  :
  (State.retireLink s l).steady = s.steady := by simp [State.retireLink]

@[simp] theorem State.loseField_steady (s : State) (f cause : Nat)  :
  (State.loseField s f cause).steady = s.steady := by simp [State.loseField]

@[simp] theorem State.sramUe_steady (s : State) (e : Env) (w : Nat)  :
  (State.sramUe s e w).steady = s.steady := by simp [State.sramUe]

@[simp] theorem State.vatUe_steady (s : State) (w : Nat)  :
  (State.vatUe s w).steady = s.steady := by
  unfold State.vatUe; (try dsimp only); (repeat' split) <;> (first | (simp; done) | (simp [*]; done) | (simp_all; done))

@[simp] theorem State.recordTile_steady (s : State) (e : Env) (f : TFault)  :
  (State.recordTile s e f).steady = s.steady := by simp [State.recordTile]

@[simp] theorem State.tileFault_steady (s : State) (e : Env) (f : TFault)  :
  (State.tileFault s e f).steady = s.steady := by simp [State.tileFault]

end Sys2Proof.Machine
end

