-- ==== Sys2Proof/Laws/FrameSequencer.lean ====
section
/-! SUPPORT. The operations of Sequencer.lean keep the steady part of the state: the queue of waiting commands, the identity
page, the life counter, the tamper count and the security versions. -/

namespace Sys2Proof.Machine

@[simp] theorem State.tileReads_steady (s : State) (slot : Nat) (rs : List (Nat × Nat))  :
  (State.tileReads s slot rs).steady = s.steady := by simp [State.tileReads]

@[simp] theorem State.invalid_steady (s : State) (e : Env) (unit : Nat)  :
  (State.invalid s e unit).steady = s.steady := by simp [State.invalid]

@[simp] theorem State.range_steady (s : State) (e : Env) (unit : Nat)  :
  (State.range s e unit).steady = s.steady := by simp [State.range]

@[simp] theorem State.tagWord_steady (s : State) (e : Env)  :
  (State.tagWord s e).steady = s.steady := by simp [State.tagWord]

@[simp] theorem State.issue_steady (s : State) (e : Env) (x : CtxState)  :
  (State.issue s e x).steady = s.steady := by simp [State.issue]

@[simp] theorem doNop_steady (e : Env) (s : State)  :
  (doNop e s).steady = s.steady := by simp [doNop]

@[simp] theorem doSeti_steady (e : Env) (s : State)  :
  (doSeti e s).steady = s.steady := by simp [doSeti]

@[simp] theorem doAddi_steady (e : Env) (s : State)  :
  (doAddi e s).steady = s.steady := by simp [doAddi]

@[simp] theorem doLoop_steady (e : Env) (s : State)  :
  (doLoop e s).steady = s.steady := by simp [doLoop]

@[simp] theorem doTickWait_steady (e : Env) (s : State)  :
  (doTickWait e s).steady = s.steady := by simp [doTickWait]

@[simp] theorem doStepEnd_steady (e : Env) (s : State)  :
  (doStepEnd e s).steady = s.steady := by simp [doStepEnd]

@[simp] theorem doCtrSet_steady (same : Nat) (e : Env) (s : State)  :
  (doCtrSet same e s).steady = s.steady := by simp [doCtrSet]

@[simp] theorem doCtrWait_steady (e : Env) (s : State)  :
  (doCtrWait e s).steady = s.steady := by simp [doCtrWait]

@[simp] theorem State.noteSat_steady (s : State) (slot : Nat) (c : Ctx) (sat : Bool)  :
  (State.noteSat s slot c sat).steady = s.steady := by simp [State.noteSat]

@[simp] theorem State.perform_steady {α : Type} (s : State) (e : Env) (x : Except TFault α) (k : α → State) (hk : ∀ a0, (k a0).steady = s.steady) :
  (State.perform s e x k).steady = s.steady := by
  unfold State.perform; (try dsimp only); (repeat' split) <;> (first | (simp; done) | (simp [*]; done) | (simp_all; done))

end Sys2Proof.Machine
end

