-- ==== Sys2Proof/Laws/FrameRequests.lean ====
section
/-! SUPPORT. The operations of Requests.lean keep the steady part of the state: the queue of waiting commands, the identity
page, the life counter, the tamper count and the security versions. -/

namespace Sys2Proof.Machine

@[simp] theorem State.flitReads_steady (s : State) (es : List FlitErr)  :
  (State.flitReads s es).steady = s.steady := by simp [State.flitReads]

@[simp] theorem State.enqueueLine_steady (s : State) (r : LineReq)  :
  (State.enqueueLine s r).steady = s.steady := by simp [State.enqueueLine]

@[simp] theorem State.sendReq_steady (s : State) (slot : Nat) (n0 : UnitReq) :
  (State.sendReq s slot n0).steady = s.steady := by
  unfold State.sendReq; (try dsimp only); (repeat' split) <;> (first | (simp; done) | (simp [*]; done) | (simp_all; done))

@[simp] theorem State.pump_steady (slot id n : Nat) (s : State) : (State.pump slot id n s).steady = s.steady := by
  induction n generalizing s with
  | zero => rfl
  | succ n ih => rw [State.pump]; (repeat' split) <;> (first | rfl | (rw [ih]; simp))

@[simp] theorem State.request_steady (s : State) (slot id : Nat) (qs : List UnitReq)  :
  (State.request s slot id qs).steady = s.steady := by simp [State.request]

@[simp] theorem State.answered_steady (s : State) (slot id : Nat)  :
  (State.answered s slot id).steady = s.steady := by simp [State.answered]

end Sys2Proof.Machine
end

