-- ==== Sys2Proof/Laws/FrameCopyEngine.lean ====
section
/-! SUPPORT. The operations of CopyEngine.lean keep the steady part of the state: the queue of waiting commands, the identity
page, the life counter, the tamper count and the security versions. -/

namespace Sys2Proof.Machine

@[simp] theorem State.moved_steady (s : State) (e : Env) (j : CopyJob) (ms : List Move)  :
  (State.moved s e j ms).steady = s.steady := by simp [State.moved]

@[simp] theorem State.tileMoves_steady (s : State) (e : Env) (j : CopyJob) (ms : List Move) (rd : List (Nat × Nat)) (k : Tile → Tile × Bool)  :
  (State.tileMoves s e j ms rd k).steady = s.steady := by simp [State.tileMoves]

@[simp] theorem State.copyStart_steady (s : State) (e : Env) (id : Nat) (j : CopyJob)  :
  (State.copyStart s e id j).steady = s.steady := by
  unfold State.copyStart; (try dsimp only)
  (repeat' split) <;> (first | (simp; done) | (rw [foldl_steady _ (by intro s a; (try dsimp only); (repeat' split) <;> (first | (simp; done) | (simp [*]; done) | (simp_all; done)))]; first | done | (simp; done) | (simp [*]; done) | (simp_all; done)))

@[simp] theorem doCopy_steady (b : Issue) (e : Env) (s : State)  :
  (doCopy b e s).steady = s.steady := by
  unfold doCopy; (try dsimp only); (repeat' split) <;> (first | (simp; done) | (simp [*]; done) | (simp_all; done))

@[simp] theorem copyRow_steady (op : Nat) (b : Issue) (e : Env) (s : State)  :
  (copyRow op b e s).steady = s.steady := by simp [copyRow]

@[simp] theorem State.copyNext_steady (s : State) (t : Nat)  :
  (State.copyNext s t).steady = s.steady := by
  unfold State.copyNext; (try dsimp only)
  (repeat' (first | split | refine (State.perform_steady _ _ _ _ (fun _ => ?_)).trans ?_ | refine (foldl_steady _ (fun _ _ => ?_) _ _).trans ?_)) <;> (first | (simp; done) | (simp [*]; done) | (simp_all; done))

end Sys2Proof.Machine
end

