-- ==== Sys2Proof/Laws/FrameVatPort.lean ====
section
/-! SUPPORT. The operations of VatPort.lean keep the steady part of the state: the queue of waiting commands, the identity
page, the life counter, the tamper count and the security versions. -/

namespace Sys2Proof.Machine

@[simp] theorem State.vatReads_steady (s : State) (rs : List (Nat × Nat))  :
  (State.vatReads s rs).steady = s.steady := by simp [State.vatReads]

@[simp] theorem State.vatRetry_steady (s : State) (rs : List (Nat × Nat))  :
  (State.vatRetry s rs).steady = s.steady := by
  unfold State.vatRetry; (try dsimp only)
  apply foldl_steady; intro s a; (try dsimp only); (repeat' split) <;> (first | (simp; done) | (simp [*]; done) | (simp_all; done))

@[simp] theorem State.vatAccess_steady (s : State) (rs : List (Nat × Nat)) (k : State → State) (hk : ∀ s, (k s).steady = s.steady) :
  (State.vatAccess s rs k).steady = s.steady := by
  unfold State.vatAccess; (try dsimp only); (repeat' split) <;> (first | (simp; done) | (simp [*]; done) | (simp_all; done))

@[simp] theorem State.vatLines_steady (s : State) (rs : List (Nat × Nat)) (k : State → State) (hk : ∀ s, (k s).steady = s.steady) :
  (State.vatLines s rs k).steady = s.steady := by
  unfold State.vatLines; (try dsimp only); (repeat' split) <;> (first | (simp; done) | (simp [*]; done) | (simp_all; done))

@[simp] theorem State.lineWrite_steady (s : State) (line : Nat) (pieces : List (Nat × List Byte)) (ph1 : Bool)  :
  (State.lineWrite s line pieces ph1).steady = s.steady := by
  unfold State.lineWrite; (try dsimp only); (repeat' split) <;> (first | (simp; done) | (simp [*]; done) | (simp_all; done))

@[simp] theorem State.portWriteThen_steady (s : State) (line : Nat) (pieces : List (Nat × List Byte)) (ph1 : Bool) (k : State → State) (hk : ∀ s, (k s).steady = s.steady) :
  (State.portWriteThen s line pieces ph1 k).steady = s.steady := by
  unfold State.portWriteThen; (try dsimp only); (repeat' split) <;> (first | (simp; done) | (simp [*]; done) | (simp_all; done))

@[simp] theorem State.portWrite_steady (s : State) (line : Nat) (pieces : List (Nat × List Byte)) (ph1 : Bool)  :
  (State.portWrite s line pieces ph1).steady = s.steady := by
  unfold State.portWrite; (try dsimp only); (repeat' split) <;> (first | (simp; done) | (simp [*]; done) | (simp_all; done))

@[simp] theorem State.portWritesThen_steady (s : State) (a : Nat) (bs : List Byte) (ph1 : Bool) (k : State → State)
    (hk : ∀ s, (k s).steady = s.steady) : (s.portWritesThen a bs ph1 k).steady = s.steady := by
  unfold State.portWritesThen
  generalize lineParts a bs = l
  induction l generalizing s with
  | nil => exact hk s
  | cons p l ih => exact State.portWriteThen_steady s p.1 [p.2] ph1 _ (fun s => ih s)

@[simp] theorem State.portWrites_steady (s : State) (a : Nat) (bs : List Byte) (ph1 : Bool)  :
  (State.portWrites s a bs ph1).steady = s.steady := by simp [State.portWrites]

end Sys2Proof.Machine
end

