-- ==== Sys2Proof/Laws/FrameSchedule.lean ====
section
/-! SUPPORT. The operations of Schedule.lean keep the steady part of the state: the queue of waiting commands, the identity
page, the life counter, the tamper count and the security versions. -/

namespace Sys2Proof.Machine

@[simp] theorem State.applyClasses_steady (s : State)  :
  (State.applyClasses s).steady = s.steady := by simp [State.applyClasses]

@[simp] theorem State.sampleHolds_steady (s : State)  :
  (State.sampleHolds s).steady = s.steady := by simp [State.sampleHolds]

@[simp] theorem State.boundary_steady (s : State)  :
  (State.boundary s).steady = s.steady := by simp [State.boundary]

@[simp] theorem State.modTiles_steady (s : State) (i : Nat) (f : Nat → Nat → Tile → Tile)  :
  (State.modTiles s i f).steady = s.steady := by
  unfold State.modTiles; (try dsimp only)
  apply foldl_steady; intro s a; (try dsimp only); (repeat' split) <;> (first | (simp; done) | (simp [*]; done) | (simp_all; done))

@[simp] theorem State.startAttempt_steady (s : State) (i : Nat)  :
  (State.startAttempt s i).steady = s.steady := by simp [State.startAttempt]

@[simp] theorem State.rebuild_steady (s : State) (i : Nat) (p : Nat → Bool) : (s.rebuild i p).steady = s.steady := by
  unfold State.rebuild
  split
  · rfl
  · apply foldl_steady; intro s q
    apply foldl_steady; intro s t
    split <;> simp

@[simp] theorem State.prepare_steady (s : State) (new : Retire) (i : Nat)  :
  (State.prepare s new i).steady = s.steady := by
  unfold State.prepare; (try dsimp only); (repeat' split) <;> (first | (simp; done) | (simp [*]; done) | (simp_all; done))

@[simp] theorem State.bindTrees_steady (s : State)  :
  (State.bindTrees s).steady = s.steady := by simp [State.bindTrees]

@[simp] theorem State.bound_steady (s : State)  :
  (State.bound s).steady = s.steady := by simp [State.bound]

@[simp] theorem State.failCommand_steady (s : State) (code : Nat)  :
  (State.failCommand s code).steady = s.steady := by
  unfold State.failCommand; (try dsimp only); (repeat' split) <;> (first | (simp; done) | (simp [*]; done) | (simp_all; done))

@[simp] theorem State.applyBind_steady (s : State) (slot x y : Nat)  :
  (State.applyBind s slot x y).steady = s.steady := by
  unfold State.applyBind; (try dsimp only); (repeat' split) <;> (first | (simp; done) | (simp [*]; done) | (simp_all; done))

@[simp] theorem State.applyUnbind_steady (s : State) (slot : Nat)  :
  (State.applyUnbind s slot).steady = s.steady := by
  unfold State.applyUnbind; (try dsimp only); (repeat' split) <;> (first | (simp; done) | (simp [*]; done) | (simp_all; done))

@[simp] theorem State.applyReq_steady (s : State)  :
  (State.applyReq s).steady = s.steady := by
  unfold State.applyReq; (try dsimp only); (repeat' split) <;> (first | (simp; done) | (simp [*]; done) | (simp_all; done))

end Sys2Proof.Machine
end

