-- ==== Sys2Proof/Laws/FrameVector.lean ====
section
/-! SUPPORT. The operations of Vector.lean keep the steady part of the state: the queue of waiting commands, the identity
page, the life counter, the tamper count and the security versions. -/

namespace Sys2Proof.Machine

@[simp] theorem State.vapply_steady (s : State) (e : Env) (x : VArgs) (o : VOut)  :
  (State.vapply s e x o).steady = s.steady := by simp [State.vapply]

@[simp] theorem State.vcount_steady (s : State) (e : Env) (j : VJob)  :
  (State.vcount s e j).steady = s.steady := by simp [State.vcount]

@[simp] theorem State.passLine_steady (s : State) (q : UnitReq)  :
  (State.passLine s q).steady = s.steady := by
  unfold State.passLine; (try dsimp only); (repeat' split) <;> (first | (simp; done) | (simp [*]; done) | (simp_all; done))

@[simp] theorem State.vperform_steady (s : State) (e : Env) (x : VArgs) (id : Nat) (o : VOut) (f : Option TFault)  :
  (State.vperform s e x id o f).steady = s.steady := by
  unfold State.vperform; (try dsimp only)
  (repeat' split) <;> (first | (simp; done) | (rw [foldl_steady _ (by intro s a; (try dsimp only); (repeat' split) <;> (first | (simp; done) | (simp [*]; done) | (simp_all; done)))]; first | done | (simp; done) | (simp [*]; done) | (simp_all; done)))

@[simp] theorem State.served__steady (s : State) (got : List (Nat × List Byte))  :
  (State.served_ s got).steady = s.steady := by simp [State.served_]

@[simp] theorem State.vrun_steady (s : State) (e : Env) (x : VArgs) (o : UnitOp) (j : VJob)  :
  (State.vrun s e x o j).steady = s.steady := by
  unfold State.vrun; (try dsimp only); (repeat' split) <;> (first | (simp; done) | (simp [*]; done) | (simp_all; done))

@[simp] theorem State.vqueue_steady (s : State) (e : Env) (u : UnitOp)  :
  (State.vqueue s e u).steady = s.steady := by simp [State.vqueue]

@[simp] theorem State.vissue_steady (s : State) (e : Env) (b : Issue) (x : VArgs) (j : VJob)  :
  (State.vissue s e b x j).steady = s.steady := by
  unfold State.vissue; (try dsimp only); (repeat' split) <;> (first | (simp; done) | (simp [*]; done) | (simp_all; done))

@[simp] theorem vecDo_steady (chk : State → Env → VArgs → Except TFault VJob) (b : Issue) (e : Env) (s : State)  :
  (vecDo chk b e s).steady = s.steady := by simp [vecDo]

@[simp] theorem vecSub_steady (sub n : Nat) (k : Issue → Env → State → State) (b : Issue) (e : Env) (s : State) (hk : ∀ a0 a1 s, (k a0 a1 s).steady = s.steady) :
  (vecSub sub n k b e s).steady = s.steady := by
  unfold vecSub; (try dsimp only); (repeat' split) <;> (first | (simp; done) | (simp [*]; done) | (simp_all; done))

@[simp] theorem censusDo_steady (b : Issue) (e : Env) (s : State)  :
  (censusDo b e s).steady = s.steady := by simp [censusDo]

@[simp] theorem State.vready_steady (s : State) (v : Env) (o : UnitOp)  :
  (State.vready s v o).steady = s.steady := by simp [State.vready]

@[simp] theorem State.vnext_steady (s : State) (v : Env)  :
  (State.vnext s v).steady = s.steady := by
  unfold State.vnext; (try dsimp only); (repeat' split) <;> (first | (simp; done) | (simp [*]; done) | (simp_all; done))

@[simp] theorem State.vserved_steady (s : State) (v : Env) (id : Nat)  :
  (State.vserved s v id).steady = s.steady := by
  unfold State.vserved; (try dsimp only); (repeat' split) <;> (first | (simp; done) | (simp [*]; done) | (simp_all; done))

end Sys2Proof.Machine
end

