-- ==== Sys2Proof/Laws/FrameVats.lean ====
section
/-! SUPPORT. The operations of Vats.lean keep the steady part of the state: the queue of waiting commands, the identity
page, the life counter, the tamper count and the security versions. -/

namespace Sys2Proof.Machine

@[simp] theorem State.layerNow_steady (s : State) (i : Image) (k : Nat) (go : List Byte → State → State) (hgo : ∀ a0 s, (go a0 s).steady = s.steady) :
  (State.layerNow s i k go).steady = s.steady := by
  unfold State.layerNow; (try dsimp only); (repeat' split) <;> (first | (simp; done) | (simp [*]; done) | (simp_all; done))

@[simp] theorem State.incCounter_steady (s : State) (slot ctr n : Nat)  :
  (State.incCounter s slot ctr n).steady = s.steady := by simp [State.incCounter]

@[simp] theorem State.castBytes_steady (s : State) (slots : List Nat) (a : Nat) (bs : List Byte)  :
  (State.castBytes s slots a bs).steady = s.steady := by simp [State.castBytes]

@[simp] theorem State.castDone_steady (s : State) (a : Asker) (slots : List Nat) (ctr : Nat)  :
  (State.castDone s a slots ctr).steady = s.steady := by simp [State.castDone]

@[simp] theorem State.modInput_steady (s : State) (slot j : Nat) (f : Input → Input)  :
  (State.modInput s slot j f).steady = s.steady := by simp [State.modInput]

@[simp] theorem State.inputFault_steady (s : State) (p : HPort) (slot ring code : Nat)  :
  (State.inputFault s p slot ring code).steady = s.steady := by simp [State.inputFault]

@[simp] theorem State.inputLanded_steady (s : State) (p : HPort) (slot j : Nat)  :
  (State.inputLanded s p slot j).steady = s.steady := by
  unfold State.inputLanded; (try dsimp only); (repeat' split) <;> (first | (simp; done) | (simp [*]; done) | (simp_all; done))

@[simp] theorem State.inputLine_steady (s : State) (slot j : Nat)  :
  (State.inputLine s slot j).steady = s.steady := by
  unfold State.inputLine; (try dsimp only); (repeat' split) <;> (first | (simp; done) | (simp [*]; done) | (simp_all; done))

@[simp] theorem State.lineDone_steady (s : State) (t id : Nat)  :
  (State.lineDone s t id).steady = s.steady := by
  unfold State.lineDone; (try dsimp only); (repeat' split) <;> (first | (simp; done) | (simp [*]; done) | (simp_all; done))

@[simp] theorem State.lineRead_steady (s : State) (r : LineReq)  :
  (State.lineRead s r).steady = s.steady := by
  unfold State.lineRead; (try dsimp only); (repeat' split) <;> (first | (simp; done) | (simp [*]; done) | (simp_all; done))

@[simp] theorem State.serveLine_steady (s : State) (r : LineReq)  :
  (State.serveLine s r).steady = s.steady := by
  unfold State.serveLine; (try dsimp only); (repeat' split) <;> (first | (simp; done) | (simp [*]; done) | (simp_all; done))

@[simp] theorem State.vatLinkFault_steady (s : State) (p : Nat)  :
  (State.vatLinkFault s p).steady = s.steady := by simp [State.vatLinkFault]

@[simp] theorem State.takeLine_steady (s : State) (p v : Nat)  :
  (State.takeLine s p v).steady = s.steady := by
  unfold State.takeLine; (try dsimp only); (repeat' split) <;> (first | (simp; done) | (simp [*]; done) | (simp_all; done))

end Sys2Proof.Machine
end

