-- ==== Sys2Proof/Laws/FrameSealed.lean ====
section
/-! SUPPORT. The operations of Sealed.lean keep the steady part of the state: the queue of waiting commands, the identity
page, the life counter, the tamper count and the security versions. -/

namespace Sys2Proof.Machine

@[simp] theorem State.hostPut_steady (s : State) (p : HPort) (a : Nat) (bs : List Byte)  :
  (State.hostPut s p a bs).steady = s.steady := by simp [State.hostPut]

@[simp] theorem State.dmaRecord_steady (s : State) (p : HPort) (a : Nat) (rec : List Byte)  :
  (State.dmaRecord s p a rec).steady = s.steady := by simp [State.dmaRecord]

@[simp] theorem State.hostLinkFault_steady (s : State) (p : HPort)  :
  (State.hostLinkFault s p).steady = s.steady := by simp [State.hostLinkFault]

@[simp] theorem State.dmaFailed_steady (s : State) (p : HPort)  :
  (State.dmaFailed s p).steady = s.steady := by simp [State.dmaFailed]

@[simp] theorem State.dmaTook_steady (s : State) (p : HPort) (n : Nat)  :
  (State.dmaTook s p n).steady = s.steady := by simp [State.dmaTook]

@[simp] theorem State.entropy_steady (s : State) (n : Nat)  :
  (State.entropy s n).2.steady = s.steady := by simp [State.entropy]

@[simp] theorem State.sendObject_steady (s : State) (p : HPort) (kek : List Byte) (kind slot rseq addr : Nat) (pt : List Byte)  :
  (State.sendObject s p kek kind slot rseq addr pt).steady = s.steady := by simp [State.sendObject]

end Sys2Proof.Machine
end

