-- ==== Sys2Proof/Laws/FramePair.lean ====
section
/-! SUPPORT. The operations of Pair.lean keep the steady part of the state: the queue of waiting commands, the identity
page, the life counter, the tamper count and the security versions. -/

namespace Sys2Proof.Machine

@[simp] theorem State.redoSealed_steady (s : State)  :
  (State.redoSealed s).steady = s.steady := by
  unfold State.redoSealed; (try dsimp only); (repeat' split) <;> (first | (simp; done) | (simp [*]; done) | (simp_all; done))

@[simp] theorem State.mismatch_steady (s : State)  :
  (State.mismatch s).steady = s.steady := by simp [State.mismatch]

@[simp] theorem State.diverge_steady (s : State)  :
  (State.diverge s).steady = s.steady := by
  unfold State.diverge; (try dsimp only); (repeat' split) <;> (first | (simp; done) | (simp [*]; done) | (simp_all; done))

@[simp] theorem State.probeOutcome_steady (s : State) (own : List Byte)  :
  (State.probeOutcome s own).steady = s.steady := by
  unfold State.probeOutcome; (try dsimp only)
  (repeat' (first | split | refine (State.perform_steady _ _ _ _ (fun _ => ?_)).trans ?_ | refine (foldl_steady _ (fun _ _ => ?_) _ _).trans ?_)) <;> (first | (simp; done) | (simp [*]; done) | (simp_all; done))

@[simp] theorem State.sendDigests_steady (s : State) (x : SealedStep)  :
  (State.sendDigests s x).steady = s.steady := by simp [State.sendDigests]

@[simp] theorem State.chooseSuspect_steady (s : State)  :
  (State.chooseSuspect s).steady = s.steady := by
  unfold State.chooseSuspect; (try dsimp only); (repeat' split) <;> (first | (simp; done) | (simp [*]; done) | (simp_all; done))

@[simp] theorem State.compare_steady (s : State) (dissent : Option Replica)  :
  (State.compare s dissent).steady = s.steady := by
  unfold State.compare; (try dsimp only); (repeat' split) <;> (first | (simp; done) | (simp [*]; done) | (simp_all; done))

@[simp] theorem State.afterSeal_steady (s : State) (x : SealedStep)  :
  (State.afterSeal s x).steady = s.steady := by simp [State.afterSeal]

@[simp] theorem State.modJoin_steady (s : State) (f : JoinState → JoinState)  :
  (State.modJoin s f).steady = s.steady := by simp [State.modJoin]

@[simp] theorem State.sendRegion_steady (s : State) (r : Nat)  :
  (State.sendRegion s r).steady = s.steady := by simp [State.sendRegion]

@[simp] theorem State.sendRegions_steady (s : State)  :
  (State.sendRegions s).steady = s.steady := by simp [State.sendRegions]

@[simp] theorem State.copyRound_steady (s : State)  :
  (State.copyRound s).steady = s.steady := by
  unfold State.copyRound; (try dsimp only); (repeat' split) <;> (first | (simp; done) | (simp [*]; done) | (simp_all; done))

@[simp] theorem State.sendStepLog_steady (s : State) (i : Image) (x : SealedStep)  :
  (State.sendStepLog s i x).steady = s.steady := by simp [State.sendStepLog]

@[simp] theorem State.endCopy_steady (s : State) (x : SealedStep)  :
  (State.endCopy s x).steady = s.steady := by
  unfold State.endCopy; (try dsimp only); (repeat' split) <;> (first | (simp; done) | (simp [*]; done) | (simp_all; done))

@[simp] theorem State.copyCommit_steady (s : State) (i : Image) (x : SealedStep)  :
  (State.copyCommit s i x).steady = s.steady := by
  unfold State.copyCommit; (try dsimp only)
  (repeat' split) <;> (first | (simp; done) | (rw [foldl_steady _ (by intro s a; (try dsimp only); (repeat' split) <;> (first | (simp; done) | (simp [*]; done) | (simp_all; done)))]; first | done | (simp; done) | (simp [*]; done) | (simp_all; done)))

@[simp] theorem State.phase2Write_steady (s : State) (a : Nat) (bs : List Byte)  :
  (State.phase2Write s a bs).steady = s.steady := by simp [State.phase2Write]

end Sys2Proof.Machine
end

