-- ==== Sys2Proof/Laws/FramePhase2.lean ====
section
/-! SUPPORT. The operations of Phase2.lean keep the steady part of the state: the queue of waiting commands, the identity
page, the life counter, the tamper count and the security versions. -/

namespace Sys2Proof.Machine

@[simp] theorem State.phase2Read_steady (s : State) (rs : List (Nat × Nat)) (k : State → State) (hk : ∀ s, (k s).steady = s.steady) :
  (State.phase2Read s rs k).steady = s.steady := by
  unfold State.phase2Read; (try dsimp only); (repeat' split) <;> (first | (simp; done) | (simp [*]; done) | (simp_all; done))

@[simp] theorem State.chunkCensus_steady (s : State) (g : Nat) (o : ChunkOut)  :
  (State.chunkCensus s g o).steady = s.steady := by simp [State.chunkCensus]

@[simp] theorem State.takeSlot_steady (s : State) (i : Image) (n : Nat)  :
  (State.takeSlot s i n).2.steady = s.steady := by simp [State.takeSlot]

@[simp] theorem State.chunkComplete_steady (s : State) (i : Image) (n g slot : Nat)  :
  (State.chunkComplete s i n g slot).steady = s.steady := by simp [State.chunkComplete]

@[simp] theorem State.putPieces_steady (s : State) (at_ : Nat → Option Nat) (ps : List (Nat × List Byte))  :
  (State.putPieces s at_ ps).steady = s.steady := by
  unfold State.putPieces; (try dsimp only)
  apply foldl_steady; intro s a; (try dsimp only); (repeat' split) <;> (first | (simp; done) | (simp [*]; done) | (simp_all; done))

@[simp] theorem State.chunkWords_steady (s : State) (n : Nat) (q : Nat × Nat × Nat)  :
  (State.chunkWords s n q).steady = s.steady := by simp [State.chunkWords]

@[simp] theorem State.chunkIssues_steady (s : State) (g n : Nat)  :
  (State.chunkIssues s g n).steady = s.steady := by simp [State.chunkIssues]

@[simp] theorem State.doChunk_steady (s : State) (i : Image) (x : SealedStep) (g : Nat)  :
  (State.doChunk s i x g).steady = s.steady := by
  unfold State.doChunk; (try dsimp only); (repeat' split) <;> (first | (simp; done) | (simp [*]; done) | (simp_all; done))

@[simp] theorem State.committed_steady (s : State) (x : SealedStep) (i : Image)  :
  (State.committed s x i).steady = s.steady := by simp [State.committed]

@[simp] theorem State.commitTail_steady (s : State) (i : Image) (x : SealedStep)  :
  (State.commitTail s i x).steady = s.steady := by simp [State.commitTail]

@[simp] theorem State.commitStep_steady (s : State) (i : Image) (x : SealedStep)  :
  (State.commitStep s i x).steady = s.steady := by simp [State.commitStep]

@[simp] theorem State.replaySlot_steady (s : State) (i : Image) (n slot : Nat)  :
  (State.replaySlot s i n slot).steady = s.steady := by
  unfold State.replaySlot; (try dsimp only); (repeat' split) <;> (first | (simp; done) | (simp [*]; done) | (simp_all; done))

@[simp] theorem State.rollForward_steady (s : State) (dissent : Option Replica) : (s.rollForward dissent).steady = s.steady := by
  unfold State.rollForward
  split
  · rfl
  · apply State.phase2Read_steady
    intro s
    dsimp only
    (repeat' split) <;> (first | (simp; done) | skip)
    all_goals
      first
      | (rw [foldl_steady _ (by intro s a; split <;> simp), foldl_steady _ (by intro s a; simp)])
      | (rw [State.voteThen_steady _ _ _ (fun _ => by simp), foldl_steady _ (by intro s a; split <;> simp),
          foldl_steady _ (by intro s a; simp)])

end Sys2Proof.Machine
end

