-- ==== Sys2Proof/Laws/FrameTicks.lean ====
section
/-! SUPPORT. The operations of Ticks.lean keep the steady part of the state: the queue of waiting commands, the identity
page, the life counter, the tamper count and the security versions. -/

namespace Sys2Proof.Machine

@[simp] theorem State.countTick_steady (s : State) (i : Nat)  :
  (State.countTick s i).steady = s.steady := by simp [State.countTick]

@[simp] theorem State.markOverrun_steady (s : State) (i : Nat)  :
  (State.markOverrun s i).steady = s.steady := by simp [State.markOverrun]

@[simp] theorem State.overrun_steady (s : State) (i c tn : Nat)  :
  (State.overrun s i c tn).steady = s.steady := by
  unfold State.overrun; (try dsimp only); (repeat' split) <;> (first | (simp; done) | (simp [*]; done) | (simp_all; done))

@[simp] theorem State.deliverC1_steady (s : State) (l c : Nat)  :
  (State.deliverC1 s l c).steady = s.steady := by
  unfold State.deliverC1; (try dsimp only); (repeat' split) <;> (first | (simp; done) | (simp [*]; done) | (simp_all; done))

@[simp] theorem State.deliver_steady (s : State) (i l c : Nat) (first last : Bool)  :
  (State.deliver s i l c first last).steady = s.steady := by
  unfold State.deliver; (try dsimp only); (repeat' split) <;> (first | (simp; done) | (simp [*]; done) | (simp_all; done))

@[simp] theorem State.giveUp_steady (s : State) (l : Nat)  :
  (State.giveUp s l).steady = s.steady := by simp [State.giveUp]

@[simp] theorem State.resend_steady (s : State) (r : Replay)  :
  (State.resend s r).steady = s.steady := by simp [State.resend]

end Sys2Proof.Machine
end

