-- ==== Sys2Proof/Laws/FrameSteps.lean ====
section
/-! SUPPORT. The operations of Steps.lean keep the steady part of the state: the queue of waiting commands, the identity
page, the life counter, the tamper count and the security versions. -/

namespace Sys2Proof.Machine

@[simp] theorem State.beginAttempt_steady (s : State) (r : Running) (i : Image) (n att : Nat)  :
  (State.beginAttempt s r i n att).steady = s.steady := by simp [State.beginAttempt]

@[simp] theorem State.freshStep_steady (s : State) (r : Running) (i : Image) (dissent : Option Replica)  :
  (State.freshStep s r i dissent).steady = s.steady := by simp [State.freshStep]

@[simp] theorem State.placeInput_steady (s : State) (p : HPort) (prog j : Nat) (m tag pt : List Byte) (good : Bool)  :
  (State.placeInput s p prog j m tag pt good).steady = s.steady := by
  unfold State.placeInput; (try dsimp only)
  (repeat' split) <;> (first | (simp; done) | (rw [foldl_steady _ (by intro s a; (try dsimp only); (repeat' split) <;> (first | (simp; done) | (simp [*]; done) | (simp_all; done)))]; first | done | (simp; done) | (simp [*]; done) | (simp_all; done)))

@[simp] theorem State.takeInput_steady (s : State) (p : HPort) (slot j : Nat) (x : Input)  :
  (State.takeInput s p slot j x).steady = s.steady := by
  unfold State.takeInput; (try dsimp only)
  (repeat' split) <;> (first | (simp; done) | (rw [foldl_steady _ (by intro s a; (try dsimp only); (repeat' split) <;> (first | (simp; done) | (simp [*]; done) | (simp_all; done)))]; first | done | (simp; done) | (simp [*]; done) | (simp_all; done)))

@[simp] theorem State.noteStarted_steady (s : State) (prog k : Nat) (view : Bool)  :
  (State.noteStarted s prog k view).steady = s.steady := by simp [State.noteStarted]

@[simp] theorem State.queueStream_steady (s : State) (a : Asker) (ph1 : Bool) (lines : List Nat)  :
  (State.queueStream s a ph1 lines).steady = s.steady := by
  unfold State.queueStream; (try dsimp only)
  apply foldl_steady; intro s a; (try dsimp only); (repeat' split) <;> (first | (simp; done) | (simp [*]; done) | (simp_all; done))

@[simp] theorem State.sealStep_steady (s : State) (i : Image) (a : Phase1)  :
  (State.sealStep s i a).steady = s.steady := by simp [State.sealStep]

@[simp] theorem State.beginQuery_steady (s : State) (q : Nat) (r : Running) (t : QTab)  :
  (State.beginQuery s q r t).steady = s.steady := by simp [State.beginQuery]

@[simp] theorem State.againQuery_steady (s : State) (q : Nat) (a : QRun)  :
  (State.againQuery s q a).steady = s.steady := by simp [State.againQuery]

@[simp] theorem State.countQuery_steady (s : State)  :
  (State.countQuery s).steady = s.steady := by
  unfold State.countQuery; (try dsimp only); (repeat' split) <;> (first | (simp; done) | (simp [*]; done) | (simp_all; done))

@[simp] theorem State.bumpOrphans_steady (s : State)  :
  (State.bumpOrphans s).steady = s.steady := by simp [State.bumpOrphans]

@[simp] theorem State.deliverQuery_steady (s : State) (q : Nat) (i : Image) (a : QRun)  :
  (State.deliverQuery s q i a).steady = s.steady := by
  unfold State.deliverQuery; (try dsimp only); (repeat' split) <;> (first | (simp; done) | (simp [*]; done) | (simp_all; done))

end Sys2Proof.Machine
end

