-- ==== Sys2Proof/Laws/FrameCounters.lean ====
section
/-! SUPPORT. The operations of Counters.lean keep the steady part of the state: the queue of waiting commands, the identity
page, the life counter, the tamper count and the security versions. -/

namespace Sys2Proof.Machine

@[simp] theorem State.latch_steady (s : State) (k : Nat)  :
  (State.latch s k).steady = s.steady := by simp [State.latch]

@[simp] theorem State.writeDump_steady (s : State) (x : Snapshot)  :
  (State.writeDump s x).steady = s.steady := by simp [State.writeDump]

end Sys2Proof.Machine
end

