-- ==== Sys2Proof/Laws/FrameEngine.lean ====
section
/-! SUPPORT. The operations of Engine.lean keep the steady part of the state: the queue of waiting commands, the identity
page, the life counter, the tamper count and the security versions. -/

namespace Sys2Proof.Machine

@[simp] theorem State.setEngine_steady (s : State) (e : Env) (k : Nat) (g : Engine)  :
  (State.setEngine s e k g).steady = s.steady := by simp [State.setEngine]

@[simp] theorem EngJob.stopAt_steady (j : EngJob) (f : TFault) (lost : List (Nat × Nat)) (qs : List Nat) (e : Env) (s : State)  :
  (EngJob.stopAt j f lost qs e s).steady = s.steady := by simp [EngJob.stopAt]

@[simp] theorem EngJob.stopped_steady (j : EngJob) (st : Stop) (e : Env) (s : State)  :
  (EngJob.stopped j st e s).steady = s.steady := by simp [EngJob.stopped]

@[simp] theorem State.engFinish_steady (s : State) (e : Env) (j : EngJob) (os : List OutElem) (rows : Nat) (sat : Bool) (steps : Nat)  :
  (State.engFinish s e j os rows sat steps).steady = s.steady := by simp [State.engFinish]

@[simp] theorem State.engNothing_steady (s : State) (e : Env) (k : Nat) (l : Option LastOp)  :
  (State.engNothing s e k l).steady = s.steady := by simp [State.engNothing]

@[simp] theorem State.engRun_steady (s : State) (e : Env) (j : EngJob)  :
  (State.engRun s e j).steady = s.steady := by
  unfold State.engRun; (try dsimp only); (repeat' split) <;> (first | (simp; done) | (simp [*]; done) | (simp_all; done))

@[simp] theorem State.reamRun_steady (s : State) (e : Env) (j : EngJob) (p : View) (nnz : Nat)  :
  (State.reamRun s e j p nnz).steady = s.steady := by
  unfold State.reamRun; (try dsimp only); (repeat' split) <;> (first | (simp; done) | (simp [*]; done) | (simp_all; done))

@[simp] theorem doEngine_steady (b : Issue) (e : Env) (s : State)  :
  (doEngine b e s).steady = s.steady := by simp [doEngine]

@[simp] theorem doReam_steady (b : Issue) (e : Env) (s : State)  :
  (doReam b e s).steady = s.steady := by
  unfold doReam; (try dsimp only)
  (repeat' (first | split | refine (State.perform_steady _ _ _ _ (fun _ => ?_)).trans ?_ | refine (foldl_steady _ (fun _ _ => ?_) _ _).trans ?_)) <;> (first | (simp; done) | (simp [*]; done) | (simp_all; done))

@[simp] theorem engRow_steady (ream : Bool) (b : Issue) (e : Env) (s : State)  :
  (engRow ream b e s).steady = s.steady := by simp [engRow]

end Sys2Proof.Machine
end

