-- ==== Sys2Proof/Laws/FrameRegRead.lean ====
section
/-! SUPPORT. The operations of RegRead.lean keep the steady part of the state: the queue of waiting commands, the identity
page, the life counter, the tamper count and the security versions. -/

namespace Sys2Proof.Machine

@[simp] theorem State.clearRc_steady (s : State) (off same : Nat)  :
  (State.clearRc s off same).steady = s.steady := by simp [State.clearRc]

@[simp] theorem State.settleRead_steady (s : State) (off : Nat)  :
  (State.settleRead s off).steady = s.steady := by simp [State.settleRead]

end Sys2Proof.Machine
end

