-- ==== Sys2Proof/Laws/FramePower.lean ====
section
/-! SUPPORT. The operations of Power.lean keep the steady part of the state: the queue of waiting commands, the identity
page, the life counter, the tamper count and the security versions. -/

namespace Sys2Proof.Machine

@[simp] theorem State.markThrottled_steady (s : State)  :
  (State.markThrottled s).steady = s.steady := by simp [State.markThrottled]

@[simp] theorem State.restretch_steady (s : State) (page : Nat)  :
  (State.restretch s page).steady = s.steady := by
  unfold State.restretch; (try dsimp only); (repeat' split) <;> (first | (simp; done) | (simp [*]; done) | (simp_all; done))

@[simp] theorem State.throttle_steady (s : State) (f cls : Nat)  :
  (State.throttle s f cls).steady = s.steady := by simp [State.throttle]

@[simp] theorem State.setHot_steady (s : State) (f : Nat)  :
  (State.setHot s f).steady = s.steady := by simp [State.setHot]

@[simp] theorem State.measureField_steady (s : State) (f t hot : Nat)  :
  (State.measureField s f t hot).steady = s.steady := by simp [State.measureField]

@[simp] theorem State.causeFirst_steady (s t : State) (ht : t.steady = s.steady) :
    (State.causeFirst s t).steady = s.steady := by
  unfold State.causeFirst; (repeat' split) <;> simp [ht]

@[simp] theorem State.loseFields_steady (s : State) (fs : List (Nat × Nat))  :
  (State.loseFields s fs).steady = s.steady := by simp [State.loseFields]

@[simp] theorem State.measurePower_steady (s : State)  :
  (State.measurePower s).steady = s.steady := by simp [State.measurePower]

@[simp] theorem State.enterState_steady (s : State) (p : Nat)  :
  (State.enterState s p).steady = s.steady := by simp [State.enterState]

@[simp] theorem State.wake_steady (s : State)  :
  (State.wake s).steady = s.steady := by simp [State.wake]

@[simp] theorem State.reloadTiles_steady (s : State)  :
  (State.reloadTiles s).steady = s.steady := by simp [State.reloadTiles]

@[simp] theorem State.setTolerance_steady (s : State) (v : W32)  :
  (State.setTolerance s v).steady = s.steady := by simp [State.setTolerance]

end Sys2Proof.Machine
end

