-- ==== Sys2Proof/Laws/FrameSecurity.lean ====
section
/-! SUPPORT. The operations of Security.lean keep the steady part of the state: the queue of waiting commands, the identity
page, the life counter, the tamper count and the security versions. -/

namespace Sys2Proof.Machine

@[simp] theorem State.zeroize_steady (s : State)  :
  (State.zeroize s).steady = s.steady := by simp [State.zeroize]

@[simp] theorem State.stopAll_steady (s : State)  :
  (State.stopAll s).steady = s.steady := by simp [State.stopAll]

@[simp] theorem State.scrub_steady (s : State)  :
  (State.scrub s).steady = s.steady := by simp [State.scrub]

@[simp] theorem State.unload_steady (s : State)  :
  (State.unload s).steady = s.steady := by simp [State.unload]

@[simp] theorem State.unpair_steady (s : State)  :
  (State.unpair s).steady = s.steady := by simp [State.unpair]

@[simp] theorem State.changeMode_steady (s : State) (isSealed : Bool)  :
  (State.changeMode s isSealed).steady = s.steady := by simp [State.changeMode]

@[simp] theorem State.pkApply_steady (s : State) (k : List Byte)  :
  (State.pkApply s k).steady = s.steady := by
  unfold State.pkApply; (try dsimp only); (repeat' split) <;> (first | (simp; done) | (simp [*]; done) | (simp_all; done))

@[simp] theorem State.keyInstall_steady (s : State) (r : Running)  :
  (State.keyInstall s r).steady = s.steady := by
  unfold State.keyInstall; (try dsimp only); (repeat' split) <;> (first | (simp; done) | (simp [*]; done) | (simp_all; done))

@[simp] theorem State.violation_steady (s : State)  :
  (State.violation s).steady = s.steady := by simp [State.violation]

@[simp] theorem State.unsupported_steady (s : State) (p : HPort)  :
  (State.unsupported s p).steady = s.steady := by simp [State.unsupported]

@[simp] theorem State.report_steady (s : State) (nonce : List Byte)  :
  (State.report s nonce).2.steady = s.steady := by simp [State.report]

@[simp] theorem State.dmaRecords_steady (s : State) (p : HPort) (a : Nat) (rs : List (List Byte)) :
    (s.dmaRecords p a rs).steady = s.steady := by
  induction rs generalizing s a with
  | nil => rfl
  | cons r rs ih => rw [State.dmaRecords, ih]; simp

@[simp] theorem State.attest_steady (s : State) (r : Running)  :
  (State.attest s r).steady = s.steady := by
  unfold State.attest; (try dsimp only); (repeat' split) <;> (first | (simp; done) | (simp [*]; done) | (simp_all; done))

end Sys2Proof.Machine
end

