-- ==== Sys2Proof/Laws/FrameTwin.lean ====
section
/-! SUPPORT. The operations of Twin.lean keep the steady part of the state: the queue of waiting commands, the identity
page, the life counter, the tamper count and the security versions. -/

namespace Sys2Proof.Machine

@[simp] theorem State.calFailed_steady (s : State) (p : Nat) (aliveMode : Bool)  :
  (State.calFailed s p aliveMode).steady = s.steady := by simp [State.calFailed]

@[simp] theorem State.opened_steady (s : State) (p : Nat)  :
  (State.opened s p).steady = s.steady := by simp [State.opened]

@[simp] theorem State.untyped_steady (s : State) (p : Nat)  :
  (State.untyped s p).steady = s.steady := by simp [State.untyped]

@[simp] theorem State.alive_steady (s : State) (h : CalHdr) (n : Nat) (k : State → State) (hk : ∀ s, (k s).steady = s.steady) :
  (State.alive s h n k).steady = s.steady := by
  unfold State.alive; (try dsimp only); (repeat' split) <;> (first | (simp; done) | (simp [*]; done) | (simp_all; done))

@[simp] theorem State.sequenced_steady (s : State) (h : CalHdr) (n : Nat) (k : State → State) (hk : ∀ s, (k s).steady = s.steady) :
  (State.sequenced s h n k).steady = s.steady := by
  unfold State.sequenced; (try dsimp only); (repeat' split) <;> (first | (simp; done) | (simp [*]; done) | (simp_all; done))

@[simp] theorem State.kxFail_steady (s : State) (p info : Nat)  :
  (State.kxFail s p info).steady = s.steady := by simp [State.kxFail]

@[simp] theorem State.sendHello_steady (s : State) (p role : Nat)  :
  (State.sendHello s p role).steady = s.steady := by simp [State.sendHello]

@[simp] theorem State.lockstep_steady (s : State) (first : Nat)  :
  (State.lockstep s first).steady = s.steady := by
  unfold State.lockstep; (try dsimp only); (repeat' split) <;> (first | (simp; done) | (simp [*]; done) | (simp_all; done))

@[simp] theorem State.resume_steady (s : State)  :
  (State.resume s).steady = s.steady := by
  unfold State.resume; (try dsimp only); (repeat' split) <;> (first | (simp; done) | (simp [*]; done) | (simp_all; done))

@[simp] theorem State.joinAnswer_steady (s : State) (p : Nat) (b : HelloBody)  :
  (State.joinAnswer s p b).steady = s.steady := by
  unfold State.joinAnswer; (try dsimp only); (repeat' split) <;> (first | (simp; done) | (simp [*]; done) | (simp_all; done))

@[simp] theorem State.holdFor_steady (s : State) (p : Nat) (b : HelloBody)  :
  (State.holdFor s p b).steady = s.steady := by
  unfold State.holdFor; (try dsimp only); (repeat' split) <;> (first | (simp; done) | (simp [*]; done) | (simp_all; done))

@[simp] theorem State.helloJoins_steady (s : State) (p : Nat) (b : HelloBody)  :
  (State.helloJoins s p b).steady = s.steady := by simp [State.helloJoins]

@[simp] theorem State.leaves_steady (s : State)  :
  (State.leaves s).steady = s.steady := by
  unfold State.leaves; (try dsimp only); (repeat' split) <;> (first | (simp; done) | (simp [*]; done) | (simp_all; done))

@[simp] theorem State.initCouch_steady (s : State) (i : Image) (n : Nat)  :
  (State.initCouch s i n).steady = s.steady := by simp [State.initCouch]

@[simp] theorem State.putLog_steady (s : State) (i : Image) (bs : List Byte) : (s.putLog i bs).steady = s.steady := by
  unfold State.putLog
  exact foldl_fst_steady _ (fun _ _ => by simp) _ _

@[simp] theorem State.forwardChunk_steady (s : State) (i : Image) (n : Nat) (j : JoinState) (sealOf : Nat → LayerSeal) (g : Nat)  :
  (State.forwardChunk s i n j sealOf g).steady = s.steady := by
  unfold State.forwardChunk; (try dsimp only); (repeat' split) <;> (first | (simp; done) | (simp [*]; done) | (simp_all; done))

@[simp] theorem State.applyForwarded_steady (s : State) (i : Image) (n : Nat) (bs : List Byte) (j : JoinState) :
    (s.applyForwarded i n bs j).steady = s.steady := by
  unfold State.applyForwarded
  dsimp only
  rw [State.modJoin_steady, foldl_steady _ (fun _ _ => by simp), foldl_steady _ (fun _ _ => by simp), State.putLog_steady]

@[simp] theorem State.twinJoin_steady (s : State)  :
  (State.twinJoin s).steady = s.steady := by simp [State.twinJoin]

@[simp] theorem State.twinLeave_steady (s : State)  :
  (State.twinLeave s).steady = s.steady := by simp [State.twinLeave]

end Sys2Proof.Machine
end

