-- ==== Sys2Proof/Laws/FrameHostCommands.lean ====
section
/-! SUPPORT. The operations of HostCommands.lean keep the steady part of the state: the queue of waiting commands, the identity
page, the life counter, the tamper count and the security versions. -/

namespace Sys2Proof.Machine

@[simp] theorem State.loadChunk_steady (s : State) (i : Image) (l : LayerImage) (c : Nat)  :
  (State.loadChunk s i l c).steady = s.steady := by simp [State.loadChunk]

@[simp] theorem State.loadLayers_steady (s : State) (i : Image)  :
  (State.loadLayers s i).steady = s.steady := by simp [State.loadLayers]

@[simp] theorem State.freeMark_steady (s : State)  :
  (State.freeMark s).steady = s.steady := by simp [State.freeMark]

@[simp] theorem State.loadProgram_steady (s : State) (r : Running)  :
  (State.loadProgram s r).steady = s.steady := by
  unfold State.loadProgram; (try dsimp only); (repeat' split) <;> (first | (simp; done) | (simp [*]; done) | (simp_all; done))

@[simp] theorem State.exportFrom_steady (s : State) (r : Running) (kek : List Byte) (k out left : Nat) (n0 : Nat) :
    (State.exportFrom s r kek k out left n0).steady = s.steady := by
  induction n0 generalizing s k out left with
  | zero => simp [State.exportFrom]
  | succ n ih => rw [State.exportFrom]; dsimp only; (repeat' split) <;> (first | (simp; done) | (rw [ih]; simp))

@[simp] theorem State.exportSnapshot_steady (s : State) (r : Running)  :
  (State.exportSnapshot s r).steady = s.steady := by
  unfold State.exportSnapshot; (try dsimp only); (repeat' split) <;> (first | (simp; done) | (simp [*]; done) | (simp_all; done))

@[simp] theorem State.importFails_steady (s : State) (c out : Nat)  :
  (State.importFails s c out).steady = s.steady := by simp [State.importFails]

@[simp] theorem State.importFrom_steady (s : State) (r : Running) (i : Image) (off out : Nat) (n0 : Nat) :
    (State.importFrom s r i off out n0).steady = s.steady := by
  induction n0 generalizing s off out with
  | zero => rfl
  | succ n ih => rw [State.importFrom]; dsimp only; (repeat' split) <;> (first | (simp; done) | (rw [ih]; simp))

@[simp] theorem State.importState_steady (s : State) (r : Running)  :
  (State.importState s r).steady = s.steady := by
  unfold State.importState; (try dsimp only); (repeat' split) <;> (first | (simp; done) | (simp [*]; done) | (simp_all; done))

@[simp] theorem State.resetCompute_steady (s : State)  :
  (State.resetCompute s).steady = s.steady := by simp [State.resetCompute]

@[simp] theorem State.scrubCommand_steady (s : State)  :
  (State.scrubCommand s).steady = s.steady := by simp [State.scrubCommand]

@[simp] theorem State.serve_steady (s : State) (qs : List Nat)  :
  (State.serve s qs).steady = s.steady := by simp [State.serve]

@[simp] theorem State.runSteps_steady (s : State) (r : Running)  :
  (State.runSteps s r).steady = s.steady := by
  unfold State.runSteps; (try dsimp only); (repeat' split) <;> (first | (simp; done) | (simp [*]; done) | (simp_all; done))

@[simp] theorem State.runQuery_steady (s : State) (r : Running)  :
  (State.runQuery s r).steady = s.steady := by
  unfold State.runQuery; (try dsimp only); (repeat' split) <;> (first | (simp; done) | (simp [*]; done) | (simp_all; done))

@[simp] theorem State.startBind_steady (s : State) (r : Running)  :
  (State.startBind s r).steady = s.steady := by
  unfold State.startBind; (try dsimp only); (repeat' split) <;> (first | (simp; done) | (simp [*]; done) | (simp_all; done))

@[simp] theorem State.doCommand_steady (s : State) (r : Running)  :
  (State.doCommand s r).steady = s.steady := by
  unfold State.doCommand; (try dsimp only); (repeat' split) <;> (first | (simp; done) | (simp [*]; done) | (simp_all; done))

@[simp] theorem State.advance_steady (s : State)  :
  (State.advance s).steady = s.steady := by
  unfold State.advance; (try dsimp only); (repeat' split) <;> (first | (simp; done) | (simp [*]; done) | (simp_all; done))

@[simp] theorem State.woken_steady (s : State)  :
  (State.woken s).steady = s.steady := by simp [State.woken]

@[simp] theorem State.startCommand_steady (s : State) (p : HPort)  :
  (State.startCommand s p).steady = s.steady := by simp [State.startCommand]

@[simp] theorem State.cmdGo_steady (s : State) (p : HPort) (dissent : Option Replica)  :
  (State.cmdGo s p dissent).steady = s.steady := by simp [State.cmdGo]

@[simp] theorem State.hostCommand_steady (s : State) (p : HPort) (op : Nat) (a : CmdArgs) (dissent : Option Replica)  :
  (State.hostCommand s p op a dissent).steady = s.steady := by simp [State.hostCommand]

@[simp] theorem State.keyRow_steady (s : State) (p : HPort) (op : Nat) (a : CmdArgs) (dissent : Option Replica)  :
  (State.keyRow s p op a dissent).steady = s.steady := by simp [State.keyRow]

@[simp] theorem State.abortCommand_steady (s : State)  :
  (State.abortCommand s).steady = s.steady := by
  unfold State.abortCommand; (try dsimp only); (repeat' split) <;> (first | (simp; done) | (simp [*]; done) | (simp_all; done))

@[simp] theorem State.writeAbort_steady (s : State) (p : HPort) (off : Nat) (v : W32)  :
  (State.writeAbort s p off v).steady = s.steady := by simp [State.writeAbort]

end Sys2Proof.Machine
end

