-- ==== Sys2Proof/Laws/FrameRegisters.lean ====
section
/-! SUPPORT. The operations of Registers.lean keep the steady part of the state: the queue of waiting commands, the identity
page, the life counter, the tamper count and the security versions. -/

namespace Sys2Proof.Machine

@[simp] theorem State.modCounter_steady (s : State) (k i : Nat) (f : Counter → Counter)  :
  (State.modCounter s k i f).steady = s.steady := by simp [State.modCounter]

@[simp] theorem State.endLease_steady (s : State) (evt : Nat)  :
  (State.endLease s evt).steady = s.steady := by simp [State.endLease]

@[simp] theorem State.writeLease_steady (s : State) (p : HPort) (o : Nat) (v : W32)  :
  (State.writeLease s p o v).steady = s.steady := by simp [State.writeLease]

@[simp] theorem State.putBlock_steady (s : State) (p : HPort) (k o : Nat) (v : W32) (dissent : Option Replica := none)  :
  (State.putBlock s p k o v dissent).steady = s.steady := by simp [State.putBlock]

@[simp] theorem State.putMsix_steady (s : State) (p : HPort) (o : Nat) (v : W32)  :
  (State.putMsix s p o v).steady = s.steady := by simp [State.putMsix]

@[simp] theorem State.putWord_steady (s : State) (p : HPort) (off : Nat) (v same : W32) (dissent : Option Replica := none)  :
  (State.putWord s p off v same dissent).steady = s.steady := by simp [State.putWord]

@[simp] theorem State.tryWord_steady (s : State) (p : HPort) (off : Nat) (v same : W32) (dissent : Option Replica := none)  :
  (State.tryWord s p off v same dissent).1.steady = s.steady := by simp [State.tryWord]

@[simp] theorem State.writeReg_steady (s : State) (p : HPort) (off size : Nat) (v : W64) (dissent : Option Replica := none)  :
  (State.writeReg s p off size v dissent).steady = s.steady := by simp [State.writeReg]

@[simp] theorem State.writeReg32_steady (s : State) (p : HPort) (off : Nat) (v : W32)  :
  (State.writeReg32 s p off v).steady = s.steady := by simp [State.writeReg32]

end Sys2Proof.Machine
end

