-- ==== Sys2Proof/Laws/FramePcie.lean ====
section
/-! SUPPORT. The operations of Pcie.lean keep the steady part of the state: the queue of waiting commands, the identity
page, the life counter, the tamper count and the security versions. -/

namespace Sys2Proof.Machine

@[simp] theorem State.linkUp_steady (s : State) (p : HPort)  :
  (State.linkUp s p).steady = s.steady := by simp [State.linkUp]

@[simp] theorem State.serviceFailed_steady (s : State) (f : Nat)  :
  (State.serviceFailed s f).steady = s.steady := by simp [State.serviceFailed]

end Sys2Proof.Machine
end

