-- ==== Sys2Proof/Laws/FrameRemote.lean ====
section
/-! SUPPORT. The operations of Remote.lean keep the steady part of the state: the queue of waiting commands, the identity
page, the life counter, the tamper count and the security versions. -/

namespace Sys2Proof.Machine

@[simp] theorem doRemote_steady (b : Issue) (e : Env) (s : State)  :
  (doRemote b e s).steady = s.steady := by simp [doRemote]

@[simp] theorem State.inbound_steady (s : State) (e : Env) (code src : Nat) (c : Ctx) (vc addr word : Nat)  :
  (State.inbound s e code src c vc addr word).steady = s.steady := by simp [State.inbound]

@[simp] theorem State.landWrite_steady (s : State) (e : Env) (src : Nat) (c : Ctx) (vc : Nat) (ws : List (Nat × List Byte)) (k : State → State) (hk : ∀ s, (k s).steady = s.steady) :
  (State.landWrite s e src c vc ws k).steady = s.steady := by
  unfold State.landWrite; (try dsimp only); (repeat' split) <;> (first | (simp; done) | (simp [*]; done) | (simp_all; done))

@[simp] theorem State.landRead_steady (s : State) (e : Env) (src : Nat) (c : Ctx) (vc a n : Nat) (k : List Byte → State → State) (hk : ∀ a0 s, (k a0 s).steady = s.steady) :
  (State.landRead s e src c vc a n k).steady = s.steady := by
  unfold State.landRead; (try dsimp only); (repeat' split) <;> (first | (simp; done) | (simp [*]; done) | (simp_all; done))

@[simp] theorem State.remoteInc_steady (s : State) (e : Env) (p : Packet)  :
  (State.remoteInc s e p).steady = s.steady := by simp [State.remoteInc]

@[simp] theorem State.ackPacket_steady (s : State) (src : Nat) (c : Ctx) (dst op : Nat)  :
  (State.ackPacket s src c dst op).steady = s.steady := by simp [State.ackPacket]

@[simp] theorem State.endGroup_steady (s : State) (slot : Nat) (h : List Byte) (key k : Nat) (last : Bool)  :
  (State.endGroup s slot h key k last).steady = s.steady := by simp [State.endGroup]

@[simp] theorem State.foldOne_steady (s : State) (e : Env) (h : List Byte) (prog tree : Nat) (os : List ConvOperand)
    (go : State → State) (hgo : ∀ s, (go s).steady = s.steady) : (s.foldOne e h prog tree os go).steady = s.steady := by
  unfold State.foldOne
  dsimp only
  apply State.landRead_steady
  intro old s
  apply State.landWrite_steady
  intro s
  rw [hgo, State.endGroup_steady, foldl_steady _ (fun _ _ => State.ackPacket_steady _ _ _ _ _), State.noteSat_steady]

@[simp] theorem State.foldRounds_steady (e : Env) (prog n : Nat) (s : State) :
    (State.foldRounds e prog n s).steady = s.steady := by
  induction n generalizing s with
  | zero => rfl
  | succ n ih =>
    rw [State.foldRounds]
    split
    · rfl
    · exact State.foldOne_steady _ _ _ _ _ _ _ ih

@[simp] theorem State.respond_steady (s : State) (p : Packet) (data : List Byte)  :
  (State.respond s p data).steady = s.steady := by simp [State.respond]

@[simp] theorem State.respondLine_steady (s : State) (p : Packet) (data : List Byte)  :
  (State.respondLine s p data).steady = s.steady := by simp [State.respondLine]

@[simp] theorem State.land_steady (s : State) (e : Env) (p : Packet)  :
  (State.land s e p).steady = s.steady := by
  unfold State.land; (try dsimp only)
  (repeat' split) <;> (first | (simp; done) | (rw [foldl_steady _ (by intro s a; (try dsimp only); (repeat' split) <;> (first | (simp; done) | (simp [*]; done) | (simp_all; done)))]; first | done | (simp; done) | (simp [*]; done) | (simp_all; done)))

end Sys2Proof.Machine
end

