-- ==== Sys2Proof/Laws/FrameStartup.lean ====
section
/-! SUPPORT. The operations of Startup.lean keep the steady part of the state: the queue of waiting commands, the identity
page, the life counter, the tamper count and the security versions. -/

namespace Sys2Proof.Machine

@[simp] theorem State.logFused_steady (s : State) (kind unit : Nat)  :
  (State.logFused s kind unit).steady = s.steady := by simp [State.logFused]

@[simp] theorem State.reportShort_steady (s : State) (fc y : Nat)  :
  (State.reportShort s fc y).steady = s.steady := by simp [State.reportShort]

@[simp] theorem State.logFuses_steady (s : State)  :
  (State.logFuses s).steady = s.steady := by simp [State.logFuses]

@[simp] theorem State.settleUnits_steady (s : State)  :
  (State.settleUnits s).steady = s.steady := by simp [State.settleUnits]

@[simp] theorem State.loseRetired_steady (s : State)  :
  (State.loseRetired s).steady = s.steady := by simp [State.loseRetired]

@[simp] theorem State.testUnits_steady (s : State) (r : StartupReport)  :
  (State.testUnits s r).steady = s.steady := by
  unfold State.testUnits; (try dsimp only); (repeat' split) <;> (first | (simp; done) | (simp [*]; done) | (simp_all; done))

@[simp] theorem State.testLinks_steady (s : State) (r : StartupReport)  :
  (State.testLinks s r).steady = s.steady := by simp [State.testLinks]

@[simp] theorem State.repairRow_steady (s : State) (b : Nat)  :
  (State.repairRow s b).steady = s.steady := by simp [State.repairRow]

@[simp] theorem State.testVats_steady (s : State) (r : StartupReport)  :
  (State.testVats s r).steady = s.steady := by simp [State.testVats]

@[simp] theorem State.reconcile_steady (s : State)  :
  (State.reconcile s).steady = s.steady := by simp [State.reconcile]

@[simp] theorem State.measureBuses_steady (s : State)  :
  (State.measureBuses s).steady = s.steady := by simp [State.measureBuses]

@[simp] theorem State.closeWave_steady (s : State) (k : Nat) (tripped : List Nat)  :
  (State.closeWave s k tripped).steady = s.steady := by simp [State.closeWave]

end Sys2Proof.Machine
end

