-- ==== Sys2Proof/Laws/Memory.lean ====
section
/-! SUPPORT. Laws of the memories: every operation keeps the canonical form, and a write is read back and leaves the bytes
outside it alone. -/

namespace Sys2Proof.Machine

/-- Host memory keeps its canonical form. -/
@[simp] theorem memWrite_wf (m : Mem) (a : Nat) (bs : List Byte) (h : m.wf = true) : (memWrite m a bs).wf = true :=
  swf_sputs 0 m a bs h

/-- Bytes written to host memory are read back. -/
theorem memRead_memWrite (m : Mem) (a : Nat) (bs : List Byte) :
    memRead (memWrite m a bs) a bs.length = bs := sgets_sputs 0 m a bs

/-- A write of host memory leaves every other byte alone. -/
theorem memWrite_outside (m : Mem) (a : Nat) (bs : List Byte) (j : Nat) (h : j < a ∨ a + bs.length ≤ j) :
    sget 0 (memWrite m a bs) j = sget 0 m j := sget_sputs_outside 0 m a bs j h

/-- The byte map of a memory under the code is in canonical form. -/
def EccMem.wf (m : EccMem) : Bool := swf 0 m.cells

@[simp] theorem EccMem.settle_wf (m : EccMem) (w : Nat) (h : m.wf = true) : (m.settle w).wf = true :=
  swf_sputs 0 m.cells w _ h

theorem EccMem.clearFor_wf (m : EccMem) (a n : Nat) (h : m.wf = true) : (m.clearFor a n).wf = true := by
  unfold EccMem.clearFor
  suffices H : ∀ (l : List (Nat × WordErr)) (x : EccMem), x.wf = true → (l.foldl (fun m e =>
      if !wordIn e.1 (a, n) then m
      else if e.2.fix.1.isSome || (decide (a ≤ e.1) && decide (e.1 + 8 ≤ a + n)) then m.settle e.1 else m) x).wf = true from
    H _ _ h
  intro l
  induction l with
  | nil => intro x hx; exact hx
  | cons e r ih =>
    intro x hx
    refine ih _ ?_
    dsimp only
    split
    · exact hx
    · split
      · exact EccMem.settle_wf x _ hx
      · exact hx

@[simp] theorem EccMem.write_wf (m : EccMem) (a : Nat) (bs : List Byte) (h : m.wf = true) : (m.write a bs).wf = true := by
  unfold EccMem.write
  dsimp only
  split
  · exact swf_sputs 0 _ _ _ h
  · exact swf_sputs 0 _ _ _ (EccMem.clearFor_wf m _ _ h)

@[simp] theorem EccMem.writes_wf (m : EccMem) (ps : List (Nat × List Byte)) (h : m.wf = true) :
    (m.writes ps).wf = true := by
  unfold EccMem.writes
  induction ps generalizing m with
  | nil => exact h
  | cons p r ih => exact ih _ (EccMem.write_wf m _ _ h)

@[simp] theorem EccMem.zero_wf (m : EccMem) (a n : Nat) (h : m.wf = true) : (m.zero a n).wf = true :=
  swf_sclear 0 m.cells _ _ h

@[simp] theorem EccMem.noteDue_wf (m : EccMem) (ws : List Nat) (h : m.wf = true) : (m.noteDue ws).wf = true := h

/-- In a memory without errors a byte reads as it was written. -/
@[simp] theorem EccMem.byte_clean (m : EccMem) (a : Nat) (h : m.errs = []) : m.byte a = sget 0 m.cells a := by
  have hd : (({ : WordErr }).fix.1.getD 0) = 0 := by decide
  simp only [EccMem.byte, h, sget, hd, Nat.zero_shiftRight]
  exact BitVec.xor_zero

/-- A write of a memory without errors leaves none. -/
@[simp] theorem EccMem.write_errs (m : EccMem) (a : Nat) (bs : List Byte) (h : m.errs = []) :
    (m.write a bs).errs = [] := by
  simp [EccMem.write, h]

/-- In a memory without errors a write leaves every other byte alone. -/
theorem EccMem.write_outside (m : EccMem) (a : Nat) (bs : List Byte) (j : Nat) (h : m.errs = [])
    (hj : j < a ∨ a + bs.length ≤ j) : (m.write a bs).byte j = m.byte j := by
  rw [EccMem.byte_clean _ _ h, EccMem.byte_clean _ _ (EccMem.write_errs m a bs h)]
  simp only [EccMem.write, h, if_true]
  exact sget_sputs_outside 0 _ _ _ _ hj

theorem EccMem.read_clean (m : EccMem) (a n : Nat) (h : m.errs = []) : m.read a n = sgets 0 m.cells a n := by
  induction n generalizing a with
  | zero => rfl
  | succ n ih => rw [EccMem.read, sgets, ih, EccMem.byte_clean m a h]

/-- In a memory without errors a write is read back. -/
theorem EccMem.read_write (m : EccMem) (a : Nat) (bs : List Byte) (h : m.errs = []) :
    (m.write a bs).read a bs.length = bs := by
  rw [EccMem.read_clean _ _ _ (EccMem.write_errs m a bs h)]
  simp only [EccMem.write, h, if_true]
  exact sgets_sputs 0 _ _ _

/-- In a memory without errors no range holds an uncorrectable word. -/
@[simp] theorem EccMem.bad_clean (m : EccMem) (rs : List (Nat × Nat)) (h : m.errs = []) : m.bad rs = none := by
  simp [EccMem.bad, h]

end Sys2Proof.Machine
end

