-- ==== Sys2Proof/Laws/Sealed.lean ====
section
/-! SUPPORT. Laws of sealed objects: what an ingress object gives that its checks accept (R399, R400). -/

namespace Sys2Proof.Machine

/-- A read of host memory is its first bytes and the rest. -/
theorem memRead_append (m : Mem) (a n k : Nat) : memRead m a (n + k) = memRead m a n ++ memRead m (a + n) k := by
  simp only [memRead]
  induction n generalizing a with
  | zero => simp [sgets]
  | succ n ih => rw [Nat.succ_add, sgets, sgets, ih, List.cons_append, Nat.add_right_comm, Nat.add_assoc]

/-- As many bytes are read as asked. -/
@[simp] theorem memRead_length (m : Mem) (a n : Nat) : (memRead m a n).length = n := by
  simp only [memRead]
  induction n generalizing a with
  | zero => rfl
  | succ n ih => rw [sgets, List.length_cons, ih]

/-- Three pieces that stand one after another in host memory are read back each at its address. -/
theorem memRead_pieces {m : Mem} {a : Nat} {x y z : List Byte} {n k l : Nat} (hx : x.length = n) (hy : y.length = k)
    (h : memRead m a (n + k + l) = x ++ y ++ z) :
    memRead m a n = x ∧ memRead m (a + n) k = y ∧ memRead m (a + (n + k)) l = z := by
  rw [memRead_append, memRead_append] at h
  obtain ⟨h, h3⟩ := List.append_inj h (by simp [hx, hy])
  obtain ⟨h1, h2⟩ := List.append_inj h (by simp [hx])
  exact ⟨h1, h2, h3⟩

/-- An object of length 0 gives no bytes and skips every check (R399). -/
@[simp] theorem Security.ingress_empty (x : Security) (m : Mem) (kind key addr : Nat) :
    x.ingress m kind key addr 0 = .ok ([], true) := rfl

/-- An object whose header the checks accept gives its plaintext, and whether its tag is that of its header and ciphertext
(R399, R400). -/
theorem Security.ingress_sealed {x : Security} {m : Mem} {kind key addr n : Nat} {k : KeySlot} {h ct tag dek : List Byte}
    (hk : key < 64) (hs : x.slot key = some k) (hh : h.length = 64) (hc : ct.length = n) (hn : n + 80 ≤ maxObject)
    (head : leAt h 0 2 = 0x5301 ∧ leAt h 2 1 = kind ∧ leAt h 3 1 = key ∧ leAt h 4 4 = 0 ∧ leAt h 60 4 = 0)
    (hw : kwUnwrap k.kek (bytesAt h 8 40) = some dek) (hm : memRead m addr (64 + n + 16) = h ++ ct ++ tag) :
    x.ingress m kind key addr (n + 80) =
      .ok (gcmCrypt (aesKeys dek) (bytesAt h 48 12) ct, gcmTag (aesKeys dek) (bytesAt h 48 12) h ct == tag) := by
  obtain ⟨m1, m2, m3⟩ := memRead_pieces hh hc hm
  have e : addr + (n + 80) - 16 = addr + (64 + n) := by omega
  simp [Security.ingress, hk, hs, m1, head, hw, Nat.add_sub_cancel, m2, e, m3, show ¬ maxObject < n + 80 by omega]

end Sys2Proof.Machine
end

