-- ==== Sys2Proof/Tests/Slice0.lean ====
section
/-! SUPPORT. Small tests of the model: an ill-formed term for each check, the states that meet the premises of the
statements, and a few results worked out from the spec. -/

namespace Sys2Proof.Tests

set_option Elab.async false

open Sys2Proof.Machine

/-- The module after start-up, with both host links up and the lease at H0. -/
def ready : State := { State.reset with
  h0 := { perst := false, link := 2, rate := 3, width := 16 }, h1 := { perst := false, link := 2, rate := 3, width := 16 }
  lease := { owner := 1, remain := 1000 }, ident := { stage := 8, ready := true, served := 1200 } }

/-- A program of one cluster whose tile 0 has code at 0 and descriptors at 0x1000. -/
def img : Image :=
  { raw := [1, 2, 3], w := 1, h := 1, ticks := 1, period := 4, classPlan := List.replicate 48 0, couch := 0x80000
    layerTable := 0x40000, offs := [0, 1, 2, 3, 4, 5]
    tiles := [⟨0, 0, 0x400, [], 0, 0x1000, 0x1000, []⟩]
    allocs := [⟨true, 0, 0, 0x1000080000, true, false⟩] }

/-- The bytes of 8-byte words. -/
def wordBytes (ws : List Nat) : List Byte := ws.flatMap (leBytes 8)

/-- A layer of 64 parameters: masters, moments, the copy and the log in the first 64 KiB of vat space, coefficients 1.0. -/
def layer : LayerImage :=
  { map := wordBytes [64, 0x1000, 0x2000, 0x3000, 0x4000, 0x5000, 0x6000, 0]
    lrm := 0x3F800000, wd := 0, b1 := 0x3F800000, omb1 := 0, b2 := 0x3F800000, omb2 := 0, eps := 0x3F800000, k := 0
    grow := 100, census := 0 }

/-- A tree: F32, 1 element, 2 operands, to tile 2 at 0x6000. -/
def tree : List Byte × List (List Byte) :=
  ([0, 0, 2, 1] ++ leBytes 4 0x6000 ++ leBytes 2 1 ++ leBytes 2 2 ++ leBytes 2 0 ++ List.replicate 18 0,
   [[0, 0, 0, 0], [0, 0, 1, 0]])

/-- `img` with that layer and tree, a reduction table of one region and an input in vat space: an image that LOAD_PROGRAM
accepts. -/
def imgLoad : Image := { img with
  layers := [layer]
  trees := [tree]
  red := some ([1, 0, 1, 1, 0, 0, 0, 0] ++ leBytes 8 0x100000 ++ leBytes 8 0x200000 ++ List.replicate 544 0)
  inputs := [[1, 0, 0, 0, 0, 0, 0, 0] ++ leBytes 8 0x4000 ++ List.replicate 16 0] }

/-- `ready` with a program in slot 0, bound at (0, 0), and room in the vats. -/
def bound : State := { ready with
  bind := { progs := [(0, some { image := img, measurement := [], bound := some (0, 0) })] }
  vats := { stripes := 1000000 } }

/-- `bound` with slot 0 of cluster (0, 0) as given. -/
def withTile (t : Tile) : State := { bound with tiles := [(0, t)] }

/-- Tile 0 runs context 0 at address 0 on one word, with a memory beside it. -/
def atWord (w : Nat) (m : EccMem := {}) (x : List (Nat × W64) := []) : State :=
  withTile { sram := m.write 0 (leBytes 8 w), c0 := { x := x, run := .running, codeLen := 0x400 } }

/-- The environment of tile 0's context 0 at a word. -/
def envOf (w : Nat) : Env := ⟨0, .c0, 0, 0, 0, 0, 0, 1, 1, 0, w⟩

/-- The state after a command. -/
def after (c : Instr) (s : State) : State :=
  match exec c s with
  | .next u => u
  | _ => s

/-- A command goes from one state to another. -/
def runs (c : Instr) (s t : State) : Bool :=
  match exec c s with
  | .next u => decide (u = t)
  | _ => false

/-- A command ends in a fault. -/
def faults (c : Instr) (s : State) (f : Fault) : Bool :=
  match exec c s with
  | .fault g => decide (g = f)
  | _ => false

/-- A command is refused. -/
def refuses (c : Instr) (s : State) (r : Refusal) : Bool :=
  match exec c s with
  | .refused q => decide (q = r)
  | _ => false

/-- Every command of a list, run in turn. -/
def afterAll (cs : List Instr) (s : State) : State := cs.foldl (fun s c => after c s) s

/-! Well-formedness -/

/-- Each check of `Instr.wf` refuses a term that breaks it alone. -/
theorem test_wf_refuses :
    ([.chkSel .h0 48 0, .evtWrite .h0 0x12 0 0, .counterValueWrite .h0 0x44 8 0 0, .counterValueWrite .h0 0x40 2 0 0,
      .rcRead .h0 16777216 0, .registerWrite .h0 0x3102 4 0, .bar2Access .h0 true (2 ^ 36) [0], .smbusBlockWrite [0, 0],
      .smbusBlockRead 8, .perstRelease .h0 4 16, .perstRelease .h0 0 17, .suppliesValid { tripped := [48] },
      .suppliesValid { badSlots := [24480] }, .suppliesValid { badClusters := [1440] }, .suppliesValid { badLinks := [6] },
      .suppliesValid { badSites := [48] }, .suppliesValid { badPackages := [320] }, .suppliesValid { unrepairable := [40] }, .suppliesValid { stripes := 111098724 },
      .suppliesValid { stripes := 111111112 },
      .powerUpWave [48], .fuseTrip [(48, 0)], .refLost 48, .tempSample 48 [0] none, .tempSample 0 [] none, .throttleRepeat 48 none,
      .wakeComplete [376] none, .voltageSettled 48 none, .kx0 4 ⟨[], [], 0, []⟩, .kx1 4 ⟨[], []⟩, .hello { port := 4 } ⟨0, 0, 0, 0, [], []⟩,
      .helloRetry 4, .heartbeat { port := 4 } 0 0 0, .calenderPortDown 4, .leave { port := 4 } 0, .watermark { port := 4 } [] none,
      .digest { port := 4 } [], .region { port := 4 } [], .steplog { port := 4 } [], .roundEnd { port := 4 } 0 0,
      .switch { port := 4 } 0, .nop 19200 .c0, .engineCompletion 0 8, .remoteArrival 0 .c0 19200, .waveArrival 1440,
      .tickArrival 1440, .replayRequest 376 true true 0 0, .replayRequest 368 true true 2 0, .replayRequest 368 true true 0 256, .linkRetrainDone 11517 true, .sramWriteBack 24480 0,
      .sramWriteBack 0 2621440, .vatLineRequest 40, .vatWriteBack 40, .patrol 40, .hostReadCompletion 4 0 true,
      .streamEntry 4 0, .qtabFillPoll 0 none, .queryOutput 4, .snapshotLatch 10, .servicePortPacket 4 [] 0] : List Instr).all
      (fun c => !c.wf) = true := by decide +kernel

/-- Neighbours of those terms that name existing units. -/
theorem test_wf_accepts :
    ([.chkSel .h0 47 0, .evtWrite .h0 0x10 0 0, .counterValueWrite .h0 0x40 8 0 0, .rcRead .h0 16777212 0,
      .bar2Access .h0 true (2 ^ 36 - 1) [0], .perstRelease .h0 3 16, .suppliesValid { badLinks := [5 + 8 * 98] },
      .replayRequest 368 true true 1 255, .engineCompletion 19199 7, .sramWriteBack 24479 2621439, .patrol 39,
      .snapshotLatch 0xC02, .queryOutput 3, .servicePortPacket 44 [] 0] : List Instr).all Instr.wf = true := by decide +kernel

/-- A command whose operand names no unit stops; so does nothing else but a debug instruction of JTAG. -/
theorem test_no_such_unit :
    (faults (.patrol 40) ready .noSuchUnit && faults (.nop 19200 .c0) ready .noSuchUnit &&
      refuses (.jtagInstruction (.debug 5)) { ready with sec := { ready.sec with isSealed := false } } .jtagDebug) = true := by
  decide +kernel

/-- No row of the table gives bits. -/
theorem test_no_bits : decodeTableWord 32 0 = none ∧ ready.withFetchWord 32 0 = ready := by decide +kernel

/-! Witnesses: the queue and reset -/

theorem test_wit_StepRunsFront : State.reset.pending = [] := by decide
theorem test_wit_ExecKeepsQueue : runs .refOk { ready with pending := [.wake] }
    { ready with pending := [.wake], power := { refOk := true } } = true := by decide +kernel
theorem test_wit_StepKeepsIdent : ready.ident.ready = true ∧ ready.ident.stage = 8 ∧
    ready.ident.holes + ready.ident.served = 1200 ∧ runs .refOk ready { ready with power := { refOk := true } } = true := by
  decide +kernel
theorem test_wit_WellFormedCompletes : Instr.wf (.jtagInstruction (.debug 1)) = true ∧ ready.sec.isSealed = true := by
  decide +kernel

/-! Witnesses: host commands -/

/-- Arguments that are all 0 but the first five. -/
def args (a0 a1 a2 a3 a4 : Nat) : CmdArgs :=
  { a0 := .ofNat 64 a0, a1 := .ofNat 64 a1, a2 := .ofNat 64 a2, a3 := .ofNat 64 a3, a4 := .ofNat 64 a4 }

/-- A check succeeds with a value. -/
def okIs {ε α : Type} [DecidableEq α] (x : Except ε α) (v : α) : Bool :=
  match x with
  | .ok y => decide (y = v)
  | .error _ => false

/-- `Accepts`, as a computation. -/
def accepts (s : State) (p : HPort) : Bool :=
  s.reaches p && !(s.port p).d3 && s.lease.owner == p.num + 1 && s.run.isNone && s.ident.ready && s.cc.restricted.isNone &&
  !s.sec.scrubBusy && s.power.pstate == 0

theorem test_accepts (s : State) (p : HPort) (h : accepts s p = true) : Accepts s p := by
  simp [accepts] at h
  simp [Accepts, h]

/-- `bound` with a key in slot 3 that allows exports, a key package of an OP in host memory, and the image beside it. -/
def withKeys : State := { bound with sec := { bound.sec with slots := [(3, some ⟨List.replicate 32 7, true⟩)] } }

/-- `bound`, but its program not bound and no other loaded; images of programs that load, and of one that does not. -/
def unbound : State := { bound with
  bind := { progs := [(0, some { image := img, measurement := [] })] }
  h0 := { bound.h0 with images := [(64, imgLoad), (128, { imgLoad with red := none }), (192, img)] } }

/-- The running RUN_STEPS of H0. -/
def stepsRun : Running := { op := 4, port := .h0, page := { feedCount := 4, feedBase := 0x1000, feedFill := 0x40 }, begun := true }

theorem test_wit_CommandRefused_other : ready.reaches .h1 = true ∧ ready.lease.owner ≠ HPort.num .h1 + 1 := by decide +kernel
theorem test_wit_CommandRefused_busy : (let s := { bound with run := some stepsRun }
    s.reaches .h0 = true ∧ s.lease.owner = HPort.num .h0 + 1 ∧ (s.run.isSome = true ∨ s.ident.ready = false)) := by
  decide +kernel
theorem test_wit_CommandRefused_dissent : (let s := { ready with cc := { rep0 := 2 } }
    s.reaches .h0 = true ∧ s.lease.owner = HPort.num .h0 + 1 ∧ s.run = none ∧ s.ident.ready = true ∧
    s.cc.restricted = none ∧ s.cc.rep .ccb ≠ 2 ∧ s.cc.voting.length ≠ 3) := by decide +kernel
theorem test_wit_RunsAndBindings_bind : accepts unbound .h0 = true ∧ (args 0 39 29 0 0).a0.toNat < 4 ∧
    (unbound.prog 0).isSome = true ∧ (args 0 39 29 0 0).a1.toNat + img.w ≤ 40 ∧ (args 0 39 29 0 0).a2.toNat + img.h ≤ 30 ∧
    (args 0 39 29 0 0).a1.toNat < 40 ∧ (args 0 39 29 0 0).a2.toNat < 30 := by decide +kernel
theorem test_wit_RunsAndBindings_steps : (let s := { bound with h0 := { bound.h0 with cmd := stepsRun.page } }
    accepts s .h0 = true ∧ (args 1 2 0 0 0).flags &&& 0xFFFFFFF1#32 = 0 ∧ (args 1 2 0 0 0).a1 ≠ 0 ∧
    s.stepsFault { latched s .h0 0x04 (args 1 2 0 0 0) with begun := true } = none) := by decide +kernel
/-- A run of an unbound program, and a query slot without a program, fail their checks. -/
theorem test_wit_RunsAndBindings_bad : (let s := { unbound with h0 := { unbound.h0 with cmd := stepsRun.page } }
    accepts s .h0 = true ∧ (s.stepsFault { latched s .h0 0x04 (args 1 2 0 0 0) with begun := true }).isSome = true ∧
    (s.slotsFault (servedSlots 8)).isSome = true) := by decide +kernel
theorem test_wit_RunsAndBindings_query :
    (let s := { bound with bind := { progs := [(3, some { image := img, measurement := [], bound := some (4, 4) })] } }
     let a := { args 1 0 0 0 0 with flags := 8 }
     accepts s .h0 = true ∧ a.flags &&& 0xFFFFFFF1#32 = 0 ∧ a.a0 ≠ 0 ∧ servedSlots a.flags = [3] ∧
     s.slotsFault (servedSlots a.flags) = none) := by decide +kernel
/-- An empty slot, and a corner from which the program would leave the grid. -/
theorem test_wit_RunsAndBindings_badBind : accepts unbound .h0 = true ∧ unbound.prog 1 = none ∧
    (args 1 39 29 0 0).a0.toNat < 4 ∧ (args 1 39 29 0 0).a1.toNat < 40 ∧ (args 1 39 29 0 0).a2.toNat < 30 ∧
    (let s := { unbound with bind := { progs := [(0, some { image := { img with w := 2 }, measurement := [] })] } }
     accepts s .h0 = true ∧ (s.prog 0).isSome = true ∧ 40 < (args 0 39 29 0 0).a1.toNat + 2) := by decide +kernel
/-- What LOAD_PROGRAM of H0 finds at a host address: the image given, with the first failure given. -/
def loads (slot at_ : Nat) (i : Image) (f : Option LoadFail) : Bool :=
  let a := args slot at_ 3 5 0
  argsOk 0x03 a && decide ((unbound.port .h0).images.find? (fun q => q.1 == a.a1.toNat && q.2.raw.length == a.a2.toNat) =
    some (a.a1.toNat, i)) &&
  decide (i.loadFail (a.a0.toNat == 0) (unbound.train.doubled || !unbound.bind.found.vatPorts.isEmpty) unbound.vats.vatEnd = f)

theorem test_wit_LoadProgramLoads : (accepts unbound .h0 && decide (unbound.prog 3 = none) &&
    ((unbound.prog 0).all fun g => g.bound.isNone) && loads 0 64 imgLoad none && loads 3 128 { imgLoad with red := none } none &&
    loads 0 192 img (some { code := fDESC_INVALID, item := 6 })) = true := by decide +kernel
theorem test_wit_StateAttested_export : (let s := withKeys
    accepts s .h0 = true ∧ s.vats.mem.errs = [] ∧ s.trainImage = some img ∧
    okIs (s.sec.exportKey (args 3 0x1000 97 0 1).a0.toNat) (List.replicate 32 7) = true ∧ 0 < (args 3 0x1000 97 0 1).a4.toNat ∧
    (args 3 0x1000 97 0 1).a4.toNat ≤ 1048576 ∧
    s.persistentRange (args 3 0x1000 97 0 1).a3.toNat (args 3 0x1000 97 0 1).a4.toNat = true ∧
    (args 3 0x1000 97 0 1).a4.toNat + 96 ≤ (args 3 0x1000 97 0 1).a2.toNat) := by decide +kernel
theorem test_wit_StateAttested_import : accepts bound .h0 = true ∧ bound.trainImage = some img ∧ (args 0 0 0 0 9).a2 = 0 := by
  decide +kernel
theorem test_wit_StateAttested_attest : accepts bound .h0 = true ∧ (args 0 0 8481 7 0).a3.toNat < 8 ∧
    2496 + 3105 + 2880 ≤ (args 0 0 8481 7 0).a2.toNat := by decide +kernel
/-- 1,048,577 bytes take two objects. -/
theorem test_wit_StateAttested_objects :
    (let s := withKeys
     let a := args 3 0x1000 (2 ^ 32) 0 1048577
     accepts s .h0 = true ∧ s.trainImage = some img ∧ okIs (s.sec.exportKey a.a0.toNat) (List.replicate 32 7) = true ∧
     a.a4 ≠ 0 ∧ s.persistentRange a.a3.toNat a.a4.toNat = true ∧ exportSize a.a4.toNat ≤ a.a2.toNat ∧
     (s.site (hostSite .h0)).seqTx < 2 ^ 32 ∧ cdiv a.a4.toNat 1048576 = 2) := by decide +kernel
/-- The key-encryption key 00 to 1F of the test vector of RFC 3394, 4.6. -/
def rfcKek : List Byte := (List.range 32).map fun n => .ofNat 8 n
/-- Its wrapped key. -/
def rfcWrapped : List Byte := [0x28, 0xC9, 0xF4, 0x04, 0xC4, 0xB8, 0x10, 0xF4, 0xCB, 0xCC, 0xB3, 0x5C, 0xFB, 0x87, 0xF8, 0x26,
  0x3F, 0x57, 0x86, 0xE2, 0xD8, 0x0E, 0xD3, 0x26, 0xCB, 0xC7, 0xF0, 0xE7, 0x1A, 0x99, 0xF4, 0x3B, 0xFB, 0x98, 0x8B, 0x9B, 0x7A,
  0x02, 0xDD, 0x21]
/-- The key data of that vector (RFC 3394, 4.6). -/
def rfcDek : List Byte := ((List.range 16).map fun n => .ofNat 8 (17 * n)) ++ (List.range 16).map fun n => .ofNat 8 n
theorem test_kw_unwrap : kwUnwrap rfcKek rfcWrapped = some rfcDek := by decide +kernel

/-- The header of an ingress object of KIND 1 under slot 3, with that wrapped key and the IV 0 (R398). -/
def objHead : List Byte := [0x01, 0x53, 1, 3, 0, 0, 0, 0] ++ rfcWrapped ++ List.replicate 16 0
/-- The tag of that object with no ciphertext, and another one. -/
def objTag (good : Bool) : List Byte :=
  let t := gcmTag (aesKeys rfcDek) (bytesAt objHead 48 12) objHead []
  if good then t else t.map (· + 1)
/-- `bound` with the vector's key in slot 3 and host memory of H0 as given. -/
def importing (m : Mem) : State := { bound with
  sec := { bound.sec with slots := [(3, some ⟨rfcKek, true⟩)] }, h0 := { bound.h0 with mem := m } }

theorem test_object_tag : (objTag true).length = 16 := by decide +kernel
theorem test_object_header : objHead.length = 64 ∧ bytesAt objHead 8 40 = rfcWrapped ∧ leAt objHead 0 2 = 0x5301 ∧
    leAt objHead 2 1 = 1 ∧ leAt objHead 3 1 = 3 ∧ leAt objHead 4 4 = 0 ∧ leAt objHead 60 4 = 0 := by decide +kernel

/-- With its own tag the object verifies, with another it does not (R399, R400). -/
theorem test_object_verifies (good : Bool) (x : Security) (m : Mem) (hs : x.slot 3 = some ⟨rfcKek, true⟩)
    (hm : memRead m 0x1000 80 = objHead ++ [] ++ objTag good) : ∃ pt, x.ingress m 1 3 0x1000 80 = .ok (pt, good) := by
  obtain ⟨h1, h2, h3⟩ := test_object_header
  have hn : 0 + 80 ≤ maxObject := by norm_num [maxObject]
  have hu : kwUnwrap rfcKek (bytesAt objHead 8 40) = some rfcDek := by rw [h2]; exact test_kw_unwrap
  have h := Security.ingress_sealed (addr := 0x1000) (by norm_num) hs h1 (List.length_nil (α := Byte)) hn h3 hu hm
  have ht : (objTag true == objTag good) = good := by
    have l := test_object_tag
    cases good with
    | true => simp
    | false =>
      rw [show objTag false = (objTag true).map (· + 1) from rfl]
      match objTag true, l with
      | b :: r, _ => simp
  rw [Nat.zero_add, show gcmTag (aesKeys rfcDek) (bytesAt objHead 48 12) objHead [] = objTag true from rfl, ht] at h
  exact ⟨_, h⟩

theorem test_wit_StateAttested_object (good : Bool) : ∃ m, let s := importing m
    accepts s .h0 = true ∧ s.trainImage = some img ∧ s.vats.mem.errs = [] ∧ (args 3 0x1000 80 0 1).a2.toNat = 80 ∧
    ∃ pt, s.sec.ingress (s.port .h0).mem 1 3 0x1000 80 = .ok (pt, good) := by
  have h := memRead_memWrite [] 0x1000 (objHead ++ [] ++ objTag good)
  have l : (objHead ++ [] ++ objTag good).length = 80 := by
    rw [List.append_nil, List.length_append, test_object_header.1]
    cases good with
    | true => rw [test_object_tag]
    | false => rw [show objTag false = (objTag true).map (· + 1) from rfl, List.length_map, test_object_tag]
  rw [l] at h
  generalize memWrite [] 0x1000 (objHead ++ [] ++ objTag good) = m at h
  exact ⟨m, rfl, rfl, rfl, by decide, test_object_verifies _ _ _ rfl h⟩
/-- An object of 8 bytes is too short, and one of a slot without key has none (R399). -/
theorem test_wit_StateAttested_bad : (let s := importing []
    accepts s .h0 = true ∧ 0 < (args 3 0 8 0 1).a2.toNat ∧ (args 3 0 8 0 1).a2.toNat ≤ 80 ∧
    (match s.sec.ingress (s.port .h0).mem 1 3 0 8 with
     | .error c => c == fAUTH_TAG_FAIL
     | .ok _ => false) = true ∧
    (match s.sec.ingress (s.port .h0).mem 1 4 0 8 with
     | .error c => c == fKEY_UNKNOWN
     | .ok _ => false) = true) := by decide +kernel
theorem test_wit_PairResetScrub : accepts bound .h0 = true ∧ bound.trainImage = some img ∧ bound.twin.st = 0 ∧
    bound.train.ph2 = none ∧ bound.vats.mem.errs = [] ∧ bound.loaded ≠ [] ∧
    accepts ready .h0 = true ∧ ready.trainImage = none ∧ ready.twin.st = 0 ∧ ready.loaded = [] ∧
    (let s := { bound with twin := { st := 1 } }
     accepts s .h0 = true ∧ s.trainImage = some img ∧ s.twin.st = 1) := by decide +kernel
theorem test_wit_PairResetScrub_holder : (let s := { bound with twin := { st := 3 } }
    accepts s .h0 = true ∧ s.trainImage = some img ∧ s.twin.st = 3 ∧
    ∀ q, q < 4 → (s.twin.port q).ctrIn < 2 ^ 32 ∧ (s.twin.port q).ctrOut + 1 < 2 ^ 32) := by decide +kernel

/-! Witnesses: key packages -/

/-- A module in the factory state, with host memory as given at H0. -/
def factory (m : Mem) : State := { ready with h0 := { ready.h0 with mem := m } }

/-- A package of an OP without SLOT at 0x2000, with order 1 where it takes one. -/
def package (op : Nat) : Mem := if op = 4 ∨ op = 6 then [(0x2000, .ofNat 8 op)] else [(0x2000, .ofNat 8 op), (0x2018, 1)]

/-- The 4,728 bytes of that package. -/
def packageBytes (op : Nat) : List Byte := memRead (package op) 0x2000 4728

/-- A package of the wrong length, and one for another module, fail their checks. -/
theorem test_wit_KeyPackages_bad : accepts (factory []) .h0 = true ∧ (args 0 4727 0 0 0).flags = 0 ∧
    leNat (memRead (factory []).h0.mem 0 2) = 0 ∧ (factory []).pkFault [] 4727 = some fDESC_INVALID ∧
    { factory (package 3) with ident := { ready.ident with serial := 5 } }.pkFault (packageBytes 3) 4728 = some fSEAL_VIOLATION := by
  decide +kernel
theorem test_wit_KeyPackages_zeroize : (factory (package 4)).pkFault (packageBytes 4) 4728 = none ∧ pkOp (packageBytes 4) = 4 ∧
    accepts (factory (package 4)) .h0 = true ∧ (args 0x2000 4728 0 0 0).a1.toNat = 4728 := by decide +kernel
theorem test_wit_KeyPackages_unseal : (factory (package 5)).pkFault (packageBytes 5) 4728 = none ∧ pkOp (packageBytes 5) = 5 := by
  decide +kernel
theorem test_wit_KeyPackages_seal : (let s := { factory (package 6) with sec := { ready.sec with isSealed := false } }
    s.pkFault (packageBytes 6) 4728 = none ∧ pkOp (packageBytes 6) = 6 ∧ s.sec.isSealed = false) := by decide +kernel
/-- Signatures are an uninterpreted function (log entry 8), so these witnesses take a package that verifies. -/
theorem test_wit_KeyPackages_owner (h : (factory (package 1)).sec.sigOk (packageBytes 1) = true) :
    (factory (package 1)).pkFault (packageBytes 1) 4728 = none := by
  unfold State.pkFault
  rw [h]
  decide +kernel
theorem test_wit_KeyPackages_slot (h : (factory (package 3)).sec.sigOk (packageBytes 3) = true) :
    (factory (package 3)).pkFault (packageBytes 3) 4728 = none ∧ pkOp (packageBytes 3) = 3 ∧ pkSlot (packageBytes 3) = 0 := by
  unfold State.pkFault
  rw [h]
  decide +kernel
theorem test_wit_KeyPackages_load (h : (factory (package 2)).sec.sigOk (packageBytes 2) = true)
    (g : (pkKek (packageBytes 2)).isNone = false) : (factory (package 2)).pkFault (packageBytes 2) 4728 = none := by
  unfold State.pkFault
  rw [h, g]
  decide +kernel

/-! Witnesses: the abort and the registers -/

/-- `bound` with H0's RUN_STEPS running in phase 1 of step 1. -/
def stepping : State := { bound with
  h0 := { bound.h0 with cmd := stepsRun.page }, run := some stepsRun
  train := { running := true, last := 2, ph1 := some { step := 1, attempt := 0, started := true } } }

/-- A sealed step with nothing to do. -/
def sealed1 : SealedStep := ⟨1, 0, [], [], shake256 [] 32, []⟩

/-- A query in progress in slot 1. -/
def serving : State := { bound with
  run := some { stepsRun with op := 5 }
  queries := [(1, { served := true, run := some { k := 0, entry := [], input := { ring := 0, entry := [] } } })] }

theorem test_wit_AbortActs : stepping.reaches .h0 = true ∧ stepping.lease.owner = HPort.num .h0 + 1 ∧
    (1#32).getLsbD 0 = true ∧ { stepsRun with begun := false }.op = 4 ∧ stepsRun.op = 4 ∧ stepsRun.begun = true ∧
    (let s := { stepping with train := { stepping.train with ph2 := some sealed1 } }
     s.train.ph2 ≠ none ∧ s.train.ending = none ∧ s.reaches .h0 = true ∧ s.lease.owner = 1) ∧
    serving.reaches .h0 = true ∧ serving.lease.owner = 1 ∧ serving.run = some { stepsRun with op := 5 } ∧
    (serving.query 1).runs = true ∧ stepping.lease.owner ≠ HPort.num .h1 + 1 ∧ stepping.reaches .h1 = true := by decide +kernel
/-- A running TWIN_JOIN of H0. -/
def joinRun : Running := { op := 0x0A, port := .h0, page := {}, begun := true }
theorem test_wit_AbortActs_phase1 : (let s := stepping
    s.run = some stepsRun ∧ s.train.ph1.isSome = true ∧ s.train.ph2 = none ∧ s.train.sealedStep = none ∧
    s.train.ending = none ∧ ∀ q, q < 4 → (s.query q).run = none) := by decide +kernel
theorem test_wit_AbortActs_join : ([0, 2, 4].all fun st => let s := { bound with run := some joinRun, twin := { st := st } }
    s.reaches .h0 && s.lease.owner == 1 && decide (s.run = some joinRun) && joinRun.op == 0x0A && s.twin.st == st) = true ∧
    bound.reaches .h0 = true ∧ bound.lease.owner = HPort.num .h0 + 1 ∧ bound.run = none ∧ (0#32).getLsbD 0 = false := by
  decide +kernel
theorem test_wit_LeasePage : ready.reaches .h0 = true ∧ (ready.page pgLease).lost = false ∧
    ready.lease.owner = HPort.num .h0 + 1 ∧ { ready with lease := {} }.lease.owner = 0 ∧
    10 ≤ (10#32).toNat % 65536 ∧ (60000#32).toNat % 65536 ≤ 60000 ∧ ready.lease.owner ≠ HPort.num .h1 + 1 := by decide +kernel
/-- 9 and 60,001 ms are outside the range of a timeout. -/
theorem test_lease_timeout_bounds : (runs (.leaseTimeout .h0 10) ready { ready with lease := { ready.lease with timeout := 10 } } &&
    runs (.leaseTimeout .h0 9) ready ready && runs (.leaseTimeout .h0 60001) ready ready &&
    runs (.leaseTimeout .h0 60000) ready { ready with lease := { ready.lease with timeout := 60000 } }) = true := by decide +kernel
theorem test_wit_RegisterWrites : ready.reaches .h1 = true ∧ ready.ident.ready = true ∧ ready.sec.scrubBusy = false ∧
    ready.lease.owner ≠ HPort.num .h1 + 1 ∧ 47 ∈ selectableSites ∧ (∀ k, k < 10 → (ready.page k).lost = false) ∧
    (10000#32).toNat ≤ 10000 ∧ (2#32).toNat % 4 ≠ 3 ∧ (ready.page (pgSite 47)).lost = false := by decide +kernel
theorem test_wit_EventsAndCounters : ready.reaches .h0 = true ∧ ready.lease.owner = HPort.num .h0 + 1 ∧
    9 ≠ pgCmd (HPort.other .h0) ∧ 0 ≠ pgCmd (HPort.other .h0) ∧ (ready.page 9).lost = false := by decide +kernel
/-- A port that holds the bit of a masked vector. -/
def holdingVector : State := { ready with h0 := { ready.h0 with pba := 0x8000000000000001 } }
theorem test_wit_EventsAndCounters_vector : holdingVector.reaches .h0 = true ∧ holdingVector.sec.scrubBusy = false ∧
    (holdingVector.port .h0).pba.getLsbD 0 = true ∧ (holdingVector.port .h0).pba.getLsbD 63 = true ∧ 63 < 64 := by decide +kernel
/-- An event of group 0 sends an unmasked vector 0 of H0 once, and a masked one is held in the PBA (R446, R447). -/
theorem test_msix : (let s := { ready with pages := [(1, { evtEn := 2 })] }
    let open_ := { s with h0 := { s.h0 with msix := [] } }
    (open_.setEvt 1 2).h0.msgs = [0] ∧ ((open_.setEvt 1 2).setEvt 1 2).h0.msgs = [0] ∧ (s.setEvt 1 2).h0.msgs = [] ∧
    (s.setEvt 1 2).h0.pba = 1) := by decide +kernel
/-- A bit set in the cycle of the write stays set (R429). -/
theorem test_evt_same : (after (.evtWrite .h0 0x4010 6 4) { ready with pages := [(4, { evt := 7 })] }).page 4 =
    { evt := 5 } := by decide +kernel
theorem test_wit_ReadClears : ready.reaches .h1 = true ∧ ready.ident.ready = true ∧ 7 < 2 ^ 32 ∧ 47 < 48 ∧ 39 < 40 ∧
    0x3104 % 4 = 0 ∧ 0x3104 < 2 ^ 24 ∧ readClears 0x3104 = false ∧ readClears 0xA27108 = true := by decide +kernel
theorem test_wit_ReadClears_pages (k : Nat) : (ready.page k).lost = false := rfl
theorem test_wit_ReadClears_sizes : readOk 0x3101 1 = true ∧ readOk 0x3102 2 = true ∧ readOk 0x3100 8 = true ∧
    readClears 0x3104 = false := by decide +kernel
theorem test_wit_SealedAndOpen : ready.sec.isSealed = true ∧ ready.sec.scrubBusy = false ∧
    2 ^ 36 - 1 + ([0] : List Byte).length ≤ 2 ^ 36 ∧ ready.vats.mem.errs = [] ∧
    ready.reaches .h1 = true ∧ (let s := { ready with sec := { ready.sec with isSealed := false, scrubBusy := true } }
      s.sec.isSealed = false ∧ s.sec.scrubBusy = true ∧ s.reaches .h0 = true) ∧
    (let s := { ready with sec := { ready.sec with isSealed := false } }
     s.sec.isSealed = false ∧ s.sec.scrubBusy = false ∧ s.reaches .h0 = true ∧ s.ident.ready = true) := by decide +kernel
theorem test_wit_SmbusAndService : 3 ∈ [3, 44] ∧ 44 ∈ [3, 44] ∧ ready.bind.found.sites.contains 44 = false ∧
    (ready.site 44).fails < 8 ∧ smbusPage 2 = false ∧ { ready with svc := { smbusOff := 0x5100 } }.svc.smbusOff = 0x5100 := by
  decide +kernel
/-- CRC-32C of "123456789" (R358). -/
theorem test_crc32c : Check.crc32c.of (ascii "123456789") = 0xE3069283 := by decide +kernel
/-- CRC-64 of "123456789" (R358). -/
theorem test_crc64 : Check.crc64.of (ascii "123456789") = 0x995DC9BBDF1939FA := by decide +kernel

/-! Witnesses: host links, start-up, power and heat -/

theorem test_wit_PortResets : { ready with h0 := { ready.h0 with perst := true } }.h0.perst = true ∧ ready.run = none ∧
    3 < 4 ∧ 16 ≤ 16 ∧ ready.bind.found.sites.contains (hostSite .h0) = false ∧ ready.h0.link = 2 ∧ ready.reaches .h0 = true := by
  decide +kernel
theorem test_wit_PortResets_trains : [4, 8, 16].contains 16 = true ∧ [4, 8, 16].contains 12 = false ∧ 1 ≤ 3 ∧ 3 < 4 ∧ 4 ≤ 12 ∧
    Instr.wf (.perstRelease .h0 0 3) = true := by decide +kernel
/-- A start-up under way. -/
def starting (n : Nat) : State := { State.reset with power := { waves := n, report := some {} } }

theorem test_wit_StartUp : ({} : StartupReport).wf = true ∧ ({} : StartupReport).tamperOpen = false ∧
    (starting 6).power.report = some {} ∧ (starting 6).bootFails {} = false ∧
    (starting 0).bootFails { badImage := true } = true ∧ (starting 7).power.waves < 8 ∧
    (starting 7).bind.fused.fields = [] ∧ ({} : StartupReport).tripped = [] ∧ (starting 0).power.waves = 0 ∧
    { State.reset with sec := { State.reset.sec with inactive := some ⟨[], 1, 0⟩ } }.sec.inactive = some ⟨[], 1, 0⟩ ∧
    ([2, 6, 7].all fun n => let s := { starting 8 with ident := { stage := n } }
      s.pending.isEmpty && s.power.waves == 8 && decide (s.power.report = some {}) && s.ident.stage == n) = true := by
  decide +kernel
/-- Steps on an empty queue. -/
def idled : Nat → State → State
  | 0, s => s
  | n + 1, s => match step s with
    | .next t => idled n t
    | _ => s
/-- After the eighth wave the steps 2 to 7 lead to Ready with every logical cluster served. -/
theorem test_startup_ready : (idled 6 (after (.powerUpWave []) (starting 7))).ident =
    { stage := 8, ready := true, served := 1200 } ∧ (idled 5 (after (.powerUpWave []) (starting 7))).ident.stage = 7 := by
  decide +kernel
/-- 20 °C and 35 °C are inside the range of the inlet, 19.999 °C is not (R479). -/
theorem test_coolant_bounds : ((after (.coolantSample 20000 0 60000) ready).page pgPower).evt = 0 ∧
    ((after (.coolantSample 35000 0 60000) ready).page pgPower).evt = 0 ∧
    ((after (.coolantSample 19999 0 59999) ready).page pgPower).evt = 12 := by decide +kernel
theorem test_wit_FieldsLost : 47 < 48 ∧ ready.ident.ready = true ∧ State.reset.ident.ready = false ∧ ready.bind.found.fields.contains 47 = false ∧
    { ready with bind := { found := { fields := [47] } } }.bind.found.fields.contains 47 = true := by decide +kernel
theorem test_wit_FieldsLost_binding : (let u := after (.fuseTrip [(47, 2)]) ready
    ready.twin.probe = none ∧ u.bind.applied ≠ u.bind.found ∧ fieldOfLogical 1199 = 47) := by decide +kernel
theorem test_wit_PowerAndHeat : (ready.field 47).fuse = 0 ∧ (ready.page (pgField 47)).lost = false ∧
    { ready with fields := [(3, { hot := 1 })] }.field 3 = { hot := 1 } ∧ (ready.field 3).classNow < 5 ∧
    ({ hot := 2, tempMax := 105000 } : FieldState).classNow < 5 ∧ ready.train.stretch = none ∧ { ready with fields := [(3, { hot := 2, tempMax := 105000 })] }.field 3 = { hot := 2, tempMax := 105000 } ∧
    { ready with fields := [(3, { raiseTo := some 5 })] }.field 3 = { raiseTo := some 5 } := by decide +kernel
theorem test_wit_PowerAndHeat_states : (let s := { ready with power := { tolerance := 10 } }
    s.ident.ready = true ∧ s.power.waking = false ∧ s.power.pstate < s.wantState ∧ s.wantState < 4) ∧
    (let s := { ready with power := { pstate := 2, waking := true } }
     s.power.waking = true ∧ s.power.pstate < 3 ∧ s.run = none) := by decide +kernel

/-! Witnesses: security and the calender -/

theorem test_wit_SecurityEvents : ready.twin.st = 0 ∧ ready.twin.upPorts = [] ∧ ready.run = none ∧
    { ready with sec := { ready.sec with scrubBusy := true } }.sec.scrubBusy = true := by
  decide +kernel
theorem test_wit_SecurityEvents_bad : ready.fwOk [] 65536 0 = false := by simp [State.fwOk]
theorem test_wit_SecurityEvents_good (h : Config.falconVerify Config.authorityKey [] [] = true) :
    ready.fwOk [] 65535 65535 = true := by
  unfold State.fwOk
  rw [h]
  decide +kernel

/-- A peer's KX0, in the same mode and without an owner. -/
def peerKx0 : Kx0Frame := ⟨1 :: List.replicate 3088 0, [], 1, ready.sec.ownerHash⟩

/-- Calender port 0 after the exchange, before HELLO. -/
def keyed (s : State) : State := { s with twin := { s.twin with
  ports := [(0, { peer := some peerKx0, myKx1 := some ⟨[], []⟩, keyOut := some [], keyIn := some [] })] } }

theorem test_wit_KeyExchange : ready.mayTrain 3 = true ∧ (ready.twin.port 3).keyIn = none ∧ (0 : Nat) < 4 := by decide +kernel
theorem test_wit_KeyExchange_kx1 : (let s := { ready with twin := { ports := [(3, { peer := some peerKx0, myKx1 := some ⟨[], []⟩ })] } }
    s.mayTrain 3 = true ∧ (s.twin.port 3).keyIn = none ∧ (s.twin.port 3).peer = some peerKx0 ∧
    (s.twin.port 3).myKx1 = some ⟨[], []⟩) := by decide +kernel
theorem test_wit_KeyExchange_bad (h : certsOk peerKx0 = false) : ready.kx0Fault peerKx0 = some 1 := by
  simp [State.kx0Fault, h]
theorem test_wit_KeyExchange_good (h : certsOk peerKx0 = true) : ready.kx0Fault peerKx0 = none := by
  unfold State.kx0Fault
  rw [h]
  decide +kernel
theorem test_wit_PortsUpAndDown : (keyed ready).run = none ∧ ((keyed ready).twin.port 0).keyIn ≠ none ∧
    ((keyed ready).twin.port 0).aliveIn ≠ some 0 ∧ ((keyed ready).twin.port 0).up = false ∧
    ((keyed ready).twin.port 0).ctrIn + 1 < 2 ^ 32 ∧ ((keyed ready).twin.port 0).ctrOut < 2 ^ 32 ∧
    ((keyed ready).twin.port 0).peer = some peerKx0 ∧ certSerial peerKx0.idCert ≠ (keyed ready).ident.serial ∧
    (keyed ready).mayTrain 0 = true ∧ ((keyed ready).twin.port 0).keyOut ≠ none ∧ ((keyed ready).twin.port 0).hello = none ∧
    ready.mayTrain 0 = true ∧ (ready.twin.port 0).keyOut = none ∧ (ready.twin.port 0).up = false := by
  decide +kernel

/-- Ports 0 and 1 up, in a twin state. -/
def paired (st : Nat) (s : State) : State := { s with twin := { s.twin with
  st := st
  ports := [(0, { up := true, keyOut := some [], keyIn := some [] }), (1, { up := true, keyOut := some [], keyIn := some [] })] } }

theorem test_wit_PortsUpAndDown_down : ((paired 0 ready).twin.port 0).up = true ∧ ((paired 0 ready).twin.port 1).up = true := by
  decide +kernel
/-- A port without session keys hears a message that no key opens. -/
theorem test_wit_PortsUpAndDown_heard : (let h : CalHdr := { port := 0, wire := some [1, 2] }
    h.wire.isSome = true ∧ (ready.heard h 0x01).isSome = true ∧ ({ port := 0 } : CalHdr).wire = none) := by decide +kernel
/-- Port 0 up alone, in a twin state. -/
def lastPort (st : Nat) (s : State) : State := { s with twin := { s.twin with
  st := st, ports := [(0, { up := true, keyOut := some [], keyIn := some [] })] } }
theorem test_wit_PortsUpAndDown_last : ([1, 5].all fun st => let s := { (lastPort st bound) with
      train := { sealedStep := some sealed1, held := st == 5 } }
    (s.twin.port 0).up && [1, 2, 3].all (fun r => !(s.twin.port r).up) && s.twin.st == st &&
    decide (s.train.sealedStep = some sealed1) && decide (s.trainImage = some img)) = true ∧
    (lastPort 1 ready).train.sealedStep = none := by decide +kernel
theorem test_wit_PartnerMessages : (let s := paired 1 stepping
    (s.twin.port 0).keyIn ≠ none ∧ (s.twin.port 0).ctrIn + 1 < 2 ^ 32 ∧ (∀ p, p < 4 → (s.twin.port p).ctrOut + 1 < 2 ^ 32) ∧
    (∀ p, p < 4 → (s.twin.port p).ctrIn < 2 ^ 32) ∧ (s.twin.port 0).aliveIn ≠ some 0 ∧ s.twin.ignoreLeave = false ∧
    s.twin.leaveWait = false ∧ s.twin.st = 1 ∧ s.trainImage = some img ∧ s.vats.mem.errs = []) ∧
    (let s := { paired 1 stepping with twin := { (paired 1 stepping).twin with ports := [(0, { keyIn := some [], aliveIn := some 15 })] } }
     (s.twin.port 0).aliveIn = some (31 % 16)) := by decide +kernel

/-- In lockstep with step 1 sealed. -/
def comparing : State := { paired 1 stepping with train := { stepping.train with ph1 := none, sealedStep := some sealed1 } }

theorem test_wit_Comparison : comparing.twin.st = 1 ∧ comparing.train.sealedStep = some sealed1 ∧
    comparing.trainImage = some img ∧ comparing.twin.leaveWait = false ∧ (comparing.twin.port 0).up = true ∧
    0 = (comparing.site (calSite 0)).seqRx ∧ (comparing.twin.port 0).ctrIn + 1 < 2 ^ 32 ∧ (comparing.twin.port 0).ctrOut < 2 ^ 32 ∧
    1 = sealed1.step ∧ bytesAt (shake256 [] 32) 0 32 = sealed1.wmark ∧ bytesAt [] 0 32 ≠ sealed1.wmark ∧
    comparing.twin.own2 = none ∧ comparing.twin.mism = 0 ∧ comparing.train.redos < 3 ∧ comparing.twin.mism ≠ 2 ∧
    comparing.twin.theirs = none ∧ comparing.twin.upPorts ≠ [] ∧ comparing.vats.mem.errs = [] := by decide +kernel
/-- A WATERMARK that the partner sends on port 1, and the key of that direction. -/
def wireMsg : SentMsg := { port := 1, type := 0x10, attempt := 2, step := 5, offset := 0, seq := 0, body := List.replicate 32 9 }
/-- `ready` with that key. -/
def hearing : State := { ready with twin := { ports := [(1, { keyIn := some (List.replicate 32 1) })] } }
theorem test_wit_Comparison_heard : ∃ ct tag, wireMsg.port < 4 ∧ wireMsg.type ∈ [0x10, 0x11, 0x20, 0x21, 0x22, 0x23] ∧
    wireMsg.attempt < 256 ∧ wireMsg.step < 2 ^ 64 ∧ wireMsg.offset < 2 ^ 64 ∧ wireMsg.body.length < 2 ^ 32 ∧
    (hearing.twin.port wireMsg.port).keyIn = some (List.replicate 32 1) ∧
    wireMsg.seq = (hearing.site (calSite wireMsg.port)).seqRx ∧
    gcmSeal (List.replicate 32 1) (calIv 1 (1 - (hearing.twin.port 1).dir) (hearing.twin.port 1).ctrIn) []
      (wireMsg.checked (Check.ofCode (hearing.site (calSite 1)).active)) = (ct, tag) ∧ tag.length = 16 :=
  ⟨_, _, by decide, by decide, by decide, by decide, by decide, by decide, by decide +kernel, by decide +kernel, rfl,
    by decide +kernel⟩
/-- `img` with that layer. -/
def imgLayer : Image := { img with layers := [layer] }

/-- `bound` with that image. -/
def boundLayer : State := { bound with
  bind := { progs := [(0, some { image := imgLayer, measurement := [], bound := some (0, 0) })] } }

/-- A joiner that copies. -/
def joining : State := { paired 4 boundLayer with twin := { (paired 4 boundLayer).twin with join := some { joiner := true } } }

theorem test_wit_Joining : joining.trainImage = some imgLayer ∧ (joining.twin.port 1).up = true ∧
    0 = (joining.site (calSite 1)).seqRx ∧ joining.twin.st = 4 ∧ joining.twin.join = some { joiner := true } ∧
    joining.vats.mem.errs = [] ∧ 0x100000 + ([1, 2] : List Byte).length ≤ joining.vats.vatEnd ∧ 0 < stepLogLen imgLayer ∧
    ({ joiner := true } : JoinState).log = [] := by decide +kernel
theorem test_wit_Joining_timeout : (let s := { bound with run := some { op := 0x0A, port := .h0, page := {}, begun := true } }
    s.run = some { op := 0x0A, port := .h0, page := {}, begun := true } ∧ s.twin.join = none ∧ s.twin.upPorts = [] ∧
    s.trainImage = some img) := by decide +kernel

/-! Witnesses: sequencer words -/

/-- An operation word of R179: OP and the rest. -/
def word (op rest : Nat) : Nat := op * 2 ^ 58 + rest

/-- The next word of tile 0's context 0 is that of `envOf w`. -/
def atTheWord (s : State) (w : Nat) : Bool := decide (s.fetch 0 .c0 = .word (envOf w))

theorem test_wit_ControlWords : ([0x00, 0x04, 0x05].all fun op => atTheWord (atWord (word op 0)) (word op 0) &&
    (envOf (word op 0)).op == op && word op 0 % 2 ^ 58 == 0) = true := by decide +kernel
theorem test_wit_ControlWords_bad : (atTheWord (atWord (word 0 1)) (word 0 1) && decide (word 0 1 % 2 ^ 58 ≠ 0) &&
    atTheWord (atWord (word 1 (2 ^ 48))) (word 1 (2 ^ 48)) && decide (fld (word 1 (2 ^ 48)) 53 48 ≠ 0) &&
    atTheWord (atWord (word 6 (48 * 2 ^ 52))) (word 6 (48 * 2 ^ 52)) && (envOf (word 6 (48 * 2 ^ 52))).ctr == 48 &&
    atTheWord (atWord (word 3 5)) (word 3 5) && fld (word 3 5) 47 36 == 0 &&
    !((atWord (word 3 5)).page (pgCluster 0)).lost && (atWord (word 3 5)).run.isNone) = true := by decide +kernel
theorem test_wit_ControlWords_reserved :
    ([(2, 2 ^ 32), (2, 2 ^ 49), (3, 2 ^ 36 + 2 ^ 48), (4, 1), (5, 2 ^ 57), (6, 2 ^ 51), (7, 2 ^ 32)].all fun p =>
      let w := word p.1 p.2
      atTheWord (atWord w) w && (envOf w).op == p.1 &&
      decide (if p.1 = 2 then fld w 49 32 ≠ 0 else if p.1 = 3 then fld w 57 48 ≠ 0 else if p.1 < 6 then w % 2 ^ 58 ≠ 0
        else if p.1 = 6 then fld w 51 32 ≠ 0 else fld w 47 32 ≠ 0)) = true ∧
    (let w := word 3 (0x100 * 2 ^ 36 + 1)
     atTheWord (atWord w) w = true ∧
     ((atWord w).ctxOf (envOf w)).codeBase + ((atWord w).ctxOf (envOf w)).codeLen < (envOf w).pc + 8 + 8 * fld w 47 36) := by
  decide +kernel
/-- A LOOP under four others, and one whose body ends after that of the loop around it. -/
def nested (ls : List LoopLevel) : State :=
  let w := word 3 (2 ^ 36 + 2)
  withTile { sram := ({} : EccMem).write 0 (leBytes 8 w), c0 := { run := .running, codeLen := 0x400, loops := ls } }
theorem test_wit_ControlWords_nested : (let w := word 3 (2 ^ 36 + 2)
    let l : LoopLevel := ⟨0, 16, 1⟩
    atTheWord (nested [l, l, l, l]) w && decide (4 ≤ ((nested [l, l, l, l]).ctxOf (envOf w)).loops.length) &&
    atTheWord (nested [⟨0, 8, 1⟩]) w && decide ((8 : Nat) < (envOf w).pc + 8 + 8 * fld w 47 36)) = true := by decide +kernel
/-- SETI of −1 to x15, with its word written out: OP 0x01, RD 15, IMM 48 ones (R180). -/
theorem test_seti : ((after (.seti 0 .c0) (atWord 0x07C0FFFFFFFFFFFF)).tile 0).c0.reg 15 = 2 ^ 64 - 1 := by decide +kernel
/-- ADDI wraps modulo 2^64: x1 of all ones plus 1 is 0. -/
theorem test_addi_wraps : ((after (.addi 0 .c0) (atWord (word 2 (1 * 2 ^ 54 + 1 * 2 ^ 50 + 1)) {} [(1, 0xFFFFFFFFFFFFFFFF)])).tile 0).c0.reg 1 = 0 := by
  decide +kernel
theorem test_wit_ScalarWords : atTheWord (atWord 0x07C0FFFFFFFFFFFF) 0x07C0FFFFFFFFFFFF = true ∧
    (envOf 0x07C0FFFFFFFFFFFF).op = 1 ∧ fld 0x07C0FFFFFFFFFFFF 53 48 = 0 ∧ fld (word 2 1) 49 32 = 0 ∧
    atTheWord (atWord (word 2 1)) (word 2 1) = true ∧ (15 : Nat) ≠ 0 ∧ 2 ^ 64 - 1 < 2 ^ 64 := by decide +kernel
/-- A LOOP of one body word and 2 iterations at address 0: its body ends at 16. -/
theorem test_wit_LoopsAndCounters : (let w := word 3 (2 ^ 36 + 2)
    atTheWord (atWord w) w = true ∧ 16 = 0 + 8 + 8 * fld w 47 36 ∧ fld w 57 48 = 0 ∧ fld w 47 36 ≠ 0 ∧
    16 ≤ ((atWord w).ctxOf (envOf w)).codeBase + ((atWord w).ctxOf (envOf w)).codeLen ∧
    ((atWord w).ctxOf (envOf w)).loops = [] ∧ 2 = fld w 31 0 ∧ fld w 35 32 = 0) := by decide +kernel
theorem test_wit_LoopsAndCounters_ctr : (let w := word 6 (47 * 2 ^ 52 + 9)
    atTheWord (atWord w) w = true ∧ fld w 51 32 = 0 ∧ (envOf w).ctr < 48) ∧
    (let w := word 7 (47 * 2 ^ 52 + 9)
     atTheWord (atWord w) w = true ∧ fld w 47 32 = 0) := by decide +kernel
/-- A loop's last word returns to the body while iterations are left, and then goes on (R185). -/
theorem test_loop_end : ({ loops := [⟨8, 16, 2⟩] } : CtxState).goto 16 = { pc := 8, loops := [⟨8, 16, 1⟩] } ∧
    ({ loops := [⟨8, 16, 1⟩] } : CtxState).goto 16 = { pc := 16, loops := [] } := by decide +kernel

/-! Witnesses: units of the tile -/

/-- A descriptor of R220: format, base, dimensions, strides. -/
def desc (fmt base : Nat) (dims strides : List Nat) : List Byte :=
  leBytes 8 (base + fmt * 2 ^ 45 + dims.length * 2 ^ 52) ++ (List.range 6).flatMap (fun d => leBytes 4 (nth 0 dims d)) ++
  (List.range 5).flatMap (fun d => leBytes 4 (nth 0 strides d)) ++ leBytes 12 0

/-- An issue word that completes on counter 5, with its block at 0x800. -/
def issueWord (op rest : Nat) : Nat := word op (5 * 2 ^ 52 + 2 ^ 51 + rest + 0x20)

/-- A memory of pieces at ascending addresses. -/
def memOf (ps : List (Nat × List Byte)) : EccMem :=
  { cells := ps.flatMap fun p => (p.2.zipIdx.filter fun b => b.1 != 0).map fun b => (p.1 + b.2, b.1) }

/-- Tile 0 at an issue word, with its block, its descriptors and further bytes at ascending addresses. -/
def atIssue (w : Nat) (blk : List Byte) (descs data : List (Nat × List Byte)) : State :=
  withTile { sram := memOf ([(0, leBytes 8 w), (0x800, blk)] ++ descs ++ data), c0 := { run := .running, codeLen := 0x400 } }

/-- `IssueAt` as a computation, with more to hold of the block. -/
def issueOk (s : State) (w op : Nat) (full : Env → State → Bool) (more : Issue → Bool) : Bool :=
  atTheWord s w && (envOf w).op == op && (s.tile 0).sram.errs.isEmpty && !full (envOf w) s &&
  match s.block (envOf w) with
  | .ok b => more b
  | .error _ => false

/-- A check succeeds and more holds of its value. -/
def okAnd {ε α : Type} (x : Except ε α) (p : α → Bool) : Bool :=
  match x with
  | .ok a => p a
  | .error _ => false

/-- Four addresses and more of a block. -/
def blk4 (as : List Nat) : List Byte := as.flatMap (leBytes 4)

/-- The checks of a vector word pass, nothing races, and more holds of its job. -/
def vecOk (s : State) (w op : Nat) (chk : State → Env → VArgs → Except TFault VJob) (more : Issue → VJob → Bool) : Bool :=
  issueOk s w op vecFull fun b => allZero (bytesAt b.blk 32 32) && okAnd (chk s (envOf w) (VArgs.parse w b)) fun j =>
    !(s.tile 0).races .vector (s.vunit (envOf w) b j (j.run s).1 false) && more b j

/-- Tile 0 with a vector operation that waits for vat space. -/
def behind (s : State) : State :=
  s.setTile 0 { s.tile 0 with vecQ := [{ op := 0x11, ctr := 0, cen := false, ctx := .c0, waiting := true }] }

/-- The premises of `VecIssues` for a word that waits. -/
def vecWaits (s : State) (w op : Nat) (chk : State → Env → VArgs → Except TFault VJob) : Bool :=
  vecOk (behind s) w op chk fun _ _ => ((behind s).tile 0).vecQ.any fun q => q.waiting

/-- The premises of `VecIssues` for a word that runs at once. -/
def vecWit (s : State) (w op : Nat) (chk : State → Env → VArgs → Except TFault VJob) : Bool :=
  vecOk s w op chk (fun _ j =>
    let o := j.run s
    (s.tile 0).vecQ.isEmpty && j.reads.all (fun r => !r.1) && o.2.isNone && o.1.ws.all (fun x => !x.1) &&
    okAnd (s.writable (envOf w) 9 (o.1.rangesIn false)) fun _ => true)

/-- F32 tensors of 3 elements at 0x4000, 0x4100 and 0x4200, one of 1 element at 0x4300. -/
def f32Descs : List (Nat × List Byte) :=
  [(0x1000, desc 1 0x4000 [3] [] ++ desc 1 0x4100 [3] [] ++ desc 1 0x4200 [3] [] ++ desc 1 0x4300 [1] [])]

/-- A VARITH word of a SUB on those tensors; MAXABS takes blocks of 32, SUM and MAXABS answer one element. -/
def varithWord (sub : Nat) : Nat := issueWord 0x11 (sub * 2 ^ 37 + 3 * 2 ^ 32 + (if sub = 7 then 32 * 2 ^ 16 else 0))

/-- Tile 0 at that word, where the first tensor begins 1.5, 2.0 and the second 1.0, 2.5. -/
def varithAt (sub : Nat) : State :=
  atIssue (varithWord sub) (blk4 [0x1000, (if sub ≤ 5 then 0x1040 else 0xFFFFFFFF), (if sub = 3 then 0x1080 else 0xFFFFFFFF),
    (if sub = 7 ∨ sub = 8 then 0x10C0 else 0x1080), 0xFFFFFFFF, 0, 0xFFFFFFFF, 0xFFFFFFFF]) f32Descs
    [(0x4000, blk4 [0x3FC00000, 0x40000000]), (0x4100, blk4 [0x3F800000, 0x40200000])]

theorem test_wit_VectorWords_varith : ((List.range 10).all fun k => vecWit (varithAt k) (varithWord k) 0x11 State.varith &&
    fld (varithWord k) 42 37 == k) = true := by decide +kernel
/-- 1.5 + 1.0 = 2.5 and 2.0 + 2.5 = 4.5, counted in census slot 3: the third element is a zero. -/
theorem test_varith_add : (let t := (after (.add 0 .c0) (varithAt 0)).tile 0
    t.sram.read 0x4200 8 = blk4 [0x40200000, 0x40900000] ∧ sget {} t.census 3 = { zero := 1 }) := by decide +kernel
/-- VCONV of 3 F32 elements into E3M2 under the scale byte 127 at 0x4300. -/
def vconvWord : Nat := issueWord 0x10 0
/-- Tile 0 at that word, with 1.0 and 30.0 in front. -/
def vconvAt : State := atIssue vconvWord (blk4 [0x1000, 0xFFFFFFFF, 0xFFFFFFFF, 0x1040, 0x1080, 0, 0xFFFFFFFF, 0xFFFFFFFF])
  [(0x1000, desc 1 0x4000 [3] [] ++ desc 5 0x4100 [3] [] ++ desc 0xB 0x4300 [1] [])]
  [(0x4000, blk4 [0x3F800000, 0x41F00000]), (0x4300, [127])]
theorem test_wit_VectorWords_vconv : vecWit vconvAt vconvWord 0x10 State.vconv = true := by decide +kernel
/-- 1.0 is E3M2 code 0x0C, 30.0 saturates to 0x1F: bit-planes 0 to 4 of the record are 2, 2, 3, 3, 2 (R77, R81). -/
theorem test_vconv : (let t := (after (.vconv 0 .c0) vconvAt).tile 0
    t.sram.read 0x4100 24 = blk4 [2, 2, 3, 3, 2, 0] ∧ sget {} t.census 0 = { zero := 1, sat := 1 }) := by decide +kernel

/-- VRING of two G8 tensors of 2 elements. -/
def vringWord : Nat := issueWord 0x12 (2 * 2 ^ 16)
/-- Tile 0 at that word: 100 + 100 in front, both tags with S = 3. -/
def vringAt : State := atIssue vringWord (blk4 [0x1000, 0x1040, 0xFFFFFFFF, 0x1080, 0xFFFFFFFF, 0, 0xFFFFFFFF, 0xFFFFFFFF])
  [(0x1000, desc 7 0x4000 [2] [] ++ desc 7 0x4100 [2] [] ++ desc 7 0x4200 [2] [])]
  [(0x4000, [100]), (0x4080, [3]), (0x4100, [100]), (0x4180, [3])]
theorem test_wit_VectorWords_vring : vecWit vringAt vringWord 0x12 State.vring = true := by decide +kernel
/-- The sum of 200 widens the block: its tag is 0x8003 (R86). -/
theorem test_vring : (let t := (after (.vring 0 .c0) vringAt).tile 0
    t.sram.read 0x4200 4 = [200, 0, 0, 0] ∧ t.sram.read 0x4280 2 = [3, 0x80] ∧ (sget {} t.digests 2).rxn = 1) := by decide +kernel

/-- ADAMW and SGDM on 2 elements. -/
def voptWord (sub : Nat) : Nat := issueWord 0x13 (sub * 2 ^ 37)
/-- Tile 0 at that word, with the control area at 0x4800 and its coefficients 0 but lr and eps 1.0. -/
def voptAt (sub : Nat) : State :=
  atIssue (voptWord sub) (blk4 [0x1000, 0x1040, (if sub = 0 then 0x1080 else 0xFFFFFFFF), 0x1100, 0x10C0, 0, 0x4800, 0xFFFFFFFF])
  [(0x1000, desc 1 0x4000 [2] [] ++ desc 9 0x4100 [2] [] ++ desc 10 0x4200 [2] [] ++ desc 0xB 0x4300 [16] [] ++
    desc 5 0x4400 [2] [])]
  [(0x4000, blk4 [0x3F800000]), (0x4800, blk4 [0x3F800000, 0, 0, 0, 0, 0, 0x3F800000])]
theorem test_wit_VectorWords_vopt : (vecWit (voptAt 0) (voptWord 0) 0x13 voptChk && vecWit (voptAt 1) (voptWord 1) 0x13 voptChk &&
    fld (voptWord 1) 42 37 == 1) = true := by decide +kernel

/-- LOGPACK of one G8 block into the page image at 0x10000. -/
def lpkWord : Nat := issueWord 0x13 (2 * 2 ^ 37)
/-- Tile 0 at that word. -/
def lpkAt : State := atIssue lpkWord (blk4 [0x1000, 0xFFFFFFFF, 0xFFFFFFFF, 0x1040, 0xFFFFFFFF, 0, 0xFFFFFFFF, 0xFFFFFFFF])
  [(0x1000, desc 7 0x4000 [64] [] ++ desc 0xB 0x10000 [16416] [])] [(0x4000, [5])]

theorem test_wit_VectorWords_waits : (vecWaits lpkAt lpkWord 0x13 voptChk && fld lpkWord 42 37 == 2 &&
    vecWaits (varithAt 0) (varithWord 0) 0x11 State.varith) = true := by decide +kernel
/-- A VARITH MOVE out of vat space waits for its line. -/
def varithVat : State := { atIssue (varithWord 9) (blk4 [0x1000, 0xFFFFFFFF, 0xFFFFFFFF, 0x1040, 0xFFFFFFFF, 0, 0xFFFFFFFF, 0xFFFFFFFF])
  [(0x1000, desc 1 (0x4000 + 2 ^ 49) [3] [] ++ desc 1 0x4200 [3] [])] [] with vats := { stripes := 1000000 } }
theorem test_wit_VectorWords_vat : vecOk varithVat (varithWord 9) 0x11 State.varith (fun _ j =>
    !(vreads (envOf (varithWord 9)) 0 j).isEmpty) = true := by decide +kernel

/-- VTOPK of 3 scores into two entries. -/
def vtopkWord : Nat := issueWord 0x14 (2 * 2 ^ 16)
/-- Tile 0 at that word: the scores 1.5 and 2.0 in front; indices count from 7. -/
def vtopkAt : State := atIssue vtopkWord (blk4 [0x1000, 0xFFFFFFFF, 0xFFFFFFFF, 0x1040, 0xFFFFFFFF, 0, 7, 0xFFFFFFFF])
  [(0x1000, desc 1 0x4000 [3] [] ++ desc 0xB 0x4100 [4] [])] [(0x4000, blk4 [0x3FC00000, 0x40000000])]
theorem test_wit_VectorWords_vtopk : vecWit vtopkAt vtopkWord 0x14 State.vtopk = true := by decide +kernel
/-- 2.0 of index 8 before 1.5 of index 7. -/
theorem test_vtopk : ((after (.vtopk 0 .c0) vtopkAt).tile 0).sram.read 0x4100 16 = blk4 [0x40000000, 8, 0x3FC00000, 7] := by
  decide +kernel

/-- VCOMP of a 64 by 4 tensor. -/
def vcompWord : Nat := issueWord 0x15 0
/-- Tile 0 at that word: masks of row 0 keep positions 1 and 3 of the first group. -/
def vcompAt : State := atIssue vcompWord (blk4 [0x1000, 0x1040, 0xFFFFFFFF, 0x1080, 0xFFFFFFFF, 0, 0xFFFFFFFF, 0xFFFFFFFF])
  [(0x1000, desc 1 0x4000 [64, 4] [64] ++ desc 12 0x4800 [64, 4] [2] ++
    leBytes 8 (0x4900 + 2 ^ 45 + 2 ^ 51 + 2 * 2 ^ 52) ++ blk4 [64, 4, 0, 0, 0, 0, 32, 0, 0, 0, 0, 0xFFFFFFFF, 0, 0])]
  [(0x4000, blk4 [0x3F800000, 0x40000000, 0x40400000, 0x40800000]), (0x4800, [0x0A])]
theorem test_wit_VectorWords_vcomp : vecWit vcompAt vcompWord 0x15 State.vcomp = true := by decide +kernel
/-- CENSUS words on slot 3, at an address with XB = x2. -/
def censusWord (sub : Nat) : Nat := issueWord 0x16 (sub * 2 ^ 37 + 3 * 2 ^ 32 + 2 * 2 ^ 43)
/-- Tile 0 at that word, with x2 = 0x100. -/
def censusAt (sub : Nat) : State :=
  withTile { sram := memOf [(0, leBytes 8 (censusWord sub)), (0x800, leBytes 4 0x4000)]
             c0 := { x := [(2, 0x100)], run := .running, codeLen := 0x400 }
             census := [(3, { zero := 1, sat := 2, nonfin := 3, flushed := 4 })] }
theorem test_wit_CensusWords : ((List.range 3).all fun k => issueOk (censusAt k) (censusWord k) 0x16 vecFull fun b =>
    let x := VArgs.parse (censusWord k) b
    x.auxs == 0 && allZero (bytesAt b.blk 4 60) && x.sub == k && x.s0 + x.xb == 0x4100 && x.xa != x.xb &&
    okAnd ((censusAt k).writable (envOf (censusWord k)) 9 [(0x4100, 16)]) fun _ => true) = true := by decide +kernel
/-- The store goes to the block's address plus XB (R198). -/
theorem test_census_store : ((after (.censusStore 0 .c0) (censusAt 1)).tile 0).sram.read 0x4100 16 = blk4 [1, 2, 3, 4] := by
  decide +kernel

/-! Witnesses: the copy engine -/

/-- Copy words by OP; the index tensor is at 0x4200. -/
def copyWord : Nat := issueWord 0x09 0
/-- Tile 0 at a copy word of OP `op` from a 4 by 2 tensor to another; an indexed one on dimension 1 with `n` indices, 1 and 0
in front; bit 49 puts a side in vat space. -/
def copyAt (op : Nat) (n : Nat := 2) (sv : Nat := 0) (dv : Nat := 0) : State :=
  { atIssue copyWord (blk4 [0x1000, 0x1040, (if op < 2 then 0xFFFFFFFF else 0x1080)] ++
      [.ofNat 8 op, if op < 2 then 0 else 1, 0, 0] ++ leBytes 4 (if op = 1 then 1 else 0))
    [(0x1000, desc 1 (0x4000 + sv * 2 ^ 49) (if op < 3 then [4, 2] else [4, n]) [4] ++
      desc 1 (0x4100 + dv * 2 ^ 49) (if op = 1 then [2, 4] else if op = 2 then [4, n] else [4, 2]) [if op = 1 then 2 else 4] ++
      desc 0xB 0x4200 [n] [])]
    [(0x4000, blk4 [1, 2, 3, 4, 5, 6, 7, 8]), (0x4200, blk4 [1, 0])] with vats := { stripes := 1000000 } }

/-- The premises of `CopyIssues`, with more of the job. -/
def copyOk (s : State) (op : Nat) (more : State → Env → CopyJob → Bool) : Bool :=
  issueOk s copyWord 0x09 copyFull fun b => leAt b.blk 12 1 == op &&
    copyReservedOk copyWord b.blk (CopyArgs.parse b.blk) &&
    okAnd (s.copyCheck (envOf copyWord) b (CopyArgs.parse b.blk)) fun j =>
      !(s.tile 0).races .copy (j.unit s (envOf copyWord) b false) && more s (envOf copyWord) j

/-- The same with both sides in the tile, on an idle engine. -/
def copyWit (s : State) (op : Nat) (more : State → Env → CopyJob → Bool) : Bool :=
  copyOk s op fun s e j => (s.tile 0).copyQ.isEmpty && !j.src.vat && !j.dst.vat && more s e j

/-- Its destinations may be written. -/
def fits (s : State) (e : Env) (ms : List Move) : Bool := okAnd (s.writable e 10 (dstRanges ms)) fun _ => true
/-- The slices that a GATHER reads. -/
def slices (s : State) (e : Env) (j : CopyJob) : List Move := (j.gather (s.tile 0).sram e).flatMap fun g => g.moves
/-- An indexed operation that moves something. -/
def named (s : State) (j : CopyJob) : Bool :=
  !j.dst.empty && !j.src.empty && j.n != 0 && (j.badIndex (s.tile 0).sram).isNone

theorem test_wit_CopyWords_moves : ([0, 1].all fun op => copyWit (copyAt op) op (fun s e j => fits s e j.moves) &&
    (op == 1 || copyOk (copyAt op 2 0 1) op fun s _ j => (s.tile 0).copyQ.isEmpty && j.dst.vat) &&
    copyOk (copyAt op 2 1) op (fun s e j => (s.tile 0).copyQ.isEmpty && j.src.vat && !j.dst.vat && fits s e j.moves)) = true := by
  decide +kernel
theorem test_wit_CopyWords_none : ([2, 4].all fun op => copyWit (copyAt op 0) op fun _ _ j => j.n == 0) = true := by
  decide +kernel
theorem test_wit_CopyWords_busy : (let s := copyAt 3
    copyOk (s.setTile 0 { s.tile 0 with copyQ := [{ op := 9, ctr := 0, cen := false, ctx := .c0 }] }) 3
      fun s _ _ => !(s.tile 0).copyQ.isEmpty) = true := by decide +kernel
theorem test_wit_CopyWords_gather : (copyWit (copyAt 2) 2 (fun s e j => named s j && j.parts.isNone && fits s e (slices s e j)) &&
    copyOk (copyAt 2 2 1) 2 (fun s e j => (s.tile 0).copyQ.isEmpty && named s j && j.src.vat && fits s e (slices s e j))) = true := by
  decide +kernel
theorem test_wit_CopyWords_scatter : ([3, 4].all fun op => copyWit (copyAt op) op fun s e j => named s j &&
    fits s e (j.scatter (s.tile 0).sram)) = true := by decide +kernel
/-- `copyAt` for a GATHER whose source has its two slices in tiles 0 and 1 of the cluster. -/
def gatherAt : State := atIssue copyWord (blk4 [0x1000, 0x1040, 0x1080] ++ [2, 1, 0, 0] ++ leBytes 4 0)
  [(0x1000, (desc 1 (0x4000 + 2 ^ 55) [4, 2] [4]).take 56 ++
      leBytes 8 (7 + 2 ^ 15 + (7 + 2 ^ 15) * 2 ^ 21 + (1 + 2 * 2 ^ 15) * 2 ^ 42) ++
    desc 1 0x4100 [4, 2] [4] ++ desc 0xB 0x4200 [2] [])]
  [(0x4000, blk4 [1, 2, 3, 4]), (0x4200, blk4 [1, 0])]
theorem test_wit_CopyWords_parts : copyOk gatherAt 2 (fun s e j => (s.tile 0).copyQ.isEmpty && !j.src.vat && named s j &&
    j.parts.isSome && fits s e (slices s e j)) = true := by decide +kernel
/-- Its own slice is read at once, and one packet reads the other from tile 1. -/
theorem test_gather_parts : (let u := after (.gather 0 .c0) gatherAt
    (u.tile 0).sram.read 0x4100 32 = List.replicate 16 0 ++ blk4 [1, 2, 3, 4] ∧
    u.felt.packets.map (fun p => (p.kind, p.dst, p.addr, p.len)) = [(.copyRead, 1, 0x4000, 16)]) := by decide +kernel
/-- PERMUTE with PERM 1 transposes: destination (i0, i1) is source (i1, i0). -/
theorem test_permute : ((after (.permute 0 .c0) (copyAt 1)).tile 0).sram.read 0x4100 32 = blk4 [1, 5, 2, 6, 3, 7, 4, 8] := by
  decide +kernel
theorem test_wit_MovesDeliver : ([⟨0, 64, 8⟩, ⟨8, 72, 8⟩] : List Move).Pairwise
      (fun a b => overlap (a.dst, a.len) (b.dst, b.len) = false) ∧
    (∀ a ∈ ([⟨0, 64, 8⟩, ⟨8, 72, 8⟩] : List Move), ∀ b ∈ ([⟨0, 64, 8⟩, ⟨8, 72, 8⟩] : List Move),
      overlap (a.dst, a.len) (b.src, b.len) = false) := by decide +kernel

/-! Witnesses: the matrix engine -/

/-- ENG_ISSUE on engine 7, FINAL; its stream is 1. -/
def engWord : Nat := issueWord 0x08 (7 * 2 ^ 40 + 2 ^ 38 + 2 ^ 16)
/-- Its block: A, B, C, D, no W48 entries, K, M_E, N_E, no spill, census slot 1. -/
def engBlk (me : Nat) : List Byte :=
  blk4 [0x1000, 0x1040, 0xFFFFFFFF, 0x1080, 0xFFFFFFFF, 2, me + 65536, 0, 0x100, 0xFFFFFFFF, 0, 0]
/-- Tile 0 at that word: A is 8 by 2 with 1.0, 2.0 in row 0, B is 1 by 2 with 3.0, 4.0. -/
def engAt (me : Nat) : State := atIssue engWord (engBlk me)
  [(0x1000, desc 1 0x4000 [2, 8] [2] ++ desc 1 0x4100 [2, 1] [2] ++ desc 1 0x4200 [1, 8] [1])]
  [(0x4000, blk4 [0x3F800000, 0x40000000]), (0x4100, blk4 [0x40400000, 0x40800000])]
/-- The premises of a matrix operation outside ream mode. -/
def engWit (me : Nat) (more : EngJob → List OutElem → Bool) : Bool :=
  let s := engAt me
  issueOk s engWord 0x08 engFull fun b =>
    let x := EngArgs.parse engWord b.blk
    engReservedOk engWord b.blk && !x.ream && okAnd (s.engCheck (envOf engWord) b x) fun j =>
      let os := (pairs (List.range j.x.me) (List.range j.x.ne)).map fun q =>
        j.element (s.tile 0).seed 0 (s.tile 0).sram (s.engine (envOf engWord) j.x.e) q.1 q.2
      more j os && (j.x.me == 0 || (j.stop (s.tile 0).sram (s.engine (envOf engWord) j.x.e)).isNone) &&
      !(s.tile 0).races (.engine j.x.e) (s.engUnit (envOf engWord) j os j.x.me) &&
      okAnd (s.writable (envOf engWord) 8 (writeRanges (os.flatMap fun o => o.spill ++ o.out))) fun _ => true
theorem test_wit_EngineWords : engWit 8 (fun j os => j.x.me != 0 && j.x.ne != 0 && os.length == 8 && j.x.e == 7) = true := by
  decide +kernel
theorem test_wit_EngineWords_empty : engWit 0 (fun j _ => j.x.me == 0) = true := by decide +kernel
/-- 1·3 + 2·4 = 11, exact whatever the random bits; the other rows are 0 and count as zeros. -/
theorem test_engine : (let t := (after (.engIssue 0 .c0) (engAt 8)).tile 0
    t.sram.read 0x4200 8 = blk4 [0x41300000, 0] ∧ sget {} t.census 1 = { zero := 7 } ∧
    (sget {} t.engines 7).q.length = 1) := by decide +kernel

/-- A ream operation of `nnz` non-zeros in two rows, with `me` rows of the operand. -/
def reamAt (me nnz : Nat) : State := atIssue engWord
  (blk4 [0x1000, 0x1040, 0xFFFFFFFF, 0x1080, 0xFFFFFFFF, 0, me + 65536, 0, 4, 0x10C0, 0, 512])
  [(0x1000, desc 1 0x4000 [nnz] [] ++ desc 1 0x4100 [1, 2] [1] ++ desc 1 0x4200 [1, 2] [1] ++ desc 0xB 0x4300 [3] [])]
  [(0x4000, blk4 [0x3F800000, 0x40000000]), (0x4100, blk4 [0x40400000, 0x40800000]), (0x4300, blk4 [0, 1, 2])]
/-- The premises of a ream operation, with more of its job. -/
def reamWit (me nnz : Nat) (more : EngArgs → EngJob → Bool) : Bool :=
  issueOk (reamAt me nnz) engWord 0x08 engFull fun b =>
    let x := EngArgs.parse engWord b.blk
    engReservedOk engWord b.blk && x.ream && okAnd ((reamAt me nnz).reamCheck (envOf engWord) b x) fun r =>
      r.2 == nnz && more x r.1
theorem test_wit_EngineWords_ream : reamWit 8 2 (fun x j =>
    let s := reamAt 8 2
    let m := (s.tile 0).sram
    x.me != 0 && x.ne != 0 && j.x.q == 0 && match j.ptr with
      | none => false
      | some p =>
        let gs := segments m p (ptrRead m p (min 2 512)) 0 (min 2 512)
        let os := (List.range j.x.ne).flatMap (j.reamElements 0 0 m (s.engine (envOf engWord) 7) 0 gs)
        (ptrFault m p 2 (ptrRead m p (min 2 512))).isNone && gs.length == 2 && decide (gs.length ≤ nth 0 j.d.dims 1) &&
        !(s.tile 0).races (.engine j.x.e) (s.engUnit (envOf engWord) j os gs.length) &&
        okAnd (s.writable (envOf engWord) 8 (writeRanges (os.flatMap fun o => o.spill ++ o.out))) fun _ => true) = true := by
  decide +kernel
theorem test_wit_EngineWords_nothing : (reamWit 0 2 (fun x _ => x.me == 0) &&
    reamWit 8 0 fun x _ => x.me != 0 && x.ne != 0) = true := by decide +kernel
/-- An operation that waits to report on counter 5. -/
def waitingOp : UnitOp := { op := 0x08, ctr := 5, cen := true, ctx := .c0 }
theorem test_wit_UnitsComplete : (let s := withTile { engines := [(7, { q := [waitingOp] })], vecQ := [waitingOp], copyQ := [waitingOp] }
    (s.unitEnv 0 .c0).isSome = true ∧ (s.engine (envOf 0) 7).q = waitingOp :: [] ∧ (s.tile 0).vecQ = waitingOp :: [] ∧
    (s.tile 0).copyQ = waitingOp :: [] ∧ waitingOp.left = 0 ∧ waitingOp.waiting = false) := by decide +kernel

/-! Witnesses: remote operations -/

/-- A program with that tree. -/
def imgTree : Image := { img with trees := [tree] }
/-- A remote word of an opcode: RCTR 2 with REN. -/
def remoteWord (op : Nat) : Nat := issueWord op (2 * 2 ^ 37 + 2 ^ 36)
/-- Tile 0 at that word, to tile 1 of its cluster: 8 bytes, or a swap, a multicast to tiles 1 and 3, an operand 1. -/
def remoteAt (op : Nat) : State :=
  let conv := op == 0x26
  let s := atIssue (remoteWord op)
    (blk4 [0x4000, if conv then 0 else 0x5000, if conv then 0 else 8] ++
      [0, 0, if conv then 0 else 1, if op = 0x22 ∨ op = 0x23 ∨ op = 0x24 then 0xB else 0] ++
      leBytes 4 (if op = 0x24 then 0x4800 else 0xFFFFFFFF) ++ [0, 0] ++ leBytes 2 (if op = 0x25 then 0xA else 0) ++
      leBytes 2 0 ++ leBytes 2 (if conv then 1 else 0)) []
    [(0x4000, blk4 [7, 9])]
  { s with bind := { progs := [(0, some { image := imgTree, measurement := [], bound := some (0, 0) })] } }
theorem test_wit_RemoteWords : ([0x20, 0x21, 0x22, 0x23, 0x24, 0x25, 0x26].all fun op =>
    let w := remoteWord op
    issueOk (remoteAt op) w op feltFull fun b => remoteReservedOk w b (RArgs.parse w b) &&
      (okAnd ((remoteAt op).remoteCheck (envOf w) (RArgs.parse w b)) fun _ => true) &&
      !((remoteAt op).targets (envOf w) (RArgs.parse w b)).isEmpty) = true := by decide +kernel
theorem test_wit_RemoteWords_source : ([0x20, 0x22, 0x23, 0x24, 0x25, 0x26].all fun op =>
    let w := remoteWord op
    match (remoteAt op).block (envOf w) with
    | .error _ => false
    | .ok b =>
      let x := RArgs.parse w b
      !((remoteAt op).tile 0).written .outside [(x.laddr, (remoteAt op).localLen (envOf w) x)]) = true := by decide +kernel
/-- A multicast to tiles 1 and 3 leaves one packet with the 8 bytes, of which both get copies (R273). -/
theorem test_mcast : (after (.mcast 0 .c0) (remoteAt 0x25)).felt.packets.map (fun p => (p.copies, p.data)) =
    [([1, 3], blk4 [7, 9])] := by decide +kernel

/-- A packet from tile 0 to tile 1. -/
def packet (k : PacketKind) : Packet :=
  { prog := 0, src := 0, ctx := .c0, dst := 1, kind := k, addr := 0x5000, data := if k = .get then [] else blk4 [7], len := 4
    rctr := 2, ren := true, elem := 0xB, ret := 0x4800, ctr := 5, cen := true, copies := if k = .mcast then [1] else [] }
/-- That packet alone in the felt, with 3 at its address. -/
def arriving (k : PacketKind) : State :=
  { bound with felt := { packets := [packet k] }, tiles := [(1, { sram := memOf [(0x5000, blk4 [3])] })] }
theorem test_wit_RemoteLands : ([PacketKind.put, .mcast, .radd, .rmax, .rswap, .get].all fun k =>
    decide (takePacket 0 .c0 1 (arriving k).felt.packets = some (packet k, [])) &&
    !((arriving k).tile 1).written .outside [(0x5000, 4)] &&
    (match (arriving k).unitEnv 1 .c0 with
      | some e => decide (e.slot = 1) && !((arriving k).guarded e).any (overlap (0x5000, 4))
      | none => false) && ((arriving k).tile 1).sram.errs.isEmpty && (((arriving k).tile 1).others .outside).isEmpty &&
    (packet k).elem != 1 && (packet k).len == 4 && (packet k).data.length == (if k = .get then 0 else 4)) = true := by
  decide +kernel
/-- 3 + 7 = 10 at the destination, whose counter 2 increments. -/
theorem test_radd : (let t := (after (.remoteArrival 0 .c0 1) (arriving .radd)).tile 1
    t.sram.read 0x5000 4 = blk4 [10] ∧ sget 0 t.ctrs 2 = 1) := by decide +kernel
theorem test_wit_RemoteLands_back :
    (let s := { bound with felt := { responses := [{ prog := 0, dst := 0, ctx := .c0, pieces := [(0x4800, [3])], ctr := 5, cen := true }]
                                     unacked := [{ src := 0, ctx := .c0, dst := 1, chan := .request, acked := true }] } }
     (takeResponse 0 s.felt.responses).isSome = true ∧ (s.unitEnv 0 .c0).isSome = true ∧
     ((s.tile 0).others .outside).isEmpty = true ∧
     (writeRanges [(0x4800, [(3 : Byte)])]).all (fun w => !(s.guarded (envOf 0)).any (overlap w)) = true ∧
     (dropAcked 0 .c0 1 s.felt.unacked).isSome = true) := by decide +kernel
/-- Operand `ord` of the tree's first round, one F32 value 1.0 from tile 0. -/
def operand (ord : Nat) : Packet :=
  { prog := 0, src := 0, ctx := .c0, dst := 2, kind := .conv, addr := 0x6000, data := blk4 [0x3F800000], len := 4
    tree := 0, ord := ord, op := ord, ren := true }
/-- That operand alone in the felt, before the tree's destination, tile 2. -/
def converging (ord : Nat) : State := { (remoteAt 0x26) with
  tiles := [(2, { sram := memOf [(0x6000, blk4 [0x40000000])] })], felt := { packets := [operand ord] } }
/-- The state once it has landed. -/
def landed (ord : Nat) : State :=
  { converging ord with felt := { (converging ord).felt with packets := [], conv := convLand (operand ord) [] } }
/-- Operand 1 waits for operand 0; operand 0 is the next, of round 0 and of group 0. -/
theorem test_wit_RemoteLands_conv : (match (converging 0).unitEnv 2 .c0 with
    | none => false
    | some e => e.prog == 0 && ((converging 0).tile e.slot).sram.errs.isEmpty &&
      ([0, 1].all fun k => (takePacket 0 .c0 2 (converging k).felt.packets).isSome) &&
      ((landed 1).convTrees 0 2).all (fun k => match (landed 1).tree e k with
        | none => true
        | some h => ((landed 1).convNext 2 h 0 k).isNone) &&
      match (converging 0).tree e 0 with
      | none => false
      | some h => ((converging 0).treeDest 0 0).any (·.1 == 2) && decide (0 < leAt h 8 2) &&
        ((landed 0).convNext 2 h 0 0).isSome && leAt h 4 4 == 0x6000 &&
        !((converging 0).guarded e).any (overlap (0x6000, 4)) && (((converging 0).tile e.slot).others .outside).isEmpty &&
        !((converging 0).tile e.slot).written .outside [(0x6000, 4)] &&
        (match ((converging 0).treeGroups 0 0 (leAt h 3 1 == 1) (leAt h 10 2))[1]? with
         | none => true
         | some g => (g.filterMap ((landed 0).convOp 0 0 0 4)).length != g.length)) = true := by decide +kernel
/-- Operand 0 is added to the destination: 2.0 + 1.0 = 3.0; the round goes on. -/
theorem test_conv_add : (let u := after (.remoteArrival 0 .c0 2) (converging 0)
    (u.tile 2).sram.read 0x6000 4 = blk4 [0x40400000] ∧ u.felt.next ≠ [] ∧ u.felt.packets = []) := by decide +kernel

/-! Witnesses: ticks, links, binding, memories -/

/-- Step 1 in phase 1 with nothing in flight, before its first tick. -/
theorem test_wit_TickWaves_launch : (let a : Phase1 := { step := 1, attempt := 0, started := true, inputs := [{ ring := 0, entry := [], placed := true }] }
    let s := { stepping with train := { stepping.train with ph1 := some a } }
    s.cc.restricted = none ∧ s.ticking = [0] ∧ s.waveDone = true ∧ s.train.ph1 = some a) := by decide +kernel

/-- A wave that has reached some routers. -/
def waving (reached delivered : List Nat) : State :=
  { ready with felt := { wave := some { step := 1, tick := 0, progs := [0], starts := [0], reached := reached, delivered := delivered } } }

/-- The first cluster of the wave has no predecessor; the last one's router is served by another cluster. -/
theorem test_wit_TickWaves_arrive : ready.bind.applied.serves 1439 = none ∧
    ((ready.bind.applied.serves 350).map fun l => ready.bind.applied.wavePred l) = some none ∧
    ((ready.bind.applied.serves 0).bind fun l => ready.bind.applied.wavePred l).isSome = true ∧
    ((ready.bind.applied.serves 0).bind fun l => (ready.bind.applied.wavePred l).bind ready.bind.applied.server).isSome = true := by
  decide +kernel
theorem test_wit_TickWaves_deliver : (let s := waving [0] []
    s.owner 0 = none ∧ s.bind.applied.serves 0 = some 0 ∧
    (s.bind.applied.tilesAt 0).all (fun q => s.workDone q.1 q.2 .c1) = true) ∧
    (let s := { waving [0] [] with bind := bound.bind }
     s.bind.applied.serves 0 = some 0 ∧ s.owner 0 = some 0 ∧
     s.prog 0 = some { image := img, measurement := [], bound := some (0, 0) } ∧ img.isUnused 0 0 = false ∧
     (s.bind.applied.tilesAt 0).all (fun q => s.workDone q.1 q.2 .c1 &&
       !s.overruns q.1 q.2 (decide (img.ticks < (s.workIndex 0).2 + 1))) = true) := by decide +kernel
theorem test_wit_TickWaves_tile : ({ c0 := { run := .tickWait } } : Tile).c1.run ≠ .tickWait ∧
    ({ c0 := { run := .tickWait } } : Tile).c0.run = .tickWait ∧ ({ c0 := { run := .ended } } : Tile).c0.run = .ended := by
  decide +kernel
/-- A wave whose message came over link 0, into router 1, with two bits of a word inverted. -/
theorem test_wit_TickWaves_bad : (let es : List FlitErr := [{ link := 0, forward := true, err := { d := 3 } }]
    (flitsInto 1 es).any (fun x => x.err.fix.1.isNone) = true ∧ (flitsInto 0 es).any (fun x => x.err.fix.1.isNone) = false ∧
    (ready.bind.applied.serves 1).isSome = true) := by decide +kernel
theorem test_wit_LinkReplays : linkOk 0 = true ∧ ready.bind.found.linkUp 0 = true ∧ ready.felt.gaveUp = [] ∧
    ready.bind.found.living (linkEnds 0).1.1 = true ∧ ready.bind.found.living (linkEnds 0).2.1 = true ∧
    sget (0, 0) ready.felt.replays (laneKey 0 true 1) = (0, 0) ∧
    sget (0, 0) (sput (0, 0) [] (laneKey 0 true 1) (255, 7)) (laneKey 0 true 1) = (255, 7) ∧
    { ready with felt := { gaveUp := [0] } }.felt.gaveUp = [0] ∧ ready.repair.windows = [] := by decide +kernel
theorem test_wit_LinkReplays_attempt : ready.felt.attemptLinks = [] ∧
    (let s := { ready with felt := { replays := sput (0, 0) [] (laneKey 0 true 1) (255, 7) } }
     sget (0, 0) s.felt.replays (laneKey 0 true 1) = (255, 7) ∧ s.felt.gaveUp = [] ∧ s.felt.attemptLinks = []) := by decide +kernel
/-- A replay from flit 250 sends flit 3 of the lane again, and leaves flit 60 and the other lane (R249, R280). -/
theorem test_replay_window : (let e := fun (n lane : Nat) => ({ link := 0, forward := true, err := { d := 3 }, lane := lane, seq := n } : FlitErr)
    ((after (.replayRequest 0 true true 0 250) { ready with felt := { packets := [{ packet .put with
      errs := [e 3 0, e 60 0, e 3 1] }] } }).felt.packets.map fun p => p.errs) = [[e 60 0, e 3 1]]) := by decide +kernel
/-- A retired slot that the binding has not taken up. -/
def retiring : State := { ready with bind := { found := { slots := [16] } } }
/-- `bound` with a BIND or UNBIND running that waits for the binding computation. -/
def rebinding (r : BindReq) (s : State) : State :=
  { s with run := some { stepsRun with op := 1 }, bind := { s.bind with req := some r } }
/-- The premises on a waiting request: nothing found, awake, of a loaded program, and what else of it. -/
def asks (s : State) (slot : Nat) (meets moves broken : Bool) (x y : Nat) : Bool :=
  decide (s.target = s.bind.applied) && s.awake && s.run.isSome && match s.prog slot with
  | none => false
  | some g =>
    ((List.range 4).any fun i => i != slot && match s.prog i with
      | some q => (match q.bound with
        | some (a, b) => rectsMeet x y g.image.w g.image.h a b q.image.w q.image.h
        | none => false)
      | none => false) == meets &&
    (s.busy slot && decide (g.bound ≠ some (x, y))) == moves && s.bind.applied.broken (usedClusters g.image x y) == broken
/-- Segment (0, 0) with two clusters retired, which serve only four of its five logical clusters. -/
def short : State := { unbound with bind := { unbound.bind with applied := { clusters := [0, 1] }, found := { clusters := [0, 1] } } }
/-- Two programs, one bound at (20, 15) and one not. -/
def two : State := { ready with bind := { progs := [(0, some { image := img, measurement := [] }),
  (1, some { image := img, measurement := [], bound := some (20, 15) })] } }
/-- The program of `bound` with a sealed step that a divergence holds. -/
def holding : State := { bound with train := { sealedStep := some sealed1, held := true } }
theorem test_wit_BindingApplied : ready.target = ready.bind.applied ∧ ready.bind.req = none ∧
    retiring.target ≠ retiring.bind.applied ∧ (∀ i, i < 4 → retiring.prog i = none) := by decide +kernel
theorem test_wit_BindingApplied_bind : (asks (rebinding (.bind 0 20 15) unbound) 0 false false false 20 15 &&
    asks (rebinding (.bind 0 4 0) short) 0 false false true 4 0 &&
    asks (rebinding (.bind 0 20 15) two) 0 true false false 20 15 &&
    asks (rebinding (.bind 0 20 15) holding) 0 false true false 20 15 &&
    asks (rebinding (.bind 0 0 0) holding) 0 false false false 0 0) = true := by decide +kernel
theorem test_wit_BindingApplied_unbind : (asks (rebinding (.unbind 0) bound) 0 false false false 0 0 &&
    asks (rebinding (.unbind 0) holding) 0 false true false 1 1 && !(rebinding (.unbind 0) bound).busy 0 &&
    (rebinding (.unbind 0) holding).busy 0) = true := by decide +kernel
theorem test_wit_BindingApplied_found : (let s := { retiring with run := some { stepsRun with begun := false }, power := { waking := true } }
    s.target ≠ s.bind.applied ∧ (∀ i, i < 4 → s.prog i = none) ∧ s.power.waking = true) ∧ retiring.run = none ∧
    stepsRun.begun = true := by decide +kernel
/-- Columns 0x07 and 0x80 of H (R353): a single data error and a single check error are corrected, 0x03 is not. -/
theorem test_secded : syndrome 0x07 = .dataBit 0 ∧ syndrome 0x80 = .checkBit 7 ∧ syndrome 0x8F = .dataBit 63 ∧
    syndrome 0x03 = .uncorrectable := by decide +kernel
theorem test_wit_WriteBacks : (let t : Tile := { sram := { errs := [(8, { d := 1 })], due := [8] } }
    (withTile t).tile 0 = t ∧ t.sram.due.contains (15 / 8 * 8) = true) ∧
    (let s := { bound with vats := { bound.vats with mem := { errs := [(8, { d := 1 })], due := [8] } } }
     s.vats.mem.due.find? (fun w => vatOf w == vatOf 8) = some 8 ∧ vatOf 8 < 40 ∧ 8 % 8 = 0 ∧
     (s.bind.applied.servingPort (vatOf 8)).isSome = true) ∧
    (bound.vats.vat 39).patrol = true ∧ (bound.bind.applied.servingPort 39).isSome = true ∧ bound.vats.mem.errs = [] ∧
    { bound with vats := { vats := [(3, { patrol := false })] } }.vats.vat 3 = { patrol := false } := by decide +kernel
theorem test_wit_WriteBacks_clock : (ready.field 0).tstate = 0 ∧ fieldOfCluster (0 / 17) = 0 ∧
    ({ ready with fields := [(0, { tstate := 1 })] }.field 0).tstate ≠ 0 := by decide +kernel
/-- The write-back of a word whose bit 0 is inverted stores the byte as it was (R356). -/
theorem test_write_back : ((after (.sramWriteBack 0 8) (withTile { sram := { errs := [(8, { d := 1 })], due := [8] } })).tile 0).sram =
    {} := by decide +kernel

/-- A query program bound at (0, 0), in slot 1. -/
def serveOnly : State := { ready with bind := { progs := [(1, some { image := img, measurement := [], bound := some (0, 0) })] } }
/-- A vat with one request of tile 0 in its third queue. -/
def lined (r : LineReq) : State :=
  { serveOnly with vats := { stripes := 1000, vats := [(0, { turn := 2, qOther := [r] })] } }
theorem test_wit_LinesServed : (let r : LineReq := { addr := 0, write := true, data := [(8, [1])], asker := .tile 0 .c0 4 }
    ready.bind.applied.servedBy 0 = [0] ∧ ((lined r).env 0 .c0).isSome = true ∧ (lined r).vats.mem.errs = [] ∧ ((lined r).vats.vat 0).turn = 2 ∧
    ((lined r).vats.vat 0).qOther = [r] ∧ (lined r).trainImage = none ∧ ((lined r).site (vatSite 0)).fails < 8 ∧
    ((lined { r with write := false, fails := 8 }).vats.vat 0).qOther = [{ r with write := false, fails := 8 }]) := by
  decide +kernel
/-- A line of a copy operation that waits for it, and a response that carries one. -/
def copying : State :=
  { bound with tiles := [(0, { copyQ := [{ op := 9, ctr := 0, cen := false, ctx := .c0, left := 1, id := 4 }] })]
               felt := { responses := [{ prog := 0, dst := 0, ctx := .c0, pieces := [(0x4000, [1])], opId := some 4 }] } }
theorem test_wit_LinesServed_tile : (copying.env 0 .c0).isSome = true ∧ (copying.tile 0).vecQ = [] ∧
    (copying.tile 0).copyQ.all (fun o => o.todo.isEmpty) = true ∧ (copying.unitEnv 0 .c0).isSome = true ∧
    (copying.felt.responses.head?.map fun r => (r.dst, r.opId, flitBad r.errs)) = some (0, some 4, false) := by decide +kernel
/-- A line that comes with a word in error or not. -/
def vline (bad : Bool) : LineReq := { addr := 0, write := false, asker := .tile 0 .c0 4
                                      errs := if bad then [{ link := 0, forward := true, err := { d := 3 } }] else [] }
/-- That line, of a vector operation that waits for two, of a tile whose field is in a tile state. -/
def vlined (ts : Nat) (bad : Bool) : State := { serveOnly with
  fields := if ts = 0 then [] else [(0, { tstate := ts })]
  vats := { stripes := 1000, vats := [(0, { turn := 2, qOther := [vline bad] })] }
  tiles := [(0, { vecQ := [{ op := 0x11, ctr := 0, cen := false, ctx := .c0, left := 2, id := 4 }] })] }
theorem test_wit_LinesServed_vector : ([(0, false), (0, true), (1, false)].all fun p => let s := vlined p.1 p.2
    (s.env 0 .c0).isSome && decide ((s.vats.vat 0).qOther = [vline p.2]) && (flitBad (vline p.2).errs == p.2) &&
    (s.vats.vat 0).qStream.isEmpty && (s.vats.vat 0).qC1.isEmpty && ((s.field (fieldOfCluster 0)).tstate == p.1) &&
    decide (s.bind.applied.servedBy 0 = [0]) && s.vats.mem.errs.isEmpty && ((s.vats.vat 0).turn == 2) &&
    (s.tile 0).copyQ.isEmpty && decide ((s.tile 0).vecQ.map (fun o => (o.id, o.left)) = [(4, 2)]) &&
    s.trainImage.isNone) = true := by decide +kernel

/-! Witnesses: steps, queries, counters, faults -/

/-- The running RUN_STEPS with the fill index as given. -/
def filled (s : State) (n : Nat) : State := { s with h0 := { s.h0 with mem := if n = 0 then [] else [(0x40, .ofNat 8 n)] } }

/-- Before step 1. -/
def idle1 : State := { stepping with train := { running := true, last := 2 } }

theorem test_wit_StepsBegin : (let s := filled idle1 0
    s.run = some stepsRun ∧ s.trainImage = some img ∧ s.mayBegin = true ∧ s.feltClear 0 = true ∧
    (s.port stepsRun.port).dmaUp = true ∧ s.train.ph1 = none ∧ s.twin.st ≠ 3 ∧ s.nextStep ≤ s.train.last ∧
    leNat (memRead (s.port stepsRun.port).mem stepsRun.page.feedFill.toNat 8) < s.nextStep ∧ s.train.feedWait = false ∧
    { s with train := { s.train with feedWait := true } }.mayBegin = true) ∧
    (let s := filled idle1 1
     s.nextStep ≤ leNat (memRead (s.port stepsRun.port).mem stepsRun.page.feedFill.toNat 8) ∧ s.mayBegin = true ∧
     s.feltClear 0 = true ∧ s.twin.join = none ∧
     ({ s with train := { s.train with feedWait := false, redos := 0, overrun := false, throttled := false } }
       : State).boundary.periodOf 0 ≤ 64) ∧
    (let s := { stepping with train := { stepping.train with ph1 := some { step := 1, attempt := 1 } } }
     s.mayBegin = true ∧ s.feltClear 0 = true ∧ s.twin.join = none) := by
  decide +kernel
/-- `idle1` as the holder of a copy, with a step in phase 2 or without. -/
def holder (p2 : Bool) : State :=
  { idle1 with twin := { st := 3 }, train := { idle1.train with ph2 := if p2 then some sealed1 else none } }
theorem test_wit_StepsBegin_holder : ([false, true].all fun b => (holder b).mayBegin && (holder b).feltClear 0 &&
    (holder b).twin.st == 3 && (holder b).train.ph2.isSome == b && ((holder b).port .h0).dmaUp) = true ∧
    (holder true).run = some stepsRun ∧ (holder true).trainImage = some img := by decide +kernel
/-- Stream and view entries of tick 1, from vat address 0. -/
def imgEntries : Image := { imgLayer with
  streams := [leBytes 8 0 ++ leBytes 4 64 ++ leBytes 4 0x4000 ++ [0, 0, 0, 0] ++ leBytes 2 1 ++ [0, 0] ++ leBytes 4 1 ++ leBytes 4 0]
  views := [leBytes 4 0 ++ leBytes 4 0 ++ leBytes 4 1 ++ leBytes 4 0x4000 ++ [0, 0, 0, 0] ++ leBytes 2 1 ++ [0, 0] ++ leBytes 4 1 ++ leBytes 4 0]
  inputs := [[0, 1, 0, 0, 0, 0, 0, 0] ++ leBytes 8 0x4000 ++ List.replicate 16 0] }
/-- Phase 1 of that program after its tick has been launched and delivered. -/
def entering : State := { stepping with
  bind := { progs := [(0, some { image := imgEntries, measurement := [], bound := some (0, 0) })] }
  train := { stepping.train with ph1 := some { step := 1, attempt := 0, started := true, tick := 2
                                               inputs := [{ ring := 0, entry := List.replicate 32 0 }] } } }
theorem test_wit_InputsAndEntries_failed : entering.inputPort 0 = some .h0 ∧
    entering.inputAt 0 0 = some { ring := 0, entry := List.replicate 32 0 } ∧ (entering.port .h0).dmaUp = true ∧
    entering.inputHeld 0 0 = false ∧ (entering.site (hostSite .h0)).fails < 8 := by decide +kernel
theorem test_wit_InputsAndEntries_placed : entering.run = some stepsRun ∧ (entering.port stepsRun.port).dmaUp = true ∧
    entering.prog 0 = some { image := imgEntries, measurement := [], bound := some (0, 0) } ∧
    leAt (nth [] imgEntries.inputs 0) 0 1 = 0 ∧ leAt (List.replicate 32 0) 8 8 = 0 ∧
    entering.bind.applied.tileSlot 0 = some 0 ∧
    okIs (entering.sec.ingress (entering.port .h0).mem 0 (leAt (List.replicate 32 0) 16 1) 0 0) ([], true) = true ∧
    ([] : List Byte).length ≤ leAt (nth [] imgEntries.inputs 0) 16 8 ∧ ((entering.tile 0).others .outside).isEmpty = true := by decide +kernel
/-- An object of 8 bytes is too short (R399). -/
theorem test_wit_InputsAndEntries_bad : (match entering.sec.ingress (entering.port .h0).mem 0 0 64 8 with
    | .error _ => true
    | .ok _ => false) = true ∧ allZero (bytesAt (leBytes 8 64 ++ leBytes 8 8 ++ List.replicate 16 0) 17 7) = true ∧
    stepsRun.op = 4 ∧ entering.train.ph2 = none := by decide +kernel
theorem test_wit_InputsAndEntries : entering.trainImage = some imgEntries ∧
    entering.startedEntries 0 false = [] ∧ entering.startedEntries 0 true = [] ∧
    (imgEntries.streams.all fun e => entering.tickArrived 0 (RectEntry.parse e).tick && streamLen e != 0 &&
      entering.layerReady imgEntries (streamLayer e) && !(entering.destSlots 0 (RectEntry.parse e)).isEmpty) = true ∧
    (imgEntries.views.all fun e => entering.tickArrived 0 (RectEntry.parse e).tick && viewNblk e != 0 &&
      entering.layerReady imgEntries (viewLayer e) && !(entering.destSlots 0 (RectEntry.parse e)).isEmpty) = true ∧
    imgEntries.layers[viewLayer (nth [] imgEntries.views 0)]? = some layer := by decide +kernel
/-- `entering` with the field of its tile gated. -/
def entryHeld : State := { entering with fields := [(0, { tstate := 1 })] }
theorem test_wit_InputsAndEntries_held : entryHeld.inputHeld 0 0 = true ∧ entering.inputHeld 0 0 = false ∧
    (entering.inputAt 0 0).map (fun x => (x.placed, x.coming)) = some (false, false) := by decide +kernel
/-- A stream entry that moves nothing. -/
def emptyStream : List Byte := leBytes 8 0 ++ leBytes 4 0 ++ leBytes 4 0x4000 ++ [0, 0, 0, 0, 1, 0, 0, 0] ++ leBytes 4 1 ++ leBytes 4 0
theorem test_wit_InputsAndEntries_empty : streamLen emptyStream = 0 ∧
    (entering.destSlots 0 (RectEntry.parse emptyStream)).all (fun q => !entering.unclocked q) = true ∧
    (entering.destSlots 0 (RectEntry.parse emptyStream)).isEmpty = false := by decide +kernel
theorem test_wit_InputsAndEntries_length : leAt (List.replicate 32 (0 : Byte)) 8 8 = 0 := by decide +kernel
/-- A step in phase 2 whose chunks are all done, and one with its layer's chunk to do. -/
def sealedOf (n : Nat) (ls : List LayerSeal) : SealedStep := ⟨n, 0, [], [], [], ls⟩
theorem test_wit_SealAndCommit : (let s := { stepping with train := { stepping.train with
      ph1 := some { step := 1, attempt := 0, started := true, tick := 2 } } }
    s.trainImage = some img ∧ s.vats.mem.errs = [] ∧ s.cc.restricted = none ∧ s.twin.st ≠ 1 ∧ s.train.ph2 = none ∧
    s.workOver 0 2 img [] = true) ∧
    (let s := { bound with train := { ph2 := some (sealedOf 1 []) } }
     s.nextChunk img 1 = none ∧ s.twin.join = none ∧ s.run = none) := by decide +kernel
/-- The couch of `img` with COMMITTED, PHASE2 and STAGED. -/
def couched (c p st : Nat) : State := { bound with
  train := { ph2 := some (sealedOf p []) }, vats := { bound.vats with mem := memOf [(0x80000, wordBytes [c, p, st])] } }
theorem test_wit_SealAndCommit_roll : leAt ((couched 4 noStep 0).vats.mem.read img.couch 24) 8 8 = noStep ∧
    leAt ((couched 5 5 0).vats.mem.read img.couch 24) 0 8 = 5 ∧ 5 ≠ noStep ∧
    leAt ((couched 4 5 5).vats.mem.read img.couch 24) 8 8 = 5 ∧ leAt ((couched 4 5 5).vats.mem.read img.couch 24) 0 8 ≠ 5 ∧
    leAt ((couched 4 5 5).vats.mem.read img.couch 24) 16 8 = 5 ∧
    leAt ((couched 4 5 0).vats.mem.read img.couch 24) 8 8 = 5 ∧ leAt ((couched 4 5 0).vats.mem.read img.couch 24) 16 8 ≠ 5 ∧
    (couched 4 5 0).train.ph2 = some (sealedOf 5 []) ∧ (couched 4 5 0).nextChunk img 5 = none ∧
    (couched 4 5 0).twin.join = none ∧ (couched 4 5 0).vats.mem.errs = [] := by decide +kernel
theorem test_wit_SealAndCommit_base : img.red = none ∧ imgLoad.red ≠ none := by decide +kernel
theorem test_wit_ChunksComplete : (let x := sealedOf 1 [{ skip := true }]
    let s := { boundLayer with train := { ph2 := some x } }
    s.trainImage = some imgLayer ∧ s.vats.mem.errs = [] ∧ s.nextChunk imgLayer x.step = some 0 ∧
    imgLayer.layerOf 0 = some (0, layer, 0) ∧ x.layers[0]? = some { skip := true }) := by decide +kernel
/-- A chunk of a layer that is not skipped. -/
theorem test_wit_ChunksComplete_done : (let x := sealedOf 1 [{ skip := false }]
    let s := { boundLayer with train := { ph2 := some x } }
    s.trainImage = some imgLayer ∧ s.vats.mem.errs = [] ∧ s.nextChunk imgLayer x.step = some 0 ∧
    imgLayer.layerOf 0 = some (0, layer, 0) ∧ x.layers[0]? = some { skip := false }) := by decide +kernel
/-- RUN_QUERY of H0 that serves slot 3. -/
def queryRun : Running :=
  { op := 5, port := .h0, begun := true
    page := { args := args 1 0 0 0 0, q3 := { base := 0x2000, count := 2, fill := 0x40, done := 0x48 } } }
/-- A program in slot 3, served, with a fill index. -/
def querying (n : Nat) (q : QSlot) : State := filled { ready with
  run := some queryRun, queries := [(3, q)], sec := { ready.sec with slots := [(3, some ⟨List.replicate 32 7, true⟩)] }
  bind := { progs := [(3, some { image := img, measurement := [], bound := some (0, 0) })] } } n
theorem test_wit_Queries : (let s := querying 0 { served := true }
    s.run = some queryRun ∧ (s.port queryRun.port).dmaUp = true ∧ (s.query 3).run = none ∧
    leNat (memRead (s.port queryRun.port).mem (queryRun.page.qtab 3).fill.toNat 8) ≤ (s.query 3).next) ∧
    (let s := querying 1 { served := true }
     s.queryReady 3 queryRun = true ∧ s.feltClear 3 = true ∧ (queryRun.page.qtab 3).count ≠ 0 ∧
     (s.query 3).next < leNat (memRead (s.port queryRun.port).mem (queryRun.page.qtab 3).fill.toNat 8) ∧
     s.boundary.periodOf 3 ≤ 64) ∧
    (let a : QRun := { k := 0, entry := [], input := { ring := 0, entry := [] }, redos := 1 }
     let s := querying 1 { served := true, next := 1, run := some a }
     (s.query 3).run = some a ∧ a.started = false ∧ s.rebindDue = false ∧ s.feltClear 3 = true ∧ s.awake = true) := by
  decide +kernel
/-- The entry and the query of a finished one, whose output goes under slot 3 into 2^32 bytes. -/
def outEntry : List Byte := List.replicate 17 0 ++ [3] ++ List.replicate 14 0 ++ leBytes 8 (2 ^ 32) ++ List.replicate 24 0
/-- That query. -/
def finished : QRun :=
  { k := 0, entry := outEntry, input := { ring := 0, entry := outEntry, placed := true }, tick := 2, started := true }
/-- The output is an uninterpreted function (log entry 1), so this witness takes one that fits the buffer. -/
theorem test_wit_Queries_output (h : 96 + (finished.output img).length ≤ 2 ^ 32) :
    (let s := querying 1 { served := true, next := 1, run := some finished }
     (s.query 3).run = some finished ∧ s.image? 3 = some img ∧ (s.port finished.port).dmaUp = true ∧
     s.workOver 3 2 img [finished.input] = true ∧
     okIs (s.sec.exportKey (leAt outEntry 17 1)) (List.replicate 32 7) = true ∧ finished.rseq = none ∧
     queryRun.op = 5 ∧ queryRun.aborting = false ∧ queryRun.page.args.a0.toNat ≤ queryRun.count + 1) ∧
    96 + (finished.output img).length ≤ leAt outEntry 32 8 :=
  ⟨by decide +kernel, by rw [show leAt outEntry 32 8 = 2 ^ 32 from by decide +kernel]; exact h⟩

/-- The counter reader with a period of 1 ms and a snapshot as given. -/
def dumping (x : Option Snapshot) : State :=
  { ready with ctr := { regs := { period := 1, hostSlots := 2, hostBase := 0x100000 }, snap := x } }
theorem test_wit_Snapshots : (dumping none).ctr.regs.period ≠ 0 ∧ (dumping none).skipsSnapshot = false ∧
    (let x : Snapshot := { seq := 0, regs := { period := 1 }, step := 0 }
     let s := { dumping (some x) with pages := [(0x400, { ctrs := [(0, { value := 1 })] })] }
     pageExists 0x400 = true ∧ x.hasLatched 0x400 = false ∧ (s.page 0x400).ctrs ≠ [] ∧ s.ident.ready = true ∧
     (dumping (some x)).pages = []) := by
  decide +kernel
/-- A snapshot of which every page has latched. -/
def latchedAll : Snapshot := { seq := 3, regs := { period := 1, hostSlots := 2, hostBase := 0x100000 }, step := 0
                               latched := (List.range 0xC03).map fun k => (k, []) }
theorem test_wit_Snapshots_written : latchedAll.regs.dest = 0 ∧ latchedAll.seq < 2 ^ 64 ∧
    ((dumping (some latchedAll)).port latchedAll.regs.hport).dmaUp = true ∧ latchedAll.regs.hostSlots ≠ 0 ∧
    ∀ k, pageExists k = true → latchedAll.hasLatched k = true := by
  refine ⟨rfl, by decide, rfl, by decide, fun k h => ?_⟩
  simp [pageExists, pageOk] at h
  simp [Snapshot.hasLatched, latchedAll]
  omega
theorem test_wit_FaultRecords : ((ready.recordFaults 4 [(fDESC_RANGE, 1), (fSRAM_UE, 2)]).page 4) =
    { evt := 1, code := fSRAM_UE, info := 2, count := 2 } ∧
    (let s := { ready with pages := [(4, { lost := true })] }
     s.recordFaults 4 [(fDESC_RANGE, 1)] = s) := by decide +kernel

/-! Witnesses: numbers and places -/

/-- 127·2^3 fits at 3, and the next magnitude needs 4; 127·2^128 fits nowhere (R87). -/
theorem test_g8_fit : g8Fit 127 3 = 3 ∧ g8Fit 1017 0 = 4 ∧ g8Fit 0 5 = -128 ∧ g8Fit 127 128 = 127 ∧ g8Fit 127 (-129) = -128 := by
  decide +kernel
theorem test_wit_NarrowValues : 63 < 2 ^ 6 ∧ 254 < 255 ∧ narrowVal .e2m1 254 15 = .fin true 3 128 := by decide +kernel
/-- The LFSR's last non-zero state goes on to another one (R113). -/
theorem test_wit_RoundingGenerator : 0 < 2 ^ 32 - 1 ∧ lfsrStep 1 = 0x80200003 ∧ lfsrStep 2 = 1 := by decide +kernel
/-- Slot 16 serves no tile until a slot before it is retired (R26). -/
theorem test_wit_ServingUnits : ({} : Retire).server 1199 = some 1438 ∧ ({} : Retire).tileSlot (1199 * 16 + 15) = some (1438 * 17 + 15) ∧
    ({ slots := [1438 * 17] } : Retire).tileSlot (1199 * 16 + 15) = some (1438 * 17 + 16) := by decide +kernel

theorem test_wit_LifeCounter : Instr.refOk ≠ .lifeCounterTick := by decide
theorem test_wit_SecurityNeverLowers : runs .refOk ready { ready with power := { refOk := true } } = true := by decide +kernel
theorem test_wit_PowerMeasurements : 47 < 48 := by decide
theorem test_wit_SecdedCorrects : 63 < 64 ∧ 62 < 63 ∧ 7 < 8 ∧ 6 < 7 := by decide
theorem test_wit_GradientFit : (∃ t : Int, -128 ≤ t ∧ t ≤ 127 ∧ ((1 : Nat) : ℚ) * (2 : ℚ) ^ (0 : Int) ≤ 127 * (2 : ℚ) ^ t) ∧
    ∀ t : Int, -128 ≤ t → t ≤ 127 → ¬ ((1 : Nat) : ℚ) * (2 : ℚ) ^ (200 : Int) ≤ 127 * (2 : ℚ) ^ t := by
  refine ⟨⟨0, by norm_num⟩, fun t _ h g => ?_⟩
  have k : (2 : ℚ) ^ t ≤ (2 : ℚ) ^ (127 : Int) := zpow_le_zpow_right₀ (by norm_num) h
  have e : (2 : ℚ) ^ (200 : Int) = (2 : ℚ) ^ (127 : Int) * 2 ^ 73 := by
    rw [← zpow_natCast, ← zpow_add₀ (by norm_num)]; norm_num
  have q : (0 : ℚ) < (2 : ℚ) ^ (127 : Int) := by positivity
  rw [e] at g
  push_cast at g
  nlinarith

end Sys2Proof.Tests
end

section
/-! PROOFS. The units that serve the logical grid (R3, R25, R26). -/

namespace Sys2Proof.Machine

/-- Place `i` of the kept numbers below `n` holds `k` exactly when `k` is kept and `i` kept numbers come before it. -/
theorem filter_range_getElem?_eq_some (p : Nat → Bool) (n i k : Nat) :
    ((List.range n).filter p)[i]? = some k ↔ k < n ∧ p k = true ∧ ((List.range k).filter p).length = i := by
  induction n with
  | zero => simp
  | succ n ih =>
    have before : ∀ {m}, m ≤ n → ((List.range m).filter p).length ≤ ((List.range n).filter p).length := fun h =>
      ((List.range_sublist.mpr h).filter p).length_le
    rw [List.range_succ, List.filter_append]
    by_cases hi : i < ((List.range n).filter p).length
    · rw [List.getElem?_append_left hi, ih]
      constructor
      · rintro ⟨hk, rest⟩
        exact ⟨by omega, rest⟩
      · rintro ⟨hk, hp, rfl⟩
        refine ⟨?_, hp, rfl⟩
        by_contra hkn
        exact absurd hi (by rw [show k = n by omega]; omega)
    · rw [List.getElem?_append_right (by omega)]
      constructor
      · intro h
        cases hp : p n <;> simp [hp, List.getElem?_singleton] at h
        obtain ⟨hle, rfl⟩ := h
        exact ⟨by omega, hp, by omega⟩
      · rintro ⟨hk, hp, hlen⟩
        obtain rfl | hkn := Nat.eq_or_lt_of_le (Nat.le_of_lt_succ hk)
        · simp [hp, hlen]
        · have hlt := (ih.mpr ⟨hkn, hp, hlen⟩)
          exact absurd (List.getElem?_eq_some_iff.mp hlt).1 hi

/-- The cluster that serves a logical cluster (R26). -/
theorem Retire.server_eq_some (r : Retire) (l c : Nat) :
    r.server l = some c ↔ c / 48 = l / 40 ∧ c % 48 / 6 = l % 40 / 5 ∧ r.living c = true ∧
      ((List.range (c % 6)).filter fun i => r.living (c - c % 6 + i)).length = l % 5 := by
  have place : l % 40 % 5 = l % 5 := by omega
  simp only [Retire.server, Retire.segment, List.filter_map, List.getElem?_map, Option.map_eq_some_iff,
    filter_range_getElem?_eq_some, Function.comp_apply, place]
  constructor
  · rintro ⟨k, ⟨hk, live, before⟩, rfl⟩
    have col : (l / 40 * 48 + 6 * (l % 40 / 5) + k) % 6 = k := by omega
    refine ⟨by omega, by omega, live, ?_⟩
    rw [col, Nat.add_sub_cancel]
    exact before
  · rintro ⟨row, seg, live, before⟩
    have base : l / 40 * 48 + 6 * (l % 40 / 5) = c - c % 6 := by omega
    refine ⟨c % 6, ⟨by omega, ?_, ?_⟩, by omega⟩
    · rw [base, Nat.sub_add_cancel (Nat.mod_le c 6)]
      exact live
    · rw [base]
      exact before

/-- The slot that serves a logical tile of a served logical cluster (R25, R26). -/
theorem Retire.tileSlot_eq_some (r : Retire) (l t k c : Nat) (ht : t < 16) (hc : r.server l = some c) :
    r.tileSlot (l * 16 + t) = some k ↔ k / 17 = c ∧ r.slots.contains k = false ∧
      ((List.range (k % 17)).filter fun j => !r.slots.contains (c * 17 + j)).length = t := by
  have tile : (l * 16 + t) / 16 = l ∧ (l * 16 + t) % 16 = t := by omega
  simp only [Retire.tileSlot, tile.1, tile.2, hc, Retire.liveSlots, Option.map_eq_some_iff,
    filter_range_getElem?_eq_some, Bool.not_eq_true']
  constructor
  · rintro ⟨j, ⟨hj, live, before⟩, rfl⟩
    have slot : (c * 17 + j) % 17 = j := by omega
    exact ⟨by omega, live, by rw [slot]; exact before⟩
  · rintro ⟨rfl, live, before⟩
    refine ⟨k % 17, ⟨by omega, ?_, before⟩, by omega⟩
    rw [Nat.div_add_mod']
    exact live

end Sys2Proof.Machine

/-- Settles O60: place `i` of a filtered range is the kept number with `i` kept numbers before it, once for the
clusters of a row segment and once for the slots of a cluster. -/
theorem servingUnits : Obligations.ServingUnits := fun r l t k c _ ht =>
  ⟨r.server_eq_some l c, fun hc => r.tileSlot_eq_some l t k c ht hc⟩
end

section
/-! PROOFS. BIND, UNBIND, RUN_STEPS and RUN_QUERY of the lease holder (R36, R440, R444, R445). -/

namespace Sys2Proof.Machine

theorem HostFrame.mono {s u : State} {p : HPort} {ks ls : List Nat} (h : HostFrame s u p ks) (hs : ∀ k ∈ ks, k ∈ ls) :
    HostFrame s u p ls := ⟨h.1, h.2.1, h.2.2.mono hs⟩

theorem Accepts.run_eq_none {s : State} {p : HPort} (h : Accepts s p) : s.run = none := by
  obtain ⟨-, -, -, hrun, -⟩ := h
  exact hrun

/-- What the end of a run leaves idle does not depend on the ports, the pages or the running command. -/
theorem Rested.of_only {s v u : State} {r : Option Running}
    (hv : v = { s with h0 := v.h0, h1 := v.h1, pages := v.pages, run := r }) (h : Rested v u) : Rested s u := by
  intro f
  rw [h f, hv]
  rfl

/-- A command that begins marks no page as lost. -/
theorem State.begun_lost (s : State) (p : HPort) (op : Nat) (a : CmdArgs) (k : Nat) :
    ((s.begun p op a).page k).lost = (s.page k).lost := by
  obtain ⟨-, -, pages⟩ := s.begun_frame p op a
  rw [pages k (by simp), State.modCmd_page]

/-- The end of a command that has begun and has changed nothing but events on its command page (R438, R468). -/
theorem begun_endCommand {s v : State} {p : HPort} {op : Nat} {a : CmdArgs} {ks : List Nat} (hrun : s.run = none)
    (ho : OnlyEvents (s.begun p op a) v ks) (hks : ∀ k ∈ ks, k = pgCmd p)
    (hl : (v.page (pgCmd p)).lost = (s.page (pgCmd p)).lost) (status : Nat) :
    let u := v.endCommand status
    Ended s u p op a status (s.ret0 (latched s p op a)) 0 ∧ HostFrame s u p [pgCmd p] ∧
    u = { s with h0 := u.h0, h1 := u.h1, pages := u.pages, fields := u.fields, train := s.train.idle } ∧
    (op ≠ 4 → op ≠ 5 → u.fields = s.fields) ∧ (op = 4 ∨ op = 5 → Rested s u) := by
  intro u
  have hv : v = { s with h0 := v.h0, h1 := v.h1, pages := v.pages
                         run := some { latched s p op a with begun := true } } := by
    rw [ho.2, State.begun_eq]
  have hvr : v.run = some { latched s p op a with begun := true } := by rw [hv]
  have hret : v.ret0 { latched s p op a with begun := true } = s.ret0 (latched s p op a) := by rw [hv]; rfl
  have hu : u = v.endWith status (s.ret0 (latched s p op a)) 0 := by
    show v.endCommand status = _
    simp only [State.endCommand, hvr, hret]
  have hf := ((s.begun_frame p op a).mono (by simp)).trans ho.1
  obtain ⟨hend, hframe, heq, hfields, hrest⟩ := endWith_spec hf _ hvr rfl rfl hl status (s.ret0 (latched s p op a)) 0
  rw [← hu] at hend hframe heq hfields hrest
  refine ⟨hend, hframe.mono (by simpa using hks), ?_, fun h4 h5 => ?_, fun h => (hrest h).of_only hv⟩
  · rw [heq, hv, ← hrun]
  · rw [hfields h4 h5, hv]

/-- A command that fails as it begins (R438). -/
theorem begun_failCommand {s : State} {p : HPort} (op : Nat) (a : CmdArgs) (hrun : s.run = none) (c : Nat) :
    let u := (s.begun p op a).failCommand c
    Ended s u p op a c (s.ret0 (latched s p op a)) 0 ∧ HostFrame s u p [pgCmd p] ∧
    u = { s with h0 := u.h0, h1 := u.h1, pages := u.pages, fields := u.fields, train := s.train.idle } ∧
    (op ≠ 4 → op ≠ 5 → u.fields = s.fields) ∧ (op = 4 ∨ op = 5 → Rested s u) := by
  exact begun_endCommand hrun (ks := [pgCmd p]) (State.recordFault_only _ _ c 0) (by simp)
    ((State.recordFault_lost _ _ _ _ _).trans (s.begun_lost p op a _)) c

/-- A command that ends with status 0 as it begins (R438). -/
theorem begun_succeeds {s : State} {p : HPort} (op : Nat) (a : CmdArgs) (hrun : s.run = none) :
    let u := (s.begun p op a).endCommand 0
    Ended s u p op a 0 (s.ret0 (latched s p op a)) 0 ∧ HostFrame s u p [pgCmd p] ∧
    u = { s with h0 := u.h0, h1 := u.h1, pages := u.pages, fields := u.fields, train := s.train.idle } ∧
    (op ≠ 4 → op ≠ 5 → u.fields = s.fields) ∧ (op = 4 ∨ op = 5 → Rested s u) := by
  exact begun_endCommand hrun (OnlyEvents.refl _ []) (by simp) (s.begun_lost p op a _) 0

/-- A command that goes on running has its staged command on its page, and leaves the other pages and ports (R436). -/
theorem begun_staged (s : State) (p : HPort) (op : Nat) (a : CmdArgs) :
    ((s.begun p op a).port p).cmd = stagedPage s p op a ∧ HostFrame s (s.begun p op a) p [] := by
  obtain ⟨frame, cmd⟩ := hostFrame_of (s.begun_frame p op a)
  exact ⟨cmd, frame⟩

/-! BIND and UNBIND -/

theorem exec_bind {s : State} {p : HPort} {a : CmdArgs} (h : Accepts s p) (hf : a.flags = 0) (h0 : a.a0.toNat < 4)
    (h1 : a.a1.toNat < 40) (h2 : a.a2.toNat < 30) :
    exec (.bind p a) s = .next ((s.begun p 1 a).startBind (latched s p 1 a)) :=
  congrArg Host.Outcome.next (hostCommand_runs h 1 a (by simp [argsOk, hf, h0, h1, h2]))

theorem exec_unbind {s : State} {p : HPort} {a : CmdArgs} (h : Accepts s p) (hf : a.flags = 0) (h0 : a.a0.toNat < 4) :
    exec (.unbind p a) s =
      .next { s.begun p 2 a with bind := { (s.begun p 2 a).bind with req := some (.unbind a.a0.toNat) } } :=
  congrArg Host.Outcome.next (hostCommand_runs h 2 a (by simp [argsOk, hf, h0]))

theorem State.begun_prog (s : State) (p : HPort) (op : Nat) (a : CmdArgs) (i : Nat) :
    (s.begun p op a).prog i = s.prog i := by rw [State.begun_eq]; rfl

/-- BIND of a loaded program to a region on the grid waits for the binding computation (R36, R440). -/
theorem startBind_on_grid {s : State} {p : HPort} {a : CmdArgs} {g : Prog} (hg : s.prog a.a0.toNat = some g)
    (hw : a.a1.toNat + g.image.w ≤ 40) (hh : a.a2.toNat + g.image.h ≤ 30) :
    (s.begun p 1 a).startBind (latched s p 1 a) = { s.begun p 1 a with
      bind := { (s.begun p 1 a).bind with req := some (.bind a.a0.toNat a.a1.toNat a.a2.toNat) } } := by
  have grid : ¬ (40 < a.a1.toNat + g.image.w ∨ 30 < a.a2.toNat + g.image.h) := by omega
  simp only [State.startBind, latched, stagedPage, State.begun_prog, hg, grid, if_false]

/-- BIND of an empty slot, or of a region beyond the grid, fails (R440). -/
theorem startBind_fails {s : State} {p : HPort} {a : CmdArgs} {c : Nat}
    (hc : (s.prog a.a0.toNat = none ∧ c = fDESC_INVALID) ∨
      ∃ g, s.prog a.a0.toNat = some g ∧ c = fDESC_RANGE ∧ (40 < a.a1.toNat + g.image.w ∨ 30 < a.a2.toNat + g.image.h)) :
    (s.begun p 1 a).startBind (latched s p 1 a) = (s.begun p 1 a).failCommand c := by
  obtain ⟨hg, rfl⟩ | ⟨g, hg, rfl, grid⟩ := hc
  · simp only [State.startBind, latched, stagedPage, State.begun_prog, hg]
  · simp only [State.startBind, latched, stagedPage, State.begun_prog, hg, grid, if_true]

/-! RUN_STEPS and RUN_QUERY -/

theorem exec_runSteps {s : State} {p : HPort} {a : CmdArgs} (h : Accepts s p) (hf : a.flags &&& 0xFFFFFFF1#32 = 0) :
    exec (.runSteps p a none) s = .next ((s.begun p 4 a).runSteps (latched s p 4 a)) :=
  congrArg Host.Outcome.next (hostCommand_runs h 4 a (by simp [argsOk, hf]))

theorem exec_runQuery {s : State} {p : HPort} {a : CmdArgs} (h : Accepts s p) (hf : a.flags &&& 0xFFFFFFF1#32 = 0) :
    exec (.runQuery p a) s = .next ((s.begun p 5 a).runQuery (latched s p 5 a)) :=
  congrArg Host.Outcome.next (hostCommand_runs h 5 a (by simp [argsOk, hf]))

/-- The checks of RUN_STEPS read nothing that its start changes. -/
theorem State.begun_stepsFault (s : State) (p : HPort) (a : CmdArgs) :
    (s.begun p 4 a).stepsFault (latched s p 4 a) = s.stepsFault { latched s p 4 a with begun := true } := by
  rw [State.begun_eq]
  rfl

/-- The checks of the served slots read nothing that a command's start changes. -/
theorem State.begun_slotsFault (s : State) (p : HPort) (op : Nat) (a : CmdArgs) (qs : List Nat) :
    (s.begun p op a).slotsFault qs = s.slotsFault qs := by
  rw [State.begun_eq]
  rfl

/-- Serving slots changes the query slots alone. -/
theorem State.serve_eq (s : State) (qs : List Nat) : s.serve qs = { s with queries := (s.serve qs).queries } := by
  induction qs generalizing s with
  | nil => rfl
  | cons q r ih => exact ih (s.setQuery q { s.query q with served := true })

/-- A slot is served when it is named, and stays as it was otherwise. -/
theorem State.serve_query (s : State) (qs : List Nat) (q : Nat) :
    (s.serve qs).query q = if q ∈ qs then { s.query q with served := true } else s.query q := by
  induction qs generalizing s with
  | nil => rfl
  | cons k r ih =>
    have step : (s.serve (k :: r)).query q = ((s.setQuery k { s.query k with served := true }).serve r).query q := rfl
    rw [step, ih]
    obtain rfl | hk := eq_or_ne q k
    · simp
    · simp [hk]

theorem runSteps_runs {s : State} {p : HPort} {a : CmdArgs}
    (hc : s.stepsFault { latched s p 4 a with begun := true } = none) :
    (s.begun p 4 a).runSteps (latched s p 4 a) =
      if a.a1 = 0 then (s.begun p 4 a).endCommand 0
      else State.serve { s.begun p 4 a with train := { (s.begun p 4 a).train with
        running := true, last := a.a0.toNat + a.a1.toNat - 1, redos := 0, overrun := false, throttled := false } }
        (servedSlots a.flags) := by
  simp only [State.runSteps, State.begun_stepsFault, hc]
  rfl

theorem runQuery_runs {s : State} {p : HPort} {a : CmdArgs} (hc : s.slotsFault (servedSlots a.flags) = none) :
    (s.begun p 5 a).runQuery (latched s p 5 a) =
      if a.a0 = 0 then (s.begun p 5 a).endCommand 0 else (s.begun p 5 a).serve (servedSlots a.flags) := by
  simp only [State.runQuery, latched, stagedPage, State.begun_slotsFault, hc]
  rfl

theorem runSteps_fails {s : State} {p : HPort} {a : CmdArgs} {c : Nat}
    (hc : s.stepsFault { latched s p 4 a with begun := true } = some c) :
    (s.begun p 4 a).runSteps (latched s p 4 a) = (s.begun p 4 a).failCommand c := by
  simp only [State.runSteps, State.begun_stepsFault, hc]

theorem runQuery_fails {s : State} {p : HPort} {a : CmdArgs} {c : Nat}
    (hc : s.slotsFault (servedSlots a.flags) = some c) :
    (s.begun p 5 a).runQuery (latched s p 5 a) = (s.begun p 5 a).failCommand c := by
  simp only [State.runQuery, latched, stagedPage, State.begun_slotsFault, hc]

/-- A run that goes on serves its slots, besides what it has changed as it began. -/
theorem serve_spec {s v : State} {p : HPort} {op : Nat} {a : CmdArgs} {r : Option Running} {t : Train} (qs : List Nat)
    (hv : v = { s with h0 := v.h0, h1 := v.h1, pages := v.pages, run := r, train := t })
    (hcmd : (v.port p).cmd = stagedPage s p op a) (hf : HostFrame s v p []) :
    let u := v.serve qs
    u = { s with h0 := u.h0, h1 := u.h1, pages := u.pages, run := r, queries := u.queries, train := t } ∧
    (∀ q, u.query q = if q ∈ qs then { s.query q with served := true } else s.query q) ∧
    (u.port p).cmd = stagedPage s p op a ∧ HostFrame s u p [] := by
  intro u
  have hu : u = { v with queries := u.queries } := v.serve_eq qs
  refine ⟨?_, fun q => ?_, ?_, ?_⟩
  · rw [hu, hv]
  · have same : v.query q = s.query q := by rw [hv]; rfl
    rw [v.serve_query qs q, same]
  · rw [hu]; exact hcmd
  · rw [hu]; exact hf

end Sys2Proof.Machine

open Sys2Proof Sys2Proof.Machine

/-- Settles O10: a command of the lease holder begins (`hostCommand_runs`), and its work either waits for the binding
computation, serves its slots, or ends it at once (`begun_endCommand`). -/
theorem runsAndBindings : Obligations.RunsAndBindings := by
  refine ⟨fun s p a h hf h0 => ⟨fun g hg hw hh h1 h2 => ?_, fun c hc => ?_, ?_⟩, fun s p a h hf =>
    ⟨fun hc => ?_, fun hc => ?_, fun c hc => ?_, fun c hc => ?_⟩⟩
  · obtain ⟨cmd, frame⟩ := begun_staged s p 1 a
    refine ⟨_, exec_bind h hf h0 h1 h2, ?_⟩
    rw [startBind_on_grid hg hw hh]
    exact ⟨by rw [State.begun_eq], cmd, frame⟩
  · have h12 : a.a1.toNat < 40 ∧ a.a2.toNat < 30 := by
      obtain ⟨_, _, h1, h2⟩ | ⟨_, _, _, h1, h2, _⟩ := hc <;> exact ⟨h1, h2⟩
    have hc' : (s.prog a.a0.toNat = none ∧ c = fDESC_INVALID) ∨ ∃ g, s.prog a.a0.toNat = some g ∧ c = fDESC_RANGE ∧
        (40 < a.a1.toNat + g.image.w ∨ 30 < a.a2.toNat + g.image.h) := by
      obtain ⟨hg, hc, _, _⟩ | ⟨g, hg, hc, _, _, grid⟩ := hc
      · exact .inl ⟨hg, hc⟩
      · exact .inr ⟨g, hg, hc, grid⟩
    obtain ⟨hend, frame, heq, hfields, -⟩ := begun_failCommand (p := p) 1 a h.run_eq_none c
    refine ⟨_, exec_bind h hf h0 h12.1 h12.2, ?_⟩
    rw [startBind_fails hc']
    refine ⟨hend, frame, heq.trans ?_⟩
    rw [hfields (by decide) (by decide)]
  · obtain ⟨cmd, frame⟩ := begun_staged s p 2 a
    exact ⟨_, exec_unbind h hf h0, by rw [State.begun_eq], cmd, frame⟩
  · obtain ⟨hend, frame, heq, -, hrest⟩ := begun_succeeds (p := p) 4 a h.run_eq_none
    obtain ⟨cmd, frame'⟩ := begun_staged s p 4 a
    refine ⟨_, exec_runSteps h hf, ?_⟩
    rw [runSteps_runs hc]
    split
    · exact ⟨hend, frame, hrest (.inl rfl), heq⟩
    · exact serve_spec (servedSlots a.flags) (by rw [State.begun_eq]) cmd frame'
  · obtain ⟨hend, frame, heq, -, hrest⟩ := begun_succeeds (p := p) 5 a h.run_eq_none
    obtain ⟨cmd, frame'⟩ := begun_staged s p 5 a
    refine ⟨_, exec_runQuery h hf, ?_⟩
    rw [runQuery_runs hc]
    split
    · exact ⟨hend, frame, hrest (.inr rfl), heq⟩
    · exact serve_spec (servedSlots a.flags) (State.begun_eq s p 5 a) cmd frame'
  · obtain ⟨hend, frame, heq, -, hrest⟩ := begun_failCommand (p := p) 4 a h.run_eq_none c
    refine ⟨_, exec_runSteps h hf, ?_⟩
    rw [runSteps_fails hc]
    exact ⟨hend, frame, hrest (.inl rfl), heq⟩
  · obtain ⟨hend, frame, heq, -, hrest⟩ := begun_failCommand (p := p) 5 a h.run_eq_none c
    refine ⟨_, exec_runQuery h hf, ?_⟩
    rw [runQuery_fails hc]
    exact ⟨hend, frame, hrest (.inr rfl), heq⟩
end

section
/-! PROOFS. Reads of BAR0: what a port finds, and the registers that a read clears (R11, R12, R426, R490). -/

namespace Sys2Proof.Machine

/-- Counting up to now changes the counters of one page, and draws free values (R490). -/
theorem State.countTime_only (s : State) (k : Nat) :
    PagesKeep s (s.countTime k) [] ∧
    s.countTime k = { s with pages := (s.countTime k).pages, free := (s.countTime k).free } := by
  unfold State.countTime
  dsimp only
  split
  · exact ⟨.refl s [], rfl⟩
  · refine ⟨fun j _ => ?_, rfl⟩
    simp only [State.page, sget_sput]
    split
    · next e => rw [e]
    · rfl

/-- A read finds the counters counted up to now, and nothing else changed (R490). -/
theorem State.settleRead_only (s : State) (off : Nat) :
    PagesKeep s (s.settleRead off) [] ∧
    s.settleRead off = { s with pages := (s.settleRead off).pages, free := (s.settleRead off).free } := by
  unfold State.settleRead
  dsimp only
  split
  · exact s.countTime_only _
  · exact ⟨.refl s [], rfl⟩

/-- A read outside the counters of a page settles nothing. -/
theorem State.settleRead_outside (s : State) (off : Nat) (h : off % 0x1000 < 0x40 ∨ 0x80 ≤ off % 0x1000) :
    s.settleRead off = s := by
  have outside : ¬ (0x40 ≤ off % 0x1000 ∧ off % 0x1000 < 0x80) := by omega
  simp only [State.settleRead, outside, if_false]

theorem readClears_eq_false_iff (off : Nat) :
    readClears off = false ↔ (off ≠ 0x5124 ∧ off ≠ 0x6110 ∧ off ≠ 0x7130 ∧ off ≠ 0x7138) ∧
      (∀ f, f < 48 → off ≠ 0x100210 + 0x1000 * f ∧ off ≠ 0x200104 + 0x1000 * f ∧ off ≠ 0x200108 + 0x1000 * f) ∧
      ∀ v, v < 40 → off ≠ 0xA00108 + 0x1000 * v := by
  simp [readClears, and_assoc]

/-- The pages that exist, by the kind of their unit (R425). -/
theorem pageExists_iff (k : Nat) :
    pageExists k = true ↔ k < 10 ∨ (0x100 ≤ k ∧ k < 0x130) ∨ (0x200 ≤ k ∧ k < 0x230) ∨ (0x400 ≤ k ∧ k < 0x9A0) ∨
      (0xA00 ≤ k ∧ k < 0xA28) ∨ (0xC00 ≤ k ∧ k < 0xC03) := by
  simp [pageExists, pageOk, or_assoc]

theorem State.pageExists_of_answers {s : State} {k : Nat} (h : s.answers k = true) : pageExists k = true := by
  unfold State.answers at h
  exact (Bool.and_eq_true _ _ ▸ h).1

theorem State.answers_of_ready {s : State} {k : Nat} (hready : s.ident.ready = true) (hk : pageExists k = true) :
    s.answers k = true := by
  simp [State.answers, hk, hready]

/-- A read of a register that is not read-to-clear clears none. -/
theorem State.clearRc_of_not_readClears (s : State) (off same : Nat) (h : readClears off = false) :
    s.clearRc off same = s := by
  obtain ⟨single, sites, vats⟩ := (readClears_eq_false_iff off).mp h
  unfold State.clearRc
  dsimp only
  split
  · rfl
  · next hpage =>
    have hans : s.answers (off / 0x1000) = true := by
      by_contra hno
      simp [hno] at hpage
    have hk := (pageExists_iff _).mp (State.pageExists_of_answers hans)
    rw [if_neg (by omega), if_neg (by omega), if_neg (by omega), if_neg (by omega)]
    rw [if_neg fun hf => (sites (off / 0x1000 - 0x100) (by omega)).1 (by omega)]
    rw [if_neg fun hf => (sites (off / 0x1000 - 0x200) (by omega)).2.1 (by omega)]
    rw [if_neg fun hf => (sites (off / 0x1000 - 0x200) (by omega)).2.2 (by omega)]
    rw [if_neg fun hv => vats (off / 0x1000 - 0xA00) (by omega) (by omega)]

/-- A word-sized read of a block-specific register of a page answers the register, and clears it where reading does. -/
theorem exec_rcRead_register {s : State} {p : HPort} {k o : Nat} (same : Nat) (hr : s.reaches p = true)
    (hans : s.answers k = true) (ho : 0x100 ≤ o) (ho' : o < 0x1000) (h4 : o % 4 = 0) :
    exec (.rcRead p (0x1000 * k + o) same) s = .next
      (State.clearRc { s with readData := BitVec.ofNat 64 (s.pageReg p k o % 2 ^ 32), free := s.free + 1 }
        (0x1000 * k + o) (same % 2 ^ 32)) := by
  have hk := (pageExists_iff k).mp (State.pageExists_of_answers hans)
  have ok : readOk (0x1000 * k + o) 4 = true := by
    have aligned : (0x1000 * k + o) % 4 = 0 := by omega
    have inside : 0x1000 * k + o + 4 ≤ 16777216 := by omega
    simp [readOk, accessOk, aligned, inside]
  have word : (0x1000 * k + o) / 4 * 4 = 0x1000 * k + o := by omega
  have shift : (0x1000 * k + o) % 4 = 0 := by omega
  have value : s.readSized p (0x1000 * k + o) 4 = s.pageReg p k o % 2 ^ 32 := by
    have msix : ¬ (0xF0000 ≤ 0x1000 * k + o ∧ 0x1000 * k + o < 0xF0400) := by omega
    have pba : ¬ (0x1000 * k + o = 0xF1000 ∨ 0x1000 * k + o = 0xF1004) := by omega
    have page : (0x1000 * k + o) / 0x1000 = k ∧ (0x1000 * k + o) % 0x1000 = o := by omega
    simp [State.readSized, word, shift, State.readWord, msix, pba, page, hans]
  show execRcRead p (0x1000 * k + o) same s 4 = _
  simp [execRcRead, ok, hr, s.settleRead_outside (0x1000 * k + o) (by omega), value, word]

/-! The registers of the pages whose registers reading clears -/

theorem State.pageReg_field (s : State) (p : HPort) (f o : Nat) (hf : f < 48) (ho : 0x100 ≤ o) :
    s.pageReg p (0x100 + f) o = s.fieldReg f o := by
  simp (disch := omega) only [State.pageReg, if_neg, if_pos, Nat.add_sub_cancel_left]

theorem State.pageReg_site (s : State) (p : HPort) (f o : Nat) (hf : f < 48) (ho : 0x100 ≤ o) :
    s.pageReg p (0x200 + f) o = s.siteReg f o := by
  simp (disch := omega) only [State.pageReg, if_neg, if_pos, Nat.add_sub_cancel_left]

theorem State.pageReg_vat (s : State) (p : HPort) (v o : Nat) (hv : v < 40) (ho : 0x100 ≤ o) :
    s.pageReg p (0xA00 + v) o = s.vatReg v o := by
  simp (disch := omega) only [State.pageReg, if_neg, if_pos, Nat.add_sub_cancel_left]

/-- A word-sized read of a register of a ready module: `v` is its value, `u` the module once the register is cleared. -/
theorem exec_rcRead_clears {s u : State} {p : HPort} {k o same v : Nat} (hr : s.reaches p = true)
    (hready : s.ident.ready = true) (hsame : same < 2 ^ 32) (hk : pageExists k = true)
    (ho : 0x100 ≤ o) (ho' : o < 0x1000) (h4 : o % 4 = 0) (hv : s.pageReg p k o = v)
    (hu : State.clearRc { s with readData := BitVec.ofNat 64 (v % 2 ^ 32), free := s.free + 1 } (0x1000 * k + o) same =
      u) :
    exec (.rcRead p (0x1000 * k + o) same) s = .next u := by
  rw [exec_rcRead_register same hr (State.answers_of_ready hready hk) ho ho' h4, hv, Nat.mod_eq_of_lt hsame, hu]

/-- Which register of a page a read clears (R12). -/
theorem State.clearRc_register {s : State} {k o : Nat} (same : Nat) (hready : s.ident.ready = true)
    (hk : pageExists k = true) (hl : (s.page k).lost = false) (ho : o < 0x1000) :
    s.clearRc (0x1000 * k + o) same =
      if k = 5 ∧ o = 0x124 then { s with sec := { s.sec with violCount := same } }
      else if k = 6 ∧ o = 0x110 then { s with twin := { s.twin with mismatches := same } }
      else if k = 7 ∧ o = 0x130 then { s with ctr := { s.ctr with missedCnt := same } }
      else if k = 7 ∧ o = 0x138 then { s with ctr := { s.ctr with tagDropped := same } }
      else if 0x100 ≤ k ∧ k < 0x200 ∧ o = 0x210 then
        s.setField (k - 0x100) { s.field (k - 0x100) with throttles := same }
      else if 0x200 ≤ k ∧ k < 0x400 ∧ o = 0x104 then s.setSite (k - 0x200) { s.site (k - 0x200) with chkFail := same }
      else if 0x200 ≤ k ∧ k < 0x400 ∧ o = 0x108 then s.setSite (k - 0x200) { s.site (k - 0x200) with replays := same }
      else if 0xA00 ≤ k ∧ k < 0xC00 ∧ o = 0x108 then
        { s with vats := s.vats.setVat (k - 0xA00) { s.vats.vat (k - 0xA00) with ce := same } }
      else s := by
  have page : (0x1000 * k + o) / 0x1000 = k ∧ (0x1000 * k + o) % 0x1000 = o := by omega
  simp only [State.clearRc, page, State.answers_of_ready hready hk, hl, Bool.not_true, Bool.or_self, Bool.false_eq_true,
    if_false]

theorem State.clearRc_throttles {s : State} {f : Nat} (same : Nat) (hready : s.ident.ready = true)
    (hf : f < 48) (hl : (s.page (0x100 + f)).lost = false) :
    s.clearRc (0x1000 * (0x100 + f) + 0x210) same = s.setField f { s.field f with throttles := same } := by
  rw [State.clearRc_register same hready ((pageExists_iff _).mpr (by omega)) hl (by decide)]
  iterate 4 rw [if_neg (by omega)]
  rw [if_pos (by omega), Nat.add_sub_cancel_left]

theorem State.clearRc_chkFail {s : State} {f : Nat} (same : Nat) (hready : s.ident.ready = true)
    (hf : f < 48) (hl : (s.page (0x200 + f)).lost = false) :
    s.clearRc (0x1000 * (0x200 + f) + 0x104) same = s.setSite f { s.site f with chkFail := same } := by
  rw [State.clearRc_register same hready ((pageExists_iff _).mpr (by omega)) hl (by decide)]
  iterate 5 rw [if_neg (by omega)]
  rw [if_pos (by omega), Nat.add_sub_cancel_left]

theorem State.clearRc_replays {s : State} {f : Nat} (same : Nat) (hready : s.ident.ready = true)
    (hf : f < 48) (hl : (s.page (0x200 + f)).lost = false) :
    s.clearRc (0x1000 * (0x200 + f) + 0x108) same = s.setSite f { s.site f with replays := same } := by
  rw [State.clearRc_register same hready ((pageExists_iff _).mpr (by omega)) hl (by decide)]
  iterate 6 rw [if_neg (by omega)]
  rw [if_pos (by omega), Nat.add_sub_cancel_left]

theorem State.clearRc_ce {s : State} {v : Nat} (same : Nat) (hready : s.ident.ready = true)
    (hv : v < 40) (hl : (s.page (0xA00 + v)).lost = false) :
    s.clearRc (0x1000 * (0xA00 + v) + 0x108) same =
      { s with vats := s.vats.setVat v { s.vats.vat v with ce := same } } := by
  rw [State.clearRc_register same hready ((pageExists_iff _).mpr (by omega)) hl (by decide)]
  iterate 7 rw [if_neg (by omega)]
  rw [if_pos (by omega), Nat.add_sub_cancel_left]

/-- A read that clears no register answers what stands there, and only the counters have gone on (R426, R490). -/
theorem exec_rcRead_plain {s : State} {p : HPort} (same : Nat) {off size : Nat} (hr : s.reaches p = true)
    (hok : readOk off size = true) (h1 : readClears (off / 4 * 4) = false)
    (h2 : size = 8 → readClears (off + 4) = false) :
    exec (.rcRead p off same size) s = .next { s.settleRead off with
      readData := BitVec.ofNat 64 ((s.settleRead off).readSized p off size), free := (s.settleRead off).free + 1 } := by
  show execRcRead p off same s size = _
  simp only [execRcRead, hok, hr, Bool.not_true, Bool.or_self, Bool.false_eq_true, if_false,
    State.clearRc_of_not_readClears _ _ _ h1]
  split
  · next h8 => rw [State.clearRc_of_not_readClears _ _ _ (h2 h8)]
  · rfl

end Sys2Proof.Machine

open Sys2Proof Sys2Proof.Machine

/-- Settles O19: a read of a register settles no counter, so it answers the register (`exec_rcRead_clears`) and clears the
one that `State.clearRc_register` names; another read clears none (`exec_rcRead_plain`). -/
theorem readClears : Obligations.ReadClears := by
  intro s p same hr hready hlost hsame
  have read := fun {k o v u} => exec_rcRead_clears (k := k) (o := o) (v := v) (u := u) hr hready hsame
  have clear := fun {k o v} (hk : pageExists k = true) (ho : o < 0x1000) =>
    State.clearRc_register (s := { s with readData := BitVec.ofNat 64 (v % 2 ^ 32), free := s.free + 1 }) (k := k)
      (o := o) same hready hk (hlost k) ho
  refine ⟨⟨?_, ?_, ?_, ?_, fun f hf => ⟨?_, ?_, ?_⟩, fun v hv => ?_, ?_, ?_⟩, fun off size hok h1 h2 => ?_⟩
  · exact read (k := 5) (o := 0x124) rfl (by decide) (by decide) rfl rfl (clear rfl (by decide))
  · exact read (k := 6) (o := 0x110) rfl (by decide) (by decide) rfl rfl (clear rfl (by decide))
  · exact read (k := 7) (o := 0x130) rfl (by decide) (by decide) rfl rfl (clear rfl (by decide))
  · exact read (k := 7) (o := 0x138) rfl (by decide) (by decide) rfl rfl (clear rfl (by decide))
  · rw [show 0x100210 + 0x1000 * f = 0x1000 * (0x100 + f) + 0x210 by omega]
    exact read ((pageExists_iff _).mpr (by omega)) (by decide) (by decide) rfl (s.pageReg_field p f _ hf (by decide))
      (State.clearRc_throttles same hready hf (hlost _))
  · rw [show 0x200104 + 0x1000 * f = 0x1000 * (0x200 + f) + 0x104 by omega]
    exact read ((pageExists_iff _).mpr (by omega)) (by decide) (by decide) rfl (s.pageReg_site p f _ hf (by decide))
      (State.clearRc_chkFail same hready hf (hlost _))
  · rw [show 0x200108 + 0x1000 * f = 0x1000 * (0x200 + f) + 0x108 by omega]
    exact read ((pageExists_iff _).mpr (by omega)) (by decide) (by decide) rfl (s.pageReg_site p f _ hf (by decide))
      (State.clearRc_replays same hready hf (hlost _))
  · rw [show 0xA00108 + 0x1000 * v = 0x1000 * (0xA00 + v) + 0x108 by omega]
    exact read ((pageExists_iff _).mpr (by omega)) (by decide) (by decide) rfl (s.pageReg_vat p v _ hv (by decide))
      (State.clearRc_ce same hready hv (hlost _))
  · exact read (k := 5) (o := 0x11C) rfl (by decide) (by decide) rfl rfl (clear rfl (by decide))
  · exact read (k := 3) (o := 0x100) rfl (by decide) (by decide) rfl rfl (clear rfl (by decide))
  · obtain ⟨keep, only⟩ := s.settleRead_only off
    refine ⟨_, exec_rcRead_plain same hr hok h1 h2, keep, ?_, fun outside => ?_⟩
    · rw [only]
    · rw [s.settleRead_outside off outside]
      exact ⟨rfl, rfl⟩
end

section
/-! PROOFS. Every well-formed command completes: a row stops only at the check of the unit that it names (R2), or at a
debug instruction in maintenance mode (R416). -/

namespace Sys2Proof.Machine

/-- A row that passes the check of its unit goes on to its work. -/
theorem completes_past {bad : Prop} [Decidable bad] {o : Out} (h : ¬ bad) (ho : ∃ u, o = .next u) :
    ∃ u, (if bad then .fault .noSuchUnit else o) = Host.Outcome.next u := by
  rw [if_neg h]
  exact ho

/-- A row whose unit exists goes on to its work. -/
theorem completes_past_unit {ok : Bool} {o : Out} (h : ok = true) (ho : ∃ u, o = .next u) :
    ∃ u, (if (!ok) = true then .fault .noSuchUnit else o) = Host.Outcome.next u :=
  completes_past (by simp [h]) ho

/-- A row of a sequencer word completes on every tile: the word is run, left, or faults its tile (R179). -/
theorem seqRow_completes {t : Nat} (ht : tileOk t = true) (s : State) (c : Ctx) (opc : Nat) (k : Env → State → State) :
    ∃ u, seqRow s t c opc k = .next u := by
  refine completes_past_unit ht ?_
  split
  · exact ⟨_, rfl⟩
  · exact ⟨_, rfl⟩
  · split_ifs <;> exact ⟨_, rfl⟩

/-- A row of an issue word completes on every tile, whatever its unit does (R181, R187). -/
theorem issueRow_completes {t : Nat} (ht : tileOk t = true) (s : State) (c : Ctx) (opc : Nat) (full : Env → State → Bool)
    (k : Issue → Env → State → State) : ∃ u, issueRow s t c opc full k = .next u :=
  seqRow_completes ht s c opc _

/-- A JTAG instruction completes unless it is a debug instruction in maintenance mode (R416). -/
theorem execJtagInstruction_completes (ir : JtagIr) (s : State) (h : ∀ n, ir = .debug n → s.sec.isSealed = true) :
    ∃ u, execJtagInstruction ir s = .next u := by
  cases ir with
  | idcode => exact ⟨_, rfl⟩
  | bypass => exact ⟨_, rfl⟩
  | standard n =>
    dsimp only [execJtagInstruction]
    split <;> exact ⟨_, rfl⟩
  | debug n => exact ⟨_, if_pos (h n rfl)⟩

end Sys2Proof.Machine

open Sys2Proof Sys2Proof.Machine

/-- Settles O8, by the rows: those that answer a next state outright, the words of the sequencer and of the units, the rows
that check no unit, and those that check one first and complete once it is past. -/
theorem wellFormedCompletes : Obligations.WellFormedCompletes := by
  intro c s hwf hdebug
  cases c with
  -- rows that answer a next state outright
  | bind | unbind | loadProgram | runSteps | runQuery | exportSnapshot | importState | attest | twinJoin
  | twinLeave | resetCompute | scrub | ownerSet | slotLoad | slotClear | zeroize | unsealMode | sealMode
  | leaseClaim | leaseRelease | leaseHeartbeat | leaseTimeout | latencyTolerance | dumpPeriod | registerWrite
  | perstAssert | tamper | coolantSample | lifeCounterTick | wake | rollForward | refOk =>
    exact ⟨_, rfl⟩
  -- words of the sequencer and of the units (R179)
  | nop | seti | addi | loop | tickWait | stepEnd | ctrSet | ctrWait => exact seqRow_completes hwf _ _ _ _
  | engIssue | reamOperation | copy | permute | gather | scatter | scatterAdd | vconv | add | sub | mul | fma | max
  | min | scale2 | maxabs | sum | move | vring | adamw | sgdm | logpack | vtopk | vcomp | censusClear | censusStore
  | censusFlags | put | get | radd | rmax | rswap | mcast | convAdd =>
    exact issueRow_completes hwf _ _ _ _ _
  -- rows that check no unit
  | jtagInstruction ir => exact execJtagInstruction_completes ir s fun n e => hdebug n (congrArg _ e)
  | cmdAbort | leaseExpiry | evtWrite | counterValueWrite | rcRead | bar2Access | smbusBlockWrite | smbusBlockRead
  | perstRelease | pcieLinkDown | d3hot | busOutOfRange | tamperScrubEnd | pstateEntry | heartbeatSend
  | watermarkTimeout | leaveWaitEnd | joinTimeout | tickWaveLaunch | bindingApplied | feedFillPoll | stepBegin
  | viewEntry | stepSeal | phase2Chunk | commit | counterSnapshot | dumpWritten | d0 | firmwareUpdate | busRange =>
    dsimp only [exec,
      execCmdAbort, execLeaseExpiry, execEvtWrite, execCounterValueWrite, execRcRead, execBar2Access,
      execSmbusBlockWrite, execSmbusBlockRead, execPerstRelease, execPcieLinkDown, execD3hot,
      execBusOutOfRange, execTamperScrubEnd, execPstateEntry, execHeartbeatSend, execWatermarkTimeout,
      execLeaveWaitEnd, execJoinTimeout, execTickWaveLaunch, execBindingApplied, execFeedFillPoll,
      execStepBegin, execViewEntry, execStepSeal, execPhase2Chunk, execCommit, execCounterSnapshot,
      execDumpWritten, execD0, execFirmwareUpdate, execBusRange]
    (repeat' split) <;> exact ⟨_, rfl⟩
  -- rows that check their one unit, and whose every branch past the check is a next state
  | suppliesValid | fuseTrip | refLost => exact completes_past_unit hwf ⟨_, rfl⟩
  | powerUpWave | wakeComplete | kx0 | kx1 | hello | helloRetry | heartbeat | watermark | digest | region | steplog
  | roundEnd | switch | copyCompletion | vatResponse | vectorCompletion | getResponse | waveArrival | tickArrival
  | linkRetrainDone | vatLineRequest | patrol | qtabFillPoll =>
    refine completes_past_unit hwf ?_
    dsimp only
    (repeat' split) <;> exact ⟨_, rfl⟩
  | throttleRepeat | voltageSettled | calenderPortDown | leave | vatWriteBack | queryOutput | snapshotLatch =>
    refine completes_past_unit hwf ?_
    (repeat' split) <;> exact ⟨_, rfl⟩
  -- rows that check more than one operand, or a site
  | chkSel p site v => exact ⟨_, if_pos hwf⟩
  | servicePortPacket site packet check =>
    have site_ok : fieldOk site = true := by
      obtain rfl | rfl : site = 3 ∨ site = 44 := by simpa [Instr.wf] using hwf
      all_goals rfl
    refine completes_past_unit site_ok ?_
    dsimp only
    split_ifs <;> exact ⟨_, rfl⟩
  | tempSample | sramWriteBack =>
    simp only [Instr.wf, Bool.and_eq_true] at hwf
    refine completes_past_unit hwf.1 ?_
    dsimp only
    split_ifs <;> exact ⟨_, rfl⟩
  | engineCompletion | streamEntry | replayRequest =>
    refine completes_past (by simpa [Instr.wf, and_assoc] using hwf) ?_
    dsimp only
    (repeat' split) <;> exact ⟨_, rfl⟩
  | remoteArrival | acknowledgement | hostReadCompletion =>
    refine completes_past (by simpa [Instr.wf] using hwf) ?_
    (repeat' split) <;> exact ⟨_, rfl⟩
end

section
/-! PROOFS. What the operations that discard work and that leave the pair change, as equations: the fields that are not
named stay. -/

namespace Sys2Proof.Machine

theorem State.freeVat_eq (s : State) (rs : List (Nat × Nat)) :
    s.freeVat rs = { s with vats := (s.freeVat rs).vats, sec := (s.freeVat rs).sec, twin := (s.freeVat rs).twin
                            free := (s.freeVat rs).free } := by
  induction rs generalizing s with
  | nil => rfl
  | cons r rs ih => exact ih ({ s with free := s.free + r.2 }.vatWrite r.1 (freeBytes s.free r.2))

theorem State.freeTiles_eq (s : State) (rs : List (Nat × Nat × Nat)) :
    s.freeTiles rs = { s with tiles := (s.freeTiles rs).tiles, free := (s.freeTiles rs).free } := by
  unfold State.freeTiles
  induction rs generalizing s with
  | nil => rfl
  | cons r rs ih =>
    rw [List.foldl_cons, ih]
    split
    · rfl
    · split <;> rfl

/-- What a program has in flight lies in the tiles, the felt and the vats (R177, R215). -/
theorem State.discard_eq (s : State) (p : Nat) :
    s.discard p = { s with vats := (s.discard p).vats, sec := (s.discard p).sec, twin := (s.discard p).twin
                           tiles := (s.discard p).tiles, felt := (s.discard p).felt, free := (s.discard p).free } := by
  unfold State.discard
  dsimp only
  rw [State.freeTiles_eq, State.freeVat_eq]

/-! What neither a discard nor a message to the partner touches -/

/-- The ports but for messages, the running command, the lease, the control replicas, the power sequencing and the identity
page stay. -/
structure Aside (s u : State) : Prop where
  h0 : PortKeeps s.h0 u.h0
  h1 : PortKeeps s.h1 u.h1
  run : u.run = s.run
  lease : u.lease = s.lease
  cc : u.cc = s.cc
  power : u.power = s.power
  page : u.page pgIdent = s.page pgIdent

theorem Aside.refl (s : State) : Aside s s := ⟨rfl, rfl, rfl, rfl, rfl, rfl, rfl⟩

theorem Aside.trans {s t u : State} (h : Aside s t) (g : Aside t u) : Aside s u :=
  ⟨h.h0.trans g.h0, h.h1.trans g.h1, g.run.trans h.run, g.lease.trans h.lease, g.cc.trans h.cc, g.power.trans h.power,
    g.page.trans h.page⟩

theorem Aside.foldl {α : Type} {f : State → α → State} (hf : ∀ s a, Aside s (f s a)) (l : List α) (s : State) :
    Aside s (l.foldl f s) := by
  induction l generalizing s with
  | nil => exact .refl s
  | cons a l ih => exact (hf s a).trans (ih _)

/-- A page's change on another page than the identity page. -/
theorem Aside.of_modPage (s : State) {k : Nat} (f : Page → Page) (hk : k ≠ pgIdent) : Aside s (s.modPage k f) := by
  obtain ⟨⟨h0, h1, -⟩, heq⟩ := s.modPage_only k f
  exact ⟨h0, h1, by rw [heq], by rw [heq], by rw [heq], by rw [heq], s.modPage_page_ne k _ f hk.symm⟩

theorem Aside.of_recordFault (s : State) {k : Nat} (code info : Nat) (hk : k ≠ pgIdent) :
    Aside s (s.recordFault k code info) := by
  unfold State.recordFault State.recordFaults
  exact .of_modPage s _ hk

theorem Aside.of_setEvt (s : State) {k : Nat} (bits : Nat) (hk : k ≠ pgIdent) : Aside s (s.setEvt k bits) :=
  .of_modPage s _ hk

theorem Aside.of_losePage (s : State) {k : Nat} (hk : k ≠ pgIdent) : Aside s (s.losePage k) := by
  have page : (s.losePage k).page pgIdent = s.page pgIdent := by
    have count : (s.countTime k).page pgIdent = s.page pgIdent := by
      unfold State.countTime
      dsimp only
      split
      · rfl
      · exact sget_sput_ne _ _ _ _ _ hk.symm
    exact (sget_sput_ne _ _ _ _ _ hk.symm).trans count
  exact ⟨by rw [State.losePage_h0]; rfl, by rw [State.losePage_h1]; rfl, by simp, by simp, by simp, by simp, page⟩

theorem Aside.of_discard (s : State) (p : Nat) : Aside s (s.discard p) := by
  rw [s.discard_eq p]
  exact ⟨rfl, rfl, rfl, rfl, rfl, rfl, rfl⟩

theorem Aside.of_recordCause (s : State) (r cause : Nat) : Aside s (s.recordCause r cause) := by
  have hk : pgCc r ≠ pgIdent := by unfold pgCc pgIdent; omega
  have clear : Aside s { s with pages := sput {} s.pages (pgCc r) { s.page (pgCc r) with lost := false } } :=
    ⟨rfl, rfl, rfl, rfl, rfl, rfl, sget_sput_ne _ _ _ _ _ hk.symm⟩
  unfold State.recordCause
  dsimp only
  split
  · exact (clear.trans (.of_recordFault _ _ _ hk)).trans (.of_losePage _ hk)
  · exact clear.trans (.of_recordFault _ _ _ hk)

theorem Aside.of_twin {s t : State} (x : Twin) (h : Aside s t) : Aside s { t with twin := x } :=
  ⟨h.h0, h.h1, h.run, h.lease, h.cc, h.power, h.page⟩

theorem Aside.of_bump (s : State) {k : Nat} (ev n : Nat) (hk : k ≠ pgIdent) : Aside s (s.bump k ev n) :=
  ⟨by rw [State.bump_h0]; rfl, by rw [State.bump_h1]; rfl, by simp, by simp, by simp, by simp,
    s.bump_page_ne k _ ev n hk.symm⟩

theorem pgSite_ne_pgIdent (f : Nat) : pgSite f ≠ pgIdent := by unfold pgSite pgIdent; omega

theorem Aside.of_sendAlive (s : State) (p type : Nat) (body : List Byte) : Aside s (s.sendAlive p type body) :=
  ((Aside.refl s).of_twin _).trans (.of_bump _ _ _ (pgSite_ne_pgIdent _))

theorem Aside.of_portOff (s : State) (p : Nat) (retire : Bool) : Aside s (s.portOff p retire) := by
  unfold State.portOff
  dsimp only
  have off := ((Aside.refl s).of_twin (s.twin.setPort p { s.twin.port p with
    up := false, retired := (s.twin.port p).retired || retire, hello := none, myKx0 := none, peer := none, myKx1 := none
    keyOut := none, keyIn := none })).trans
    (.of_recordFault _ fCALENDER_DEGRADED 0 (pgSite_ne_pgIdent (calSite p)))
  split
  · exact off.trans (.of_losePage _ (pgSite_ne_pgIdent _))
  · exact off

theorem Aside.of_sendLeave (s : State) (reason : Nat) : Aside s (s.sendLeave reason) := by
  refine Aside.trans (t := s.sendAliveAll 3 (leBytes 2 reason)) (.foldl (fun s p => .of_sendAlive s p _ _) _ _)
    (.foldl (fun s p => ?_) _ _)
  split
  · exact .of_portOff s p false
  · exact .refl s

theorem Aside.of_setTwin (s : State) (st : Nat) : Aside s (s.setTwin st) := by
  unfold State.setTwin
  split
  · exact .refl s
  · exact ((Aside.refl s).of_twin _).trans (.of_setEvt _ _ (by decide))

theorem Aside.of_leavePair (s : State) (reason : Nat) : Aside s (s.leavePair reason) :=
  ((Aside.of_sendLeave s reason).of_twin _).trans (.of_setTwin _ _)

/-- The control replicas as the restricted state's entry leaves them. -/
def Control.restrictedBy (c : Control) (cause : Nat) : Control := { c with restricted := some cause }

/-- The state in which the restricted state's entry ends the running command (R24). -/
theorem State.restrict_ends {s : State} (cause : Nat) (h : s.cc.restricted = none) :
    ∃ t : State, s.restrict cause = t.endCommand cause ∧ t.cc = s.cc.restrictedBy cause ∧
      Aside s { t with cc := s.cc } := by
  have discards := (((Aside.of_discard s 0).trans (.of_discard _ 1)).trans (.of_discard _ 2)).trans (.of_discard _ 3)
  unfold State.restrict
  simp only [h, Option.isSome_none, Bool.false_eq_true, if_false]
  generalize (((s.discard 0).discard 1).discard 2).discard 3 = d at discards
  generalize hv : ({ d with
    cc := { d.cc with restricted := some cause }
    bind := { d.bind with req := none }
    train := { d.train with ph1 := none, ph2 := none, sealedStep := none, running := false, ending := none }
    queries := d.queries.map fun (q : Nat × QSlot) =>
      (q.1, { q.2 with run := none, served := false, next := q.2.completed }) } : State) = v
  have enters : v.cc = s.cc.restrictedBy cause ∧ Aside s { v with cc := s.cc } := by
    subst hv
    exact ⟨by rw [discards.cc]; rfl, discards.h0, discards.h1, discards.run, discards.lease, rfl, discards.power, discards.page⟩
  have records := ((Aside.of_recordCause v 0 cause).trans (.of_recordCause _ 1 cause)).trans (.of_recordCause _ 2 cause)
  generalize ((v.recordCause 0 cause).recordCause 1 cause).recordCause 2 cause = w at records
  have leaves : Aside v (if w.paired then w.leavePair cause else w) := by
    split
    · exact records.trans (.of_leavePair w cause)
    · exact records
  obtain ⟨cc, aside⟩ := enters
  exact ⟨_, rfl, leaves.cc.trans cc, aside.h0.trans leaves.h0, aside.h1.trans leaves.h1, leaves.run.trans aside.run,
    leaves.lease.trans aside.lease, rfl, leaves.power.trans aside.power, leaves.page.trans aside.page⟩

end Sys2Proof.Machine
end

section
/-! PROOFS. A CMD_GO that no command follows (R22, R23, R432, R437). -/

namespace Sys2Proof.Machine

theorem exec_hostRow {s : State} {p : HPort} {a : CmdArgs} {d : Option Replica} {r : Nat × Instr}
    (hr : r ∈ hostRows p a d) : exec r.2 s = .next (s.hostCommand p r.1 a d) := by
  unfold hostRows at hr
  fin_cases hr <;> rfl

theorem exec_keyRow {s : State} {p : HPort} {a : CmdArgs} {d : Option Replica} {r : Nat × Instr}
    (hr : r ∈ keyRows p a d) : exec r.2 s = .next (s.keyRow p r.1 a d) := by
  unfold keyRows at hr
  fin_cases hr <;> rfl

/-- Each row that writes CMD_GO is its port's CMD_GO of the command's opcode. -/
theorem exec_goRow {s : State} {p : HPort} {a : CmdArgs} {d : Option Replica} {r : Nat × Instr}
    (hr : r ∈ goRows s p a d) : exec r.2 s = .next (s.hostCommand p r.1 a d) := by
  unfold goRows at hr
  rcases List.mem_append.mp hr with host | key
  · exact exec_hostRow host
  · obtain ⟨k, hk, rfl⟩ := List.mem_map.mp key
    obtain ⟨mem, op⟩ := List.mem_filter.mp hk
    have own : ¬(leNat (memRead (s.port p).mem a.a0.toNat 2) ≠ k.1 ∧ 1 ≤ leNat (memRead (s.port p).mem a.a0.toNat 2) ∧
        leNat (memRead (s.port p).mem a.a0.toNat 2) ≤ 6) := by
      simp only [Bool.or_eq_true, beq_iff_eq, decide_eq_true_eq] at op
      omega
    rw [exec_keyRow mem]
    simp only [State.keyRow, own, if_false]

/-- A fault that answers the CMD_GO of a port which the module hears (R432, R437). -/
theorem refused_goRow {s : State} {p : HPort} {a : CmdArgs} {d : Option Replica} {r : Nat × Instr} {code info : Nat}
    (hr : r ∈ goRows s p a d) (hp : s.reaches p = true)
    (refuses : ∀ t : State, t = s.modCmd p (fun c => { c with op := r.1, args := a }) →
      t.cmdGo p d = t.recordFault (pgCmd p) code info) :
    ∃ u, exec r.2 s = .next u ∧ u = { s with h0 := u.h0, h1 := u.h1, pages := u.pages } ∧
      (u.port p).cmd = stagedPage s p r.1 a ∧ HostFrame s u p [pgCmd p] ∧ FaultOn s u (pgCmd p) code info := by
  refine ⟨_, exec_goRow hr, ?_⟩
  simp only [State.hostCommand, hp, Bool.not_true, Bool.false_eq_true, if_false, refuses _ rfl]
  generalize hu : (s.modCmd p fun c => { c with op := r.1, args := a }).recordFault (pgCmd p) code info = u
  have only := State.recordFault_only (s.modCmd p fun c => { c with op := r.1, args := a }) (pgCmd p) code info
  have on := State.recordFault_on (s.modCmd p fun c => { c with op := r.1, args := a }) (pgCmd p) code info
  rw [hu] at only on
  obtain ⟨frame, cmd⟩ := hostFrame_of only.1
  refine ⟨?_, cmd, frame, ?_⟩
  · rw [only.2, State.modCmd_eq]
  · unfold FaultOn at on
    rwa [State.modCmd_page] at on

theorem PortKeeps.cmd {a b : HostPort} (h : PortKeeps a b) : b.cmd = a.cmd := by
  unfold PortKeeps at h
  rw [h]

/-- The restricted state entered while no command runs (R24). -/
theorem State.restrict_idle {s : State} (cause : Nat) (h : s.cc.restricted = none) (run : s.run = none) :
    (s.restrict cause).cc.restricted = some cause ∧ Aside s { s.restrict cause with cc := s.cc } := by
  obtain ⟨t, eq, cc, aside⟩ := s.restrict_ends cause h
  have idle : t.run = none := aside.run.trans run
  have ends : s.restrict cause = t := by
    rw [eq]
    unfold State.endCommand
    rw [idle]
  rw [ends]
  exact ⟨by rw [cc]; rfl, aside⟩

end Sys2Proof.Machine

open Sys2Proof Sys2Proof.Machine

/-- Settles O9: a row that writes CMD_GO is its port's CMD_GO, which either records one fault, or restricts the module
when the vote does not carry it. -/
theorem commandRefused : Obligations.CommandRefused := by
  refine ⟨fun s p a d r hr hp owner => ?_, fun s p a d r hr hp owner busy => ?_,
    fun s p a d r hr hp owner run ready free rep two => ?_⟩
  · refine refused_goRow hr hp fun t ht => ?_
    have lease : t.lease.owner ≠ p.num + 1 := by rw [ht, State.modCmd_lease]; exact owner
    simp only [State.cmdGo, lease, ne_eq, not_false_eq_true, if_true]
  · refine refused_goRow hr hp fun t ht => ?_
    have lease : t.lease.owner = p.num + 1 := by rw [ht, State.modCmd_lease]; exact owner
    have busyBit : t.busyBit = true := by
      rw [ht, State.modCmd_eq]
      unfold State.busyBit
      rcases busy with running | starting
      · simp [running]
      · simp [starting]
    simp only [State.cmdGo, lease, busyBit, ne_eq, not_true_eq_false, if_false, if_true]
  · refine ⟨_, exec_goRow hr, ?_⟩
    simp only [State.hostCommand, hp, Bool.not_true, Bool.false_eq_true, if_false]
    have staged := modCmd_staged s p r.1 a
    have eq := State.modCmd_eq s p fun c => { c with op := r.1, args := a }
    generalize s.modCmd p (fun c => { c with op := r.1, args := a }) = t at staged eq
    have goes : t.cmdGo p (some d) = t.restrict fCONTROL_REPLICA_LOST := by
      rw [eq]
      simp [State.cmdGo, State.busyBit, State.vote, owner, run, ready, free, rep, two]
    have idle : t.run = none := by rw [eq]; exact run
    have unrestricted : t.cc.restricted = none := by rw [eq]; exact free
    obtain ⟨cause, aside⟩ := t.restrict_idle fCONTROL_REPLICA_LOST unrestricted idle
    rw [goes]
    refine ⟨cause, aside.run.trans idle, ?_, aside.lease.trans (by rw [eq])⟩
    rw [← staged]
    cases p
    · exact aside.h0.cmd
    · exact aside.h1.cmd
end

section
/-! PROOFS. The end of a command as an equation, and what the end, the stop and the restart of a program's work leave. -/

namespace Sys2Proof.Machine

theorem State.modPage_eq (s : State) (k : Nat) (f : Page → Page) :
    s.modPage k f = { s with h0 := (s.modPage k f).h0, h1 := (s.modPage k f).h1, pages := (s.modPage k f).pages } :=
  (s.modPage_only k f).2

theorem State.recordFault_eq (s : State) (k code info : Nat) :
    s.recordFault k code info = { s with h0 := (s.recordFault k code info).h0, h1 := (s.recordFault k code info).h1
                                         pages := (s.recordFault k code info).pages } :=
  (s.recordFault_only k code info).2

theorem State.setEvt_eq (s : State) (k bits : Nat) :
    s.setEvt k bits = { s with h0 := (s.setEvt k bits).h0, h1 := (s.setEvt k bits).h1
                               pages := (s.setEvt k bits).pages } :=
  (s.setEvt_only k bits).2

/-- The end of a command changes the running command, the training run, the resting fields, its page and MSI-X messages
(R438, R468). -/
theorem State.endWith_eq (s : State) (status r0 r1 : Nat) :
    s.endWith status r0 r1 =
      { s with h0 := (s.endWith status r0 r1).h0, h1 := (s.endWith status r0 r1).h1
               pages := (s.endWith status r0 r1).pages, fields := (s.endWith status r0 r1).fields
               train := (s.endWith status r0 r1).train, run := none } := by
  cases hr : s.run with
  | none =>
    have ends : s.endWith status r0 r1 = s := by simp only [State.endWith, hr]
    rw [ends, ← hr]
  | some r =>
    obtain ⟨⟨-, eq⟩, -⟩ := endWith_ended r hr status r0 r1
    rw [State.modCmd_eq] at eq
    generalize s.endWith status r0 r1 = u at eq
    rw [eq]

@[simp] theorem State.endWith_run (s : State) (status r0 r1 : Nat) : (s.endWith status r0 r1).run = none := by
  rw [State.endWith_eq]

/-- The status of a command that has ended stands on its port's command page (R436, R438). -/
theorem State.endWith_status {s : State} {r : Running} (hr : s.run = some r) (status r0 r1 : Nat) :
    ((s.endWith status r0 r1).port r.port).cmd.status = status := by
  obtain ⟨⟨⟨h0, h1, -⟩, -⟩, -⟩ := endWith_ended r hr status r0 r1
  generalize s.endWith status r0 r1 = u at h0 h1
  cases hp : r.port <;> rw [hp] at h0 h1
  · exact congrArg CmdPage.status h0.cmd
  · exact congrArg CmdPage.status h1.cmd

theorem State.endWith_train (s : State) (status r0 r1 : Nat) :
    (s.endWith status r0 r1).train = if s.run.isSome then s.train.idle else s.train := by
  cases hr : s.run with
  | none => simp only [State.endWith, hr, Option.isSome_none, Bool.false_eq_true, if_false]
  | some r =>
    obtain ⟨⟨-, eq⟩, -⟩ := endWith_ended r hr status r0 r1
    rw [State.modCmd_eq] at eq
    rw [eq]
    rfl

theorem State.endCommand_eq_endWith (s : State) (status : Nat) :
    s.endCommand status = s.endWith status (s.run.elim 0 s.ret0) 0 := by
  unfold State.endCommand
  cases hr : s.run with
  | none => simp only [State.endWith, hr]
  | some r => rfl

/-- The binding but for what stands in the program slots, the power sequencing, the control replicas and the identity stay,
and the running command stays or ends. -/
structure Works (s u : State) : Prop where
  bind : u.bind = { s.bind with progs := u.bind.progs }
  power : u.power = s.power
  cc : u.cc = s.cc
  ident : u.ident = s.ident
  run : u.run = s.run ∨ u.run = none

theorem Works.refl (s : State) : Works s s := ⟨rfl, rfl, rfl, rfl, .inl rfl⟩

theorem Works.trans {s t u : State} (h : Works s t) (g : Works t u) : Works s u :=
  ⟨by rw [g.bind, h.bind], g.power.trans h.power, g.cc.trans h.cc, g.ident.trans h.ident,
    g.run.elim (fun e => h.run.imp e.trans e.trans) .inr⟩

theorem Works.foldl {α : Type} {f : State → α → State} (hf : ∀ s a, Works s (f s a)) (l : List α) (s : State) :
    Works s (l.foldl f s) := by
  induction l generalizing s with
  | nil => exact .refl s
  | cons a l ih => exact (hf s a).trans (ih _)

theorem Works.of_recordFault (s : State) (k code info : Nat) : Works s (s.recordFault k code info) := by
  rw [State.recordFault_eq]
  exact ⟨rfl, rfl, rfl, rfl, .inl rfl⟩

theorem Works.of_endCommand (s : State) (status : Nat) : Works s (s.endCommand status) := by
  rw [State.endCommand_eq_endWith, State.endWith_eq]
  exact ⟨rfl, rfl, rfl, rfl, .inr rfl⟩

theorem Works.of_discard (s : State) (p : Nat) : Works s (s.discard p) := by
  rw [State.discard_eq]
  exact ⟨rfl, rfl, rfl, rfl, .inl rfl⟩

theorem Works.of_setQuery (s : State) (q : Nat) (x : QSlot) : Works s (s.setQuery q x) := ⟨rfl, rfl, rfl, rfl, .inl rfl⟩

theorem Works.of_setProg (s : State) (i : Nat) (p : Option Prog) : Works s (s.setProg i p) := ⟨rfl, rfl, rfl, rfl, .inl rfl⟩

theorem Works.of_train (s : State) (x : Train) (y : Twin) : Works s { s with train := x, twin := y } :=
  ⟨rfl, rfl, rfl, rfl, .inl rfl⟩

theorem Works.of_endService (s : State) : Works s s.endService := ⟨rfl, rfl, rfl, rfl, .inl rfl⟩

/-- The end of service, and the end of the command with it. -/
theorem Works.of_endService_endCommand (s : State) (c : Nat) : Works s (s.endService.endCommand c) :=
  (Works.of_endService s).trans (.of_endCommand _ c)

theorem Works.of_stopQueries (s : State) : Works s s.stopQueries := by
  unfold State.stopQueries
  refine .foldl (fun s q => ?_) _ s
  dsimp only
  split
  · exact .of_setQuery s q _
  · split
    · exact (Works.of_discard s q).trans (.of_setQuery _ q _)
    · exact .refl s

theorem Works.of_settleCommand (s : State) : Works s s.settleCommand := by
  unfold State.settleCommand
  dsimp only
  split
  · exact .refl s
  · split
    · split
      · split
        · exact .of_endService_endCommand s _
        · exact .refl s
      · split
        · split
          · exact .of_endService_endCommand s _
          · exact .of_endService s
        · exact .refl s
    · split
      · split
        · exact .of_endService_endCommand s _
        · exact .refl s
      · exact .refl s

theorem Works.of_endRun (s : State) (code : Nat) : Works s (s.endRun code) := by
  unfold State.endRun
  have stops : Works s { s.stopQueries with
      train := { s.stopQueries.train with ph1 := none, running := false }
      twin := { s.stopQueries.twin with probe := none } } := (Works.of_stopQueries s).trans (.of_train _ _ _)
  refine stops.trans ?_
  dsimp only
  split
  · split
    · split
      · exact .of_train _ _ _
      · exact .of_endCommand _ code
    · exact .refl _
  · exact .refl _

theorem Works.of_queryFault (s : State) (q code : Nat) : Works s (s.queryFault q code) := by
  unfold State.queryFault
  have drops : Works s ((s.discard q).setQuery q { (s.discard q).query q with
      run := none, served := false, next := ((s.discard q).query q).completed }) :=
    (Works.of_discard s q).trans (.of_setQuery _ q _)
  refine drops.trans ?_
  dsimp only
  split
  · exact .of_recordFault _ _ _ _
  · split
    · exact ((Works.of_recordFault _ _ _ _).trans (.of_stopQueries _)).trans (.of_endCommand _ code)
    · exact (Works.of_recordFault _ _ _ _).trans (.of_settleCommand _)
  · exact .refl _

theorem Works.of_progFault (s : State) (p code : Nat) : Works s (s.progFault p code) := by
  unfold State.progFault
  split
  · exact (Works.of_discard s 0).trans (.of_endRun _ code)
  · exact .of_queryFault s p code

theorem Works.of_restart (s : State) (p : Nat) : Works s (s.restart p) := by
  unfold State.restart
  split
  · split
    · split
      · exact .refl s
      · exact (Works.of_discard s 0).trans (.of_train _ _ _)
    · exact .refl s
  · split
    · split
      · exact .refl s
      · exact (Works.of_discard s p).trans (.of_setQuery _ p _)
    · exact .refl s

theorem Works.of_placementHole (s : State) (p : Nat) : Works s (s.placementHole p) := by
  unfold State.placementHole
  cases s.prog p with
  | none => exact .refl s
  | some g =>
    dsimp only
    have stops := Works.of_setProg s p (some { g with stopped := true })
    generalize s.setProg p _ = t at stops
    have ends : ∀ v : State, Works t v → Works s
        (if p = 0 then (if v.train.running then v.progFault 0 fPLACEMENT_HOLE else v.discard 0)
        else if (v.query p).served then v.progFault p fPLACEMENT_HOLE else v.discard p) := by
      intro v records
      refine (stops.trans records).trans ?_
      split
      · split
        · exact .of_progFault _ _ _
        · exact .of_discard _ _
      · split
        · exact .of_progFault _ _ _
        · exact .of_discard _ _
    cases t.run with
    | none => exact ends t (.refl t)
    | some r => exact ends _ (.of_recordFault t _ _ _)

theorem Works.of_prepare (s : State) (new : Retire) (i : Nat) : Works s (s.prepare new i) := by
  unfold State.prepare
  split
  · exact .refl s
  · split
    · exact .refl s
    · split
      · split
        · exact .refl s
        · exact .of_placementHole s i
      · split
        · exact .of_restart s i
        · exact .refl s

end Sys2Proof.Machine
end

section
/-! PROOFS. A binding computation (R33 to R36, R453). -/

namespace Sys2Proof.Machine

theorem State.decided_eq (s : State) :
    s.decided = { s with h0 := s.decided.h0, h1 := s.decided.h1, pages := s.decided.pages } := s.decided_only.2

/-- Nothing changes but tiles. -/
def OnlyTiles (s u : State) : Prop := u = { s with tiles := u.tiles }

theorem OnlyTiles.refl (s : State) : OnlyTiles s s := rfl

theorem OnlyTiles.trans {s t u : State} (h : OnlyTiles s t) (g : OnlyTiles t u) : OnlyTiles s u := by
  unfold OnlyTiles at *
  rw [g, h]

theorem OnlyTiles.foldl {α : Type} {f : State → α → State} (hf : ∀ s a, OnlyTiles s (f s a)) (l : List α) (s : State) :
    OnlyTiles s (l.foldl f s) := by
  induction l generalizing s with
  | nil => exact .refl s
  | cons a l ih => exact (hf s a).trans (ih _)

/-- A rebuild writes tiles alone (R35). -/
theorem State.rebuild_onlyTiles (s : State) (i : Nat) (p : Nat → Bool) : OnlyTiles s (s.rebuild i p) := by
  unfold State.rebuild
  split
  · exact .refl s
  · refine .foldl (fun t q => .foldl (fun t k => ?_) _ t) _ s
    split
    · split
      · rfl
      · exact .refl t
    · exact .refl t

/-- A slot without a program has no tile to rebuild. -/
theorem State.rebuild_empty {s : State} {i : Nat} (p : Nat → Bool) (h : s.prog i = none) : s.rebuild i p = s := by
  have image : s.image? i = none := by simp only [State.image?, h]; rfl
  simp only [State.rebuild, image]

/-- A slot without a program is not prepared for a retirement. -/
theorem State.prepare_empty {s : State} {i : Nat} (new : Retire) (h : s.prog i = none) : s.prepare new i = s := by
  simp only [State.prepare, h]

/-- A command that fails ends with the code of its fault, and changes as little as an end does (R438). -/
theorem State.failCommand_ends {s : State} {r : Running} (hr : s.run = some r) (code : Nat) :
    let u := s.failCommand code
    u = { s with h0 := u.h0, h1 := u.h1, pages := u.pages, fields := u.fields, train := u.train, run := none } ∧
    (u.port r.port).cmd.status = code := by
  have fails : s.failCommand code = (s.recordFault (pgCmd r.port) code 0).endWith code (s.ret0 r) 0 := by
    have still : (s.recordFault (pgCmd r.port) code 0).run = some r := by rw [State.recordFault_eq]; exact hr
    have ret : (s.recordFault (pgCmd r.port) code 0).ret0 r = s.ret0 r := by rw [State.recordFault_eq]; rfl
    simp only [State.failCommand, hr, State.endCommand, still, ret]
  intro u
  constructor
  · rw [show u = _ from fails, State.endWith_eq, State.recordFault_eq]
  · rw [show u = _ from fails]
    exact State.endWith_status (by rw [State.recordFault_eq]; exact hr) _ _ _

/-- A region of a program's size at a corner meets the region of another bound program (R33). -/
def State.meetsBound (s : State) (slot x y : Nat) (g : Prog) : Prop :=
  ∃ i q x' y', i < 4 ∧ i ≠ slot ∧ s.prog i = some q ∧ q.bound = some (x', y') ∧
    rectsMeet x y g.image.w g.image.h x' y' q.image.w q.image.h = true

/-- A BIND of a loaded program takes one of three ways (R33 to R36). -/
theorem State.applyBind_cases {s : State} {slot : Nat} {g : Prog} (x y : Nat) (hg : s.prog slot = some g) :
    ((s.meetsBound slot x y g ∨ (s.busy slot = true ∧ g.bound ≠ some (x, y))) ∧
      s.applyBind slot x y = s.failCommand fBIND_CONFLICT) ∨
    (¬(s.meetsBound slot x y g ∨ (s.busy slot = true ∧ g.bound ≠ some (x, y))) ∧
      s.applyBind slot x y =
        if s.bind.applied.broken (usedClusters g.image x y) then s.failCommand fPLACEMENT_HOLE
        else
          let t := s.setProg slot (some { g with bound := some (x, y), stopped := false })
          if g.bound = some (x, y) then t.endWith 0 0 0
          else (({ t with bind := { t.bind with gen := (t.bind.gen + 1) % 2 ^ 32 } }.rebuild slot fun _ => true).bound).endWith
            0 0 0) := by
  unfold State.applyBind
  simp only [hg]
  have any : ((List.range 4).any fun i => i != slot && match s.prog i with
      | some q => match q.bound with
        | some (x', y') => rectsMeet x y g.image.w g.image.h x' y' q.image.w q.image.h
        | none => false
      | none => false) = true ↔ s.meetsBound slot x y g := by
    simp only [List.any_eq_true, List.mem_range, Bool.and_eq_true, bne_iff_ne, State.meetsBound]
    constructor
    · rintro ⟨i, hi, ne, meets⟩
      cases hq : s.prog i with
      | none => simp [hq] at meets
      | some q =>
        cases hb : q.bound with
        | none => simp [hq, hb] at meets
        | some c =>
          simp only [hq, hb] at meets
          exact ⟨i, q, c.1, c.2, hi, ne, hq, hb, meets⟩
    · rintro ⟨i, q, x', y', hi, ne, hq, hb, meets⟩
      exact ⟨i, hi, ne, by simp only [hq, hb]; exact meets⟩
  have moves : (s.busy slot && !(g.bound == some (x, y))) = true ↔ s.busy slot = true ∧ g.bound ≠ some (x, y) := by simp
  by_cases conflict : s.meetsBound slot x y g ∨ (s.busy slot = true ∧ g.bound ≠ some (x, y))
  · exact .inl ⟨conflict, if_pos ((Bool.or_eq_true _ _).mpr (conflict.imp any.mpr moves.mpr))⟩
  · refine .inr ⟨conflict, (if_neg fun h => conflict (((Bool.or_eq_true _ _).mp h).imp any.mp moves.mp)).trans ?_⟩
    by_cases same : g.bound = some (x, y) <;> simp [same]

/-- The module as a voted binding computation takes up the waiting BIND or UNBIND (R36). -/
def State.taken (s : State) : State := { s.decided with bind := { s.bind with req := none } }

theorem State.taken_eq (s : State) :
    s.taken = { s with h0 := s.taken.h0, h1 := s.taken.h1, pages := s.taken.pages, bind := { s.bind with req := none } } := by
  have eq := s.decided_eq
  unfold State.taken
  rw [eq]

theorem exec_bindingApplied_req {s : State} {q : BindReq} (found : s.target = s.bind.applied) (awake : s.awake = true)
    (req : s.bind.req = some q) :
    exec (.bindingApplied none) s = .next (match q with
      | .bind slot x y => s.taken.applyBind slot x y
      | .unbind slot => s.taken.applyUnbind slot) := by
  have eq := s.decided_eq
  have voted : s.decided.target = s.decided.bind.applied ∧ s.decided.bind = s.bind := by
    rw [eq]
    exact ⟨found, rfl⟩
  show execBindingApplied none s = _
  simp only [execBindingApplied, State.rebindDue, req, found, awake, State.vote, voted.1, State.applyReq, State.taken,
    voted.2, Option.isSome_some, Bool.or_true, Bool.not_true, Bool.and_false, Bool.false_eq_true, if_false, if_true]
  cases q <;> rfl

/-- What a BIND or UNBIND that is taken up leaves, besides the fields that the binding changes (R33 to R36). -/
structure ReqEnds (s u : State) : Prop where
  felt : u.felt = { s.felt with holdCls := u.felt.holdCls, holdStale := u.felt.holdStale }
  vats : u.vats = s.vats
  twin : u.twin = s.twin
  lease : u.lease = s.lease
  applied : u.bind.applied = s.bind.applied
  found : u.bind.found = s.bind.found
  req : u.bind.req = none
  run : u.run = none

/-- A request that is refused. -/
theorem taken_failCommand {s : State} {r : Running} (hr : s.run = some r) (code : Nat) :
    let u := s.taken.failCommand code
    ReqEnds s u ∧ u.bind = { s.bind with req := none } ∧ u.tiles = s.tiles ∧ (u.port r.port).cmd.status = code := by
  have eq := s.taken_eq
  have run : s.taken.run = some r := by rw [eq]; exact hr
  obtain ⟨ends, status⟩ := State.failCommand_ends run code
  intro u
  have hu : u = _ := ends
  rw [eq] at hu
  refine ⟨?_, ?_, ?_, status⟩
  · constructor <;> rw [hu]
  · rw [hu]
  · rw [hu]

/-- A request that is applied: `t` is the state once the program stands where it is to stand. -/
theorem taken_endWith {s t : State} {r : Running} (hr : s.run = some r)
    (eq : t = { s with h0 := t.h0, h1 := t.h1, pages := t.pages, bind := t.bind, tiles := t.tiles, felt := t.felt })
    (bind : t.bind = { s.bind with req := none, progs := t.bind.progs, gen := t.bind.gen, trees := t.bind.trees })
    (felt : t.felt = { s.felt with holdCls := t.felt.holdCls, holdStale := t.felt.holdStale }) :
    let u := t.endWith 0 0 0
    ReqEnds s u ∧ (u.port r.port).cmd.status = 0 ∧ u.bind = t.bind ∧ u.tiles = t.tiles := by
  have run : t.run = some r := by rw [eq]; exact hr
  have ends := t.endWith_eq 0 0 0
  intro u
  have hu : u = _ := ends
  refine ⟨?_, State.endWith_status run 0 0 0, ?_, ?_⟩
  · constructor <;> rw [hu]
    · exact felt
    · show t.vats = _; rw [eq]
    · show t.twin = _; rw [eq]
    · show t.lease = _; rw [eq]
    · show t.bind.applied = _; rw [bind]
    · show t.bind.found = _; rw [bind]
    · show t.bind.req = _; rw [bind]
  · rw [hu]
  · rw [hu]

theorem State.bound_eq (s : State) :
    s.bound = { s with bind := { s.bind with trees := s.bound.bind.trees }
                       felt := { s.felt with holdCls := s.bound.felt.holdCls, holdStale := false } } := rfl

/-- A program slot changes in a request that is taken up, and BIND_GEN counts a change of owner (R453). -/
def State.replaced (s : State) (slot : Nat) (p : Option Prog) : State :=
  let t := s.taken.setProg slot p
  { t with bind := { t.bind with gen := (t.bind.gen + 1) % 2 ^ 32 } }

/-- The program stands where it stood: its slot alone changes. -/
theorem taken_setProg_endWith {s : State} {r : Running} (hr : s.run = some r) (slot : Nat) (p : Option Prog) :
    let u := (s.taken.setProg slot p).endWith 0 0 0
    ReqEnds s u ∧ (u.port r.port).cmd.status = 0 ∧ u.prog slot = p ∧ (∀ k, k ≠ slot → u.prog k = s.prog k) ∧
      u.bind.gen = s.bind.gen ∧ u.tiles = s.tiles := by
  have eq := s.taken_eq
  have only : s.taken.setProg slot p = { s with
      h0 := (s.taken.setProg slot p).h0, h1 := (s.taken.setProg slot p).h1, pages := (s.taken.setProg slot p).pages
      bind := (s.taken.setProg slot p).bind, tiles := (s.taken.setProg slot p).tiles
      felt := (s.taken.setProg slot p).felt } := by rw [eq]; rfl
  obtain ⟨ends, status, bind, tiles⟩ := taken_endWith (t := s.taken.setProg slot p) hr only (by rw [eq]; rfl) (by rw [eq]; rfl)
  have prog : ∀ k, ((s.taken.setProg slot p).endWith 0 0 0).prog k = (s.taken.setProg slot p).prog k := fun k => by
    unfold State.prog
    rw [bind]
  refine ⟨ends, status, ?_, fun k hk => ?_, ?_, ?_⟩
  · rw [prog, State.setProg_prog]
  · rw [prog, State.setProg_prog_ne _ _ _ _ hk, eq]
    rfl
  · rw [bind, eq]
    rfl
  · rw [tiles, eq]
    rfl

/-- The program moves: tiles may be rebuilt, and the trees and the holds follow. -/
theorem replaced_bound_endWith {s v : State} {r : Running} (hr : s.run = some r) (slot : Nat) (p : Option Prog)
    (hv : OnlyTiles (s.replaced slot p) v) :
    let u := v.bound.endWith 0 0 0
    ReqEnds s u ∧ (u.port r.port).cmd.status = 0 ∧ u.prog slot = p ∧ (∀ k, k ≠ slot → u.prog k = s.prog k) ∧
      u.bind.gen = (s.bind.gen + 1) % 2 ^ 32 ∧ u.tiles = v.tiles := by
  have eq := s.taken_eq
  have rep : s.replaced slot p = { s with
      h0 := (s.replaced slot p).h0, h1 := (s.replaced slot p).h1, pages := (s.replaced slot p).pages
      bind := (s.replaced slot p).bind } := by
    unfold State.replaced
    rw [eq]
    rfl
  have only : v.bound = { s with h0 := v.bound.h0, h1 := v.bound.h1, pages := v.bound.pages, bind := v.bound.bind
                                 tiles := v.bound.tiles, felt := v.bound.felt } := by
    rw [v.bound_eq, show v = _ from hv, rep]
  have vbind : v.bind = (s.replaced slot p).bind := by rw [show v = _ from hv]
  have vfelt : v.felt = s.felt := by rw [show v = _ from hv, rep]
  have rbind : (s.replaced slot p).bind = { s.bind with
      req := none, progs := sput none s.bind.progs slot p, gen := (s.bind.gen + 1) % 2 ^ 32 } := by
    unfold State.replaced
    rw [eq]
    rfl
  have bbind : v.bound.bind = { s.bind with
      req := none, progs := sput none s.bind.progs slot p, gen := (s.bind.gen + 1) % 2 ^ 32
      trees := v.bound.bind.trees } := by
    rw [v.bound_eq, vbind, rbind]
  obtain ⟨ends, status, bind, tiles⟩ := taken_endWith (t := v.bound) hr only (by rw [bbind]) (by rw [v.bound_eq, vfelt])
  have prog : ∀ k, (v.bound.endWith 0 0 0).prog k = sget none (sput none s.bind.progs slot p) k := fun k => by
    unfold State.prog
    rw [bind, bbind]
  refine ⟨ends, status, ?_, fun k hk => ?_, ?_, ?_⟩
  · rw [prog, sget_sput_self]
  · rw [prog, sget_sput_ne _ _ _ _ _ hk]
    rfl
  · rw [bind, bbind]
  · rw [tiles, v.bound_eq]

/-- An UNBIND of a bound program (R33, R440). -/
theorem State.applyUnbind_bound {s : State} {slot : Nat} {g : Prog} (hg : s.prog slot = some g) (bound : g.bound ≠ none) :
    s.applyUnbind slot =
      if s.busy slot then s.failCommand fBIND_CONFLICT
      else
        let t := s.setProg slot (some { g with bound := none })
        ({ t with bind := { t.bind with gen := (t.bind.gen + 1) % 2 ^ 32 } }.bound).endWith 0 0 0 := by
  have some_ : g.bound.isNone = false := by simpa [Option.isSome_iff_ne_none] using bound
  simp only [State.applyUnbind, hg, some_, Bool.false_eq_true, if_false]

/-- The programs before a retirement state is applied, in their order (R34, R37). -/
def State.prepared (s : State) : State := [0, 1, 2, 3].foldl (fun t i => t.prepare s.target i) s

theorem State.prepared_works (s : State) : Works s s.prepared := .foldl (fun t i => .of_prepare t s.target i) _ s

theorem State.prepared_empty {s : State} (h : ∀ i, i < 4 → s.prog i = none) : s.prepared = s := by
  have all : ∀ l : List Nat, (∀ i ∈ l, i < 4) → l.foldl (fun t i => t.prepare s.target i) s = s := by
    intro l hl
    induction l with
    | nil => rfl
    | cons i l ih =>
      rw [List.foldl_cons, State.prepare_empty _ (h i (hl i (by simp)))]
      exact ih fun j hj => hl j (by simp [hj])
  exact all _ (by decide)

/-- The retirement state that was found is in force, and no tile is rebuilt yet (R36, R449, R453). -/
def State.retired (s : State) : State :=
  { s.prepared with
    bind := { s.prepared.bind with
      applied := s.target
      gen := if s.bind.applied.signature != s.target.signature then (s.prepared.bind.gen + 1) % 2 ^ 32
        else s.prepared.bind.gen }
    ident := { s.prepared.ident with holes := s.target.holes, served := 1200 - s.target.holes } }

theorem State.retired_bind (s : State) :
    s.retired.bind.applied = s.target ∧ s.retired.bind.req = s.prepared.bind.req ∧
    s.retired.bind.progs = s.prepared.bind.progs := by
  simp only [State.retired, and_self]

theorem State.retired_ident (s : State) :
    s.retired.ident.holes = s.target.holes ∧ s.retired.ident.served = 1200 - s.target.holes := by
  simp only [State.retired, and_self]

theorem State.retired_rest (s : State) :
    s.retired.power = s.prepared.power ∧ s.retired.run = s.prepared.run ∧ s.retired.tiles = s.prepared.tiles := by
  simp only [State.retired, and_self]

/-- The tiles whose service changes, rebuilt (R35). -/
def State.rebuilt (s : State) : State :=
  [0, 1, 2, 3].foldl (fun t i => t.rebuild i fun k => s.bind.applied.tileSlot k != s.target.tileSlot k) s.retired

theorem State.applyRetire_eq (s : State) : s.applyRetire = s.rebuilt.bound := by
  unfold State.applyRetire State.rebuilt State.retired State.prepared
  rfl

theorem State.rebuilt_onlyTiles (s : State) : OnlyTiles s.retired s.rebuilt :=
  .foldl (fun t i => State.rebuild_onlyTiles t i _) _ _

theorem State.rebuilt_empty {s : State} (h : ∀ i, i < 4 → s.prog i = none) : s.rebuilt = s.retired := by
  have none_ : ∀ i, i < 4 → s.retired.prog i = none := by
    intro i hi
    unfold State.prog
    rw [s.retired_bind.2.2, State.prepared_empty h]
    exact h i hi
  simp only [State.rebuilt, List.foldl_cons, List.foldl_nil, State.rebuild_empty _ (none_ 0 (by decide)),
    State.rebuild_empty _ (none_ 1 (by decide)), State.rebuild_empty _ (none_ 2 (by decide)),
    State.rebuild_empty _ (none_ 3 (by decide))]

/-- The retirement state that was found is applied, and nothing that runs changes but its end (R36, R262, R368). -/
theorem State.applyRetire_spec (s : State) :
    let u := s.applyRetire
    u.bind.applied = s.target ∧ u.bind.req = s.bind.req ∧ u.ident.holes = s.target.holes ∧
    u.ident.served = 1200 - s.target.holes ∧ u.power = s.power ∧ (u.run = s.run ∨ u.run = none) ∧
    ((∀ i, i < 4 → s.prog i = none) → u.tiles = s.tiles) := by
  have works := s.prepared_works
  have rebuilt : s.rebuilt = _ := s.rebuilt_onlyTiles
  obtain ⟨applied, req, -⟩ := s.retired_bind
  obtain ⟨holes, served⟩ := s.retired_ident
  obtain ⟨power, run, tiles⟩ := s.retired_rest
  intro u
  have hu : u = _ := s.applyRetire_eq.trans s.rebuilt.bound_eq
  have empty : (∀ i, i < 4 → s.prog i = none) → s.rebuilt.tiles = s.retired.tiles := fun h => by
    rw [State.rebuilt_empty h]
  generalize s.rebuilt.bound = b at hu
  generalize s.rebuilt = v at hu rebuilt empty
  generalize s.retired = d at *
  refine ⟨?_, ?_, ?_, ?_, ?_, ?_, fun h => ?_⟩
  · rw [hu, rebuilt]
    exact applied
  · rw [hu, rebuilt]
    exact req.trans (by rw [works.bind])
  · rw [hu, rebuilt]
    exact holes
  · rw [hu, rebuilt]
    exact served
  · rw [hu, rebuilt]
    exact power.trans works.power
  · rw [hu, rebuilt]
    exact works.run.imp run.trans run.trans
  · rw [hu]
    exact (empty h).trans <| tiles.trans (by rw [State.prepared_empty h])

theorem Retire.holes_le (r : Retire) : r.holes ≤ 1200 := by
  unfold Retire.holes
  exact (List.length_filter_le _ _).trans (by simp)

/-- A command that runs, or none, goes on as it is. -/
theorem State.woken_eq {s : State} (h : ∀ r, s.run = some r → r.begun = true) :
    s.woken = { s with run := s.run.map fun (r : Running) => { r with woken := true } } := by
  unfold State.woken State.advance
  cases hr : s.run with
  | none => rfl
  | some r => simp [h r hr]

theorem State.vote_none (s : State) : s.vote none = (true, s.decided) := rfl

/-- A retirement that was found is applied, and a command that has begun goes on (R36, R471). -/
theorem exec_bindingApplied_retire {s : State} (due : s.target ≠ s.bind.applied)
    (begun : ∀ r, s.run = some r → r.begun = true ∨ s.power.waking = true) :
    ∃ run, exec (.bindingApplied none) s = .next { s.decided.applyRetire with run := run } := by
  have eq := s.decided_eq
  have target : s.decided.target = s.target := by rw [eq]; rfl
  have applied : s.decided.bind = s.bind := by rw [eq]
  obtain ⟨-, -, -, -, power, run, -⟩ := s.decided.applyRetire_spec
  have goes : exec (.bindingApplied none) s =
      .next (if s.decided.applyRetire.power.waking then s.decided.applyRetire else s.decided.applyRetire.woken) := by
    show execBindingApplied none s = _
    have waits : s.rebindDue = true := by simp [State.rebindDue, due]
    have moved : ¬ s.decided.target = s.decided.bind.applied := by rw [target, applied]; exact due
    unfold execBindingApplied
    rw [State.vote_none]
    simp only [waits, due, moved, Bool.not_true, Bool.false_and, Bool.false_eq_true, decide_false, if_false]
  rw [goes]
  by_cases waking : s.decided.applyRetire.power.waking = true
  · exact ⟨s.decided.applyRetire.run, by rw [if_pos waking]⟩
  · have goesOn : ∀ r, s.decided.applyRetire.run = some r → r.begun = true := by
      intro r hr
      have mine : s.run = some r := by
        rcases run with same | ended
        · rw [same, eq] at hr
          exact hr
        · rw [ended] at hr
          cases hr
      refine (begun r mine).resolve_right fun h => waking ?_
      rw [power, eq]
      exact h
    exact ⟨_, by rw [if_neg waking, State.woken_eq goesOn]⟩

end Sys2Proof.Machine

open Sys2Proof Sys2Proof.Machine

/-- Settles O46: a waiting request is refused, or applied and ended; a retirement that was found is applied by operations
that end the running command at most. -/
theorem bindingApplied : Obligations.BindingApplied := by
  intro s
  refine ⟨fun found req => ?_, fun r found awake hr => ?_, fun due begun => ?_⟩
  · have idle : s.rebindDue = false := by simp [State.rebindDue, found, req]
    show execBindingApplied none s = _
    simp only [execBindingApplied, idle, Bool.not_false, if_true]
  · intro held ended
    have holds : ∀ u, ReqEnds s u → held u := fun u h =>
      ⟨h.felt, h.vats, h.twin, h.lease, h.applied, h.found, h.req, h.run⟩
    have refused : ∀ code, ended (s.taken.failCommand code) code := by
      intro code
      obtain ⟨h, bind, tiles, status⟩ := taken_failCommand hr code
      exact ⟨holds _ h, bind, tiles, status⟩
    have eq := s.taken_eq
    have prog : ∀ i, s.taken.prog i = s.prog i := fun i => by rw [eq]; rfl
    have busy : ∀ i, s.taken.busy i = s.busy i := fun i => by rw [eq]; rfl
    refine ⟨fun slot x y g req hg => ?_, fun slot g req hg bound => ?_⟩
    · intro meets moves
      have cases := s.taken.applyBind_cases x y ((prog slot).trans hg)
      have goes : exec (.bindingApplied none) s = .next (s.taken.applyBind slot x y) := exec_bindingApplied_req found awake req
      have same : s.taken.meetsBound slot x y g ↔ meets := by simp only [State.meetsBound, prog]; rfl
      rw [same, busy] at cases
      refine ⟨fun conflict => ?_, fun clear still broken => ?_, fun clear still served => ?_⟩
      · exact ⟨_, goes, by rw [(cases.resolve_right fun h => h.1 conflict).2]; exact refused _⟩
      · have hole := (cases.resolve_left fun h => h.1.elim clear still).2
        have applied : s.taken.bind.applied = s.bind.applied := by rw [eq]
        rw [applied, if_pos broken] at hole
        exact ⟨_, goes, by rw [hole]; exact refused _⟩
      · have stands := (cases.resolve_left fun h => h.1.elim clear still).2
        have applied : s.taken.bind.applied = s.bind.applied := by rw [eq]
        rw [applied, if_neg (by rw [served]; decide)] at stands
        refine ⟨_, goes, ?_⟩
        rw [stands]
        by_cases corner : g.bound = some (x, y)
        · obtain ⟨ends, status, mine, others, gen, tiles⟩ :=
            taken_setProg_endWith hr slot (some { g with bound := some (x, y), stopped := false })
          simp only [corner, if_true]
          exact ⟨holds _ ends, status, mine, others, gen, tiles⟩
        · obtain ⟨ends, status, mine, others, gen, -⟩ := replaced_bound_endWith hr slot
            (some { g with bound := some (x, y), stopped := false }) (State.rebuild_onlyTiles _ slot fun _ => true)
          simp only [corner, if_false]
          exact ⟨holds _ ends, status, mine, others, gen⟩
    · have goes : exec (.bindingApplied none) s = .next (s.taken.applyUnbind slot) := exec_bindingApplied_req found awake req
      have leaves := State.applyUnbind_bound ((prog slot).trans hg) bound
      rw [busy] at leaves
      refine ⟨fun works => ⟨_, goes, ?_⟩, fun idle => ⟨_, goes, ?_⟩⟩
      · rw [leaves, if_pos works]
        exact refused _
      · obtain ⟨ends, status, mine, others, gen, tiles⟩ :=
          replaced_bound_endWith hr slot (some { g with bound := none }) (.refl (s.replaced slot (some { g with bound := none })))
        rw [leaves, if_neg (by rw [idle]; decide)]
        refine ⟨holds _ ends, status, mine, others, gen, tiles.trans ?_⟩
        unfold State.replaced
        rw [eq]
        rfl
  · obtain ⟨run, goes⟩ := exec_bindingApplied_retire due begun
    obtain ⟨applied, req, holes, served, -, -, tiles⟩ := s.decided.applyRetire_spec
    have eq := s.decided_eq
    have target : s.decided.target = s.target := by rw [eq]; rfl
    have prog : ∀ i, s.decided.prog i = s.prog i := fun i => by rw [eq]; rfl
    rw [target] at applied holes served
    generalize s.decided.applyRetire = v at *
    refine ⟨_, goes, applied, req.trans (by rw [eq]), holes, ?_, fun none_ => ?_⟩
    · show v.ident.holes + v.ident.served = 1200
      rw [holes, served]
      have le := s.target.holes_le
      omega
    · exact (tiles fun i hi => (prog i).trans (none_ i hi)).trans (by rw [eq])
end

section
/-! PROOFS. A step or query boundary and the start of an attempt: what they read and what they change (R43, R46, R176,
R463 to R465). -/

namespace Sys2Proof.Machine

/-- The module with other host ports, pages and sites. -/
def State.outer (s : State) (h0 h1 : HostPort) (pages : List (Nat × Page)) (sites : List (Nat × SiteRegs)) : State :=
  { s with h0 := h0, h1 := h1, pages := pages, sites := sites }

/-- A boundary reads no port, page or site. -/
theorem State.applyClasses_outer (s : State) (h0 h1 : HostPort) (pages : List (Nat × Page)) (sites : List (Nat × SiteRegs)) :
    (s.outer h0 h1 pages sites).applyClasses = s.applyClasses.outer h0 h1 pages sites := by
  unfold State.applyClasses
  exact List.foldl_hom (State.outer · h0 h1 pages sites) fun t f => rfl

/-- The holds follow a change of the classes (R269). -/
def State.holdsAfter (s : State) (c : List Nat) : State := if s.classes = c then s else s.sampleHolds

/-- The tick period doubles when a vat port was found retired (R290). -/
def State.redoubled (s : State) : State :=
  { s with train := { s.train with doubled := s.train.doubled || !s.bind.found.vatPorts.isEmpty } }

/-- A stretch ends when no field runs below its plan (R46). -/
def State.unstretched (s : State) : State := if s.atPlan then { s with train := { s.train with stretch := none } } else s

theorem State.boundary_parts (s : State) :
    s.boundary = ((s.applyClasses.holdsAfter s.classes).redoubled).unstretched := by
  unfold State.boundary State.unstretched State.redoubled State.holdsAfter
  rfl

theorem State.holdsAfter_outer (s : State) (c : List Nat) (h0 h1 : HostPort) (pages : List (Nat × Page))
    (sites : List (Nat × SiteRegs)) :
    (s.outer h0 h1 pages sites).holdsAfter c = (s.holdsAfter c).outer h0 h1 pages sites :=
  (apply_ite (State.outer · h0 h1 pages sites) (s.classes = c) s s.sampleHolds).symm

theorem State.unstretched_outer (s : State) (h0 h1 : HostPort) (pages : List (Nat × Page))
    (sites : List (Nat × SiteRegs)) :
    (s.outer h0 h1 pages sites).unstretched = s.unstretched.outer h0 h1 pages sites :=
  (apply_ite (State.outer · h0 h1 pages sites) (s.atPlan = true)
    { s with train := { s.train with stretch := none } } s).symm

theorem State.boundary_outer (s : State) (h0 h1 : HostPort) (pages : List (Nat × Page)) (sites : List (Nat × SiteRegs)) :
    (s.outer h0 h1 pages sites).boundary = s.boundary.outer h0 h1 pages sites := by
  have classes : (s.outer h0 h1 pages sites).classes = s.classes := rfl
  have doubles : ∀ t : State, (t.outer h0 h1 pages sites).redoubled = t.redoubled.outer h0 h1 pages sites := fun _ => rfl
  rw [State.boundary_parts, State.boundary_parts, classes, State.applyClasses_outer, State.holdsAfter_outer, doubles,
    State.unstretched_outer]

/-- Applying the classes changes fields alone. -/
theorem State.applyClasses_eq (s : State) : s.applyClasses = { s with fields := s.applyClasses.fields } := by
  unfold State.applyClasses
  generalize List.range 48 = l
  induction l generalizing s with
  | nil => rfl
  | cons f l ih => rw [List.foldl_cons, ih]; rfl

/-- A boundary changes the fields, the holds, the doubling and the stretch (R43, R46, R269, R290). -/
theorem State.boundary_eq (s : State) :
    s.boundary = { s with
      fields := s.boundary.fields
      felt := { s.felt with holdCls := s.boundary.felt.holdCls, holdStale := s.boundary.felt.holdStale }
      train := { s.train with
        doubled := s.train.doubled || !s.bind.found.vatPorts.isEmpty, stretch := s.boundary.train.stretch } } := by
  have eq := s.applyClasses_eq
  rw [State.boundary_parts]
  generalize s.applyClasses = t at eq
  unfold State.unstretched State.holdsAfter
  rw [eq]
  split
  · split <;> rfl
  · split <;> rfl

/-! The start of an attempt (R176) -/

theorem Tile.startAttempt_idem (t : Tile) : t.startAttempt.startAttempt = t.startAttempt := by
  simp [Tile.startAttempt, List.filter_filter, Function.comp_def]

/-- The tile that serves a logical tile, if one does, changes. -/
def State.modTile (s : State) (f : Tile → Tile) (t : Nat) : State :=
  match s.bind.applied.tileSlot t with
  | some slot => s.setTile slot (f (s.tile slot))
  | none => s

theorem State.modTiles_eq (s : State) (i : Nat) (f : Nat → Nat → Tile → Tile) :
    s.modTiles i f = (s.tilesOf i).foldl (fun t q => t.modTile (f q.1 q.2) q.2) s := rfl

theorem State.modTile_onlyTiles (s : State) (f : Tile → Tile) (t : Nat) : OnlyTiles s (s.modTile f t) := by
  unfold State.modTile
  split
  · rfl
  · exact .refl s

theorem State.modTiles_onlyTiles (s : State) (i : Nat) (f : Nat → Nat → Tile → Tile) : OnlyTiles s (s.modTiles i f) := by
  rw [State.modTiles_eq]
  exact .foldl (fun t q => t.modTile_onlyTiles _ _) _ s

theorem State.modTile_serves {s : State} {t k : Nat} (f : Tile → Tile) (h : s.bind.applied.tileSlot t = some k) :
    (s.modTile f t).tile k = f (s.tile k) := by
  simp only [State.modTile, h, State.setTile_tile]

theorem State.modTile_other {s : State} {t k : Nat} (f : Tile → Tile) (h : s.bind.applied.tileSlot t ≠ some k) :
    (s.modTile f t).tile k = s.tile k := by
  unfold State.modTile
  split
  · next slot hs => exact State.setTile_tile_ne _ _ _ _ fun e => h (by rw [hs, e])
  · rfl

theorem State.modTile_bind (s : State) (f : Tile → Tile) (t : Nat) : (s.modTile f t).bind = s.bind := by
  rw [show s.modTile f t = _ from s.modTile_onlyTiles f t]

/-- The serving tiles of a program change once under an operation that done twice is done once, and no other tile does. -/
theorem State.modTiles_tile (s : State) (i k : Nat) {f : Tile → Tile} (idem : ∀ t, f (f t) = f t) :
    (∀ q ∈ s.tilesOf i, s.bind.applied.tileSlot q.2 = some k → (s.modTiles i fun _ _ t => f t).tile k = f (s.tile k)) ∧
    ((∀ q ∈ s.tilesOf i, s.bind.applied.tileSlot q.2 ≠ some k) → (s.modTiles i fun _ _ t => f t).tile k = s.tile k) := by
  rw [State.modTiles_eq]
  generalize s.tilesOf i = l
  have other : ∀ (l : List (Nat × Nat)) (t : State), t.bind = s.bind →
      (∀ q ∈ l, s.bind.applied.tileSlot q.2 ≠ some k) → (l.foldl (fun t q => t.modTile f q.2) t).tile k = t.tile k := by
    intro l
    induction l with
    | nil => exact fun _ _ _ => rfl
    | cons q l ih =>
      intro t ht h
      rw [List.foldl_cons, ih _ ((t.modTile_bind f q.2).trans ht) fun q' hq' => h q' (List.mem_cons_of_mem _ hq')]
      exact State.modTile_other f (by rw [ht]; exact h q List.mem_cons_self)
  have serves : ∀ (l : List (Nat × Nat)) (t : State), t.bind = s.bind →
      (∃ q ∈ l, s.bind.applied.tileSlot q.2 = some k) →
      (l.foldl (fun t q => t.modTile f q.2) t).tile k = f (t.tile k) := by
    intro l
    induction l with
    | nil => simp
    | cons q l ih =>
      intro t ht h
      rw [List.foldl_cons]
      have hb := (t.modTile_bind f q.2).trans ht
      by_cases later : ∃ q' ∈ l, s.bind.applied.tileSlot q'.2 = some k
      · rw [ih _ hb later]
        by_cases now : t.bind.applied.tileSlot q.2 = some k
        · rw [State.modTile_serves f now, idem]
        · rw [State.modTile_other f now]
      · obtain ⟨q', hq', hk⟩ := h
        have now : s.bind.applied.tileSlot q.2 = some k := by
          rcases List.mem_cons.mp hq' with rfl | there
          · exact hk
          · exact absurd ⟨q', there, hk⟩ later
        rw [other l _ hb fun q' hq' hk => later ⟨q', hq', hk⟩]
        exact State.modTile_serves f (by rw [ht]; exact now)
  exact ⟨fun q hq hk => serves l s rfl ⟨q, hq, hk⟩, other l s rfl⟩

/-- The start of an attempt changes tiles, the links that gave up in it, and the training program's sums (R176, R281,
R338). -/
theorem State.startAttempt_eq (s : State) (i : Nat) :
    s.startAttempt i = { s with
      tiles := (s.modTiles i fun _ _ t => t.startAttempt).tiles
      felt := { s.felt with attemptLinks := [] }
      vats := { s.vats with vats := (s.startAttempt i).vats.vats } } := by
  have eq : (s.modTiles i fun _ _ t => t.startAttempt) = _ := s.modTiles_onlyTiles i fun _ _ t => t.startAttempt
  have sums : ∃ v, s.startAttempt i = { s.modTiles i fun _ _ t => t.startAttempt with
      felt := { (s.modTiles i fun _ _ t => t.startAttempt).felt with attemptLinks := [] }
      vats := { (s.modTiles i fun _ _ t => t.startAttempt).vats with vats := v } } := by
    unfold State.startAttempt
    split
    · exact ⟨_, rfl⟩
    · exact ⟨_, rfl⟩
  obtain ⟨v, hv⟩ := sums
  generalize (s.modTiles i fun _ _ t => t.startAttempt) = t at eq hv
  rw [hv, eq]

/-- The vats' sums stay at the start of a query (R338). -/
theorem State.startAttempt_vats {s : State} {i : Nat} (hi : i ≠ 0) : (s.startAttempt i).vats = s.vats := by
  unfold State.startAttempt
  rw [if_neg hi, show (s.modTiles i fun _ _ t => t.startAttempt) = _ from s.modTiles_onlyTiles i fun _ _ t => t.startAttempt]

/-- The serving tiles of the program start anew (R176), and no other tile does. -/
theorem State.startAttempt_tile (s : State) (i k : Nat) :
    (∀ q ∈ s.tilesOf i, s.bind.applied.tileSlot q.2 = some k → (s.startAttempt i).tile k = (s.tile k).startAttempt) ∧
    ((∀ q ∈ s.tilesOf i, s.bind.applied.tileSlot q.2 ≠ some k) → (s.startAttempt i).tile k = s.tile k) := by
  have tiles : (s.startAttempt i).tile k = (s.modTiles i fun _ _ t => t.startAttempt).tile k := by
    rw [State.startAttempt_eq]
    rfl
  rw [tiles]
  exact s.modTiles_tile i k Tile.startAttempt_idem

/-! Transfers that a port took (R362, R364) -/

/-- A port has taken `n` transfers, and no other site has changed. -/
def PortTook (s u : State) (p : HPort) (n : Nat) : Prop :=
  (∀ f, f ≠ hostSite p → u.site f = s.site f) ∧
  u.site (hostSite p) = { s.site (hostSite p) with fails := 0, seqRx := ((s.site (hostSite p)).seqRx + n) % 2 ^ 32 }

theorem State.dmaTook_eq (s : State) (p : HPort) (n : Nat) : s.dmaTook p n = { s with sites := (s.dmaTook p n).sites } := rfl

theorem State.dmaTook_took (s : State) (p : HPort) (n : Nat) : PortTook s (s.dmaTook p n) p n :=
  ⟨fun f hf => by simp [State.dmaTook, hf], by simp [State.dmaTook]⟩

theorem PortTook.trans {s t u : State} {p : HPort} {m n : Nat} (h : PortTook s t p m) (g : PortTook t u p n) :
    PortTook s u p (m + n) := by
  refine ⟨fun f hf => (g.1 f hf).trans (h.1 f hf), ?_⟩
  rw [g.2, h.2]
  have sum : ((s.site (hostSite p)).seqRx + m) % 2 ^ 32 + n = ((s.site (hostSite p)).seqRx + m) % 2 ^ 32 + n := rfl
  simp only [Nat.mod_add_mod, Nat.add_assoc]

theorem PortTook.congr {s s' u u' : State} {p : HPort} {n : Nat} (h : PortTook s u p n) (hs : s'.sites = s.sites)
    (hu : u'.sites = u.sites) : PortTook s' u' p n := by
  have es : ∀ f, s'.site f = s.site f := fun f => by unfold State.site; rw [hs]
  have eu : ∀ f, u'.site f = u.site f := fun f => by unfold State.site; rw [hu]
  exact ⟨fun f hf => by rw [eu, es, h.1 f hf], by rw [eu, es, h.2]⟩

end Sys2Proof.Machine
end

section
/-! PROOFS. A step begins, or waits for the feed (R43, R52, R176, R177, R387, R444). -/

namespace Sys2Proof.Machine

/-- An attempt of a step as the port reads its entries (R444). -/
def State.entered (s : State) (r : Running) (i : Image) (n att : Nat) : Phase1 :=
  { step := n, attempt := att, started := true
    inputs := (List.range i.feedE).map fun j =>
      ({ ring := ringIndex n i.feedE j r.page.feedCount.toNat
         entry := memRead (s.port r.port).mem (r.page.feedBase.toNat +
           32 * ringIndex n i.feedE j r.page.feedCount.toNat) 32 } : Input) }

theorem State.copyRound_eq_self {s : State} (h : s.twin.join = none) : s.copyRound = s := by
  simp only [State.copyRound, h]

/-- An attempt outside a moving copy begins (R53, R176, R444). -/
theorem State.beginAttempt_eq {s : State} (r : Running) (i : Image) (n att : Nat) (h : s.twin.join = none) :
    s.beginAttempt r i n att =
      { (s.startAttempt 0).dmaTook r.port i.feedE with train := { s.train with ph1 := some (s.entered r i n att) } } := by
  obtain ⟨ts, v, eq⟩ : ∃ ts v, s.startAttempt 0 = { s with
      tiles := ts, felt := { s.felt with attemptLinks := [] }, vats := { s.vats with vats := v } } :=
    ⟨_, _, s.startAttempt_eq 0⟩
  unfold State.beginAttempt
  rw [eq]
  exact State.copyRound_eq_self h

/-- The serving tiles of the training program start anew, and the rest of the model's memory stays. -/
structure Anew (s u : State) : Prop where
  mem : u.vats.mem = s.vats.mem
  twin : u.twin = s.twin
  bind : u.bind = s.bind
  queries : u.queries = s.queries
  serves : ∀ q ∈ s.tilesOf 0, ∀ k, s.bind.applied.tileSlot q.2 = some k → u.tile k = (s.tile k).startAttempt
  others : ∀ k, (∀ q ∈ s.tilesOf 0, s.bind.applied.tileSlot q.2 ≠ some k) → u.tile k = s.tile k

/-- What an attempt that begins leaves. -/
theorem beginAttempt_begins {s : State} (r : Running) (i : Image) (n att : Nat) (h : s.twin.join = none) :
    let u := s.beginAttempt r i n att
    u.train = { s.train with ph1 := some (s.entered r i n att) } ∧ u.felt = { s.felt with attemptLinks := [] } ∧
    u.pages = s.pages ∧ u.fields = s.fields ∧ PortTook s u r.port i.feedE ∧ Anew s u := by
  intro u
  have hu : u = _ := State.beginAttempt_eq r i n att h
  have tile := s.startAttempt_tile 0
  have tiles : ∀ k, u.tile k = (s.startAttempt 0).tile k := fun k => by rw [hu]; rfl
  obtain ⟨ts, v, eq⟩ : ∃ ts v, s.startAttempt 0 = { s with
      tiles := ts, felt := { s.felt with attemptLinks := [] }, vats := { s.vats with vats := v } } :=
    ⟨_, _, s.startAttempt_eq 0⟩
  refine ⟨by rw [hu], ?_, ?_, ?_, ?_, ?_, ?_, ?_, ?_, fun q hq k hk => ?_, fun k hk => ?_⟩
  · rw [hu, eq]; rfl
  · rw [hu, eq]; rfl
  · rw [hu, eq]; rfl
  · exact ((s.startAttempt 0).dmaTook_took r.port i.feedE).congr (by rw [eq]) (by rw [hu])
  · rw [hu, eq]; rfl
  · rw [hu, eq]; rfl
  · rw [hu, eq]; rfl
  · rw [hu, eq]; rfl
  · rw [tiles]; exact (tile k).1 q hq hk
  · rw [tiles]; exact (tile k).2 hk

/-- A decision that all replicas share changes block counters alone (R22, R491). -/
theorem State.decided_pages (s : State) : s.decided = { s with pages := s.decided.pages } := by
  have h0 : s.decided.h0 = s.h0 := by simp [State.decided]
  have h1 : s.decided.h1 = s.h1 := by simp [State.decided]
  have eq := s.decided_eq
  rw [h0, h1] at eq
  exact eq

/-- What the fill index allows, and what the holder of a copy waits for (R387, R444). -/
def State.stepDue (s : State) : Prop := s.nextStep ≤ s.train.last ∧ (s.twin.st = 3 → s.train.ph2 = none)

theorem State.stepDue.not_held {s : State} (h : s.stepDue) :
    ¬(s.train.last < s.nextStep ∨ (s.twin.st = 3 ∧ s.train.ph2.isSome)) := by
  obtain ⟨last, held⟩ := h
  rintro (beyond | ⟨st, ph2⟩)
  · omega
  · rw [held st] at ph2
    cases ph2

/-- The fill index as the running command's port reads it (R444). -/
def State.fillIndex (s : State) (r : Running) : Nat := leNat (memRead (s.port r.port).mem r.page.feedFill.toNat 8)

theorem State.freshStep_held {s : State} (r : Running) (i : Image) (d : Option Replica)
    (h : s.twin.st = 3 ∧ s.train.ph2.isSome) : s.freshStep r i d = s := by
  unfold State.freshStep
  exact if_pos (.inr h)

theorem State.freshStep_waits {s : State} (r : Running) (i : Image) (d : Option Replica) (due : s.stepDue)
    (h : s.fillIndex r < s.nextStep) :
    s.freshStep r i d = if s.train.feedWait then s.dmaTook r.port 1
      else State.setEvt { s.dmaTook r.port 1 with train := { s.train with feedWait := true } } (pgCmd r.port) 8 := by
  have fill : leNat ((s.dmaTook r.port 1).dmaRead r.port r.page.feedFill.toNat 8) < s.nextStep := h
  unfold State.freshStep
  dsimp only
  rw [if_neg due.not_held, if_pos fill]
  rfl

/-- The training run as a fresh step begins (R43, R52). -/
def Train.fresh (t : Train) : Train := { t with feedWait := false, redos := 0, overrun := false, throttled := false }

/-- The boundary of a fresh step, without the transfer and the vote before it. -/
def State.atBoundary (s : State) : State := State.boundary { s with train := s.train.fresh }

theorem State.voteThen_none (s : State) (k : State → State) : s.voteThen none k = k s.decided := by
  unfold State.voteThen
  rw [State.vote_none]
  rfl

theorem State.periodOf_outer (s : State) (h0 h1 : HostPort) (pages : List (Nat × Page)) (sites : List (Nat × SiteRegs))
    (i : Nat) : (s.outer h0 h1 pages sites).periodOf i = s.periodOf i := by
  unfold State.periodOf State.image? State.prog State.outer
  rfl

theorem State.freshStep_begins {s : State} (r : Running) (i : Image) (due : s.stepDue)
    (h : s.nextStep ≤ s.fillIndex r) (period : s.atBoundary.periodOf 0 ≤ 64) :
    s.freshStep r i none = (s.atBoundary.outer s.h0 s.h1 (s.dmaTook r.port 1).decided.pages
      (s.dmaTook r.port 1).sites).beginAttempt r i s.nextStep 0 := by
  have fill : ¬ leNat ((s.dmaTook r.port 1).dmaRead r.port r.page.feedFill.toNat 8) < s.nextStep := Nat.not_lt.mpr h
  have takes : ({ (s.dmaTook r.port 1).decided with train := (s.dmaTook r.port 1).decided.train.fresh } : State).boundary =
      s.atBoundary.outer s.h0 s.h1 (s.dmaTook r.port 1).decided.pages (s.dmaTook r.port 1).sites := by
    unfold State.atBoundary
    rw [← State.boundary_outer]
    congr 1
    conv_lhs => rw [State.decided_pages]
    rfl
  have stays : (s.atBoundary.outer s.h0 s.h1 (s.dmaTook r.port 1).decided.pages (s.dmaTook r.port 1).sites).periodOf 0 =
      s.atBoundary.periodOf 0 := State.periodOf_outer _ _ _ _ _ _
  unfold State.freshStep
  dsimp only
  rw [if_neg due.not_held, if_neg fill, State.voteThen_none]
  refine (if_neg fun h => ?_).trans (congrArg (State.beginAttempt · r i s.nextStep 0) takes)
  have late : 64 < State.periodOf (State.boundary { (s.dmaTook r.port 1).decided with
    train := (s.dmaTook r.port 1).decided.train.fresh }) 0 := h
  rw [takes, stays] at late
  omega

/-- RUN_STEPS may begin a step attempt: no remote operation of an earlier one is in the felt, and DMA works (R43, R177). -/
structure MayStep (s : State) (r : Running) (i : Image) : Prop where
  run : s.run = some r
  image : s.trainImage = some i
  begins : s.mayBegin = true
  clear : s.feltClear 0 = true
  up : (s.port r.port).dmaUp = true

theorem MayStep.stepBegin_redo {s : State} {r : Running} {i : Image} (h : MayStep s r i) {a : Phase1}
    (ph1 : s.train.ph1 = some a) (d : Option Replica) :
    exec (.stepBegin d) s = .next (if a.started || (s.twin.st == 3 && s.train.ph2.isSome) then s
      else s.beginAttempt r i a.step a.attempt) := by
  show execStepBegin s d = _
  simp only [execStepBegin, h.run, h.image, h.begins, h.clear, h.up, ph1, Bool.not_true, Bool.or_self, Bool.false_eq_true,
    if_false]
  split <;> rfl

theorem MayStep.stepBegin_fresh {s : State} {r : Running} {i : Image} (h : MayStep s r i) (ph1 : s.train.ph1 = none)
    (d : Option Replica) :
    exec (.stepBegin d) s = .next (if s.train.feedWait then s else s.freshStep r i d) := by
  show execStepBegin s d = _
  simp only [execStepBegin, h.run, h.image, h.begins, h.clear, h.up, ph1, Bool.not_true, Bool.or_self, Bool.false_eq_true,
    if_false]
  split <;> rfl

theorem MayStep.feedFillPoll {s : State} {r : Running} {i : Image} (h : MayStep s r i) (d : Option Replica) :
    exec (.feedFillPoll d) s =
      .next (if !s.train.feedWait || s.train.ph1.isSome then s else s.freshStep r i d) := by
  show execFeedFillPoll s d = _
  simp only [execFeedFillPoll, h.run, h.image, h.begins, h.clear, h.up, Bool.not_true, Bool.or_false]
  split <;> rfl

/-- A fresh step that the entries allow begins (R43, R46, R176, R444). -/
theorem freshStep_spec {s : State} (r : Running) (i : Image) (due : s.stepDue) (many : s.nextStep ≤ s.fillIndex r)
    (period : s.atBoundary.periodOf 0 ≤ 64) (join : s.twin.join = none) :
    let u := s.freshStep r i none
    PagesKeep s u [] ∧ PortTook s u r.port (1 + i.feedE) ∧ Anew s u ∧
    u.felt = { s.felt with holdCls := u.felt.holdCls, holdStale := u.felt.holdStale, attemptLinks := [] } ∧
    u.train = { s.train.fresh with
      ph1 := some (s.entered r i s.nextStep 0)
      doubled := s.train.doubled || !s.bind.found.vatPorts.isEmpty, stretch := u.train.stretch } := by
  obtain ⟨fs, hc, hs, st, eq⟩ : ∃ fs hc hs st, s.atBoundary = { s with
      fields := fs, felt := { s.felt with holdCls := hc, holdStale := hs }
      train := { s.train.fresh with doubled := s.train.doubled || !s.bind.found.vatPorts.isEmpty, stretch := st } } :=
    ⟨_, _, _, _, State.boundary_eq { s with train := s.train.fresh }⟩
  have counted := (s.dmaTook r.port 1).decided_only.1.2.2
  have begins := s.freshStep_begins r i due many period
  intro u
  have hu : u = _ := begins
  clear_value u
  generalize s.atBoundary = b at hu eq
  generalize hv : b.outer s.h0 s.h1 (s.dmaTook r.port 1).decided.pages (s.dmaTook r.port 1).sites = v at hu
  have vjoin : v.twin.join = none := by rw [← hv, eq]; exact join
  obtain ⟨train, felt, pages, -, took, anew⟩ := beginAttempt_begins r i s.nextStep 0 vjoin
  rw [← hu] at train felt pages took anew
  refine ⟨?_, ?_, ?_, ?_, ?_⟩
  · intro k hk
    have page : u.page k = (s.dmaTook r.port 1).decided.page k := by
      unfold State.page
      rw [pages, ← hv]
      rfl
    rw [page]
    exact counted k hk
  · have takes : PortTook s v r.port 1 := (s.dmaTook_took r.port 1).congr rfl (by rw [← hv]; rfl)
    exact takes.trans took
  · obtain ⟨mem, twin, bind, queries, serves, others⟩ := anew
    have vbind : v.bind = s.bind := by rw [← hv, eq]; rfl
    have vtile : ∀ k, v.tile k = s.tile k := fun k => by rw [← hv, eq]; rfl
    have vtiles : v.tilesOf 0 = s.tilesOf 0 := by rw [← hv, eq]; rfl
    refine ⟨mem.trans (by rw [← hv, eq]; rfl), twin.trans (by rw [← hv, eq]; rfl), bind.trans vbind,
      queries.trans (by rw [← hv, eq]; rfl), fun q hq k hk => ?_, fun k hk => ?_⟩
    · rw [serves q (by rw [vtiles]; exact hq) k (by rw [vbind]; exact hk), vtile]
    · rw [others k (by rw [vtiles, vbind]; exact hk), vtile]
  · rw [felt, ← hv, eq]
    rfl
  · have same : v.entered r i s.nextStep 0 = s.entered r i s.nextStep 0 := by
      rw [← hv, eq]
      unfold State.entered State.port State.outer
      rfl
    rw [train, same, ← hv, eq]
    rfl

end Sys2Proof.Machine

open Sys2Proof Sys2Proof.Machine

/-- Settles O50: what a fresh step and a redone attempt leave follows from the boundary's and the attempt's equations. -/
theorem stepsBegin : Obligations.StepsBegin := by
  intro s r i hr hi begins clear up took fill begun anew
  have may : MayStep s r i := ⟨hr, hi, begins, clear, up⟩
  refine ⟨fun ph1 last held few => ⟨fun wait => ?_, fun wait => ?_⟩, fun st ph2 => ⟨?_, ?_⟩, fun a ph1 fresh join held => ?_,
    fun c hc wait ph1 last held many join period => ?_⟩
  · have goes := may.stepBegin_fresh ph1 none
    rw [wait, if_neg (by decide), State.freshStep_waits r i none ⟨last, held⟩ few, wait, if_neg (by decide)] at goes
    refine ⟨_, goes, ?_⟩
    generalize hv : ({ s.dmaTook r.port 1 with train := { s.train with feedWait := true } } : State) = v
    have only := v.setEvt_only (pgCmd r.port) 8
    have on := v.setEvt_on (pgCmd r.port) 8
    generalize v.setEvt (pgCmd r.port) 8 = u at only on
    obtain ⟨⟨h0, h1, pages⟩, eq⟩ := only
    subst hv
    exact ⟨on, ⟨h0, h1, pages⟩, (s.dmaTook_took r.port 1).congr rfl (by rw [eq]), by rw [eq]; rfl⟩
  · have goes := may.feedFillPoll none
    rw [wait, ph1, if_neg (by decide), State.freshStep_waits r i none ⟨last, held⟩ few, wait, if_pos rfl] at goes
    exact ⟨_, goes, s.dmaTook_took r.port 1, rfl⟩
  · have copies : s.twin.st = 3 ∧ s.train.ph2.isSome := ⟨st, Option.isSome_iff_ne_none.mpr ph2⟩
    cases ph1 : s.train.ph1 with
    | some a => rw [may.stepBegin_redo ph1, if_pos (by simp [copies])]
    | none => rw [may.stepBegin_fresh ph1, State.freshStep_held r i none copies, ite_self]
  · have copies : s.twin.st = 3 ∧ s.train.ph2.isSome := ⟨st, Option.isSome_iff_ne_none.mpr ph2⟩
    rw [may.feedFillPoll, State.freshStep_held r i none copies, ite_self]
  · have goes := may.stepBegin_redo ph1 none
    have free : ¬(a.started || (s.twin.st == 3 && s.train.ph2.isSome)) = true := by
      intro h
      rcases (Bool.or_eq_true _ _).mp h with started | copies
      · rw [fresh] at started
        cases started
      · obtain ⟨st, ph2⟩ := (Bool.and_eq_true _ _).mp copies
        rw [held (by simpa using st)] at ph2
        cases ph2
    rw [if_neg free] at goes
    obtain ⟨train, felt, pages, fields, took, h⟩ := beginAttempt_begins r i a.step a.attempt join
    exact ⟨_, goes, train, felt, pages, fields, took, h.mem, h.twin, h.bind, h.queries, h.serves, h.others⟩
  · obtain ⟨pages, took, h, felt, train⟩ := freshStep_spec r i ⟨last, held⟩ many period join
    have goes : exec c.2 s = .next (s.freshStep r i none) := by
      rcases List.mem_pair.mp hc with rfl | rfl
      · rw [may.stepBegin_fresh ph1, wait, if_neg (by decide)]
      · rw [may.feedFillPoll, wait, ph1, if_neg (by decide)]
    exact ⟨_, goes, pages, took, ⟨h.mem, h.twin, h.bind, h.queries, h.serves, h.others⟩, felt, train⟩
end

section
/-! PROOFS. Queries start and deliver their outputs (R22, R48, R54, R55, R177, R398, R407, R445). -/

namespace Sys2Proof.Machine

theorem queryOk_of {q : Nat} (h1 : 1 ≤ q) (h3 : q ≤ 3) : queryOk q = true := by simp [queryOk, h1, h3]

/-- A transfer and a vote touch a site and block counters alone. -/
theorem State.dmaTook_decided (s : State) (p : HPort) (n : Nat) :
    (s.dmaTook p n).decided = s.outer s.h0 s.h1 (s.dmaTook p n).decided.pages (s.dmaTook p n).sites := by
  conv_lhs => rw [State.decided_pages]
  rfl

/-- The fill count of a slot's query table as the running command's port reads it (R445). -/
def State.posted (s : State) (r : Running) (q : Nat) : Nat := leNat (memRead (s.port r.port).mem (r.page.qtab q).fill.toNat 8)

/-- A poll that finds no further entry, or may not read one, changes the port's transfer count at most. -/
theorem exec_qtabFillPoll_waits {s : State} {q : Nat} {r : Running} (hq : queryOk q = true) (hr : s.run = some r)
    (none_ : (s.query q).run = none) (few : s.posted r q ≤ (s.query q).next) :
    ∃ u, exec (.qtabFillPoll q none) s = .next u ∧ u = { s with sites := u.sites } := by
  have few' : leNat ((s.dmaTook r.port 1).dmaRead r.port (r.page.qtab q).fill.toNat 8) ≤ (s.query q).next := few
  have goes : exec (.qtabFillPoll q none) s = .next (if (!(s.port r.port).dmaUp || !s.queryReady q r || !s.feltClear q ||
      decide ((r.page.qtab q).count = 0)) = true then s else s.dmaTook r.port 1) := by
    show execQtabFillPoll q s none = _
    simp only [execQtabFillPoll, hq, none_, hr, Bool.not_true, Bool.false_eq_true, if_false, few', if_true]
    split <;> simp_all
  refine ⟨_, goes, ?_⟩
  split <;> rfl

/-- A query that its table posts starts: its slot's run as the entry gives it (R48, R445). -/
def State.queried (s : State) (q : Nat) (r : Running) : QSlot :=
  let k := (s.query q).next
  let n := k % (r.page.qtab q).count.toNat
  let e := memRead (s.port r.port).mem ((r.page.qtab q).base.toNat + 64 * n) 64
  { s.query q with
    next := k + 1
    run := some { k := k, entry := e, input := { ring := n, entry := e }, started := true, port := r.port
                  tab := r.page.qtab q, start := s.committedCells q } }

theorem State.queried_congr {s b : State} {q : Nat} {r : Running} (h0 : b.h0 = s.h0) (h1 : b.h1 = s.h1)
    (queries : b.queries = s.queries) (bind : b.bind = s.bind) (vats : b.vats = s.vats)
    (ph2 : b.train.ph2 = s.train.ph2) (base : b.train.base = s.train.base) : b.queried q r = s.queried q r := by
  have query : b.query q = s.query q := by unfold State.query; rw [queries]
  have port : b.port r.port = s.port r.port := by unfold State.port; rw [h0, h1]
  have image : ∀ i, b.image? i = s.image? i := fun i => by unfold State.image? State.prog; rw [bind]
  have cells : b.committedCells q = s.committedCells q := by
    unfold State.committedCells
    simp only [image, vats, ph2, base]
  unfold State.queried
  rw [query, port, cells]

/-- A query begins within the period's limit (R445, R463). -/
theorem State.beginQuery_eq {s : State} {q : Nat} (r : Running) (hq : q ≠ 0) (period : s.boundary.periodOf q ≤ 64) :
    s.beginQuery q r (r.page.qtab q) =
      ((s.boundary.startAttempt q).dmaTook r.port 1).setQuery q (s.boundary.queried q r) := by
  unfold State.beginQuery
  dsimp only
  rw [if_neg (by omega)]
  generalize s.boundary = b
  have vats := State.startAttempt_vats (s := b) hq
  obtain ⟨ts, v, eq⟩ : ∃ ts v, b.startAttempt q = { b with
      tiles := ts, felt := { b.felt with attemptLinks := [] }, vats := v } := ⟨_, _, b.startAttempt_eq q⟩
  have same : (b.startAttempt q).queried q r = b.queried q r :=
    State.queried_congr (by rw [eq]) (by rw [eq]) (by rw [eq]) (by rw [eq]) vats (by rw [eq]) (by rw [eq])
  rw [← same]
  rfl

theorem exec_qtabFillPoll_begins {s : State} {q : Nat} {r : Running} (hq : queryOk q = true) (hr : s.run = some r)
    (up : (s.port r.port).dmaUp = true) (ready : s.queryReady q r = true) (clear : s.feltClear q = true)
    (count : (r.page.qtab q).count ≠ 0) (more : (s.query q).next < s.posted r q) :
    exec (.qtabFillPoll q none) s = .next ((s.dmaTook r.port 1).decided.beginQuery q r (r.page.qtab q)) := by
  have more' : ¬ leNat ((s.dmaTook r.port 1).dmaRead r.port (r.page.qtab q).fill.toNat 8) ≤ (s.query q).next :=
    Nat.not_le.mpr more
  have none_ : (s.query q).run = none := by
    unfold State.queryReady at ready
    simp only [Bool.and_eq_true, Option.isNone_iff_eq_none] at ready
    exact ready.1.1.1.1.1.1.1.2
  show execQtabFillPoll q s none = _
  simp only [execQtabFillPoll, hq, none_, hr, up, ready, clear, count, State.voteThen_none, more', Bool.not_true,
    Bool.false_eq_true, Bool.or_self, if_false, decide_false]

/-- What a query that begins leaves (R22, R48, R445). -/
theorem queryBegins_spec {s : State} {q : Nat} (r : Running) (hq : q ≠ 0) (period : s.boundary.periodOf q ≤ 64) :
    let u := (s.dmaTook r.port 1).decided.beginQuery q r (r.page.qtab q)
    PagesKeep s u [] ∧
    u.felt = { s.felt with holdCls := u.felt.holdCls, holdStale := u.felt.holdStale, attemptLinks := [] } ∧
    u.train.ph1 = s.train.ph1 ∧ u.run = s.run ∧ u.vats.mem = s.vats.mem ∧ u.bind = s.bind ∧
    (∀ k, k ≠ q → u.query k = s.query k) ∧ u.query q = s.queried q r := by
  have counted := (s.dmaTook r.port 1).decided_only.1.2.2
  obtain ⟨fs, hc, hs, d, st, eq⟩ : ∃ fs hc hs d st, s.boundary = { s with
      fields := fs, felt := { s.felt with holdCls := hc, holdStale := hs }
      train := { s.train with doubled := d, stretch := st } } := ⟨_, _, _, _, _, s.boundary_eq⟩
  have outer := s.dmaTook_decided r.port 1
  generalize (s.dmaTook r.port 1).decided = t at outer counted
  have tb : t.boundary = s.boundary.outer s.h0 s.h1 t.pages (s.dmaTook r.port 1).sites := by
    conv_lhs => rw [outer]
    exact State.boundary_outer _ _ _ _ _
  have tp : t.boundary.periodOf q ≤ 64 := by rw [tb, State.periodOf_outer]; exact period
  have begins := State.beginQuery_eq (s := t) r hq tp
  intro u
  have hu : u = _ := begins
  clear_value u
  generalize t.boundary = b at hu tb
  rw [eq] at tb
  have vats := State.startAttempt_vats (s := b) hq
  obtain ⟨ts, v, start⟩ : ∃ ts v, b.startAttempt q = { b with
      tiles := ts, felt := { b.felt with attemptLinks := [] }, vats := v } := ⟨_, _, b.startAttempt_eq q⟩
  have mem : v = s.vats := by
    rw [start, tb] at vats
    exact vats
  have queried : b.queried q r = s.queried q r := by
    subst tb
    exact State.queried_congr rfl rfl rfl rfl rfl rfl rfl
  generalize (s.dmaTook r.port 1).sites = sites at tb
  rw [start, queried] at hu
  subst hu tb mem
  refine ⟨fun k hk => counted k hk, rfl, rfl, rfl, rfl, rfl, fun k hk => ?_, State.setQuery_query _ _ _⟩
  exact State.setQuery_query_ne _ _ _ _ hk

/-- A redone query begins again with the entry that it holds (R177, R445). -/
theorem exec_qtabFillPoll_again {s : State} {q : Nat} {a : QRun} (hq : queryOk q = true) (ha : (s.query q).run = some a)
    (fresh : a.started = false) (due : s.rebindDue = false) (clear : s.feltClear q = true) (awake : s.awake = true) :
    exec (.qtabFillPoll q none) s =
      .next ((s.startAttempt q).setQuery q { s.query q with run := some { a with started := true } }) := by
  show execQtabFillPoll q s none = _
  simp only [execQtabFillPoll, hq, ha, State.againQuery, fresh, due, clear, awake, Bool.not_true, Bool.or_self,
    Bool.false_eq_true, if_false]

/-! The delivery of a query's output (R398, R407, R445) -/

/-- The object of a query's output: sealed under the slot that its entry names with the next two draws of the security
generator (R395, R397, R398). -/
def State.outputObject (s : State) (kek : List Byte) (a : QRun) (i : Image) : List Byte :=
  sealObject kek (bytesAt (Config.entropy s.sec.drawn 32) 0 32) (bytesAt (Config.entropy (s.sec.drawn + 1) 12) 0 12) 3
    (leAt a.entry 17 1) (s.recordNo a) (a.output i)

theorem State.bump_eq (s : State) (k ev n : Nat) : s.bump k ev n = { s with pages := (s.bump k ev n).pages } := by
  have eq := (s.bump_only k ev n).2
  rw [State.bump_h0, State.bump_h1] at eq
  exact eq

theorem State.setPort_eq (s : State) (p : HPort) (h : HostPort) :
    s.setPort p h = { s with h0 := (s.setPort p h).h0, h1 := (s.setPort p h).h1 } := by cases p <;> rfl

/-- Bytes written to host memory by DMA change nothing else (R361). -/
theorem State.hostPut_spec (s : State) (p : HPort) (a : Nat) (bs : List Byte) :
    ((s.hostPut p a bs).port p).mem = memWrite (s.port p).mem a bs ∧
    s.hostPut p a bs = { s with h0 := (s.hostPut p a bs).h0, h1 := (s.hostPut p a bs).h1 } := by
  constructor
  · rw [State.hostPut, State.setPort_port]
  · exact s.setPort_eq p _

/-- A record and its trailer in host memory (R361). -/
theorem State.dmaRecord_spec (s : State) (p : HPort) (a : Nat) (o : List Byte) :
    let u := s.dmaRecord p a o
    let x := s.site (hostSite p)
    (u.port p).mem = memWrite (s.port p).mem a (o ++ trailer (Check.ofCode x.active) a x.seqTx (hostSite p) o) ∧
    u = { s with h0 := u.h0, h1 := u.h1, sites := u.sites } := by
  intro u x
  obtain ⟨mem, eq⟩ := s.hostPut_spec p a (o ++ trailer (Check.ofCode x.active) a x.seqTx (hostSite p) o)
  have hu : u = (s.hostPut p a (o ++ trailer (Check.ofCode x.active) a x.seqTx (hostSite p) o)).setSite (hostSite p)
    { x with seqTx := (x.seqTx + 1) % 2 ^ 32 } := rfl
  clear_value u
  generalize s.hostPut p a (o ++ trailer (Check.ofCode x.active) a x.seqTx (hostSite p) o) = v at mem eq hu
  rw [hu]
  exact ⟨mem, by rw [eq]; rfl⟩

/-- The module once an object has left (R361, R395, R398). -/
theorem State.sendObject_spec (s : State) (p : HPort) (kek : List Byte) (kind slot rseq addr : Nat) (pt : List Byte) :
    let u := s.sendObject p kek kind slot rseq addr pt
    let o := sealObject kek (bytesAt (Config.entropy s.sec.drawn 32) 0 32) (bytesAt (Config.entropy (s.sec.drawn + 1) 12) 0 12)
      kind slot rseq pt
    let x := s.site (hostSite p)
    (u.port p).mem = memWrite (s.port p).mem addr (o ++ trailer (Check.ofCode x.active) addr x.seqTx (hostSite p) o) ∧
    u = { s with h0 := u.h0, h1 := u.h1, pages := u.pages, sites := u.sites, sec := u.sec } := by
  unfold State.sendObject State.entropy
  dsimp only
  generalize sealObject kek (bytesAt (Config.entropy s.sec.drawn 32) 0 32)
    (bytesAt (Config.entropy (s.sec.drawn + 1) 12) 0 12) kind slot rseq pt = o
  obtain ⟨pages, sec, eq⟩ : ∃ pages sec,
      State.bump { s with sec := { s.sec with drawn := s.sec.drawn + 1 + 1 } } (pgSite (hostSite p)) 0x30
        (payloadUnits pt.length) = { s with pages := pages, sec := sec } := ⟨_, _, State.bump_eq _ _ _ _⟩
  rw [eq]
  obtain ⟨mem, rest⟩ := State.dmaRecord_spec { s with pages := pages, sec := sec } p addr o
  generalize State.dmaRecord { s with pages := pages, sec := sec } p addr o = u at mem rest
  exact ⟨mem, by rw [rest]⟩

/-- What the end of the service of the queries leaves of a slot without a query of the command. -/
theorem State.stopQueries_idle {s : State} {q : Nat} (h : (s.query q).run = none) :
    (s.stopQueries.query q).completed = (s.query q).completed ∧ (s.stopQueries.query q).run = none := by
  unfold State.stopQueries
  refine List.foldlRecOn (motive := fun t : State => (t.query q).completed = (s.query q).completed ∧ (t.query q).run = none)
    _ _ ⟨rfl, h⟩ fun t ⟨completed, idle⟩ k _ => ?_
  have other : k ≠ q → ∀ (v : State) (x : QSlot), v.queries = t.queries → (v.setQuery k x).query q = t.query q := by
    intro hk v x hv
    rw [State.setQuery_query_ne _ _ _ _ hk.symm]
    unfold State.query
    rw [hv]
  have discarded : (t.discard k).queries = t.queries := by rw [State.discard_eq]
  dsimp only
  by_cases hk : k = q
  · subst hk
    rw [idle]
    split
    · next running => cases running
    · split
      · rw [State.setQuery_query]
        exact ⟨completed, rfl⟩
      · exact ⟨completed, idle⟩
  · split
    · rw [other hk t _ rfl]
      exact ⟨completed, idle⟩
    · split
      · rw [other hk _ _ discarded]
        exact ⟨completed, idle⟩
      · exact ⟨completed, idle⟩

/-- The end of the service of the queries keeps the ports and the running command. -/
theorem State.stopQueries_keeps (s : State) :
    s.stopQueries.h0 = s.h0 ∧ s.stopQueries.h1 = s.h1 ∧ s.stopQueries.run = s.run := by
  unfold State.stopQueries
  refine List.foldlRecOn (motive := fun t : State => t.h0 = s.h0 ∧ t.h1 = s.h1 ∧ t.run = s.run)
    _ _ ⟨rfl, rfl, rfl⟩ fun t keeps k _ => ?_
  have discarded : (t.discard k).h0 = s.h0 ∧ (t.discard k).h1 = s.h1 ∧ (t.discard k).run = s.run := by
    rw [State.discard_eq]
    exact keeps
  dsimp only
  split
  · exact keeps
  · split
    · exact discarded
    · exact keeps

theorem PortKeeps.mem {a b : HostPort} (h : PortKeeps a b) : b.mem = a.mem := by
  unfold PortKeeps at h
  rw [h]

theorem State.modCmd_mem (s : State) (p q : HPort) (f : CmdPage → CmdPage) :
    ((s.modCmd p f).port q).mem = (s.port q).mem := by
  cases p <;> cases q <;> rfl

/-- The end of a command leaves host memory and the query slots. -/
theorem State.endWith_keeps (s : State) (status r0 r1 : Nat) (p : HPort) (q : Nat) :
    ((s.endWith status r0 r1).port p).mem = (s.port p).mem ∧ (s.endWith status r0 r1).query q = s.query q := by
  constructor
  · cases hr : s.run with
    | none => simp only [State.endWith, hr]
    | some r =>
      obtain ⟨⟨⟨h0, h1, -⟩, -⟩, -⟩ := endWith_ended r hr status r0 r1
      generalize s.endWith status r0 r1 = u at h0 h1
      have keeps : ∀ f : CmdPage → CmdPage, ∀ fs : List (Nat × FieldState),
          ((State.modCmd { s with run := none, train := s.train.idle, fields := fs } r.port f).port p).mem =
            (s.port p).mem := fun f fs => by
        rw [State.modCmd_mem]
        cases p <;> rfl
      cases p with
      | h0 => exact h0.mem.trans (keeps _ _)
      | h1 => exact h1.mem.trans (keeps _ _)
  · rw [State.endWith_eq]
    rfl

/-- A RUN_QUERY counts a query that has completed and ends with its last one (R440, R445). -/
theorem State.countQuery_spec {s : State} {r : Running} {q : Nat} (hr : s.run = some r) (op : r.op = 5)
    (abort : r.aborting = false) (idle : (s.query q).run = none) (p : HPort) :
    let u := s.countQuery
    (u.query q).completed = (s.query q).completed ∧ (u.query q).run = none ∧ (u.port p).mem = (s.port p).mem ∧
    if r.page.args.a0.toNat ≤ r.count + 1 then u.run = none ∧ (u.port r.port).cmd.status = 0
    else u.run = some { r with count := r.count + 1 } := by
  intro u
  by_cases last : r.page.args.a0.toNat ≤ r.count + 1
  · generalize ht : ({ s with run := some { r with count := r.count + 1 } } : State) = t
    have hu : u = t.stopQueries.endCommand 0 := by
      show s.countQuery = _
      simp only [State.countQuery, hr, op, last, and_self, if_true, ← ht]
    have tq : t.query q = s.query q := by rw [← ht]; rfl
    have tp : t.port p = s.port p := by rw [← ht]; rfl
    have tr : t.run = some { r with count := r.count + 1 } := by rw [← ht]
    obtain ⟨completed, none_⟩ := State.stopQueries_idle (s := t) (by rw [tq]; exact idle)
    obtain ⟨h0, h1, run⟩ := t.stopQueries_keeps
    rw [State.endCommand_eq_endWith] at hu
    obtain ⟨mem, query⟩ := t.stopQueries.endWith_keeps 0 (t.stopQueries.run.elim 0 t.stopQueries.ret0) 0 p q
    have status := State.endWith_status (run.trans tr) 0 (t.stopQueries.run.elim 0 t.stopQueries.ret0) 0
    rw [← hu] at mem query status
    rw [if_pos last]
    refine ⟨?_, ?_, ?_, by rw [hu]; exact State.endWith_run _ _ _ _, status⟩
    · rw [query, completed, tq]
    · rw [query, none_]
    · rw [mem, ← tp]
      unfold State.port
      rw [h0, h1]
  · have hu : u = { s with run := some { r with count := r.count + 1 } } := by
      show s.countQuery = _
      simp [State.countQuery, State.settleCommand, hr, op, last, abort]
    rw [if_neg last, hu]
    exact ⟨rfl, idle, rfl, rfl⟩

/-- The output of a query of the running RUN_QUERY leaves, and the slot's completed count follows it (R398, R445). -/
theorem State.deliverQuery_spec {s : State} {q : Nat} {r : Running} {a : QRun} {i : Image} {kek : List Byte}
    (hr : s.run = some r) (op : r.op = 5) (abort : r.aborting = false) (own : a.rseq = none)
    (key : s.sec.exportKey (leAt a.entry 17 1) = .ok kek) (room : 96 + (a.output i).length ≤ leAt a.entry 32 8) :
    let u := s.deliverQuery q i a
    (u.query q).completed = (s.query q).completed + 1 ∧ (u.query q).run = none ∧
    (if r.page.args.a0.toNat ≤ r.count + 1 then u.run = none ∧ (u.port r.port).cmd.status = 0
    else u.run = some { r with count := r.count + 1 }) ∧
    (let x := s.site (hostSite a.port)
     let o := sealObject kek (bytesAt (Config.entropy s.sec.drawn 32) 0 32) (bytesAt (Config.entropy (s.sec.drawn + 1) 12) 0 12)
       3 (leAt a.entry 17 1) r.count (a.output i)
     (u.port a.port).mem = memWrite (memWrite (s.port a.port).mem (leAt a.entry 24 8)
         (o ++ trailer (Check.ofCode x.active) (leAt a.entry 24 8) x.seqTx (hostSite a.port) o))
       a.tab.done.toNat (leBytes 8 ((s.query q).completed + 1))) := by
  have number : s.recordNo a = r.count := by simp only [State.recordNo, own, hr]
  have fits : ¬ leAt a.entry 32 8 < 80 + (a.output i).length + 16 := by omega
  obtain ⟨sent, rest⟩ := s.sendObject_spec a.port kek 3 (leAt a.entry 17 1) r.count (leAt a.entry 24 8) (a.output i)
  unfold State.deliverQuery
  simp only [key, fits, number, own, if_false, Option.isSome_none, Bool.false_eq_true]
  generalize s.sendObject a.port kek 3 (leAt a.entry 17 1) r.count (leAt a.entry 24 8) (a.output i) = v at sent rest
  have vq : v.query q = s.query q := by rw [rest]; rfl
  rw [vq]
  generalize hw : v.setQuery q { s.query q with run := none, completed := (s.query q).completed + 1 } = w
  obtain ⟨put, same⟩ := w.hostPut_spec a.port a.tab.done.toNat (leBytes 8 ((s.query q).completed + 1))
  generalize w.hostPut a.port a.tab.done.toNat (leBytes 8 ((s.query q).completed + 1)) = z at put same
  have zr : z.run = some r := by rw [same, ← hw, rest]; exact hr
  have zq : z.query q = { s.query q with run := none, completed := (s.query q).completed + 1 } := by
    rw [same, ← hw]
    exact State.setQuery_query _ _ _
  have wm : (w.port a.port).mem = (v.port a.port).mem := by rw [← hw]; rfl
  obtain ⟨completed, idle, mem, ends⟩ := State.countQuery_spec zr op abort (q := q) (by rw [zq]) a.port
  exact ⟨by rw [completed, zq], idle, ends, by rw [mem, put, wm, sent]⟩

end Sys2Proof.Machine

open Sys2Proof Sys2Proof.Machine

/-- Settles O54: the poll, the start from the committed state, and the delivery with its count, each from its own equation. -/
theorem queries : Obligations.Queries := by
  intro s q r h1 h3 hr
  have hq := queryOk_of h1 h3
  refine ⟨fun idle few => exec_qtabFillPoll_waits hq hr idle few, fun up ready clear count more period => ?_,
    fun a ha fresh due clear awake => ?_, fun a i kek ha started image up done key room own op abort => ?_⟩
  · have goes := exec_qtabFillPoll_begins hq hr up ready clear count more
    obtain ⟨pages, felt, ph1, run, mem, bind, others, mine⟩ := queryBegins_spec (s := s) r (by omega : q ≠ 0) period
    exact ⟨_, goes, pages, felt, ph1, run, mem, bind, others, mine⟩
  · refine ⟨_, exec_qtabFillPoll_again hq ha fresh due clear awake, State.setQuery_query _ _ _, fun k hk => ?_, ?_⟩
    · rw [State.setQuery_query_ne _ _ _ _ hk, State.startAttempt_eq]
      rfl
    · have vats := State.startAttempt_vats (s := s) (by omega : q ≠ 0)
      have eq := s.startAttempt_eq q
      generalize s.startAttempt q = v at vats eq
      rw [eq, vats]
      rfl
  · have goes : exec (.queryOutput q) s = .next (s.deliverQuery q i a) := by
      show execQueryOutput q s = _
      simp only [execQueryOutput, hq, ha, image, started, up, done, Bool.not_true, Bool.or_self, Bool.false_eq_true, if_false]
    obtain ⟨completed, idle, ends, mem⟩ := State.deliverQuery_spec (q := q) hr op abort own key room
    exact ⟨_, goes, completed, idle, ends, mem⟩
end

section
/-! PROOFS. Operations that change block counters alone (R490, R491). -/

namespace Sys2Proof.Machine

/-- Nothing changes but block counters. -/
structure Counted (s u : State) : Prop where
  eq : u = { s with pages := u.pages }
  pages : PagesKeep s u []

theorem Counted.refl (s : State) : Counted s s := ⟨rfl, .refl s []⟩

theorem Counted.trans {s t u : State} (h : Counted s t) (g : Counted t u) : Counted s u :=
  ⟨by rw [g.eq, h.eq], h.pages.trans g.pages⟩

theorem Counted.foldl {α : Type} {f : State → α → State} (hf : ∀ s a, Counted s (f s a)) (l : List α) (s : State) :
    Counted s (l.foldl f s) := by
  induction l generalizing s with
  | nil => exact .refl s
  | cons a l ih => exact (hf s a).trans (ih _)

theorem Counted.of_bump (s : State) (k ev n : Nat) : Counted s (s.bump k ev n) := ⟨s.bump_eq k ev n, (s.bump_only k ev n).1.2.2⟩

theorem Counted.of_decided (s : State) : Counted s s.decided := ⟨s.decided_pages, s.decided_only.1.2.2⟩

theorem Counted.of_flitReads (s : State) (es : List FlitErr) : Counted s (s.flitReads es) :=
  .foldl (fun s _ => .of_bump s _ _ _) _ s

end Sys2Proof.Machine
end

section
/-! PROOFS. The launch, the spread and the arrival of a tick wave (R22, R40, R116, R178, R211, R212, R251, R268, R269). -/

namespace Sys2Proof.Machine

/-! The tiles of a logical cluster -/

theorem Retire.liveSlots_nodup (r : Retire) (c : Nat) : (r.liveSlots c).Nodup := List.nodup_range.filter _

/-- One slot serves one logical tile of a cluster (R25, R26). -/
theorem Retire.tileSlot_injective (r : Retire) {l a b k : Nat} (ha : a < 16) (hb : b < 16)
    (sa : r.tileSlot (l * 16 + a) = some k) (sb : r.tileSlot (l * 16 + b) = some k) : a = b := by
  have tile : ∀ t, t < 16 → (l * 16 + t) / 16 = l ∧ (l * 16 + t) % 16 = t := fun t ht => by omega
  cases hc : r.server l with
  | none => simp [Retire.tileSlot, tile a ha, hc] at sa
  | some c =>
    simp only [Retire.tileSlot, tile a ha, tile b hb, hc, Option.map_eq_some_iff] at sa sb
    obtain ⟨i, hi, rfl⟩ := sa
    obtain ⟨j, hj, slots⟩ := sb
    obtain rfl : j = i := by omega
    obtain ⟨la, ga⟩ := List.getElem?_eq_some_iff.mp hi
    obtain ⟨lb, gb⟩ := List.getElem?_eq_some_iff.mp hj
    exact (r.liveSlots_nodup c).getElem_inj_iff.mp (ga.trans gb.symm)

/-- The slots that serve a logical cluster's tiles differ (R25, R26). -/
theorem Retire.tilesAt_nodup (r : Retire) (l : Nat) : ((r.tilesAt l).map Prod.snd).Nodup := by
  have snd : (r.tilesAt l).map Prod.snd =
      (List.range 16).filterMap fun t => if t < 16 then r.tileSlot (l * 16 + t) else none := by
    unfold Retire.tilesAt
    rw [List.map_filterMap]
    refine List.filterMap_congr fun t ht => ?_
    rw [if_pos (List.mem_range.mp ht)]
    cases r.tileSlot (l * 16 + t) <;> rfl
  rw [snd]
  refine List.nodup_range.filterMap fun a b k sa sb => ?_
  split at sa
  · split at sb
    · next ha hb => exact r.tileSlot_injective ha hb sa sb
    · cases sb
  · cases sa

/-- Tiles of distinct slots each change once. -/
theorem foldl_setTile (f : Nat × Nat → Tile → Tile) (ts : List (Nat × Nat)) (s : State) (nodup : (ts.map Prod.snd).Nodup) :
    let u := ts.foldl (fun s q => s.setTile q.2 (f q (s.tile q.2))) s
    OnlyTiles s u ∧ (∀ k, k ∉ ts.map Prod.snd → u.tile k = s.tile k) ∧ ∀ q ∈ ts, u.tile q.2 = f q (s.tile q.2) := by
  induction ts generalizing s with
  | nil => exact ⟨.refl s, fun _ _ => rfl, by simp⟩
  | cons q ts ih =>
    obtain ⟨fresh, rest⟩ := List.nodup_cons.mp nodup
    obtain ⟨only, others, mine⟩ := ih (s.setTile q.2 (f q (s.tile q.2))) rest
    have set : OnlyTiles s (s.setTile q.2 (f q (s.tile q.2))) := rfl
    refine ⟨set.trans only, fun k hk => ?_, fun q' hq' => ?_⟩
    · obtain ⟨ne, later⟩ := not_or.mp (mt List.mem_cons.mpr hk)
      exact (others k later).trans (State.setTile_tile_ne _ _ _ _ ne)
    · rcases List.mem_cons.mp hq' with rfl | there
      · exact (others _ fresh).trans (State.setTile_tile _ _ _)
      · have ne : q'.2 ≠ q.2 := fun e => fresh (e ▸ List.mem_map_of_mem there)
        exact (mine q' there).trans (by rw [State.setTile_tile_ne _ _ _ _ ne])

/-! The launch (R22, R40, R268, R269) -/

/-- What decides the next ticks stays under counts and under the holds' computation. -/
theorem State.nextTick_held (s : State) (pages : List (Nat × Page)) (c : List Nat) (stale : Bool) (i : Nat) :
    ({ s with pages := pages, felt := { s.felt with holdCls := c, holdStale := stale } } : State).nextTick i =
      s.nextTick i := by
  unfold State.nextTick State.firstTickReady
  rfl

/-- The wave that a launch sends. -/
def State.newWave (s : State) : Wave :=
  { step := match s.train.ph1 with
      | some a => a.step
      | none => 0
    tick := (s.nextTick (s.ticking.headD 0)).getD 0
    progs := s.ticking, starts := s.ticking.filter fun i => s.nextTick i == some 0 }

/-- The ticks of several programs are counted, each once (R40). -/
theorem foldl_countTick (ps : List Nat) (s : State) (nodup : ps.Nodup) :
    let u := ps.foldl State.countTick s
    u = { s with
      queries := u.queries
      train := { s.train with ph1 := if 0 ∈ ps then s.train.ph1.map fun a => { a with tick := a.tick + 1 }
                                     else s.train.ph1 } } ∧
    ∀ q, u.query q = if q ∈ ps ∧ q ≠ 0 then
      { s.query q with run := (s.query q).run.map fun r => { r with tick := r.tick + 1 } } else s.query q := by
  induction ps generalizing s with
  | nil => exact ⟨rfl, fun q => by simp⟩
  | cons p ps ih =>
    obtain ⟨fresh, rest⟩ := List.nodup_cons.mp nodup
    obtain ⟨eq, query⟩ := ih (s.countTick p) rest
    rw [List.foldl_cons]
    generalize ps.foldl State.countTick (s.countTick p) = u at eq query
    by_cases hp : p = 0
    · subst hp
      have step : s.countTick 0 = { s with
          train := { s.train with ph1 := s.train.ph1.map fun a => { a with tick := a.tick + 1 } } } := rfl
      rw [step] at eq query
      refine ⟨?_, fun q => ?_⟩
      · rw [eq]
        simp [fresh]
      · rw [query q]
        have head : (q ∈ 0 :: ps ∧ q ≠ 0) ↔ (q ∈ ps ∧ q ≠ 0) := by
          simp only [List.mem_cons]
          tauto
        simp only [head]
        rfl
    · have step : s.countTick p = s.setQuery p { s.query p with
          run := (s.query p).run.map fun r => { r with tick := r.tick + 1 } } := by
        simp only [State.countTick, hp, if_false]
      rw [step] at eq query
      refine ⟨?_, fun q => ?_⟩
      · have zero : (0 ∈ p :: ps) ↔ 0 ∈ ps := by simp [Ne.symm hp]
        rw [eq]
        simp only [zero]
        rfl
      · rw [query q]
        by_cases hq : q = p
        · subst hq
          simp [fresh, hp]
        · simp [hq]

/-- The module as the wave leaves it, but for the decision's counts. -/
def State.launched (s : State) : State :=
  let h : State := if s.felt.holdStale then s.sampleHolds else s
  let u := h.ticking.foldl State.countTick h
  { u with felt := { u.felt with wave := some h.newWave }, sec := { u.sec with taintSram := true } }

theorem exec_tickWaveLaunch {s : State} (free : s.cc.restricted = none) (ticks : s.ticking ≠ []) (done : s.waveDone = true) :
    ∃ u, exec (.tickWaveLaunch none) s = .next u ∧ Counted s.decided.launched u := by
  have empty : s.ticking.isEmpty = false := by simpa using ticks
  refine ⟨_, ?_, ((Counted.of_bump s.decided.launched (pgCc 0) 0x61 1).trans (.of_bump _ (pgCc 1) 0x61 1)).trans
    (.of_bump _ (pgCc 2) 0x61 1)⟩
  show execTickWaveLaunch none s = _
  unfold execTickWaveLaunch
  rw [State.vote_none]
  simp only [free, empty, done, Option.isSome_none, Bool.not_true, Bool.or_self, Bool.false_eq_true, if_false]
  unfold State.launched State.newWave
  rfl

theorem State.newWave_eq (s : State) :
    s.newWave = { step := (s.train.ph1.map fun a => a.step).getD 0, tick := (s.nextTick (s.ticking.headD 0)).getD 0
                  progs := s.ticking, starts := s.ticking.filter fun i => s.nextTick i == some 0 } := by
  unfold State.newWave
  cases s.train.ph1 <;> rfl

/-- What a launch leaves (R22, R40, R268, R269). -/
theorem State.launched_spec {s h : State} {c : List Nat} (pages : List (Nat × Page))
    (hh : h = { s with pages := pages, felt := { s.felt with holdCls := c, holdStale := false } }) :
    let u := h.ticking.foldl State.countTick h
    let v : State := { u with felt := { u.felt with wave := some h.newWave }, sec := { u.sec with taintSram := true } }
    v = { s with
      pages := pages, sec := { s.sec with taintSram := true }, queries := v.queries
      train := { s.train with ph1 := if 0 ∈ s.ticking then s.train.ph1.map fun a => { a with tick := a.tick + 1 }
                                     else s.train.ph1 }
      felt := { s.felt with wave := some s.newWave, holdCls := c, holdStale := false } } ∧
    ∀ q, v.query q = if q ∈ s.ticking ∧ q ≠ 0 then
      { s.query q with run := (s.query q).run.map fun r => { r with tick := r.tick + 1 } } else s.query q := by
  have next : ∀ i, h.nextTick i = s.nextTick i := fun i => by rw [hh]; exact s.nextTick_held pages c false i
  have ticking : h.ticking = s.ticking := by simp only [State.ticking, next]
  have wave : h.newWave = s.newWave := by
    simp only [State.newWave_eq, ticking, next]
    rw [hh]
  have query : ∀ q, h.query q = s.query q := fun q => by rw [hh]; rfl
  rw [ticking, wave]
  obtain ⟨eq, ticks⟩ := foldl_countTick s.ticking h (List.nodup_range.filter _)
  generalize s.ticking.foldl State.countTick h = u at eq ticks
  intro u' v
  refine ⟨?_, fun q => (ticks q).trans (by rw [query])⟩
  subst hh
  show ({ u with felt := { u.felt with wave := some s.newWave }, sec := { u.sec with taintSram := true } } : State) = _
  rw [eq]

/-- The holds that a launch uses (R269). -/
theorem State.decided_holds (s : State) :
    (if s.decided.felt.holdStale then s.decided.sampleHolds else s.decided) = { s with
      pages := s.decided.pages
      felt := { s.felt with holdCls := if s.felt.holdStale then s.classes else s.felt.holdCls, holdStale := false } } := by
  rw [s.decided_pages]
  cases hs : s.felt.holdStale with
  | true => rfl
  | false =>
    have stays : s.felt = { s.felt with holdStale := false } := by rw [← hs]
    simp only [Bool.false_eq_true, if_false]
    rw [← stays]

/-! The spread (R251, R269) -/

/-- The wave's flits into a router hold a word that it cannot correct (R251). -/
def Wave.badAt (w : Wave) (c : Nat) : Prop := (flitsInto c w.errs).any (fun x => x.err.fix.1.isNone) = true

/-- The router before a cluster on the wave's way has the wave (R269). -/
def State.waveBefore (s : State) (w : Wave) (l : Nat) : Bool :=
  match s.bind.applied.wavePred l with
  | none => true
  | some q => match s.bind.applied.server q with
    | some c => w.reached.contains c
    | none => false

theorem exec_waveArrival {s : State} {c l : Nat} {w : Wave} (hc : c < 1440) (hw : s.felt.wave = some w)
    (hl : s.bind.applied.serves c = some l) :
    exec (.waveArrival c) s = .next (if w.reached.contains c || !s.waveBefore w l || flitBad (flitsInto c w.errs) then s
      else ({ s with felt := { s.felt with wave := some { w with reached := w.reached ++ [c] } } } : State).flitReads
        (flitsInto c w.errs)) := by
  have ok : clusterOk c = true := by simpa [clusterOk] using hc
  show execWaveArrival c s = _
  simp only [execWaveArrival, ok, hw, hl, Bool.not_true, Bool.false_eq_true, if_false]
  exact (apply_ite Host.Outcome.next _ _ _).symm

/-! The arrival (R116, R178, R211, R212) -/

theorem State.deliverC1_eq {s : State} {l : Nat} (c : Nat)
    (done : ∀ q ∈ s.bind.applied.tilesAt l, s.workDone (l * 16 + q.1) q.2 .c1 = true) :
    s.deliverC1 l c = (s.bind.applied.tilesAt l).foldl (fun s q => s.setTile q.2 (s.tile q.2).tickC1) s := by
  have none_ : (s.bind.applied.tilesAt l).find? (fun q => !s.workDone (l * 16 + q.1) q.2 .c1) = none := by
    rw [List.find?_eq_none]
    intro q hq
    simp [done q hq]
  simp only [State.deliverC1, none_]

/-- The tick in the tiles of a program's logical cluster (R116, R178). -/
def State.tickOf (s : State) (i l : Nat) (g : Prog) (x y : Nat) (first : Bool) (q : Nat × Nat) (t : Tile) : Tile :=
  t.tick (if first then some (g.image.tile? (g.image.ptileOf (l % 40 - x) (l / 40 - y) q.1), (s.seedOf i).getD 0) else none)

theorem State.deliver_eq {s : State} {i l x y : Nat} {g : Prog} (c : Nat) {first last : Bool} (hg : s.prog i = some g)
    (bound : g.bound = some (x, y))
    (done : ∀ q ∈ s.bind.applied.tilesAt l, if first then s.workDone (l * 16 + q.1) q.2 .c1 = true
      else s.overruns (l * 16 + q.1) q.2 last = false) :
    s.deliver i l c first last = (s.bind.applied.tilesAt l).foldl
      (fun t q => t.setTile q.2 (s.tickOf i l g x y first q (t.tile q.2))) s := by
  have none_ : (s.bind.applied.tilesAt l).find? (fun q => if first then !s.workDone (l * 16 + q.1) q.2 .c1
      else s.overruns (l * 16 + q.1) q.2 last) = none := by
    rw [List.find?_eq_none]
    intro q hq
    have h := done q hq
    cases first <;> simpa using h
  have image : s.image? i = some g.image := by simp only [State.image?, hg, Option.map_some]
  simp only [State.deliver, none_, image, hg, bound, Option.getD_some]
  rfl

/-- The module as a router delivers the wave, before its tiles take the tick. -/
def State.arrived (s : State) (w : Wave) (c : Nat) : State :=
  let v := if w.delivered.any fun k => fieldOfCluster k == fieldOfCluster c then s
    else s.bump (pgField (fieldOfCluster c)) 0x52 1
  { v with felt := { v.felt with wave := some { w with delivered := w.delivered ++ [c] } } }

theorem State.arrived_spec (s : State) (w : Wave) (c : Nat) :
    s.arrived w c = { s with
      pages := (s.arrived w c).pages, felt := { s.felt with wave := some { w with delivered := w.delivered ++ [c] } } } ∧
    PagesKeep s (s.arrived w c) [] := by
  unfold State.arrived
  split
  · exact ⟨rfl, .refl s []⟩
  · have counts := Counted.of_bump s (pgField (fieldOfCluster c)) 0x52 1
    generalize s.bump (pgField (fieldOfCluster c)) 0x52 1 = v at counts
    exact ⟨by rw [counts.eq], fun k hk => counts.pages k hk⟩

/-- Work, owners and seeds do not depend on the wave's way. -/
theorem State.arrived_reads (s : State) (w : Wave) (c : Nat) :
    let v := s.arrived w c
    v.bind = s.bind ∧ (∀ k, v.tile k = s.tile k) ∧ (∀ l, v.owner l = s.owner l) ∧
    (∀ t k x, v.workDone t k x = s.workDone t k x) ∧ (∀ t k b, v.overruns t k b = s.overruns t k b) ∧
    (∀ i, v.workIndex i = s.workIndex i) ∧ (∀ i, v.seedOf i = s.seedOf i) ∧ ∀ i, v.prog i = s.prog i := by
  intro v
  have eq : v = _ := (s.arrived_spec w c).1
  clear_value v
  rw [eq]
  refine ⟨rfl, fun _ => rfl, fun _ => rfl, fun _ _ _ => rfl, fun _ _ _ => rfl, fun _ => rfl, fun _ => rfl, fun _ => rfl⟩

theorem exec_tickArrival_free {s : State} {c l : Nat} {w : Wave} (hc : c < 1440) (hw : s.felt.wave = some w)
    (hl : s.bind.applied.serves c = some l) (reached : w.reached.contains c = true) (fresh : w.delivered.contains c = false)
    (free : s.owner l = none) : exec (.tickArrival c) s = .next ((s.arrived w c).deliverC1 l c) := by
  have ok : clusterOk c = true := by simpa [clusterOk] using hc
  have owner : (s.arrived w c).owner l = none := ((s.arrived_reads w c).2.2.1 l).trans free
  show execTickArrival c s = _
  simp only [execTickArrival, ok, hw, hl, reached, fresh, Bool.not_true, Bool.or_self, Bool.false_eq_true, if_false]
  unfold State.arrived at owner
  dsimp only at owner
  rw [owner]
  rfl

theorem exec_tickArrival_prog {s : State} {c l i x y : Nat} {w : Wave} {g : Prog} (hc : c < 1440)
    (hw : s.felt.wave = some w) (hl : s.bind.applied.serves c = some l) (reached : w.reached.contains c = true)
    (fresh : w.delivered.contains c = false) (owner : s.owner l = some i) (hg : s.prog i = some g)
    (bound : g.bound = some (x, y)) (used : g.image.isUnused (l % 40 - x) (l / 40 - y) = false)
    (ticks : w.progs.contains i = true) :
    exec (.tickArrival c) s = .next ((s.arrived w c).deliver i l c (w.starts.contains i)
      (decide (g.image.ticks < (s.workIndex i).2 + 1))) := by
  have ok : clusterOk c = true := by simpa [clusterOk] using hc
  obtain ⟨-, -, owners, -, -, index, -, progs⟩ := s.arrived_reads w c
  have owner' := (owners l).trans owner
  have prog' := (progs i).trans hg
  have image : (s.arrived w c).image? i = some g.image := by simp only [State.image?, prog', Option.map_some]
  rw [← index i]
  show execTickArrival c s = _
  simp only [execTickArrival, ok, hw, hl, reached, fresh, Bool.not_true, Bool.or_self, Bool.false_eq_true, if_false]
  unfold State.arrived at owner' prog' image ⊢
  dsimp only at owner' prog' image ⊢
  rw [owner']
  dsimp only
  rw [prog', image]
  simp only [bound, Option.getD_some, used, ticks, Bool.not_false, Bool.not_true, Bool.or_self, Bool.false_eq_true, if_false]

/-- The tiles of the cluster take the tick and no other tile changes. -/
theorem tickedTiles_spec (s : State) (w : Wave) (c l : Nat) (f : Nat × Nat → Tile → Tile) :
    let ts := s.bind.applied.tilesAt l
    let u := ts.foldl (fun t q => t.setTile q.2 (f q (t.tile q.2))) (s.arrived w c)
    (PagesKeep s u [] ∧ (∀ k, k ∉ ts.map Prod.snd → u.tile k = s.tile k) ∧
      u = { s with
        pages := u.pages, tiles := u.tiles
        felt := { s.felt with wave := some { w with delivered := w.delivered ++ [c] } } }) ∧
    ∀ q ∈ ts, u.tile q.2 = f q (s.tile q.2) := by
  obtain ⟨eq, pages⟩ := s.arrived_spec w c
  obtain ⟨-, tile, -⟩ := s.arrived_reads w c
  obtain ⟨only, others, mine⟩ := foldl_setTile f (s.bind.applied.tilesAt l) (s.arrived w c) (s.bind.applied.tilesAt_nodup l)
  dsimp only
  generalize (s.bind.applied.tilesAt l).foldl (fun t q => t.setTile q.2 (f q (t.tile q.2))) (s.arrived w c) = u
    at only others mine ⊢
  generalize s.arrived w c = v at eq pages tile only others mine
  have same : u = _ := only
  refine ⟨⟨fun k hk => ?_, fun k hk => (others k hk).trans (tile k), ?_⟩, fun q hq => (mine q hq).trans (by rw [tile])⟩
  · rw [same]
    exact pages k hk
  · rw [same, eq]

end Sys2Proof.Machine

open Sys2Proof Sys2Proof.Machine

/-- Settles O44: the launch counts each ticking program once, a router takes the wave after the one before it, and the
distinct tiles of its cluster each take the tick once. -/
theorem tickWaves : Obligations.TickWaves := by
  refine ⟨fun s free ticks done => ?_, fun s c l w hc hw hl => ⟨?_, fun reached fresh => ?_⟩, fun t i seed idle => ?_⟩
  · obtain ⟨u, goes, counts⟩ := exec_tickWaveLaunch free ticks done
    obtain ⟨eq, query⟩ := State.launched_spec s.decided.pages s.decided_holds
    have launched : s.decided.launched = _ := eq
    have queries : ∀ q, s.decided.launched.query q = _ := query
    have counted := Counted.of_decided s
    have kept : ∀ k, s.decided.launched.page k = s.decided.page k := fun k => by
      rw [launched]
      rfl
    generalize s.decided.launched = v at counts launched queries kept
    refine ⟨u, goes, fun k hk => ?_, ?_, fun q => ?_⟩
    · rw [counts.pages k hk, kept, counted.pages k hk]
    · rw [counts.eq, launched, s.newWave_eq]
    · rw [← queries q, counts.eq]
      rfl
  · intro bad comes
    have goes := exec_waveArrival hc hw hl
    have blocked : bad → exec (.waveArrival c) s = .next s := fun h => by
      have hb : flitBad (flitsInto c w.errs) = true := h
      rw [goes, hb, Bool.or_true, if_pos rfl]
    have arrives : w.reached.contains c = false → ¬ bad → s.waveBefore w l = true → comes := fun fresh good before => by
      have hb : flitBad (flitsInto c w.errs) = false := Bool.eq_false_iff.mpr good
      rw [fresh, hb, before, if_neg (by decide)] at goes
      have counts := Counted.of_flitReads
        ({ s with felt := { s.felt with wave := some { w with reached := w.reached ++ [c] } } }) (flitsInto c w.errs)
      exact ⟨_, goes, counts.pages, counts.eq⟩
    refine ⟨blocked, fun fresh good root => arrives fresh good ?_, fun q d fresh good pred server => ?_⟩
    · simp only [State.waveBefore, root]
    · have before : s.waveBefore w l = w.reached.contains d := by simp only [State.waveBefore, pred, server]
      split
      · next has => exact arrives fresh good (before.trans has)
      · next lacks =>
        rw [goes, before, Bool.eq_false_iff.mpr lacks, Bool.not_false, Bool.or_true, Bool.true_or, if_pos rfl]
  · intro ts frame
    obtain ⟨bind, -, -, works, overruns, -, seeds, progs⟩ := s.arrived_reads w c
    refine ⟨fun free quiet => ?_, fun i g x y owner hg bound used ticks quiet => ?_⟩
    · have goes := exec_tickArrival_free hc hw hl reached fresh free
      rw [State.deliverC1_eq c (by rw [bind]; exact fun q hq => (works _ _ _).trans (quiet q hq)), bind] at goes
      obtain ⟨frames, mine⟩ := tickedTiles_spec s w c l fun _ t => t.tickC1
      exact ⟨_, goes, frames, mine⟩
    · have goes := exec_tickArrival_prog hc hw hl reached fresh owner hg bound used (List.contains_iff_mem.mpr ticks)
      have done : ∀ q ∈ (s.arrived w c).bind.applied.tilesAt l,
          if w.starts.contains i then (s.arrived w c).workDone (l * 16 + q.1) q.2 .c1 = true
          else (s.arrived w c).overruns (l * 16 + q.1) q.2 (decide (g.image.ticks < (s.workIndex i).2 + 1)) = false := by
        intro q hq
        rw [bind] at hq
        rw [works, overruns]
        have h := quiet q hq
        simpa only [List.contains_iff_mem] using h
      rw [State.deliver_eq c ((progs i).trans hg) bound done, bind] at goes
      have seed : (s.arrived w c).tickOf i l g x y (w.starts.contains i) = s.tickOf i l g x y (w.starts.contains i) := by
        funext q t
        simp only [State.tickOf, seeds]
      rw [seed] at goes
      obtain ⟨frames, mine⟩ := tickedTiles_spec s w c l (s.tickOf i l g x y (w.starts.contains i))
      refine ⟨_, goes, frames, fun q hq => (mine q hq).trans ?_⟩
      simp only [State.tickOf, List.contains_iff_mem]
  · have c1 : t.tickC1 = t := by simp only [Tile.tickC1, idle, if_false]
    refine ⟨by simp only [Tile.tick, c1], fun waits => ?_, fun ended => ?_⟩
    · simp only [Tile.tick, c1, waits, if_true]
    · simp [Tile.tick, c1, ended]
end

section
/-! PROOFS. A member goes on in simplex (R59, R319, R384). -/

namespace Sys2Proof.Machine

theorem Counted.of_countLines (s : State) (ev : Nat) (r : Nat × Nat) : Counted s (s.countLines ev r) := by
  unfold State.countLines
  split
  · exact .refl s
  · exact .foldl (fun s _ => .of_bump s _ _ _) _ s

theorem State.loadRoutine_onlyTiles (s : State) : OnlyTiles s s.loadRoutine := by
  unfold State.loadRoutine
  refine .foldl (fun t k => ?_) _ s
  rfl

/-- The training run as its sealed step enters phase 2 (R319). -/
def State.inPhase2 (s : State) (x : SealedStep) : Train :=
  { s.train with ph2 := some x, sealedStep := none, held := false, base := s.vats.mem.cells }

/-- A sealed step enters phase 2 outside a moving copy: PHASE2 of the couch header holds its number (R316, R319). -/
theorem State.beginPhase2_spec {s : State} {x : SealedStep} {i : Image} (join : s.twin.join = none)
    (hx : s.train.sealedStep = some x) (hi : s.trainImage = some i) :
    let u := s.beginPhase2
    u = { s with
      pages := u.pages, tiles := u.tiles, sec := u.sec, train := s.inPhase2 x
      vats := { s.vats with mem := s.vats.mem.write (i.couch + 8) (leBytes 8 x.step) } } ∧
    PagesKeep s u [] := by
  intro u
  have hu : u = State.vatStore (State.loadRoutine { s with train := s.inPhase2 x }) (i.couch + 8) (leBytes 8 x.step) := by
    show s.beginPhase2 = _
    simp only [State.beginPhase2, hx, hi]
    rfl
  clear_value u
  have routine : _ = _ := State.loadRoutine_onlyTiles { s with train := s.inPhase2 x }
  generalize State.loadRoutine { s with train := s.inPhase2 x } = v at hu routine
  have counts := Counted.of_countLines (v.vatWrite (i.couch + 8) (leBytes 8 x.step)) 0x41
    (i.couch + 8, (leBytes 8 x.step).length)
  rw [show State.countLines _ _ _ = u from hu.symm] at counts
  have writes : v.vatWrite (i.couch + 8) (leBytes 8 x.step) = { s with
      tiles := v.tiles, train := s.inPhase2 x
      vats := { s.vats with mem := s.vats.mem.write (i.couch + 8) (leBytes 8 x.step) }
      sec := (v.vatWrite (i.couch + 8) (leBytes 8 x.step)).sec } := by
    unfold State.vatWrite
    rw [routine]
    simp only [join, Option.map_none]
    rw [← join]
  generalize v.vatWrite (i.couch + 8) (leBytes 8 x.step) = w at counts writes
  refine ⟨?_, fun k hk => (counts.pages k hk).trans ?_⟩
  · rw [counts.eq, writes]
  · rw [writes]
    rfl

/-- A step enters phase 2 by a vote that all replicas share (R22, R319). -/
theorem State.enterPhase2_none {s : State} (h : s.train.sealedStep = none) (d : Option Replica) : s.enterPhase2 d = s := by
  simp [State.enterPhase2, h]

theorem State.enterPhase2_spec {s : State} {x : SealedStep} {i : Image} (join : s.twin.join = none)
    (hx : s.train.sealedStep = some x) (hi : s.trainImage = some i) :
    let u := s.enterPhase2 none
    u = { s with
      pages := u.pages, tiles := u.tiles, sec := u.sec, train := s.inPhase2 x
      vats := { s.vats with mem := s.vats.mem.write (i.couch + 8) (leBytes 8 x.step) } } ∧
    PagesKeep s u [] := by
  have votes : s.enterPhase2 none = s.decided.beginPhase2 := by
    simp only [State.enterPhase2, hx, Option.isSome_some, if_true, State.voteThen_none]
  have counts := Counted.of_decided s
  rw [votes]
  generalize s.decided = v at counts
  obtain ⟨eq, pages⟩ := State.beginPhase2_spec (s := v) (x := x) (i := i) (by rw [counts.eq]; exact join)
    (by rw [counts.eq]; exact hx) (by rw [counts.eq]; exact hi)
  generalize v.beginPhase2 = u at eq pages
  refine ⟨?_, counts.pages.trans pages⟩
  rw [eq, counts.eq]
  rfl

/-- Entering phase 2 keeps all but what the step's phase 2 writes. -/
theorem State.enterPhase2_keeps {s : State} (join : s.twin.join = none) :
    let u := s.enterPhase2 none
    u = { s with pages := u.pages, tiles := u.tiles, vats := u.vats, sec := u.sec, train := u.train } ∧
    PagesKeep s u [] := by
  cases hx : s.train.sealedStep with
  | none =>
    rw [State.enterPhase2_none hx]
    exact ⟨rfl, .refl s []⟩
  | some x =>
    cases hi : s.trainImage with
    | some i =>
      obtain ⟨eq, pages⟩ := State.enterPhase2_spec join hx hi
      generalize s.enterPhase2 none = u at eq pages
      exact ⟨by rw [eq], pages⟩
    | none =>
      have counts := Counted.of_decided s
      have stays : s.enterPhase2 none = s.decided := by
        have image : s.decided.trainImage = none := by rw [counts.eq]; exact hi
        simp only [State.enterPhase2, hx, Option.isSome_some, if_true, State.voteThen_none, State.beginPhase2, image]
        split <;> simp_all
      rw [stays]
      exact ⟨by rw [counts.eq], counts.pages⟩

/-- Lockstep or divergence has ended: what stays, PARTNER_LOST, and the sealed step in phase 2 (R59, R319, R384). -/
structure Simplex (s u : State) : Prop where
  twin : u.twin = { s.twin.clear with st := 2, join := none }
  pages : EventFrame s u [pgTwin]
  lost : (s.page pgTwin).lost = false → (u.page pgTwin).code = fPARTNER_LOST ∧ (u.page pgTwin).evt = (s.page pgTwin).evt ||| 3#32
  eq : u = { s with h0 := u.h0, h1 := u.h1, pages := u.pages, twin := u.twin, train := u.train, tiles := u.tiles
                    vats := u.vats, sec := u.sec }
  unsealed : s.train.sealedStep = none → u.train = s.train ∧ u.tiles = s.tiles ∧ u.vats = s.vats
  enters : ∀ x i, s.train.sealedStep = some x → s.trainImage = some i → u.train = s.inPhase2 x ∧
    u.vats = { s.vats with mem := s.vats.mem.write (i.couch + 8) (leBytes 8 x.step) }

theorem State.setEvt_code (s : State) (k bits j : Nat) : ((s.setEvt k bits).page j).code = (s.page j).code := by
  by_cases h : j = k
  · subst h
    rw [State.setEvt, State.modPage_page]
    split <;> rfl
  · rw [State.setEvt_page_ne _ _ _ _ h]

/-- The loss of the partner as its page and TWIN_STATE show it (R384, R451). -/
theorem partnerLost_events {s : State} (st : s.twin.st ≠ 2) :
    let v := (s.recordFault pgTwin fPARTNER_LOST 0).setTwin 2
    v.twin = { s.twin with st := 2 } ∧ EventFrame s v [pgTwin] ∧
    ((s.page pgTwin).lost = false → (v.page pgTwin).code = fPARTNER_LOST ∧ (v.page pgTwin).evt = (s.page pgTwin).evt ||| 3#32) ∧
    v = { s with h0 := v.h0, h1 := v.h1, pages := v.pages, twin := v.twin } := by
  have only := s.recordFault_only pgTwin fPARTNER_LOST 0
  have on := s.recordFault_on pgTwin fPARTNER_LOST 0
  have still := s.recordFault_lost pgTwin fPARTNER_LOST 0 pgTwin
  generalize s.recordFault pgTwin fPARTNER_LOST 0 = t at only on still
  have ts : t.twin.st ≠ 2 := by rw [only.2]; exact st
  generalize hw : ({ t with twin := { t.twin with st := 2 } } : State) = w
  have sets : t.setTwin 2 = w.setEvt pgTwin 2 := by
    unfold State.setTwin
    rw [if_neg ts, hw]
  have only' := w.setEvt_only pgTwin 2
  have on' := w.setEvt_on pgTwin 2
  rw [sets]
  have code := w.setEvt_code pgTwin 2 pgTwin
  generalize w.setEvt pgTwin 2 = v at only' on' code
  have page : ∀ k, w.page k = t.page k := fun k => by rw [← hw]; rfl
  have between : EventFrame t w [pgTwin] := ⟨by rw [← hw]; rfl, by rw [← hw]; rfl, fun k _ => by rw [page]⟩
  refine ⟨?_, (only.1.trans between).trans only'.1, fun lost => ⟨?_, ?_⟩, ?_⟩
  · rw [only'.2, ← hw, only.2]
  · rw [code, page, (on lost).2.1]
  · rw [on' (by rw [page, still]; exact lost), page, (on lost).1]
    rw [BitVec.or_assoc]
    rfl
  · rw [only'.2, ← hw, only.2]

/-- A member goes on in simplex (R59, R319, R384). -/
theorem toSimplex_spec {s : State} (st : s.twin.st ≠ 2) : Simplex s (s.toSimplex none) := by
  obtain ⟨twin, pages, lost, eq⟩ := partnerLost_events st
  have goes : s.toSimplex none = State.enterPhase2 { (s.recordFault pgTwin fPARTNER_LOST 0).setTwin 2 with
    twin := { ((s.recordFault pgTwin fPARTNER_LOST 0).setTwin 2).twin.clear with join := none } } none := rfl
  rw [goes]
  generalize (s.recordFault pgTwin fPARTNER_LOST 0).setTwin 2 = v at twin pages lost eq
  generalize hw : ({ v with twin := { v.twin.clear with join := none } } : State) = w
  have join : w.twin.join = none := by rw [← hw]
  have weq : w = { s with h0 := v.h0, h1 := v.h1, pages := v.pages, twin := { s.twin.clear with st := 2, join := none } } := by
    rw [← hw, twin, eq]
    rfl
  obtain ⟨ueq, upages⟩ := State.enterPhase2_keeps join
  have unsealed : w.train.sealedStep = none → w.enterPhase2 none = w := fun h => State.enterPhase2_none h none
  have enters : ∀ x i, w.train.sealedStep = some x → w.trainImage = some i → _ := fun x i hx hi =>
    (State.enterPhase2_spec join hx hi).1
  generalize w.enterPhase2 none = u at ueq upages unsealed enters
  have page : ∀ k, w.page k = v.page k := fun k => by rw [← hw]; rfl
  have same : (u.page pgTwin).code = (v.page pgTwin).code ∧ (u.page pgTwin).evt = (v.page pgTwin).evt := by
    rw [upages pgTwin (by simp), page]
    exact ⟨rfl, rfl⟩
  have wu : EventFrame w u [pgTwin] := ⟨by rw [ueq]; rfl, by rw [ueq]; rfl, upages.mono (by simp)⟩
  have vw : EventFrame v w [pgTwin] := ⟨by rw [← hw]; rfl, by rw [← hw]; rfl, fun k _ => by rw [page]⟩
  refine ⟨?_, (pages.trans vw).trans wu, fun h => ?_, ?_, fun h => ?_, fun x i hx hi => ?_⟩
  · rw [ueq, weq]
  · rw [same.1, same.2]
    exact lost h
  · rw [ueq, weq]
  · rw [unsealed (by rw [weq]; exact h), weq]
    exact ⟨rfl, rfl, rfl⟩
  · rw [enters x i (by rw [weq]; exact hx) (by rw [weq]; exact hi), weq]
    exact ⟨rfl, rfl⟩

end Sys2Proof.Machine
end

section
/-! PROOFS. Calender messages: what a port hears, what the member sends, and when a direction's counter runs out (R359, R363,
R381, R382, R414). -/

namespace Sys2Proof.Machine

theorem Twin.setPort_port (t : Twin) (p : Nat) (c : CalPort) : (t.setPort p c).port p = c := sget_sput_self _ _ _ _

theorem Twin.setPort_port_ne (t : Twin) (p q : Nat) (c : CalPort) (h : q ≠ p) : (t.setPort p c).port q = t.port q :=
  sget_sput_ne _ _ _ _ _ h

theorem Counted.of_calUnits (s : State) (p n : Nat) : Counted s (s.calUnits p n) := .of_bump s _ _ _

/-- A direction whose counters are below 2^32 needs no new key (R414). -/
theorem State.rekey_eq_self {s : State} {p : Nat}
    (h : (s.twin.port p).up = true → (s.twin.port p).ctrIn < 2 ^ 32 ∧ (s.twin.port p).ctrOut < 2 ^ 32) : s.rekey p = s := by
  have runs : s.twin.runOut p = false := by
    unfold Twin.runOut
    cases up : (s.twin.port p).up with
    | false => rfl
    | true =>
      obtain ⟨inward, outward⟩ := h up
      simp only [Bool.true_and, Bool.or_eq_false_iff, decide_eq_false_iff_not]
      omega
  simp only [State.rekey, runs, Bool.false_eq_true, if_false]

theorem foldl_rekey_eq_self {s : State} (l : List Nat)
    (h : ∀ p ∈ l, (s.twin.port p).up = true → (s.twin.port p).ctrIn < 2 ^ 32 ∧ (s.twin.port p).ctrOut < 2 ^ 32) :
    l.foldl State.rekey s = s := by
  induction l with
  | nil => rfl
  | cons p l ih =>
    rw [List.foldl_cons, State.rekey_eq_self (h p (by simp))]
    exact ih fun q hq => h q (by simp [hq])

/-! Hearing -/

/-- One calender port changes, and nothing else of the pair. -/
structure PortBecomes (s u : State) (p : Nat) (c : CalPort) : Prop where
  twin : u.twin = { s.twin with ports := u.twin.ports }
  mine : u.twin.port p = c
  others : ∀ q, q ≠ p → u.twin.port q = s.twin.port q

/-- The module as an alive-counter message with a new counter is heard (R363, R382). -/
def State.hears (s : State) (h : CalHdr) (n : Nat) : State :=
  let v := s.calUnits h.port n
  State.opened { v with twin := v.twin.setPort h.port { v.twin.port h.port with
    aliveIn := some (h.seq % 16), aliveFails := 0 } } h.port

theorem State.hears_spec (s : State) (h : CalHdr) (n : Nat) :
    let u := s.hears h n
    u = { s with twin := u.twin, pages := u.pages } ∧ PagesKeep s u [] ∧
    PortBecomes s u h.port { s.twin.port h.port with
      aliveIn := some (h.seq % 16), aliveFails := 0, ctrIn := (s.twin.port h.port).ctrIn + 1 } := by
  have counts := Counted.of_calUnits s h.port n
  unfold State.hears
  generalize s.calUnits h.port n = v at counts
  have twin : v.twin = s.twin := by rw [counts.eq]
  dsimp only
  unfold State.opened
  refine ⟨?_, fun k hk => counts.pages k hk, ?_, ?_, fun q hq => ?_⟩
  · rw [counts.eq]
  · rw [twin]
    rfl
  · simp only [Twin.setPort_port, twin]
  · simp only [Twin.setPort_port_ne _ _ _ _ hq, twin]

/-- A valid message with a new alive counter is taken (R363). -/
theorem State.alive_eq {s : State} {h : CalHdr} (n : Nat) (k : State → State) (key : (s.twin.port h.port).keyIn ≠ none)
    (ok : h.ok = true) (typed : h.typed = true) (new : (s.twin.port h.port).aliveIn ≠ some (h.seq % 16)) :
    s.alive h n k = (k (s.hears h n)).rekey h.port := by
  have counts := Counted.of_calUnits s h.port n
  have twin : (s.calUnits h.port n).twin = s.twin := by rw [counts.eq]
  have session : (s.twin.port h.port).keyIn.isNone = false := by simpa [Option.isSome_iff_ne_none] using key
  unfold State.alive State.hears
  simp only [session, ok, typed, twin, new, Bool.not_true, Bool.false_eq_true, if_false]

/-- A repeat of the last alive counter is dropped (R363). -/
theorem State.alive_repeat {s : State} {h : CalHdr} (n : Nat) (k : State → State) (key : (s.twin.port h.port).keyIn ≠ none)
    (ok : h.ok = true) (typed : h.typed = true) (old : (s.twin.port h.port).aliveIn = some (h.seq % 16)) :
    s.alive h n k = s.calUnits h.port n := by
  have counts := Counted.of_calUnits s h.port n
  have twin : (s.calUnits h.port n).twin = s.twin := by rw [counts.eq]
  have session : (s.twin.port h.port).keyIn.isNone = false := by simpa [Option.isSome_iff_ne_none] using key
  unfold State.alive
  simp only [session, ok, typed, twin, old, Bool.not_true, Bool.false_eq_true, if_false, if_true]

/-- A message of an undefined TYPE is dropped and counted (R381). -/
theorem State.alive_untyped {s : State} {h : CalHdr} (n : Nat) (k : State → State) (key : (s.twin.port h.port).keyIn ≠ none)
    (ok : h.ok = true) (typed : h.typed = false) :
    s.alive h n k = ((s.calUnits h.port n).untyped h.port).rekey h.port := by
  have session : (s.twin.port h.port).keyIn.isNone = false := by simpa [Option.isSome_iff_ne_none] using key
  unfold State.alive
  simp only [session, ok, typed, Bool.not_true, Bool.not_false, Bool.false_eq_true, if_false, if_true]

theorem State.untyped_spec (s : State) (p : Nat) :
    let u := s.untyped p
    u = { s with twin := u.twin, sites := u.sites } ∧ (∀ g, g ≠ calSite p → u.site g = s.site g) ∧
    u.site (calSite p) = { s.site (calSite p) with chkFail := satAdd 32 (s.site (calSite p)).chkFail 1 } ∧
    PortBecomes s u p { s.twin.port p with ctrIn := (s.twin.port p).ctrIn + 1 } :=
  ⟨rfl, fun _ hg => sget_sput_ne _ _ _ _ _ hg, sget_sput_self _ _ _ _, rfl, Twin.setPort_port _ _ _,
    fun _ hq => Twin.setPort_port_ne _ _ _ _ hq⟩

/-! Sending -/

/-- A message is sealed, counted in its direction and sent (R381, R414). -/
theorem Twin.post_spec (t : Twin) (p active : Nat) (m : SentMsg) :
    ∃ w, t.post p active m = { t.setPort p { t.port p with ctrOut := (t.port p).ctrOut + 1 } with
      sent := t.sent ++ [{ m with wire := w }] } := ⟨_, rfl⟩

/-- A port's alive counter and message counter go on as it sends (R363, R414). -/
theorem Twin.sends_alive (t : Twin) (p active a : Nat) (m : SentMsg) :
    let v := (t.setPort p { t.port p with aliveOut := a }).post p active m
    (∃ w, v = { t with ports := v.ports, sent := t.sent ++ [{ m with wire := w }] }) ∧
    v.port p = { t.port p with aliveOut := a, ctrOut := (t.port p).ctrOut + 1 } ∧ ∀ q, q ≠ p → v.port q = t.port q := by
  obtain ⟨w, post⟩ := (t.setPort p { t.port p with aliveOut := a }).post_spec p active m
  rw [post]
  refine ⟨⟨w, rfl⟩, ?_, fun q hq => ?_⟩
  · exact (Twin.setPort_port _ _ _).trans (by rw [Twin.setPort_port])
  · exact (Twin.setPort_port_ne _ _ _ _ hq).trans (Twin.setPort_port_ne _ _ _ _ hq)

/-- An alive-counter message leaves by a port (R363, R381, R414). -/
theorem State.sendAlive_spec (s : State) (p type : Nat) (body : List Byte) :
    let u := s.sendAlive p type body
    u = { s with twin := u.twin, pages := u.pages } ∧ PagesKeep s u [] ∧
    (∃ m : SentMsg, m.port = p ∧ m.type = type ∧
      u.twin = { s.twin with ports := u.twin.ports, sent := s.twin.sent ++ [m] }) ∧
    u.twin.port p = { s.twin.port p with
      aliveOut := ((s.twin.port p).aliveOut + 1) % 16, ctrOut := (s.twin.port p).ctrOut + 1 } ∧
    ∀ q, q ≠ p → u.twin.port q = s.twin.port q := by
  unfold State.sendAlive
  dsimp only
  obtain ⟨⟨w, sent⟩, mine, others⟩ := s.twin.sends_alive p (s.site (calSite p)).active (((s.twin.port p).aliveOut + 1) % 16)
    { port := p, type := type, attempt := 0, step := 0, offset := 0, seq := (s.twin.port p).aliveOut, body := body }
  generalize (s.twin.setPort p { s.twin.port p with aliveOut := ((s.twin.port p).aliveOut + 1) % 16 }).post p
    (s.site (calSite p)).active _ = t at sent mine others
  have counts := Counted.of_calUnits { s with twin := t } p body.length
  generalize State.calUnits { s with twin := t } p body.length = u at counts
  have twin : u.twin = t := by rw [counts.eq]
  rw [twin]
  exact ⟨by rw [counts.eq], counts.pages, ⟨_, rfl, rfl, sent⟩, mine, others⟩

/-- Messages of one type leave by several ports, one by each (R363, R382). -/
theorem foldl_sendAlive (ps : List Nat) (s : State) (nodup : ps.Nodup) (type : Nat) (body : List Byte) :
    let u := ps.foldl (fun s p => s.sendAlive p type body) s
    u = { s with twin := u.twin, pages := u.pages } ∧ PagesKeep s u [] ∧
    (∃ ms : List SentMsg, ms.map (fun m => (m.port, m.type)) = ps.map (fun q => (q, type)) ∧
      u.twin = { s.twin with ports := u.twin.ports, sent := s.twin.sent ++ ms }) ∧
    ∀ q, u.twin.port q = { s.twin.port q with
      aliveOut := (u.twin.port q).aliveOut, ctrOut := (s.twin.port q).ctrOut + if q ∈ ps then 1 else 0 } := by
  induction ps generalizing s with
  | nil => exact ⟨rfl, .refl s [], ⟨[], rfl, by simp⟩, fun q => by simp⟩
  | cons p ps ih =>
    obtain ⟨fresh, rest⟩ := List.nodup_cons.mp nodup
    obtain ⟨eq, pages, ⟨m, port, type', sent⟩, mine, others⟩ := s.sendAlive_spec p type body
    rw [List.foldl_cons]
    obtain ⟨eq', pages', ⟨ms, map, sent'⟩, ports⟩ := ih (s.sendAlive p type body) rest
    generalize s.sendAlive p type body = t at *
    generalize ps.foldl (fun s p => s.sendAlive p type body) t = u at *
    refine ⟨by rw [eq', eq], pages.trans pages', ⟨m :: ms, ?_, ?_⟩, fun q => ?_⟩
    · rw [List.map_cons, List.map_cons, map, port, type']
    · rw [sent', sent, List.append_assoc]
      rfl
    · rw [ports q]
      by_cases hq : q = p
      · subst hq
        simp [mine, fresh]
      · simp [others q hq, hq]

theorem leBytes_length (n x : Nat) : (leBytes n x).length = n := by
  induction n generalizing x with
  | zero => rfl
  | succ n ih => simp [leBytes, ih]

theorem Twin.upPorts_nodup (t : Twin) : t.upPorts.Nodup := List.nodup_range.filter _

end Sys2Proof.Machine

open Sys2Proof Sys2Proof.Machine

/-- Settles O30: what an alive-counter message leaves is what its row does after the port has heard it; a LEAVE ends the pair
as the loss of the partner does. -/
theorem partnerMessages : Obligations.PartnerMessages := by
  intro s h hp key wire ok inward outward inwards
  have port : calOk h.port = true := by simpa [calOk] using hp
  have heard : ∀ type, s.heard h type = some (h, none) := fun type => by simp only [State.heard, wire]
  have beat : ∀ st ph c, exec (.heartbeat h st ph c) s = .next (s.alive h 17 fun s => { s with twin := { s.twin with
      partnerState := st, partnerPh1 := ph, partnerCommitted := c } }) := fun st ph c => by
    show execHeartbeat h st ph c s = _
    simp only [execHeartbeat, port, heard, Bool.not_true, Bool.false_eq_true, if_false]
    rfl
  have keeps : ∀ (u : State) (c : CalPort), u.twin.port h.port = c → c.ctrIn = (s.twin.port h.port).ctrIn + 1 →
      c.ctrOut = (s.twin.port h.port).ctrOut → u.rekey h.port = u := fun u c hc hi ho =>
    State.rekey_eq_self fun _ => ⟨by rw [hc, hi]; exact inward, by rw [hc, ho]; have := outward h.port hp; omega⟩
  refine ⟨fun typed new st ph c => ?_, fun typed old st ph c => ?_, fun typed st ph c => ?_, ?_,
    fun typed new ignore wait st i hi clean reason => ?_⟩
  · obtain ⟨eq, pages, twin, mine, others⟩ := s.hears_spec h 17
    have goes := beat st ph c
    rw [State.alive_eq 17 _ key ok typed new] at goes
    generalize s.hears h 17 = v at eq pages twin mine others goes
    have stays := keeps { v with twin := { v.twin with
      partnerState := st, partnerPh1 := ph, partnerCommitted := c } } _ mine rfl rfl
    exact ⟨_, goes.trans (congrArg _ stays), by rw [eq], pages, by rw [twin], mine, others⟩
  · have counts := Counted.of_calUnits s h.port 17
    exact ⟨_, (beat st ph c).trans (congrArg _ (State.alive_repeat 17 _ key ok typed old)), counts.eq, counts.pages⟩
  · have goes := beat st ph c
    rw [State.alive_untyped 17 _ key ok typed] at goes
    have counts := Counted.of_calUnits s h.port 17
    generalize s.calUnits h.port 17 = v at counts goes
    obtain ⟨eq, others, mine, becomes⟩ := v.untyped_spec h.port
    generalize v.untyped h.port = w at eq others mine becomes goes
    have twin : v.twin = s.twin := by rw [counts.eq]
    have site : ∀ g, v.site g = s.site g := fun g => by rw [counts.eq]; rfl
    have page : ∀ k, w.page k = v.page k := fun k => by rw [eq]; rfl
    rw [twin] at becomes
    rw [keeps w _ becomes.mine rfl rfl] at goes
    refine ⟨w, goes, fun k hk => by rw [page, counts.pages k hk], by rw [eq, counts.eq], ?_, fun g hg => ?_, ?_⟩
    · rw [becomes.twin, twin]
    · rw [others g hg, site]
    · rw [mine, site]
  · obtain ⟨body, goes⟩ : ∃ body, exec .heartbeatSend s =
        .next ((List.range 4).foldl State.rekey (s.twin.upPorts.foldl (fun s p => s.sendAlive p 2 body)
          { s with free := s.free + 1 })) := ⟨_, rfl⟩
    obtain ⟨eq, pages, ⟨ms, map, sent⟩, ports⟩ :=
      foldl_sendAlive s.twin.upPorts { s with free := s.free + 1 } s.twin.upPorts_nodup 2 body
    generalize s.twin.upPorts.foldl (fun s p => s.sendAlive p 2 body) { s with free := s.free + 1 } = u at eq pages sent ports goes
    have quiet : (List.range 4).foldl State.rekey u = u := by
      refine foldl_rekey_eq_self _ fun p hp _ => ?_
      have hp4 := List.mem_range.mp hp
      have hi := inwards p hp4
      have ho := outward p hp4
      rw [ports p]
      refine ⟨hi, ?_⟩
      show (s.twin.port p).ctrOut + _ < _
      split <;> omega
    rw [quiet] at goes
    refine ⟨u, ms, goes, eq, pages, sent, map, fun q _ => ?_⟩
    conv_lhs => rw [ports q]
    conv_rhs => rw [ports q]
  · obtain ⟨eq, pages, twin, mine, others⟩ := s.hears_spec h 2
    have goes : exec (.leave h reason) s = .next (s.alive h 2 fun s =>
        if s.twin.ignoreLeave then s
        else if s.twin.leaveWait then (if s.twin.rank = 0 then s.toSimplex none else s.leaves) else s.partnerLost none) := by
      show execLeave h reason s = _
      simp only [execLeave, port, heard, Bool.not_true, Bool.false_eq_true, if_false]
    rw [State.alive_eq 2 _ key ok typed new] at goes
    generalize s.hears h 2 = v at eq pages twin mine others goes
    have flags : v.twin.ignoreLeave = false ∧ v.twin.leaveWait = false ∧ (v.twin.st = 1 ∨ v.twin.st = 5) := by
      rw [twin]
      exact ⟨ignore, wait, st⟩
    simp only [flags, Bool.false_eq_true, if_false, State.partnerLost, if_true] at goes
    have simplex := toSimplex_spec (s := v) (by omega)
    generalize v.toSimplex none = u at simplex goes
    have uport : ∀ q, u.twin.port q = v.twin.port q := fun q => by rw [simplex.twin]; rfl
    rw [keeps u _ ((uport h.port).trans mine) rfl rfl] at goes
    have sv : EventFrame s v [pgTwin] := ⟨by rw [eq]; rfl, by rw [eq]; rfl, pages.mono (by simp)⟩
    have twinPage := pages pgTwin (by simp)
    refine ⟨u, goes, by rw [simplex.twin], by rw [simplex.eq, eq], by rw [simplex.eq, eq], by rw [simplex.eq, eq],
      sv.trans simplex.pages, fun lost => ?_, fun unsealed => ?_, fun x hx => ?_⟩
    · have lost' := simplex.lost (by rw [twinPage]; exact lost)
      rw [twinPage] at lost'
      exact lost'
    · have rest := simplex.unsealed (by rw [eq]; exact unsealed)
      rw [eq] at rest
      exact rest
    · obtain ⟨train, vats⟩ := simplex.enters x i (by rw [eq]; exact hx) (by rw [eq]; exact hi)
      have mem : u.vats.mem = s.vats.mem.write (i.couch + 8) (leBytes 8 x.step) := by rw [vats, eq]
      refine ⟨by rw [train, eq]; rfl, ?_, fun a ha => ?_⟩
      · have read := s.vats.mem.read_write (i.couch + 8) (leBytes 8 x.step) clean
        rw [leBytes_length] at read
        rw [mem, read]
      · rw [mem]
        exact s.vats.mem.write_outside _ _ a clean (by rw [leBytes_length]; omega)
end

section
/-! PROOFS. Calender ports come up and go down (R59, R359, R360, R381, R383, R384, R386, R414). -/

namespace Sys2Proof.Machine

/-- What a port finds in the bytes that arrived is a header of its own, with no bytes left to open (R359, R381). -/
theorem State.heard_wire {s : State} {h h' : CalHdr} {type : Nat} {body : List Byte} (wire : h.wire.isSome = true)
    (hears : s.heard h type = some (h', some body)) : h'.port = h.port ∧ h'.wire = none := by
  obtain ⟨w, hw⟩ := Option.isSome_iff_exists.mp wire
  simp only [State.heard, hw] at hears
  split at hears
  · cases hears
    exact ⟨rfl, rfl⟩
  · split at hears
    · cases hears
      exact ⟨rfl, rfl⟩
    · split at hears
      · cases hears
      · cases hears
        exact ⟨rfl, rfl⟩

/-- A port goes down and loses its session (R383). -/
theorem State.portOff_spec (s : State) (p : Nat) :
    let u := s.portOff p false
    u = { s with twin := { s.twin with ports := u.twin.ports }, h0 := u.h0, h1 := u.h1, pages := u.pages } ∧
    EventFrame s u [pgSite (calSite p)] ∧
    PortBecomes s u p { s.twin.port p with
      up := false, hello := none, myKx0 := none, peer := none, myKx1 := none, keyOut := none, keyIn := none } ∧
    FaultOn s u (pgSite (calSite p)) fCALENDER_DEGRADED 0 := by
  unfold State.portOff
  simp only [Bool.or_false, Bool.false_eq_true, if_false]
  generalize hv : ({ s with twin := s.twin.setPort p { s.twin.port p with
    up := false, hello := none, myKx0 := none, peer := none, myKx1 := none, keyOut := none, keyIn := none } } : State) = v
  have only := v.recordFault_only (pgSite (calSite p)) fCALENDER_DEGRADED 0
  have on := v.recordFault_on (pgSite (calSite p)) fCALENDER_DEGRADED 0
  generalize v.recordFault (pgSite (calSite p)) fCALENDER_DEGRADED 0 = u at only on
  have twin : u.twin = v.twin := by rw [only.2]
  subst hv
  refine ⟨?_, only.1, ⟨?_, ?_, fun q hq => ?_⟩, on⟩
  · rw [only.2]
    rfl
  · rw [twin]
    rfl
  · rw [twin]
    exact Twin.setPort_port _ _ _
  · rw [twin]
    exact Twin.setPort_port_ne _ _ _ _ hq

theorem Twin.upPorts_isEmpty_iff (t : Twin) : t.upPorts.isEmpty = true ↔ ∀ p, p < 4 → (t.port p).up = false := by
  simp [Twin.upPorts]

/-- A HELLO of a member that is no joiner changes no pair while no TWIN_JOIN runs (R386). -/
theorem State.helloJoins_eq_self {s : State} {b : HelloBody} (p : Nat) (role : b.role ≠ 2) (run : s.run = none) :
    s.helloJoins p b = s := by
  simp only [State.helloJoins, role, run, if_false, Bool.false_eq_true]

/-- The module as a HELLO reaches a down port with a session (R360, R383, R386): the port comes up under the check
selection that both members hold, or stays down. -/
def State.greeted (s : State) (p : Nat) (b : HelloBody) (f : Kx0Frame) : State :=
  let c := s.twin.port p
  let x := s.site (calSite p)
  let noted : State := { s with twin := s.twin.setPort p { c with hello := some b } }
  if b.chkSel = x.chkSel then
    { noted.setSite (calSite p) { x with active := x.chkSel, seqTx := 0, seqRx := 0, fails := 0, lacks := none } with
      twin := { noted.twin.setPort p { c with hello := some b, up := true } with
        partner := certSerial f.idCert, partnerKey := certKey f.idCert, rank := s.rankTo (certSerial f.idCert) } }
  else noted.recordFault (pgSite (calSite p)) fCALENDER_DEGRADED 0

theorem State.greeted_up {s : State} {p : Nat} {b : HelloBody} (f : Kx0Frame)
    (same : b.chkSel = (s.site (calSite p)).chkSel) :
    let u := s.greeted p b f
    u = { s with twin := u.twin, sites := u.sites } ∧
    u.twin = { s.twin with ports := u.twin.ports, partner := certSerial f.idCert, partnerKey := certKey f.idCert
                           rank := s.rankTo (certSerial f.idCert) } ∧
    u.twin.port p = { s.twin.port p with hello := some b, up := true } ∧ (∀ q, q ≠ p → u.twin.port q = s.twin.port q) ∧
    u.site (calSite p) = { s.site (calSite p) with
      active := (s.site (calSite p)).chkSel, seqTx := 0, seqRx := 0, fails := 0, lacks := none } ∧
    ∀ g, g ≠ calSite p → u.site g = s.site g := by
  simp only [State.greeted, same, if_true]
  refine ⟨rfl, rfl, ?_, fun q hq => ?_, sget_sput_self _ _ _ _, fun g hg => sget_sput_ne _ _ _ _ _ hg⟩
  · simp only [Twin.port, Twin.setPort, sget_sput_self]
  · simp only [Twin.port, Twin.setPort, sget_sput_ne _ _ _ _ _ hq]

theorem State.greeted_down {s : State} {p : Nat} {b : HelloBody} (f : Kx0Frame)
    (differs : b.chkSel ≠ (s.site (calSite p)).chkSel) :
    let u := s.greeted p b f
    u = { s with twin := { s.twin with ports := u.twin.ports }, h0 := u.h0, h1 := u.h1, pages := u.pages } ∧
    u.twin.port p = { s.twin.port p with hello := some b } ∧ (∀ q, q ≠ p → u.twin.port q = s.twin.port q) ∧
    EventFrame s u [pgSite (calSite p)] ∧ FaultOn s u (pgSite (calSite p)) fCALENDER_DEGRADED 0 := by
  simp only [State.greeted, differs, if_false]
  generalize hv : ({ s with twin := s.twin.setPort p { s.twin.port p with hello := some b } } : State) = v
  have only := v.recordFault_only (pgSite (calSite p)) fCALENDER_DEGRADED 0
  have on := v.recordFault_on (pgSite (calSite p)) fCALENDER_DEGRADED 0
  generalize v.recordFault (pgSite (calSite p)) fCALENDER_DEGRADED 0 = u at only on
  have twin : u.twin = v.twin := by rw [only.2]
  subst hv
  refine ⟨by rw [only.2]; rfl, ?_, fun q hq => ?_, only.1, on⟩
  · rw [twin]
    exact Twin.setPort_port _ _ _
  · rw [twin]
    exact Twin.setPort_port_ne _ _ _ _ hq

/-- A good HELLO on a down port with a session, from another module (R360, R383). -/
theorem exec_hello_down {s : State} {h : CalHdr} {b : HelloBody} {f : Kx0Frame} (hp : calOk h.port = true)
    (wire : h.wire = none) (ok : h.ok = true) (typed : h.typed = true) (run : s.run = none) (role : b.role = 1)
    (key : (s.twin.port h.port).keyIn ≠ none) (new : (s.twin.port h.port).aliveIn ≠ some (h.seq % 16))
    (down : (s.twin.port h.port).up = false) (peer : (s.twin.port h.port).peer = some f)
    (other : certSerial f.idCert ≠ s.ident.serial) :
    exec (.hello h b) s = .next (((s.hears h 108).greeted h.port b f).rekey h.port) := by
  have heard : s.heard h 0x01 = some (h, none) := by simp only [State.heard, wire]
  obtain ⟨eq, -, twin, mine, -⟩ := s.hears_spec h 108
  show execHello h b s = _
  simp only [execHello, hp, heard, Bool.not_true, Bool.false_eq_true, if_false, Option.map_none, Option.getD_none]
  rw [State.alive_eq 108 _ key ok typed new]
  generalize s.hears h 108 = v at eq twin mine
  have facts : (v.twin.port h.port).up = false ∧ (v.twin.port h.port).peer = some f ∧ certSerial f.idCert ≠ v.ident.serial ∧
      v.run = none := by
    rw [mine, eq]
    exact ⟨down, peer, other, run⟩
  obtain ⟨vdown, vpeer, vother, vrun⟩ := facts
  have role2 : b.role ≠ 2 := by omega
  have site : ∀ t g, State.site { v with twin := t } g = v.site g := fun _ _ => rfl
  congr 2
  by_cases same : b.chkSel = (v.site (calSite h.port)).chkSel
  · simp only [vdown, vpeer, vother, site, same, ne_eq, not_true_eq_false, Bool.false_eq_true, if_false]
    rw [State.helloJoins_eq_self h.port role2 (by exact vrun)]
    simp only [State.greeted, same, if_true, vdown, vpeer]
    rfl
  · have still : ∀ t k code info, (State.recordFault { v with twin := t } k code info).run = none := fun t k code info => by
      rw [State.recordFault_eq]
      exact vrun
    simp only [vdown, vpeer, vother, site, same, ne_eq, not_false_eq_true, Bool.false_eq_true, if_false, if_true, still]
    simp only [State.greeted, same, if_false, vdown, vpeer]

end Sys2Proof.Machine

open Sys2Proof Sys2Proof.Machine

/-- Settles O29: a HELLO's row after the port has heard it, a HELLO_RETRY, and the loss of one port and of the last. -/
theorem portsUpAndDown : Obligations.PortsUpAndDown := by
  intro s p hp
  have port : calOk p = true := by simpa [calOk] using hp
  refine ⟨fun h b h' body at_p wire hears => ?_,
    fun h b f at_p wire ok typed run role key new down inward outward peer other => ?_, fun trains key waits => ?_,
    fun trains key => ?_, fun up r hr hrp upr => ?_, fun up last st => ?_, fun down => ?_⟩
  · obtain ⟨port', wire'⟩ := State.heard_wire wire hears
    have ok : calOk h.port = true ∧ calOk h'.port = true := by rw [port', at_p]; exact ⟨port, port⟩
    have bare : s.heard h' 0x01 = some (h', none) := by simp only [State.heard, wire']
    refine ⟨port'.trans at_p, ?_⟩
    show execHello h b s = execHello h' (parseHello body) s
    simp only [execHello, ok, hears, bare, Bool.not_true, Bool.false_eq_true, if_false]
    rfl
  · subst at_p
    have goes := exec_hello_down port wire ok typed run role key new down peer other
    obtain ⟨eq, pages, twin, mine, others⟩ := s.hears_spec h 108
    generalize s.hears h 108 = v at eq pages twin mine others goes
    have site : ∀ g, v.site g = s.site g := fun g => by rw [eq]; rfl
    have rank : v.rankTo (certSerial f.idCert) = s.rankTo (certSerial f.idCert) := by rw [eq]; rfl
    by_cases same : b.chkSel = (s.site (calSite h.port)).chkSel
    · obtain ⟨ueq, utwin, umine, uothers, usite, usites⟩ := State.greeted_up (s := v) (p := h.port) (b := b) f
        (by rw [site]; exact same)
      generalize v.greeted h.port b f = u at ueq utwin umine uothers usite usites goes
      rw [State.rekey_eq_self fun _ => by rw [umine, mine]; exact ⟨inward, outward⟩] at goes
      refine ⟨u, goes, fun q hq => (uothers q hq).trans (others q hq), fun g hg => (usites g hg).trans (site g), ?_⟩
      rw [if_pos same]
      refine ⟨by rw [ueq, eq], fun k hk => ?_, by rw [utwin, twin, rank]; rfl, by rw [umine, mine], by rw [usite, site]⟩
      rw [ueq]
      exact pages k hk
    · obtain ⟨ueq, umine, uothers, frame, fault⟩ := State.greeted_down (s := v) (p := h.port) (b := b) f
        (by rw [site]; exact same)
      generalize v.greeted h.port b f = u at ueq umine uothers frame fault goes
      have udown : (u.twin.port h.port).up = false := by rw [umine, mine]; exact down
      rw [State.rekey_eq_self fun up => absurd up (by simp [udown])] at goes
      have sv : EventFrame s v [pgSite (calSite h.port)] := ⟨by rw [eq]; rfl, by rw [eq]; rfl, pages.mono (by simp)⟩
      refine ⟨u, goes, fun q hq => (uothers q hq).trans (others q hq), fun g _ => ?_, ?_⟩
      · rw [ueq]
        exact site g
      · have page := pages (pgSite (calSite h.port)) (by simp)
        rw [if_neg same]
        refine ⟨by rw [ueq, eq], ?_, udown, sv.trans frame, fun lost => ?_⟩
        · rw [ueq, twin]
        · have on := fault (by rw [page]; exact lost)
          rw [page] at on
          exact on
  · have goes : exec (.helloRetry p) s = .next (s.sendHello p s.role) := by
      have has : (s.twin.port p).keyOut.isSome = true := Option.isSome_iff_ne_none.mpr key
      show execHelloRetry p s = _
      simp only [execHelloRetry, port, trains, has, waits, Option.isNone_none, Bool.and_self, Bool.not_true,
        Bool.false_eq_true, if_false, if_true]
    have down : (s.twin.port p).up = false := by
      unfold State.mayTrain at trains
      simp only [Bool.and_eq_true, Bool.not_eq_true'] at trains
      exact trains.1.1.1.1
    obtain ⟨eq, pages, ⟨m, mp, mt, sent⟩, mine, others⟩ := s.sendAlive_spec p 1 (s.helloBody p s.role)
    unfold State.sendHello at goes
    generalize s.sendAlive p 1 (s.helloBody p s.role) = u at eq pages sent mine others goes
    rw [State.rekey_eq_self fun up => absurd up (by rw [mine]; simp [down])] at goes
    exact ⟨u, m, goes, eq, pages, mp, mt, sent, others⟩
  · have goes : exec (.helloRetry p) s = .next { s with twin := s.twin.setPort p { s.twin.port p with
        myKx0 := some s.newKx0, peer := none, myKx1 := none, keyOut := none, keyIn := none, hello := none
        aliveIn := none, aliveFails := 0 } } := by
      show execHelloRetry p s = _
      simp only [execHelloRetry, port, trains, key, Option.isSome_none, Bool.false_and, Bool.not_true,
        Bool.false_eq_true, if_false]
    exact ⟨_, goes, rfl, Twin.setPort_port _ _ _, fun q hq => Twin.setPort_port_ne _ _ _ _ hq⟩
  · obtain ⟨eq, frame, ⟨twin, mine, others⟩, fault⟩ := s.portOff_spec p
    have goes : exec (.calenderPortDown p) s = .next (s.calDown p false) := by
      show execCalenderPortDown p s = _
      simp only [execCalenderPortDown, port, up, Bool.not_true, Bool.false_eq_true, if_false]
    unfold State.calDown at goes
    generalize s.portOff p false = u at eq frame twin mine others fault goes
    have some_ : u.twin.upPorts.isEmpty = false := by
      refine Bool.eq_false_iff.mpr fun none_ => ?_
      have h := (u.twin.upPorts_isEmpty_iff.mp none_) r hr
      rw [others r hrp, upr] at h
      cases h
    dsimp only at goes
    rw [some_, if_neg (by decide)] at goes
    exact ⟨u, goes, eq, frame, mine, others, fault⟩
  · obtain ⟨eq, frame, ⟨twin, mine, others⟩, fault⟩ := s.portOff_spec p
    have goes : exec (.calenderPortDown p) s = .next (s.calDown p false) := by
      show execCalenderPortDown p s = _
      simp only [execCalenderPortDown, port, up, Bool.not_true, Bool.false_eq_true, if_false]
    unfold State.calDown at goes
    generalize s.portOff p false = v at eq frame twin mine others fault goes
    have none_ : v.twin.upPorts.isEmpty = true := by
      refine v.twin.upPorts_isEmpty_iff.mpr fun q hq => ?_
      by_cases hqp : q = p
      · rw [hqp, mine]
      · rw [others q hqp]
        exact last q hq hqp
    have vst : v.twin.st = 1 ∨ v.twin.st = 5 := by rw [twin]; exact st
    dsimp only at goes
    rw [none_, if_pos rfl, State.partnerLost, if_pos vst] at goes
    have simplex := toSimplex_spec (s := v) (by omega)
    generalize v.toSimplex none = u at simplex goes
    have ne : pgTwin ≠ pgSite (calSite p) := by unfold pgTwin pgSite; omega
    have siteKept : u.page (pgSite (calSite p)) = _ := simplex.pages.2.2 (pgSite (calSite p)) (by simp [Ne.symm ne])
    have twinKept : v.page pgTwin = _ := frame.2.2 pgTwin (by simp [ne])
    refine ⟨u, goes, by rw [simplex.twin], ?_, fun lost => ?_, ?_, fun lost => ?_, by rw [simplex.eq, eq],
      by rw [simplex.eq, eq], by rw [simplex.eq, eq], fun unsealed => ?_, fun x i hx hi => ?_⟩
    · rw [simplex.twin]
      exact congrArg CalPort.up mine
    · obtain ⟨evt, code, info, count, en⟩ := fault lost
      rw [siteKept]
      exact ⟨evt, code, info, count, en⟩
    · exact (frame.mono (by simp)).trans (simplex.pages.mono (by simp))
    · have lost' := simplex.lost (by rw [twinKept]; exact lost)
      rw [twinKept] at lost'
      exact lost'
    · have rest := simplex.unsealed (by rw [eq]; exact unsealed)
      rw [eq] at rest
      exact rest
    · obtain ⟨train, -⟩ := simplex.enters x i (by rw [eq]; exact hx) (by rw [eq]; exact hi)
      rw [train, eq]
      rfl
  · show execCalenderPortDown p s = _
    simp only [execCalenderPortDown, port, down, Bool.not_true, Bool.not_false, Bool.false_eq_true, if_false, if_true]
end

section
/-! PROOFS. A sealed message opens under the key and counter that sealed it, and its header gives the fields that it was formed
from (R359, R381, R414). -/

namespace Sys2Proof.Machine

/-! The cipher -/

theorem aesEncK_length (ks : List (List Nat)) (blk : List Byte) :
    (aesEncK ks blk).length = min 16 (nth [] ks 14).length := by
  simp [aesEncK, shiftRows]

/-- The keystream of whole blocks (R414). -/
theorem ctrStream_length {ks : List (List Nat)} (full : 16 ≤ (nth [] ks 14).length) (iv : List Byte) (n c : Nat) :
    (ctrStream ks iv n c).length = 16 * n := by
  induction n generalizing c with
  | zero => rfl
  | succ n ih =>
    rw [ctrStream, List.length_append, aesEncK_length, ih]
    omega

theorem xorBytes_length (a k : List Byte) : (xorBytes a k).length = min a.length k.length := by simp [xorBytes]

/-- A keystream applied twice gives the bytes back. -/
theorem xorBytes_xorBytes (a k : List Byte) (h : a.length ≤ k.length) : xorBytes (xorBytes a k) k = a := by
  induction a generalizing k with
  | nil => rfl
  | cons x a ih =>
    cases k with
    | nil => simp at h
    | cons y k =>
      have rest := ih k (by simpa using h)
      unfold xorBytes at rest ⊢
      simp [rest]

theorem gcmCrypt_length {ks : List (List Nat)} (full : 16 ≤ (nth [] ks 14).length) (iv d : List Byte) :
    (gcmCrypt ks iv d).length = d.length := by
  rw [gcmCrypt, xorBytes_length, ctrStream_length full]
  unfold cdiv
  omega

theorem gcmCrypt_gcmCrypt {ks : List (List Nat)} (full : 16 ≤ (nth [] ks 14).length) (iv d : List Byte) :
    gcmCrypt ks iv (gcmCrypt ks iv d) = d := by
  have length := gcmCrypt_length full iv d
  unfold gcmCrypt at length ⊢
  rw [length]
  refine xorBytes_xorBytes _ _ ?_
  rw [ctrStream_length full]
  unfold cdiv
  omega

/-- A message sealed with a whole tag opens (R414). -/
theorem gcmOpen_gcmSeal {key iv aad pt ct tag : List Byte} (h : gcmSeal key iv aad pt = (ct, tag)) (whole : tag.length = 16) :
    gcmOpen key iv aad ct tag = some pt ∧ ct.length = pt.length := by
  obtain ⟨rfl, rfl⟩ := Prod.mk.inj h
  have full : 16 ≤ (nth [] (aesKeys key) 14).length := by
    rw [gcmTag, xorBytes_length, aesEncK_length] at whole
    omega
  refine ⟨?_, gcmCrypt_length full iv pt⟩
  simp only [gcmOpen, if_true, gcmCrypt_gcmCrypt full]

/-! The header -/

theorem leNat_leBytes (n x : Nat) : leNat (leBytes n x) = x % 256 ^ n := by
  induction n generalizing x with
  | zero => simp [leBytes, leNat, Nat.mod_one]
  | succ n ih =>
    rw [leBytes, leNat, ih, show 256 ^ (n + 1) = 256 * 256 ^ n from Nat.pow_succ', Nat.mod_mul, BitVec.toNat_ofNat]

/-- A number read where it was written. -/
theorem leAt_leBytes (a r : List Byte) (n x : Nat) : leAt (a ++ (leBytes n x ++ r)) a.length n = x % 256 ^ n := by
  have part : bytesAt (a ++ (leBytes n x ++ r)) a.length n = leBytes n x := by
    have taken : (leBytes n x ++ r).take n = leBytes n x := by
      rw [List.take_append_of_le_length (by rw [leBytes_length]), List.take_of_length_le (by rw [leBytes_length])]
    unfold bytesAt
    rw [List.drop_left]
    simp only [taken, leBytes_length, Nat.sub_self, List.replicate_zero, List.append_nil]
  rw [leAt, part, leNat_leBytes]

/-- The header's fields, where R381 puts them. -/
theorem SentMsg.header_fields (m : SentMsg) (r : List Byte) :
    leAt (m.header ++ r) 0 1 = m.type % 256 ∧ leAt (m.header ++ r) 1 1 = m.attempt % 256 ∧
    leAt (m.header ++ r) 4 4 = m.body.length % 256 ^ 4 ∧ leAt (m.header ++ r) 8 8 = m.step % 256 ^ 8 ∧
    leAt (m.header ++ r) 16 8 = m.offset % 256 ^ 8 := by
  refine ⟨?_, ?_, ?_, ?_, ?_⟩
  · have at_ := leAt_leBytes [] (leBytes 1 m.attempt ++ leBytes 2 0 ++ leBytes 4 m.body.length ++ leBytes 8 m.step ++
      leBytes 8 m.offset ++ r) 1 m.type
    simpa [SentMsg.header] using at_
  · have at_ := leAt_leBytes (leBytes 1 m.type) (leBytes 2 0 ++ leBytes 4 m.body.length ++ leBytes 8 m.step ++
      leBytes 8 m.offset ++ r) 1 m.attempt
    simpa [SentMsg.header, leBytes_length] using at_
  · have at_ := leAt_leBytes (leBytes 1 m.type ++ leBytes 1 m.attempt ++ leBytes 2 0) (leBytes 8 m.step ++
      leBytes 8 m.offset ++ r) 4 m.body.length
    simpa [SentMsg.header, leBytes_length] using at_
  · have at_ := leAt_leBytes (leBytes 1 m.type ++ leBytes 1 m.attempt ++ leBytes 2 0 ++ leBytes 4 m.body.length)
      (leBytes 8 m.offset ++ r) 8 m.step
    simpa [SentMsg.header, leBytes_length] using at_
  · have at_ := leAt_leBytes (leBytes 1 m.type ++ leBytes 1 m.attempt ++ leBytes 2 0 ++ leBytes 4 m.body.length ++
      leBytes 8 m.step) r 8 m.offset
    simpa [SentMsg.header, leBytes_length] using at_

theorem SentMsg.header_length (m : SentMsg) : m.header.length = 24 := by simp [SentMsg.header, leBytes_length]

/-- A sequenced message's check verifies under the SEQ that formed it (R359, R381). -/
theorem calSeq_checked (m : SentMsg) (c : Check) (type : aliveType m.type = false) (t256 : m.type < 256)
    (off : m.offset < 2 ^ 64) :
    calSeq c m.port m.seq (m.header ++ m.body) (leBytes (c.width / 8)
      (c.of (foldPrefix m.offset m.seq (calSite m.port) (aliveType m.type) ++ (m.header ++ m.body)))) = some m.seq := by
  obtain ⟨typeAt, -, -, -, offAt⟩ := m.header_fields m.body
  have typeAt' : leAt (m.header ++ m.body) 0 1 = m.type := typeAt.trans (Nat.mod_eq_of_lt t256)
  have offAt' : leAt (m.header ++ m.body) 16 8 = m.offset := offAt.trans (Nat.mod_eq_of_lt (by norm_num; exact off))
  simp only [calSeq, typeAt', offAt', type, Bool.false_eq_true, if_false, beq_self_eq_true, if_true]

/-- What a port hears of a sequenced message that the partner sealed for it (R359, R381, R382, R414). -/
theorem State.heard_sealed {s : State} {m : SentMsg} {key ct tag : List Byte}
    (type : m.type ∈ [0x10, 0x11, 0x20, 0x21, 0x22, 0x23]) (attempt : m.attempt < 256) (step : m.step < 2 ^ 64)
    (offset : m.offset < 2 ^ 64) (length : m.body.length < 2 ^ 32) (keyIn : (s.twin.port m.port).keyIn = some key)
    (seq : m.seq = (s.site (calSite m.port)).seqRx)
    (sealed_ : gcmSeal key (calIv m.port (1 - (s.twin.port m.port).dir) (s.twin.port m.port).ctrIn) []
      (m.checked (Check.ofCode (s.site (calSite m.port)).active)) = (ct, tag)) (whole : tag.length = 16) :
    s.heard { port := m.port, wire := some (ct ++ tag) } m.type = some
      ({ port := m.port, attempt := m.attempt, step := m.step, offset := m.offset, seq := m.seq }, some m.body) := by
  obtain ⟨opens, clen⟩ := gcmOpen_gcmSeal sealed_ whole
  generalize hc : Check.ofCode (s.site (calSite m.port)).active = c at opens clen
  have cut : (ct ++ tag).length - 16 = ct.length := by rw [List.length_append, whole]; omega
  have opened : (s.twin.port m.port).openWire m.port key (ct ++ tag) = some (m.checked c) := by
    simp only [CalPort.openWire, List.findSome?_cons, cut, List.take_left, List.drop_left, opens]
  have types : m.type < 256 ∧ aliveType m.type = false ∧ knownTypes.contains m.type = true := by
    simp only [List.mem_cons, List.not_mem_nil, or_false] at type
    rcases type with h | h | h | h | h | h <;> rw [h] <;> decide
  obtain ⟨t256, seqType, known⟩ := types
  obtain ⟨typeAt, attemptAt, lengthAt, stepAt, offsetAt⟩ := m.header_fields m.body
  have check := calSeq_checked m c seqType t256 offset
  have hn : (m.checked c).length - c.width / 8 = 24 + m.body.length := by
    simp only [SentMsg.checked, List.length_append, leBytes_length, SentMsg.header_length]
    omega
  have msg : (m.checked c).take (24 + m.body.length) = m.header ++ m.body := by
    unfold SentMsg.checked
    exact List.take_left' (by simp [SentMsg.header_length])
  have rest : (m.checked c).drop (24 + m.body.length) = leBytes (c.width / 8)
      (c.of (foldPrefix m.offset m.seq (calSite m.port) (aliveType m.type) ++ (m.header ++ m.body))) := by
    unfold SentMsg.checked
    exact List.drop_left' (by simp [SentMsg.header_length])
  have body : (m.header ++ m.body).drop 24 = m.body := List.drop_left' m.header_length
  have fits : leAt (m.header ++ m.body) 4 4 = m.body.length := lengthAt.trans (Nat.mod_eq_of_lt (by norm_num; exact length))
  have steps : leAt (m.header ++ m.body) 8 8 = m.step := stepAt.trans (Nat.mod_eq_of_lt (by norm_num; exact step))
  have offs : leAt (m.header ++ m.body) 16 8 = m.offset := offsetAt.trans (Nat.mod_eq_of_lt (by norm_num; exact offset))
  have attempts : leAt (m.header ++ m.body) 1 1 = m.attempt := attemptAt.trans (Nat.mod_eq_of_lt attempt)
  have kind : leAt (m.header ++ m.body) 0 1 = m.type := typeAt.trans (Nat.mod_eq_of_lt t256)
  unfold State.heard
  simp only [keyIn, Option.bind_some, hc, opened, hn, msg, rest, fits, ← seq, check, steps, offs, attempts, kind, known, body]
  simp

end Sys2Proof.Machine
end

section
/-! PROOFS. The comparison of a sealed step: WATERMARK, DIGEST, the timeout and the wait (R52, R319, R375, R376, R384). -/

namespace Sys2Proof.Machine

/-- The module as a sequenced message with the next SEQ is heard (R359). -/
def State.hearsSeq (s : State) (h : CalHdr) (n : Nat) : State :=
  let v := s.calUnits h.port n
  let x := v.site (calSite h.port)
  (v.setSite (calSite h.port) { x with seqRx := (x.seqRx + 1) % 2 ^ 32, fails := 0, lacks := none }).opened h.port

theorem State.hearsSeq_spec (s : State) (h : CalHdr) (n : Nat) :
    let u := s.hearsSeq h n
    u = { s with twin := u.twin, sites := u.sites, pages := u.pages } ∧ PagesKeep s u [] ∧
    PortBecomes s u h.port { s.twin.port h.port with ctrIn := (s.twin.port h.port).ctrIn + 1 } := by
  have counts := Counted.of_calUnits s h.port n
  unfold State.hearsSeq
  generalize s.calUnits h.port n = v at counts
  have twin : v.twin = s.twin := by rw [counts.eq]
  have becomes := fun (w : State) (hw : w.twin = s.twin) =>
    (show PortBecomes s (w.opened h.port) h.port { s.twin.port h.port with ctrIn := (s.twin.port h.port).ctrIn + 1 } from
      ⟨by rw [← hw]; rfl, by rw [← hw]; exact Twin.setPort_port _ _ _,
        fun q hq => by rw [← hw]; exact Twin.setPort_port_ne _ _ _ _ hq⟩)
  refine ⟨?_, fun k hk => counts.pages k hk, becomes _ twin⟩
  rw [counts.eq]
  rfl

theorem State.sequenced_eq {s : State} {h : CalHdr} (n : Nat) (k : State → State) (up : (s.twin.port h.port).up = true)
    (ok : h.ok = true) (typed : h.typed = true) (seq : h.seq = (s.site (calSite h.port)).seqRx) :
    s.sequenced h n k = (k (s.hearsSeq h n)).rekey h.port := by
  have counts := Counted.of_calUnits s h.port n
  have site : (s.calUnits h.port n).site (calSite h.port) = s.site (calSite h.port) := by rw [counts.eq]; rfl
  unfold State.sequenced State.hearsSeq
  simp only [up, ok, typed, site, seq, Bool.not_true, Bool.and_false, bne_self_eq_false, Bool.or_self, Bool.false_eq_true,
    if_false]

/-- The phase-2 routine leaves SRAM and context 0 (R175, R176). -/
theorem State.loadRoutine_tile (s : State) (k : Nat) :
    (s.loadRoutine.tile k).sram = (s.tile k).sram ∧ (s.loadRoutine.tile k).c0 = (s.tile k).c0 := by
  unfold State.loadRoutine
  refine List.foldlRecOn (motive := fun t : State => (t.tile k).sram = (s.tile k).sram ∧ (t.tile k).c0 = (s.tile k).c0)
    _ _ ⟨rfl, rfl⟩ fun t keeps q _ => ?_
  by_cases hk : k = q.1
  · subst hk
    rw [State.setTile_tile]
    exact keeps
  · rw [State.setTile_tile_ne _ _ _ _ hk]
    exact keeps

/-- A sealed step enters phase 2, in a moving copy too: PHASE2 of the couch header holds its number (R316, R319). -/
theorem State.beginPhase2_joining {s : State} {x : SealedStep} {i : Image} (hx : s.train.sealedStep = some x)
    (hi : s.trainImage = some i) :
    let u := s.beginPhase2
    u = { s with
      pages := u.pages, tiles := u.tiles, sec := u.sec, train := s.inPhase2 x, twin := { s.twin with join := u.twin.join }
      vats := { s.vats with mem := s.vats.mem.write (i.couch + 8) (leBytes 8 x.step) } } ∧
    PagesKeep s u [] ∧ ∀ k, (u.tile k).sram = (s.tile k).sram ∧ (u.tile k).c0 = (s.tile k).c0 := by
  intro u
  have hu : u = State.vatStore (State.loadRoutine { s with train := s.inPhase2 x }) (i.couch + 8) (leBytes 8 x.step) := by
    show s.beginPhase2 = _
    simp only [State.beginPhase2, hx, hi]
    rfl
  clear_value u
  have routine : _ = _ := State.loadRoutine_onlyTiles { s with train := s.inPhase2 x }
  have tiles := State.loadRoutine_tile { s with train := s.inPhase2 x }
  generalize State.loadRoutine { s with train := s.inPhase2 x } = v at hu routine tiles
  have counts := Counted.of_countLines (v.vatWrite (i.couch + 8) (leBytes 8 x.step)) 0x41
    (i.couch + 8, (leBytes 8 x.step).length)
  rw [show State.countLines _ _ _ = u from hu.symm] at counts
  have writes : v.vatWrite (i.couch + 8) (leBytes 8 x.step) = { s with
      tiles := v.tiles, train := s.inPhase2 x
      twin := { s.twin with join := (v.vatWrite (i.couch + 8) (leBytes 8 x.step)).twin.join }
      vats := { s.vats with mem := s.vats.mem.write (i.couch + 8) (leBytes 8 x.step) }
      sec := (v.vatWrite (i.couch + 8) (leBytes 8 x.step)).sec } := by
    unfold State.vatWrite
    rw [routine]
  generalize v.vatWrite (i.couch + 8) (leBytes 8 x.step) = w at counts writes
  refine ⟨?_, fun k hk => (counts.pages k hk).trans ?_, fun k => ?_⟩
  · rw [counts.eq, writes]
  · rw [writes]
    rfl
  · have same : u.tile k = v.tile k := by
      rw [counts.eq, writes]
      rfl
    rw [same]
    exact tiles k

/-- Equal watermarks without a probe: the step enters phase 2 by vote (R375, R378). -/
theorem State.compare_equal {s : State} {x : SealedStep} {n : Nat} (hx : s.train.sealedStep = some x)
    (theirs : s.twin.theirs = some (n, x.wmark)) (st : s.twin.st = 1) (step : n = x.step) (wait : s.twin.leaveWait = false)
    (own2 : s.twin.own2 = none) : s.compare none = s.decided.beginPhase2 := by
  have counts := Counted.of_decided s
  have probe : s.decided.twin.own2 = none := by rw [counts.eq]; exact own2
  simp only [State.compare, hx, theirs, st, step, wait, ne_eq, not_true_eq_false, or_self, Bool.false_eq_true, if_false, if_true,
    State.voteThen_none, State.probeOutcome, probe]

/-- The first mismatch of a step: it is counted and the step is redone (R376). -/
theorem State.compare_first {s : State} {x : SealedStep} {n : Nat} {w : List Byte} (hx : s.train.sealedStep = some x)
    (theirs : s.twin.theirs = some (n, w)) (st : s.twin.st = 1) (step : n = x.step) (wait : s.twin.leaveWait = false)
    (differs : w ≠ x.wmark) (first : s.twin.mism = 0) : s.compare none = s.mismatch.redoSealed := by
  simp only [State.compare, hx, theirs, st, step, wait, first, differs, ne_eq, not_true_eq_false, or_self, Bool.false_eq_true,
    if_false, if_true]

/-- What a first mismatch records (R376, R451). -/
theorem State.mismatch_first {s : State} (first : s.twin.mism = 0) :
    let u := s.mismatch
    u = { s with h0 := u.h0, h1 := u.h1, pages := u.pages, twin := { s.twin with
      mism := 1, theirs := none, mismatches := satAdd 32 s.twin.mismatches 1 } } ∧
    EventFrame s u [pgTwin] ∧ ((s.page pgTwin).lost = false → (u.page pgTwin).code = fWATERMARK_MISMATCH) := by
  have only := s.recordFault_only pgTwin fWATERMARK_MISMATCH 0
  have on := s.recordFault_on pgTwin fWATERMARK_MISMATCH 0
  unfold State.mismatch
  simp only [first, Nat.zero_lt_succ, if_true]
  generalize s.recordFault pgTwin fWATERMARK_MISMATCH 0 = v at only on
  generalize hw : ({ v with twin := { v.twin with
    mism := v.twin.mism + 1, theirs := none, mismatches := satAdd 32 v.twin.mismatches 1 } } : State) = w
  have sets := w.setEvt_only pgTwin 4
  have code := w.setEvt_code pgTwin 4 pgTwin
  generalize w.setEvt pgTwin 4 = u at sets code
  have twin : w.twin = { s.twin with mism := 1, theirs := none, mismatches := satAdd 32 s.twin.mismatches 1 } := by
    rw [← hw, only.2, first]
  have page : ∀ k, w.page k = v.page k := fun k => by rw [← hw]; rfl
  refine ⟨?_, (only.1.trans ⟨by rw [← hw]; rfl, by rw [← hw]; rfl, fun k _ => by rw [page]⟩).trans sets.1, fun lost => ?_⟩
  · rw [sets.2, twin, ← hw, only.2]
  · rw [code, page, (on lost).2.1]

/-- A sealed step with redos left is redone as its next attempt (R52). -/
theorem State.redoSealed_eq {s : State} {x : SealedStep} (hx : s.train.sealedStep = some x) (redos : s.train.redos < 3) :
    s.redoSealed = { s with train := { s.train with
      sealedStep := none, overrun := false, throttled := false, redos := s.train.redos + 1
      ph1 := some { step := x.step, attempt := x.attempt + 1 } } } := by
  have more : ¬ 3 ≤ s.train.redos := by omega
  simp only [State.redoSealed, hx, more, if_false]

/-- A comparison that has not seen its second mismatch has no suspect (R376). -/
theorem State.chooseSuspect_eq_self {s : State} (mism : s.twin.mism ≠ 2) : s.chooseSuspect = s := by
  unfold State.chooseSuspect
  split
  · simp only [mism, ne_eq, not_false_eq_true, true_or, if_true]
  · rfl

/-- LEAVE goes out by every port that is up while no counter runs out (R382, R414). -/
theorem State.sendLeave_spec (s : State) (reason : Nat)
    (counters : ∀ q, q < 4 → (s.twin.port q).ctrIn < 2 ^ 32 ∧ (s.twin.port q).ctrOut + 1 < 2 ^ 32) :
    let u := s.sendLeave reason
    u = { s with twin := u.twin, pages := u.pages } ∧ PagesKeep s u [] ∧ u.twin.upPorts = s.twin.upPorts ∧
    ∃ ms : List SentMsg, ms.map (fun m => (m.port, m.type)) = s.twin.upPorts.map (fun q => (q, 3)) ∧
      u.twin = { s.twin with ports := u.twin.ports, sent := s.twin.sent ++ ms } := by
  obtain ⟨eq, pages, sent, ports⟩ := foldl_sendAlive s.twin.upPorts s s.twin.upPorts_nodup 3 (leBytes 2 reason)
  unfold State.sendLeave State.sendAliveAll
  generalize s.twin.upPorts.foldl (fun s p => s.sendAlive p 3 (leBytes 2 reason)) s = v at *
  have runs : ∀ q, q < 4 → v.twin.runOut q = false := fun q hq => by
    obtain ⟨inward, outward⟩ := counters q hq
    unfold Twin.runOut
    rw [ports q]
    simp only [Bool.and_eq_false_iff, Bool.or_eq_false_iff, decide_eq_false_iff_not]
    refine Or.inr ⟨by omega, ?_⟩
    split <;> omega
  have quiet : (List.range 4).foldl (fun s p => if s.twin.runOut p then s.portOff p false else s) v = v := by
    refine List.foldlRecOn (motive := fun t : State => t = v) _ _ rfl fun t ht q hq => ?_
    rw [ht, runs q (List.mem_range.mp hq)]
    rfl
  rw [quiet]
  refine ⟨eq, pages, ?_, sent⟩
  unfold Twin.upPorts
  congr 1
  funext q
  rw [ports q]

/-- The partner's WATERMARK of a lockstep step is kept, and the sealed step is compared with it (R375, R382). -/
theorem exec_watermark_hears {s : State} {h : CalHdr} (w : List Byte) (hp : h.port < 4) (wire : h.wire = none)
    (st : s.twin.st = 1) (up : (s.twin.port h.port).up = true) (ok : h.ok = true) (typed : h.typed = true)
    (seq : h.seq = (s.site (calSite h.port)).seqRx) :
    ∃ y : State, exec (.watermark h w none) s = .next ((y.compare none).rekey h.port) ∧
      y = { s with twin := y.twin, sites := y.sites, pages := y.pages } ∧ PagesKeep s y [] ∧
      y.twin = { s.twin with ports := y.twin.ports, theirs := some (h.step, bytesAt w 0 32) } ∧
      y.twin.port h.port = { s.twin.port h.port with ctrIn := (s.twin.port h.port).ctrIn + 1 } := by
  have port : calOk h.port = true := by simpa [calOk] using hp
  have heard : s.heard h 0x10 = some (h, none) := by simp only [State.heard, wire]
  have goes : exec (.watermark h w none) s = .next (s.sequenced h 32 fun s => if s.twin.st ≠ 1 then s else
      State.compare { s with twin := { s.twin with theirs := some (h.step, bytesAt w 0 32) } } none) := by
    show execWatermark h w s none = _
    simp only [execWatermark, port, heard, Bool.not_true, Bool.false_eq_true, if_false]
    rfl
  rw [State.sequenced_eq 32 _ up ok typed seq] at goes
  obtain ⟨eq, pages, becomes⟩ := s.hearsSeq_spec h 32
  generalize s.hearsSeq h 32 = v at eq pages becomes goes
  have vst : ¬ v.twin.st ≠ 1 := by rw [becomes.twin]; exact not_not_intro st
  rw [if_neg vst] at goes
  refine ⟨_, goes, ?_, fun k hk => pages k hk, ?_, becomes.mine⟩
  · rw [eq]
  · rw [becomes.twin]

end Sys2Proof.Machine

open Sys2Proof Sys2Proof.Machine

/-- Settles O31: a sequenced message is its row's effect after the port has heard it, and the effect of a WATERMARK is the
comparison of the sealed step. -/
theorem comparison : Obligations.Comparison := by
  refine ⟨fun s m key ct tag _ type attempt step offset length keyIn seq sealed_ whole =>
    State.heard_sealed type attempt step offset length keyIn seq sealed_ whole, ?_⟩
  intro s h x i hp wire st hx hi wait clean
  have port : calOk h.port = true := by simpa [calOk] using hp
  have heard : ∀ type, s.heard h type = some (h, none) := fun type => by simp only [State.heard, wire]
  refine ⟨fun up ok typed seq inward outward step => ?_, fun theirs own2 ups counters => ?_, ?_⟩
  · have keeps : ∀ u : State, u.twin.port h.port = { s.twin.port h.port with ctrIn := (s.twin.port h.port).ctrIn + 1 } →
        u.rekey h.port = u := fun u hc => State.rekey_eq_self fun _ => by
      rw [hc]
      exact ⟨inward, outward⟩
    refine ⟨fun w same own2 => ?_, fun w differs first redos => ?_, fun body mism piece => ?_⟩
    · obtain ⟨y, goes, yeq, pages, ytwin, yport⟩ := exec_watermark_hears w hp wire st up ok typed seq
      have equal : y.compare none = y.decided.beginPhase2 := State.compare_equal (by rw [yeq]; exact hx)
        (by rw [ytwin, same]) (by rw [ytwin]; exact st) step (by rw [ytwin]; exact wait) (by rw [ytwin]; exact own2)
      rw [equal] at goes
      have counts := Counted.of_decided y
      generalize y.decided = z at counts goes
      have zeq : z = { s with twin := y.twin, sites := y.sites, pages := z.pages } := by
        rw [counts.eq]
        conv_lhs => rw [yeq]
      obtain ⟨ueq, upages, tiles⟩ := State.beginPhase2_joining (s := z) (x := x) (i := i) (by rw [zeq]; exact hx)
        (by rw [zeq]; exact hi)
      generalize z.beginPhase2 = u at ueq upages tiles goes
      have utwin : u.twin = { y.twin with join := u.twin.join } := by rw [ueq, zeq]
      have uport : u.twin.port h.port = y.twin.port h.port := by rw [utwin]; rfl
      rw [keeps u (uport.trans yport)] at goes
      have mem : u.vats.mem = s.vats.mem.write (i.couch + 8) (leBytes 8 x.step) := by rw [ueq, zeq]
      refine ⟨u, goes, (pages.trans counts.pages).trans upages, ?_, ?_, ?_, fun k => ?_, ?_, fun a ha => ?_⟩
      · rw [ueq, zeq]
        rfl
      · rw [utwin, ytwin]
        exact st
      · rw [utwin, ytwin]
      · have tile : z.tile k = s.tile k := by rw [zeq]; rfl
        rw [← tile]
        exact tiles k
      · have read := s.vats.mem.read_write (i.couch + 8) (leBytes 8 x.step) clean
        rw [leBytes_length] at read
        rw [mem, read]
      · rw [mem]
        exact s.vats.mem.write_outside _ _ a clean (by rw [leBytes_length]; omega)
    · obtain ⟨y, goes, yeq, pages, ytwin, yport⟩ := exec_watermark_hears w hp wire st up ok typed seq
      have yfirst : y.twin.mism = 0 := by rw [ytwin]; exact first
      rw [State.compare_first (s := y) (x := x) (n := h.step) (w := bytesAt w 0 32) (by rw [yeq]; exact hx) (by rw [ytwin])
        (by rw [ytwin]; exact st) step (by rw [ytwin]; exact wait) differs yfirst] at goes
      obtain ⟨zeq, zpages, code⟩ := State.mismatch_first yfirst
      generalize y.mismatch = z at zeq zpages code goes
      have zseq : z = { s with twin := z.twin, sites := z.sites, h0 := z.h0, h1 := z.h1, pages := z.pages } := by
        rw [zeq]
        conv_lhs => rw [yeq]
      have ztwin : z.twin = { y.twin with mism := 1, theirs := none, mismatches := satAdd 32 y.twin.mismatches 1 } := by rw [zeq]
      have zport : z.twin.port h.port = y.twin.port h.port := by rw [ztwin]; rfl
      have train : z.train = s.train := by rw [zseq]
      have redo := State.redoSealed_eq (s := z) (x := x) (by rw [train]; exact hx) (by rw [train]; exact redos)
      rw [train] at redo
      generalize z.redoSealed = u at goes redo
      have utwin : u.twin = z.twin := by rw [redo]
      rw [keeps u (by rw [utwin]; exact zport.trans yport)] at goes
      have sy : EventFrame s y [pgTwin] := ⟨by rw [yeq]; rfl, by rw [yeq]; rfl, pages.mono (by simp)⟩
      have zu : EventFrame z u [pgTwin] := ⟨by rw [redo]; rfl, by rw [redo]; rfl, fun k _ => by rw [redo]; rfl⟩
      have page : u.page pgTwin = z.page pgTwin := by rw [redo]; rfl
      refine ⟨u, goes, (sy.trans zpages).trans zu, ?_, ?_, fun lost => ?_⟩
      · rw [redo]
        conv_lhs => rw [zseq]
      · rw [utwin, ztwin, ytwin]
      · rw [page]
        refine code ?_
        rw [pages pgTwin (by simp)]
        exact lost
    · have goes : exec (.digest h body) s = .next (s.sequenced h body.length fun s =>
          let t := s.twin
          if t.st ≠ 1 then s
          else
            let t := if h.offset < 2 ^ 40 then
                { t with dlog := sputs 0 t.dlog h.offset body, dlogGot := t.dlogGot + body.length }
              else { t with drec := sputs 0 t.drec (h.offset - 2 ^ 40) body, drecGot := t.drecGot + body.length }
            State.chooseSuspect { s with twin := t }) := by
        show execDigest h body s = _
        simp only [execDigest, port, heard, Bool.not_true, Bool.false_eq_true, if_false]
        rfl
      rw [State.sequenced_eq _ _ up ok typed seq] at goes
      obtain ⟨eq, pages, becomes⟩ := s.hearsSeq_spec h body.length
      generalize s.hearsSeq h body.length = v at eq pages becomes goes
      have vst : v.twin.st = 1 := by rw [becomes.twin]; exact st
      rw [if_neg (not_not_intro vst), if_pos piece] at goes
      dsimp only at goes
      generalize hu : ({ v with twin := { v.twin with
        dlog := sputs 0 v.twin.dlog h.offset body, dlogGot := v.twin.dlogGot + body.length } } : State) = u at goes
      have utwin : u.twin = { s.twin with
          ports := u.twin.ports, dlog := sputs 0 s.twin.dlog h.offset body, dlogGot := s.twin.dlogGot + body.length } := by
        rw [← hu, becomes.twin]
      have uport : u.twin.port h.port = v.twin.port h.port := by rw [← hu]; rfl
      rw [State.chooseSuspect_eq_self (by rw [utwin]; exact mism), keeps u (uport.trans becomes.mine)] at goes
      refine ⟨u, goes, fun k hk => ?_, ?_, utwin⟩
      · rw [← hu]
        exact pages k hk
      · rw [← hu, eq]
  · obtain ⟨eq, pages, still, ms, map, sent⟩ := s.sendLeave_spec fPARTNER_LOST counters
    have some_ : s.twin.upPorts.isEmpty = false := by simpa using ups
    have goes : exec .watermarkTimeout s = .next { s.sendLeave fPARTNER_LOST with
        twin := { (s.sendLeave fPARTNER_LOST).twin with leaveWait := true } } := by
      show execWatermarkTimeout s = _
      simp only [execWatermarkTimeout, hx, theirs, own2, st, wait, some_, still, Option.isSome_none, Bool.false_and,
        bne_self_eq_false, Bool.or_self, Bool.false_eq_true, if_false]
    generalize s.sendLeave fPARTNER_LOST = v at *
    refine ⟨_, ms, goes, ?_, fun k hk => pages k hk, ?_, map⟩
    · rw [eq]
    · rw [sent]
  · generalize hv : ({ s with twin := { s.twin with leaveWait := true } } : State) = v
    have goes : exec .leaveWaitEnd v = .next { v.toSimplex none with
        twin := { (v.toSimplex none).twin with ignoreLeave := true } } := by
      show execLeaveWaitEnd v none = _
      have waits : v.twin.leaveWait = true := by rw [← hv]
      simp only [execLeaveWaitEnd, waits, Bool.not_true, Bool.false_eq_true, if_false]
    have simplex := toSimplex_spec (s := v) (by rw [← hv]; show s.twin.st ≠ 2; omega)
    generalize v.toSimplex none = u at simplex goes
    obtain ⟨train, -⟩ := simplex.enters x i (by rw [← hv]; exact hx) (by rw [← hv]; exact hi)
    have sv : EventFrame s v [pgTwin] := ⟨by rw [← hv]; rfl, by rw [← hv]; rfl, fun k _ => by rw [← hv]; rfl⟩
    have uw : ∀ t, EventFrame u { u with twin := t } [pgTwin] := fun t => ⟨rfl, rfl, fun k _ => rfl⟩
    refine ⟨_, goes, ?_, rfl, ?_, (sv.trans simplex.pages).trans (uw _), ?_⟩
    · rw [simplex.twin]
    · rw [simplex.twin]
      rfl
    · rw [← hv] at train
      exact train
end

section
/-! PROOFS. Phase 2 of a memory without errors: what its reads and writes leave alone, and a step that R320 rolls forward
although the chunks of its image leave one out (R303, R315, R320). -/

namespace Sys2Proof.Machine

/-! Reads and writes of a memory without errors -/

/-- Reads of a memory without errors only count their lines (R291). -/
theorem State.vatAccess_clean {s : State} (clean : s.vats.mem.errs = []) (rs : List (Nat × Nat)) (k : State → State) :
    s.vatAccess rs k = k s := by
  have retry : s.vatRetry rs = s := by simp only [State.vatRetry, clean, List.filter_nil, List.foldl_nil]
  have reads : s.vatReads rs = s := by simp only [State.vatReads, clean, if_true]
  simp only [State.vatAccess, retry, reads, EccMem.bad_clean _ _ clean]

theorem State.phase2Read_clean {s : State} (clean : s.vats.mem.errs = []) (rs : List (Nat × Nat)) (k : State → State) :
    s.phase2Read rs k = k (rs.foldl (fun s r => s.countLines 0x40 r) s) := by
  unfold State.phase2Read State.vatLines
  rw [State.vatAccess_clean clean]

theorem Counted.of_reads (s : State) (rs : List (Nat × Nat)) : Counted s (rs.foldl (fun s r => s.countLines 0x40 r) s) :=
  .foldl (fun s r => .of_countLines s 0x40 r) rs s

/-- The training run stays, and the memory has no errors and keeps a byte. -/
structure KeepsByte (b : Nat) (s u : State) : Prop where
  train : u.train = s.train
  clean : u.vats.mem.errs = []
  byte : u.vats.mem.byte b = s.vats.mem.byte b

theorem KeepsByte.trans {b : Nat} {s t u : State} (h : KeepsByte b s t) (g : KeepsByte b t u) : KeepsByte b s u :=
  ⟨g.train.trans h.train, g.clean, g.byte.trans h.byte⟩

/-- A line write outside phase 1 stores its piece (R291, R340). -/
theorem State.portWrite_clean {s : State} (clean : s.vats.mem.errs = []) (line o : Nat) (bs : List Byte) :
    Counted (s.vatWrite (line + o) bs) (s.portWrite line [(o, bs)] false) := by
  have writes : s.portWrite line [(o, bs)] false = s.lineWrite line [(o, bs)] false :=
    State.vatAccess_clean clean (partWords line [(o, bs)]) fun s => s.lineWrite line [(o, bs)] false
  rw [writes]
  unfold State.lineWrite
  simp only [Bool.false_and, Bool.false_eq_true, if_false, List.foldl_cons, List.foldl_nil]
  split <;> exact .of_bump _ _ _ _

theorem State.portWrite_keepsByte {s : State} {b : Nat} (clean : s.vats.mem.errs = []) (line o : Nat) (bs : List Byte)
    (outside : b < line + o ∨ line + o + bs.length ≤ b) : KeepsByte b s (s.portWrite line [(o, bs)] false) := by
  have counts := s.portWrite_clean clean line o bs
  have mem : (s.portWrite line [(o, bs)] false).vats.mem = s.vats.mem.write (line + o) bs := by rw [counts.eq]; rfl
  refine ⟨by rw [counts.eq]; rfl, ?_, ?_⟩
  · rw [mem, EccMem.write_errs _ _ _ clean]
  · rw [mem, EccMem.write_outside _ _ _ _ clean outside]

/-- The line writes of some bytes lie among them. -/
theorem lineParts_within {a : Nat} {bs : List Byte} {l : Nat × Nat × List Byte} (hl : l ∈ lineParts a bs) :
    a ≤ l.1 + l.2.1 ∧ l.1 + l.2.1 + l.2.2.length ≤ a + bs.length := by
  unfold lineParts at hl
  split at hl
  · cases hl
  · obtain ⟨i, hi, rfl⟩ := List.mem_map.mp hl
    have := List.mem_range.mp hi
    simp only [List.length_take, List.length_drop]
    omega

/-- Phase 2's write of some bytes keeps every byte outside them. -/
theorem State.phase2Write_keepsByte {s : State} {b : Nat} (clean : s.vats.mem.errs = []) (a : Nat) (bs : List Byte)
    (outside : b < a ∨ a + bs.length ≤ b) : KeepsByte b s (s.phase2Write a bs) := by
  have writes : KeepsByte b s (s.portWrites a bs false) := by
    refine List.foldlRecOn (motive := KeepsByte b s) _ _ ⟨rfl, clean, rfl⟩ fun t keeps l hl => ?_
    obtain ⟨line, o, piece⟩ := l
    have within := lineParts_within hl
    dsimp only at within
    exact keeps.trans (State.portWrite_keepsByte keeps.clean line o piece (by omega))
  unfold State.phase2Write
  simp only [EccMem.bad_clean _ _ clean, Option.isSome_none, Bool.false_eq_true, if_false]
  exact ⟨writes.train, writes.clean, writes.byte⟩

/-- Phase 2's write of bytes within one line. -/
theorem State.phase2Write_line {s : State} (clean : s.vats.mem.errs = []) {a line o : Nat} {bs : List Byte}
    (one : lineParts a bs = [(line, o, bs)]) :
    (s.phase2Write a bs).train = s.train ∧ (s.phase2Write a bs).vats.mem = s.vats.mem.write (line + o) bs := by
  have counts := s.portWrite_clean clean line o bs
  have writes : s.portWrites a bs false = s.portWrite line [(o, bs)] false := by
    simp only [State.portWrites, one, List.foldl_cons, List.foldl_nil]
  unfold State.phase2Write
  simp only [EccMem.bad_clean _ _ clean, Option.isSome_none, Bool.false_eq_true, if_false, writes]
  rw [counts.eq]
  exact ⟨rfl, rfl⟩

theorem EccMem.read_length (m : EccMem) (a n : Nat) : (m.read a n).length = n := by
  induction n generalizing a with
  | zero => rfl
  | succ n ih => simp [EccMem.read, ih]

/-- Pieces copied from a slot keep a byte that none of them holds. -/
theorem State.copyPieces_keepsByte {b : Nat} (home : Nat) (ps : List (Nat × Nat × Nat)) {s : State}
    (clean : s.vats.mem.errs = []) (outside : ∀ p ∈ ps, b < p.1 ∨ p.1 + p.2.2 ≤ b) :
    KeepsByte b s (ps.foldl (fun s p => s.phase2Write p.1 (s.vats.mem.read (home + p.2.1) p.2.2)) s) := by
  refine List.foldlRecOn (motive := KeepsByte b s) _ _ ⟨rfl, clean, rfl⟩ fun t keeps p hp => ?_
  refine keeps.trans (State.phase2Write_keepsByte keeps.clean _ _ ?_)
  rw [EccMem.read_length]
  exact outside p hp

/-! The roll-forward -/

/-- A chunk's state goes home from its slot, and the chunk is complete (R320). -/
def State.replayChunk (s : State) (i : Image) (l : LayerImage) (c n g slot : Nat) : State :=
  ((chunkPieces i l c).foldl (fun s p => s.phase2Write p.1 (s.vats.mem.read (i.couchSlot slot + p.2.1) p.2.2)) s).chunkComplete
    i n g slot

/-- A slot that is WRITTEN for a chunk that is not done is replayed (R320). -/
theorem State.replaySlot_written {s : State} {i : Image} {l : LayerImage} {n g k c slot : Nat} (clean : s.vats.mem.errs = [])
    (step : leAt (s.vats.mem.read (i.journal slot) 13) 0 8 = n) (chunk : leAt (s.vats.mem.read (i.journal slot) 13) 8 4 = g)
    (written : leAt (s.vats.mem.read (i.journal slot) 13) 12 1 = 1) (undone : s.chunkDone i n g = false)
    (layer : i.layerOf g = some (k, l, c)) :
    ∃ t, s.replaySlot i n slot = t.replayChunk i l c n g slot ∧ Counted s t := by
  refine ⟨_, ?_, .of_reads s ((chunkPieces i l c).map fun p => (i.couchSlot slot + p.2.1, p.2.2))⟩
  unfold State.replaySlot
  simp only [step, chunk, written, undone, layer, ne_eq, not_true_eq_false, false_and, Bool.false_eq_true, or_self, if_false,
    State.phase2Read_clean clean]
  rfl

/-- The step that PHASE2 names is rolled forward from the journal (R320). -/
def State.rollFromJournal (s : State) (i : Image) (x : SealedStep) (n : Nat) : State :=
  let s := (s.journalSlots i).foldl (fun s k => s.replaySlot i n k) s
  let s := (List.range i.chunkCount).foldl (fun s g =>
    if s.chunkDone i n g || s.train.ph2.isNone then s else s.doChunk i x g) s
  if s.train.ph2.isNone || (s.nextChunk i n).isSome then s else s.voteThen none fun s => s.commitStep i x

/-- A step in phase 2 whose layer states are not staged is rolled forward from the journal (R320). -/
theorem State.rollForward_unstaged {s : State} {i : Image} {x : SealedStep} {n : Nat} (image : s.trainImage = some i)
    (clean : s.vats.mem.errs = []) (phase2 : leAt (s.vats.mem.read i.couch 24) 8 8 = n) (some_ : n ≠ noStep)
    (committed : leAt (s.vats.mem.read i.couch 24) 0 8 ≠ n) (staged : leAt (s.vats.mem.read i.couch 24) 16 8 ≠ n)
    (ph2 : s.train.ph2 = some x) : ∃ t, s.rollForward none = t.rollFromJournal i x n ∧ Counted s t := by
  have reads := Counted.of_reads s i.couchRanges
  refine ⟨_, ?_, reads⟩
  unfold State.rollForward
  rw [image]
  dsimp only
  rw [State.phase2Read_clean clean]
  generalize i.couchRanges.foldl (fun s r => s.countLines 0x40 r) s = t at reads
  have vats : t.vats = s.vats := by rw [reads.eq]
  have ph2' : t.train.ph2 = some x := by rw [reads.eq]; exact ph2
  simp only [vats, phase2, some_, committed.symm, staged, ph2', if_false]
  rfl

/-! The step -/

/-- A layer of one parameter that calls its chunk number 1, and whose master lies at the done byte of chunk 0. -/
def gapLayer : LayerImage :=
  { map := leBytes 8 1 ++ leBytes 8 0x980000 ++ List.replicate 40 0 ++ leBytes 4 1 ++ leBytes 2 1
    lrm := 0, wd := 0, b1 := 0, omb1 := 0, b2 := 0, omb2 := 0, eps := 0, k := 0, grow := 0, census := 0 }

/-- An image with that layer alone, so that no layer has its chunk 0. -/
def gapImage : Image :=
  { raw := [], w := 1, h := 1, ticks := 1, period := 1, classPlan := [], couch := 0x100000, layers := [gapLayer] }

def gapStep : SealedStep := { step := 1, attempt := 0, dlog := [], record := [], wmark := [], layers := [] }

/-- Step 1 of that image in phase 2: PHASE2 of the couch header names it, chunk 0 is done, and slot 81 of the journal is
WRITTEN for chunk 1. -/
def gapState : State :=
  { bind := { progs := [(0, some { image := gapImage, measurement := [] })] }
    train := { ph2 := some gapStep }
    vats := { mem := { cells := [(0x100008, 1), (0x181440, 1), (0x181448, 1), (0x18144C, 1), (0x980000, 1)] } } }

/-- What the roll-forward finds of that step. -/
theorem gapState_facts :
    gapState.trainImage = some gapImage ∧ leAt (gapState.vats.mem.read gapImage.couch 24) 8 8 = 1 ∧
    leAt (gapState.vats.mem.read gapImage.couch 24) 0 8 = 0 ∧ leAt (gapState.vats.mem.read gapImage.couch 24) 16 8 = 0 ∧
    gapState.nextChunk gapImage 1 = none ∧ gapState.journalSlots gapImage = [81] ∧ gapImage.chunkCount = 1 := by decide +kernel

theorem gapState_entry :
    leAt (gapState.vats.mem.read (gapImage.journal 81) 13) 0 8 = 1 ∧
    leAt (gapState.vats.mem.read (gapImage.journal 81) 13) 8 4 = 1 ∧
    leAt (gapState.vats.mem.read (gapImage.journal 81) 13) 12 1 = 1 ∧
    gapState.chunkDone gapImage 1 1 = false ∧ gapImage.layerOf 1 = some (0, gapLayer, 0) ∧ gapImage.layerOf 0 = none := by
  decide +kernel

theorem gapState_pieces :
    chunkPieces gapImage gapLayer 0 = (0x980000, 0, 4) :: (chunkPieces gapImage gapLayer 0).tail ∧
    (∀ p ∈ (chunkPieces gapImage gapLayer 0).tail, p.1 + p.2.2 ≤ 0x980000) ∧
    gapState.vats.mem.read (gapImage.couchSlot 81 + 0) 4 = [0, 0, 0, 0] ∧
    lineParts 0x980000 [0, 0, 0, 0] = [(0x980000, 0, [0, 0, 0, 0])] := by decide +kernel

/-- A chunk that no layer has is not processed (R303, R317). -/
theorem State.doChunk_eq_self {s : State} {i : Image} {x : SealedStep} {g : Nat} (h : i.layerOf g = none) :
    s.doChunk i x g = s := by simp only [State.doChunk, h]

/-- A completed chunk keeps a byte outside its journal entry that is not its done byte. -/
theorem State.chunkComplete_keepsByte {s : State} {b : Nat} (clean : s.vats.mem.errs = []) (i : Image) (n g slot : Nat)
    (entry : b < i.journal slot + 8 ∨ i.journal slot + 16 ≤ b) (done : b ≠ i.couch + 0x880000 + g) :
    KeepsByte b s (s.chunkComplete i n g slot) := by
  have word : (journalWord g 2).length = 8 := by simp [journalWord, leBytes_length]
  have complete := State.phase2Write_keepsByte (b := b) clean (i.journal slot + 8) (journalWord g 2) (by omega)
  have last := State.phase2Write_keepsByte (b := b) complete.clean (i.couch + 0x880000 + g) (leBytes 1 (n % 256))
    (by rw [leBytes_length]; omega)
  exact complete.trans last

/-- The replay of slot 81 writes zero over the done byte of chunk 0 (R320). -/
theorem gapState_replayed {s : State} (counts : Counted gapState s) :
    let u := s.replaySlot gapImage 1 81
    u.train = gapState.train ∧ u.vats.mem.errs = [] ∧ u.vats.mem.byte 0x980000 = 0 := by
  have vats : s.vats = gapState.vats := by rw [counts.eq]
  obtain ⟨step, chunk, written, undone, layer, -⟩ := gapState_entry
  obtain ⟨pieces, rest, zeros, line⟩ := gapState_pieces
  have undone' : s.chunkDone gapImage 1 1 = false := by
    unfold State.chunkDone
    rw [vats]
    exact undone
  obtain ⟨t, replays, reads⟩ := State.replaySlot_written (s := s) (by rw [vats]; rfl) (by rw [vats]; exact step)
    (by rw [vats]; exact chunk) (by rw [vats]; exact written) undone' layer
  rw [replays]
  unfold State.replayChunk
  have vats' : t.vats = gapState.vats := by rw [reads.eq, vats]
  have train : t.train = gapState.train := by rw [reads.eq, counts.eq]
  have clean : t.vats.mem.errs = [] := by rw [vats']; rfl
  obtain ⟨firstTrain, firstMem⟩ := State.phase2Write_line clean line
  rw [pieces, List.foldl_cons]
  dsimp only
  rw [vats', zeros]
  generalize t.phase2Write 0x980000 [0, 0, 0, 0] = v at firstTrain firstMem
  have vclean : v.vats.mem.errs = [] := by rw [firstMem, EccMem.write_errs _ _ _ clean]
  have zero : v.vats.mem.byte 0x980000 = 0 := by
    have back := t.vats.mem.read_write (0x980000 + 0) [0, 0, 0, 0] clean
    rw [← firstMem] at back
    exact (List.cons.inj back).1
  have copied := State.copyPieces_keepsByte (b := 0x980000) (gapImage.couchSlot 81) (chunkPieces gapImage gapLayer 0).tail vclean
    fun p hp => Or.inr (rest p hp)
  have completed := State.chunkComplete_keepsByte (b := 0x980000) copied.clean gapImage 1 1 81 (by decide) (by decide)
  have all := copied.trans completed
  exact ⟨(all.train.trans firstTrain).trans train, all.clean, all.byte.trans zero⟩

/-- Its roll-forward ends without the commit: chunk 0 is not done any more, and no layer has it to do (R320). -/
theorem gapState_rollForward : (gapState.rollForward none).train = gapState.train := by
  obtain ⟨image, phase2, committed, staged, -, slots, count⟩ := gapState_facts
  obtain ⟨-, -, -, -, -, gap⟩ := gapState_entry
  obtain ⟨t, rolls, reads⟩ := State.rollForward_unstaged (x := gapStep) image rfl phase2 (by decide) (by rw [committed]; decide)
    (by rw [staged]; decide) rfl
  have slots' : t.journalSlots gapImage = [81] := by
    unfold State.journalSlots
    rw [show t.vats = gapState.vats by rw [reads.eq]]
    exact slots
  obtain ⟨train, clean, zero⟩ := gapState_replayed reads
  rw [rolls]
  unfold State.rollFromJournal
  rw [slots', count, List.foldl_cons, List.foldl_nil]
  generalize t.replaySlot gapImage 1 81 = u at train clean zero
  have undone : u.chunkDone gapImage 1 0 = false := by
    unfold State.chunkDone
    rw [show gapImage.couch + 0x880000 + 0 = 0x980000 from rfl, zero]
    rfl
  have next : (u.nextChunk gapImage 1).isSome = true := by
    unfold State.nextChunk
    simp [count, List.range_one, undone]
  simp only [List.range_one, List.foldl_cons, List.foldl_nil, State.doChunk_eq_self gap, ite_self, next, Bool.or_true, if_true]
  exact train

end Sys2Proof.Machine

open Sys2Proof Sys2Proof.Machine

/-- Refutes O52: the image may call its only chunk number 1, which LOAD_PROGRAM refuses (R303) and the statement allows. Then
every chunk is done, the replay of the journal writes over the done byte of chunk 0, which no layer has, and the roll-forward
ends without the commit. -/
theorem not_sealAndCommit : ¬ Obligations.SealAndCommit := by
  intro h
  obtain ⟨image, phase2, committed, staged, done, -, -⟩ := gapState_facts
  obtain ⟨-, -, rolls⟩ := h gapState gapImage image rfl
  obtain ⟨-, -, unstaged⟩ := rolls 1 phase2
  obtain ⟨u, goes, commits⟩ :=
    (unstaged gapStep (by decide) (by rw [committed]; decide) rfl rfl).2 (by rw [staged]; decide) rfl done
  obtain ⟨-, number, -⟩ := commits
  have same : gapState.rollForward none = u := Host.Outcome.next.inj goes
  rw [← same, gapState_rollForward] at number
  exact absurd number (by decide)
end

section
/-! PROOFS. What retirements, the loss of the partner and the restricted state leave of the start-up: the power sequencing, and
what the identity page shows (R24 to R30, R272, R474). -/

namespace Sys2Proof.Machine

/-- The power sequencing stays, and the identity page but for its counters. -/
structure Calm (s u : State) : Prop where
  power : u.power = s.power
  page : u.page pgIdent = { s.page pgIdent with ctrs := (u.page pgIdent).ctrs }

theorem Calm.refl (s : State) : Calm s s := ⟨rfl, rfl⟩

theorem Calm.trans {s t u : State} (h : Calm s t) (g : Calm t u) : Calm s u :=
  ⟨g.power.trans h.power, by rw [g.page, h.page]⟩

theorem Calm.foldl {α : Type} {f : State → α → State} (hf : ∀ s a, Calm s (f s a)) (l : List α) (s : State) :
    Calm s (l.foldl f s) := by
  induction l generalizing s with
  | nil => exact .refl s
  | cons a l ih => exact (hf s a).trans (ih _)

theorem Calm.of_aside {s u : State} (h : Aside s u) : Calm s u := ⟨h.power, by rw [h.page]⟩

theorem Calm.of_counted {s u : State} (h : Counted s u) : Calm s u := ⟨by rw [h.eq], h.pages pgIdent (by simp)⟩

theorem Calm.of_same {s u : State} (power : u.power = s.power) (pages : u.pages = s.pages) : Calm s u :=
  ⟨power, by unfold State.page; rw [pages]⟩

theorem Calm.of_logRepair (s : State) (code source kind unit : Nat) : Calm s (s.logRepair code source kind unit) := ⟨rfl, rfl⟩

theorem pgCluster_ne_pgIdent (c : Nat) : pgCluster c ≠ pgIdent := by unfold pgCluster pgIdent; omega

theorem pgField_ne_pgIdent (f : Nat) : pgField f ≠ pgIdent := by unfold pgField pgIdent; omega

theorem pgVat_ne_pgIdent (v : Nat) : pgVat v ≠ pgIdent := by unfold pgVat pgIdent; omega

theorem pgCc_ne_pgIdent (r : Nat) : pgCc r ≠ pgIdent := by unfold pgCc pgIdent; omega

theorem Calm.of_recordFault (s : State) {k : Nat} (code info : Nat) (hk : k ≠ pgIdent) : Calm s (s.recordFault k code info) :=
  .of_aside (.of_recordFault s code info hk)

theorem Calm.of_losePage (s : State) {k : Nat} (hk : k ≠ pgIdent) : Calm s (s.losePage k) := .of_aside (.of_losePage s hk)

theorem Calm.of_loseClusterPage (s : State) (c : Nat) : Calm s (s.loseClusterPage c) :=
  Calm.trans (t := { s with clusters := sput {} s.clusters c { s.cluster c with
    last := some ((s.cluster c).last.getD (s.clusterNow c)) } }) (.of_same rfl rfl) (.of_losePage _ (pgCluster_ne_pgIdent c))

theorem Calm.of_endCommand (s : State) (status : Nat) : Calm s (s.endCommand status) := by
  rw [State.endCommand_eq_endWith]
  refine ⟨by rw [State.endWith_eq], ?_⟩
  cases hr : s.run with
  | none => simp only [State.endWith, hr]
  | some r =>
    obtain ⟨⟨⟨-, -, pages⟩, -⟩, -⟩ := endWith_ended r hr status ((some r).elim 0 s.ret0) 0
    rw [State.modCmd_eq] at pages
    exact pages pgIdent (by cases r.port <;> decide)

/-! The restricted state and the loss of the partner -/

theorem Calm.of_restrict (s : State) (cause : Nat) : Calm s (s.restrict cause) := by
  cases h : s.cc.restricted with
  | some c =>
    have stays : s.restrict cause = s := by simp only [State.restrict, h, Option.isSome_some, if_true]
    rw [stays]
    exact .refl s
  | none =>
    obtain ⟨t, ends, -, aside⟩ := State.restrict_ends cause h
    rw [ends]
    exact (Calm.of_aside aside).trans (Calm.trans (t := t) (.of_same rfl rfl) (.of_endCommand t cause))

theorem Calm.of_loseReplica (s : State) (r : Replica) : Calm s (s.loseReplica r) := by
  unfold State.loseReplica
  split
  · exact .refl s
  · dsimp only
    have records := (Calm.of_recordFault s fCONTROL_REPLICA_LOST r.num (pgCc_ne_pgIdent r.num)).trans
      (.of_logRepair _ fCONTROL_REPLICA_LOST 2 0x14 r.num)
    generalize (s.recordFault (pgCc r.num) fCONTROL_REPLICA_LOST r.num).logRepair fCONTROL_REPLICA_LOST 2 0x14 r.num = t at *
    have loses : ∀ c : Control, Calm s (State.losePage { t with cc := c } (pgCc r.num)) := fun c =>
      records.trans (Calm.trans (t := { t with cc := c }) (.of_same rfl rfl) (.of_losePage _ (pgCc_ne_pgIdent _)))
    split
    · exact (loses _).trans (.of_restrict _ _)
    · exact loses _

theorem Calm.of_setTwin (s : State) (st : Nat) : Calm s (s.setTwin st) := .of_aside (.of_setTwin s st)

theorem Calm.of_toSimplex (s : State) : Calm s (s.toSimplex none) := by
  have loses := (Calm.of_recordFault s (k := pgTwin) fPARTNER_LOST 0 (by decide)).trans (.of_setTwin _ 2)
  have goes : s.toSimplex none = State.enterPhase2 { (s.recordFault pgTwin fPARTNER_LOST 0).setTwin 2 with
    twin := { ((s.recordFault pgTwin fPARTNER_LOST 0).setTwin 2).twin.clear with join := none } } none := rfl
  rw [goes]
  generalize (s.recordFault pgTwin fPARTNER_LOST 0).setTwin 2 = t at loses
  obtain ⟨eq, pages⟩ := State.enterPhase2_keeps (s := { t with twin := { t.twin.clear with join := none } }) rfl
  generalize State.enterPhase2 { t with twin := { t.twin.clear with join := none } } none = u at eq pages
  exact loses.trans ⟨by rw [eq], pages pgIdent (by simp)⟩

theorem Calm.of_endJoin (s : State) (code : Nat) : Calm s (s.endJoin code) := by
  unfold State.endJoin
  split
  · split
    · exact .of_endCommand s code
    · exact .refl s
  · exact .refl s

theorem Calm.of_joinFails (s : State) (code info : Nat) : Calm s (s.joinFails code info) := by
  have records : Calm s (if code = 1 then s else s.recordFault pgTwin code info) := by
    split
    · exact .refl s
    · exact .of_recordFault s code info (by decide)
  unfold State.joinFails
  dsimp only
  generalize (if code = 1 then s else s.recordFault pgTwin code info) = t at records
  have ends : ∀ v : State, Calm t v → Calm s (v.endJoin code) := fun v h => (records.trans h).trans (.of_endJoin v code)
  have leaves : Calm t { t with twin := { t.twin with join := none } } := .of_same rfl rfl
  refine ends _ ?_
  split
  · exact leaves.trans (.of_setTwin _ 0)
  · split
    · exact leaves.trans (.of_setTwin _ 2)
    · exact leaves

theorem Calm.of_partnerLost (s : State) : Calm s s.partnerLost := by
  unfold State.partnerLost
  split
  · exact .of_toSimplex s
  · split
    · exact (Calm.of_toSimplex s).trans (.of_endJoin _ _)
    · split
      · exact .of_joinFails s _ _
      · exact .refl s

theorem Calm.of_calDown (s : State) (p : Nat) (retire : Bool) : Calm s (s.calDown p retire) := by
  have off := Calm.of_aside (.of_portOff s p retire)
  unfold State.calDown
  dsimp only
  split
  · exact off.trans (.of_partnerLost _)
  · exact off

/-! Retirements -/

theorem Calm.of_retireVatPort (s : State) (v : Nat) : Calm s (s.retireVatPort v) := by
  unfold State.retireVatPort
  split
  · exact .refl s
  · dsimp only
    have records := ((Calm.of_recordFault s fVAT_PORT_RETIRED (vatSite v) (pgVat_ne_pgIdent v)).trans
      (.of_logRepair _ fVAT_PORT_RETIRED 2 0x11 (vatSite v))).trans (.of_losePage _ (pgSite_ne_pgIdent (vatSite v)))
    generalize ((s.recordFault (pgVat v) fVAT_PORT_RETIRED (vatSite v)).logRepair fVAT_PORT_RETIRED 2 0x11
      (vatSite v)).losePage (pgSite (vatSite v)) = t at records
    have marks : ∀ (b : Binding) (x : Vats), Calm s { t with bind := b, vats := x } := fun b x =>
      records.trans (.of_same rfl rfl)
    split
    · exact (marks _ _).trans (.of_restrict _ _)
    · exact marks _ _

theorem Calm.of_setPort (s : State) (p : HPort) (h : HostPort) : Calm s (s.setPort p h) := by
  cases p <;> exact ⟨rfl, rfl⟩

theorem Calm.of_dropLease (s : State) (p : HPort) : Calm s (s.dropLease p) := by
  unfold State.dropLease
  split
  · exact Calm.trans (t := { s with lease := { s.lease with owner := 0, remain := 0 } }) (.of_same rfl rfl)
      (.of_aside (.of_setEvt _ _ (by decide)))
  · exact .refl s

theorem Calm.of_loseSite (s : State) (f : Nat) (link : Bool) : Calm s (s.loseSite f link) := by
  unfold State.loseSite
  split
  · exact .refl s
  · dsimp only
    generalize hm : ({ s with bind := { s.bind with
      found := { s.bind.found with sites := f :: s.bind.found.sites } } } : State) = m
    have marks : Calm s m := by rw [← hm]; exact .of_same rfl rfl
    have logs : Calm m (if link then (m.recordFault (pgSite f) fLINK_RETIRED f).logRepair fLINK_RETIRED 2 0x11 f else m) := by
      split
      · exact (Calm.of_recordFault m _ _ (pgSite_ne_pgIdent f)).trans (.of_logRepair _ _ _ _ _)
      · exact .refl m
    generalize (if link then (m.recordFault (pgSite f) fLINK_RETIRED f).logRepair fLINK_RETIRED 2 0x11 f else m) = t at logs
    have hosts : ∀ (u : State) (p : HPort), Calm u (if hostSite p = f then
        (u.setPort p { u.port p with link := 3, rate := 0, width := 0 }).dropLease p else u) := fun u p => by
      split
      · exact (Calm.of_setPort u p _).trans (.of_dropLease _ p)
      · exact .refl u
    have cals : ∀ (u : State) (p : Nat), Calm u (if calSite p = f then u.calDown p true else u) := fun u p => by
      split
      · exact .of_calDown u p true
      · exact .refl u
    have down := ((marks.trans logs).trans (.foldl hosts [HPort.h0, HPort.h1] t)).trans (.foldl cals (List.range 4) _)
    generalize List.foldl _ (List.foldl _ t [HPort.h0, HPort.h1]) (List.range 4) = u at down
    cases siteVat f with
    | none => exact down.trans (.of_losePage _ (pgSite_ne_pgIdent f))
    | some v => exact (down.trans (.of_retireVatPort u v)).trans (.of_losePage _ (pgSite_ne_pgIdent f))

theorem Calm.of_siteEffects (s : State) (f : Nat) : Calm s (s.siteEffects f) := by
  unfold State.siteEffects
  split
  · exact .refl s
  · refine (Calm.of_loseSite s f _).trans (.foldl (fun s r => ?_) _ _)
    split
    · exact .of_loseReplica s r
    · exact .refl s

theorem Calm.of_segmentEffects (s : State) (fc y : Nat) : Calm s (s.segmentEffects fc y) := by
  unfold State.segmentEffects
  split
  · exact (Calm.of_recordFault s _ _ (pgField_ne_pgIdent _)).trans (.of_logRepair _ _ _ _ _)
  · exact .refl s

theorem Calm.of_loseCluster (s : State) (c : Nat) : Calm s (s.loseCluster c) := by
  unfold State.loseCluster
  split
  · exact .refl s
  · dsimp only
    have records := ((Calm.of_recordFault s fCLUSTER_RETIRED c (pgCluster_ne_pgIdent c)).trans
      (.of_logRepair _ fCLUSTER_RETIRED 2 0x12 (c * 32 + 31))).trans (.of_loseClusterPage _ c)
    generalize ((s.recordFault (pgCluster c) fCLUSTER_RETIRED c).logRepair fCLUSTER_RETIRED 2 0x12 (c * 32 + 31)).loseClusterPage c
      = t at records
    have marks : ∀ b : Binding, Calm s { t with bind := b } := fun b => records.trans (.of_same rfl rfl)
    exact ((marks _).trans (.of_segmentEffects _ _ _)).trans (.of_siteEffects _ _)

theorem Calm.of_isolate (n : Nat) (l : List Nat) (s : State) : Calm s (s.isolate n l) := by
  induction n generalizing l s with
  | zero =>
    unfold State.isolate
    exact .refl s
  | succ n ih =>
    cases l with
    | nil =>
      unfold State.isolate
      exact .refl s
    | cons c l =>
      unfold State.isolate
      split
      · exact (Calm.of_loseCluster s c).trans (ih _ _)
      · exact ih l s

theorem Calm.of_retireCluster (s : State) (c : Nat) : Calm s (s.retireCluster c) := by
  unfold State.retireCluster
  split
  · exact .refl s
  · exact (Calm.of_loseCluster s c).trans (.of_isolate _ _ _)

theorem Calm.of_retireSlot (s : State) (p : Nat) : Calm s (s.retireSlot p) := by
  unfold State.retireSlot
  split
  · exact .refl s
  · dsimp only
    have records := (Calm.of_recordFault s fTILE_RETIRED (p % 17) (pgCluster_ne_pgIdent (p / 17))).trans
      (.of_logRepair _ fTILE_RETIRED 2 0x12 (p / 17 * 32 + p % 17))
    generalize (s.recordFault (pgCluster (p / 17)) fTILE_RETIRED (p % 17)).logRepair fTILE_RETIRED 2 0x12
      (p / 17 * 32 + p % 17) = t at records
    have marks : ∀ b : Binding, Calm s { t with bind := b } := fun b => records.trans (.of_same rfl rfl)
    split
    · exact (marks _).trans (.of_retireCluster _ _)
    · exact marks _

theorem Calm.of_linkFault (s : State) (l code : Nat) : Calm s (s.linkFault l code) := by
  unfold State.linkFault
  dsimp only
  split
  · exact .of_recordFault s _ _ (pgCluster_ne_pgIdent _)
  · exact (Calm.of_recordFault s _ _ (pgCluster_ne_pgIdent _)).trans (.of_recordFault _ _ _ (pgCluster_ne_pgIdent _))

theorem Calm.of_retireLink (s : State) (l : Nat) : Calm s (s.retireLink l) := by
  unfold State.retireLink
  split
  · exact .refl s
  · dsimp only
    have records := (Calm.of_linkFault s l fLINK_RETIRED).trans
      (.of_logRepair _ fLINK_RETIRED 2 0x12 ((linkEnds l).1.1 * 32 + 17 + (linkEnds l).1.2))
    generalize (s.linkFault l fLINK_RETIRED).logRepair fLINK_RETIRED 2 0x12 ((linkEnds l).1.1 * 32 + 17 + (linkEnds l).1.2)
      = t at records
    have marks : ∀ b : Binding, Calm s { t with bind := b } := fun b => records.trans (.of_same rfl rfl)
    split
    · exact (marks _).trans (.of_siteEffects _ _)
    · exact (marks _).trans (.of_isolate _ _ _)

end Sys2Proof.Machine
end

section
/-! PROOFS. The start-up: what supplies valid keeps, the waves, and the steps to Ready (R410, R458, R473 to R476). -/

namespace Sys2Proof.Machine

/-! What lasts -/

theorem Control.setRep_rep (c : Control) (r q : Replica) (v : Nat) :
    (c.setRep r v).rep q = if q = r then v else c.rep q := by
  cases r <;> cases q <;> rfl

/-- The retired replicas are marked one by one (R24). -/
theorem Control.foldl_retired {c : Control} {q : Replica} (h : c.rep q = 2) (rs : List Replica) (d : Control)
    (marked : d.rep q = 2 ∨ q ∈ rs) : (rs.foldl (fun d r => if c.rep r = 2 then d.setRep r 2 else d) d).rep q = 2 := by
  induction rs generalizing d with
  | nil => exact marked.resolve_right (by simp)
  | cons r rs ih =>
    refine ih _ ?_
    by_cases hq : q = r
    · subst hq
      simp [h, Control.setRep_rep]
    · refine marked.imp (fun hd => ?_) fun hm => (List.mem_cons.mp hm).resolve_left hq
      dsimp only
      split
      · rw [Control.setRep_rep, if_neg hq, hd]
      · exact hd

/-- A retired replica stays retired over a start-up (R24). -/
theorem Control.restart_rep {c : Control} {q : Replica} (h : c.rep q = 2) : c.restart.rep q = 2 := by
  have retired := Control.foldl_retired h [Replica.cca, Replica.ccb, Replica.ccc] {} (Or.inr (by cases q <;> decide))
  unfold Control.restart
  dsimp only
  generalize List.foldl _ ({} : Control) [Replica.cca, Replica.ccb, Replica.ccc] = d at retired
  split
  · refine List.foldlRecOn (motive := fun e : Control => e.rep q = 2) _ _ retired fun e he v hv => ?_
    have votes : d.rep v ≠ 2 := by simpa [Control.voting] using (List.mem_filter.mp hv).2
    have other : q ≠ v := fun e => votes (e ▸ retired)
    rw [Control.setRep_rep, if_neg other, he]
  · exact retired

/-- A start-up joins the fuse map to what was retired, and loses none of it (R30, R475). -/
theorem Retire.mem_join (r x : Retire) :
    (∀ c ∈ r.clusters, c ∈ (r.join x).clusters) ∧ (∀ k ∈ r.slots, k ∈ (r.join x).slots) ∧
    (∀ l ∈ r.links, l ∈ (r.join x).links) ∧ (∀ v ∈ r.vatPorts, v ∈ (r.join x).vatPorts) ∧
    (∀ f ∈ r.sites, f ∈ (r.join x).sites) :=
  ⟨fun _ => List.mem_append_left _, fun _ => List.mem_append_left _, fun _ => List.mem_append_left _,
    fun _ => List.mem_append_left _, fun _ => List.mem_append_left _⟩

/-! The waves -/

/-- A wave closes the fuse of one of its fields (R460, R473). -/
def State.closeField (tripped : List Nat) (s : State) (f : Nat) : State :=
  if s.bind.fused.fields.contains f then s.loseField f 4
  else if tripped.contains f then s.loseField f 1
  else s.setField f { s.field f with vcore := classVolt 0 }

theorem State.closeWave_eq (s : State) (k : Nat) (tripped : List Nat) :
    s.closeWave k tripped = (nth [] waveFields k).foldl (State.closeField tripped) s := rfl

/-- A field that is not fused and does not trip comes up at 850 mV (R463, R473). -/
theorem State.closeField_eq (f : Nat) {s : State} (fused : s.bind.fused.fields = []) :
    s.closeField [] f = s.setField f { s.field f with vcore := 850 } := by
  simp only [State.closeField, fused, List.contains_nil, Bool.false_eq_true, if_false]
  rfl

theorem closeFields_spec (l : List Nat) {s : State} (fused : s.bind.fused.fields = []) :
    let u := l.foldl (State.closeField []) s
    u = { s with fields := u.fields } ∧ ∀ f, u.field f = if f ∈ l then { s.field f with vcore := 850 } else s.field f := by
  induction l generalizing s with
  | nil => exact ⟨rfl, fun f => by simp⟩
  | cons f l ih =>
    obtain ⟨eq, fields⟩ := ih (s := s.setField f { s.field f with vcore := 850 }) fused
    rw [List.foldl_cons, State.closeField_eq f fused]
    generalize l.foldl (State.closeField []) _ = u at eq fields
    refine ⟨by rw [eq]; rfl, fun g => ?_⟩
    rw [fields g]
    by_cases hg : g = f
    · subst hg
      have same : (s.setField g { s.field g with vcore := 850 }).field g = { s.field g with vcore := 850 } :=
        sget_sput_self _ _ _ _
      simp [same]
    · have other : (s.setField f { s.field f with vcore := 850 }).field g = s.field g := sget_sput_ne _ _ _ _ _ hg
      simp [other, hg]

/-- A wave of field power-up that trips no fuse and finds no fused field (R473). -/
theorem State.closeWave_spec (k : Nat) {s : State} (fused : s.bind.fused.fields = []) :
    s.closeWave k [] = { s with fields := (s.closeWave k []).fields } ∧
    ∀ f, (s.closeWave k []).field f = if f ∈ nth [] waveFields k then { s.field f with vcore := 850 } else s.field f :=
  closeFields_spec (nth [] waveFields k) fused

/-! The steps -/

theorem Calm.of_reportShort (s : State) (fc y : Nat) : Calm s (s.reportShort fc y) := by
  unfold State.reportShort
  dsimp only
  split
  · have records := Calm.of_recordFault s fSPARES_EXHAUSTED (y * 256 + fc) (pgField_ne_pgIdent (y / 5 * 8 + fc))
    split
    · exact records
    · exact records.trans (.of_logRepair _ _ _ _ _)
  · exact .refl s

theorem Calm.of_settleUnits (s : State) : Calm s s.settleUnits := by
  unfold State.settleUnits
  dsimp only
  have short := Calm.foldl (fun s (q : Nat × Nat) => Calm.of_reportShort s q.1 q.2)
    (s.bind.found.clusters.map fun c => (c % 48 / 6, c / 48)).eraseDups s
  refine ((short.trans (.foldl (fun s p => ?_) _ _)).trans (.foldl (fun s l => .of_isolate _ _ s) _ _)).trans
    (.foldl (fun s c => .of_isolate _ _ s) _ _)
  split
  · exact .of_retireCluster s _
  · exact .refl s

theorem Calm.of_loseRetired (s : State) : Calm s s.loseRetired := by
  unfold State.loseRetired
  dsimp only
  refine (((Calm.foldl Calm.of_loseClusterPage _ s).trans
    (.foldl (fun s f => .of_losePage s (pgSite_ne_pgIdent f)) _ _)).trans (.foldl (fun s p => ?_) _ _)).trans
    (.foldl (fun s v => ?_) _ _)
  · split
    · exact .of_losePage s (pgSite_ne_pgIdent _)
    · exact .refl s
  · split
    · exact .of_losePage s (pgCc_ne_pgIdent _)
    · exact .refl s

theorem Calm.of_testUnits (s : State) (r : StartupReport) : Calm s (s.testUnits r) :=
  ((((Calm.of_settleUnits s).trans (.foldl Calm.of_retireSlot _ _)).trans (.foldl Calm.of_retireCluster _ _)).trans
    (.foldl (fun s f => .of_loseSite s f true) _ _)).trans (.foldl Calm.of_siteEffects _ _)

theorem Calm.of_testLinks (s : State) (r : StartupReport) : Calm s (s.testLinks r) :=
  (Calm.foldl Calm.of_retireLink _ s).trans (.foldl Calm.of_siteEffects _ _)

theorem Calm.of_logFused (s : State) (kind unit : Nat) : Calm s (s.logFused kind unit) := by
  unfold State.logFused
  split
  · exact .refl s
  · exact .of_logRepair s _ _ _ _

theorem Calm.of_logFuses (s : State) : Calm s s.logFuses :=
  ((((Calm.foldl (fun s _ => .of_logFused s _ _) _ s).trans (.foldl (fun s _ => .of_logFused s _ _) _ _)).trans
    (.foldl (fun s _ => .of_logFused s _ _) _ _)).trans (.foldl (fun s _ => .of_logFused s _ _) _ _)).trans
    (.foldl (fun s _ => .of_logFused s _ _) _ _)

/-- A vat without a repair row left restricts the module (R366). -/
theorem Calm.of_sparesExhausted (s : State) (v unit : Nat) :
    Calm s (((s.recordFault (pgVat v) fSPARES_EXHAUSTED 0).logRepair fSPARES_EXHAUSTED 2 0x13 unit).restrict
      fSPARES_EXHAUSTED) :=
  ((Calm.of_recordFault s fSPARES_EXHAUSTED 0 (pgVat_ne_pgIdent v)).trans (.of_logRepair _ _ _ _ _)).trans (.of_restrict _ _)

theorem Calm.of_repairRow (s : State) (b : Nat) : Calm s (s.repairRow b) := by
  unfold State.repairRow
  dsimp only
  split
  · exact .of_sparesExhausted s _ _
  · exact Calm.trans (t := { s with vats := s.vats.setVat (b / 1024) _ }) (.of_same rfl rfl) (.of_logRepair _ _ _ _ _)

theorem Calm.of_testVats (s : State) (r : StartupReport) : Calm s (s.testVats r) := by
  unfold State.testVats
  dsimp only
  have packages := Calm.foldl (fun s k => Calm.of_logRepair s fVAT_UE 1 0x13 (pkgUnit k))
    (r.badPackages.filter fun k => !s.bind.fusedPkgs.contains k) s
  generalize (r.badPackages.filter fun k => !s.bind.fusedPkgs.contains k).foldl
    (fun s k => s.logRepair fVAT_UE 1 0x13 (pkgUnit k)) s = t at packages
  have trained : ∀ x : Vats, Calm s { t with vats := x } := fun x => packages.trans (.of_same rfl rfl)
  exact ((trained _).trans (.foldl Calm.of_repairRow _ _)).trans (.foldl (fun s v => .of_sparesExhausted s v _) _ _)

theorem Calm.of_reconcile (s : State) : Calm s s.reconcile := by
  unfold State.reconcile
  split
  · exact .of_restrict s _
  · dsimp only
    split
    · exact .refl s
    · exact (Calm.foldl (fun s v => .of_recordFault s _ _ (pgVat_ne_pgIdent v)) _ s).trans (.of_restrict _ _)

/-- The binding that start-up computes applies what was found, and counts its holes (R449, R476). -/
theorem State.firstBinding_eq (s : State) :
    ∃ trees felt, s.firstBinding = { s with
      bind := { s.bind with applied := s.bind.found, trees := trees }, felt := felt
      ident := { s.ident with holes := s.bind.found.holes, served := 1200 - s.bind.found.holes } } := by
  unfold State.firstBinding
  dsimp only
  rw [State.bound_eq]
  generalize 1200 - s.bind.found.holes = n
  exact ⟨_, _, rfl⟩

/-- A step of the start-up has ended: STAGE goes on, and the power sequencing stays (R474). -/
structure StepEnds (s u : State) (n : Nat) : Prop where
  stage : u.ident.stage = n
  ready : u.ident.ready = s.ident.ready
  power : u.power = s.power

/-- The identity page's values are steady. -/
theorem ident_of_steady {s t : State} (h : t.steady = s.steady) : t.ident = s.ident := congrArg (fun x => x.2.1) h

theorem StepEnds.of_calm {s t : State} (calm : Calm s t) (steady : t.steady = s.steady) (n : Nat) : StepEnds s (t.stage n) n :=
  ⟨rfl, by rw [← ident_of_steady steady]; rfl, calm.power⟩

theorem StepEnds.of_firstBinding {s t : State} (calm : Calm s t) (steady : t.steady = s.steady) (n : Nat) :
    StepEnds s (t.firstBinding.stage n) n := by
  obtain ⟨trees, felt, eq⟩ := t.firstBinding_eq
  rw [eq]
  generalize 1200 - t.bind.found.holes = m
  exact ⟨rfl, by rw [← ident_of_steady steady]; rfl, calm.power⟩

/-- Each of the steps 2 to 6 ends with STAGE one higher (R449, R474). -/
theorem State.startStep_ends {s : State} (r : StartupReport) (low : 2 ≤ s.ident.stage) (high : s.ident.stage < 7) :
    StepEnds s (s.startStep r) (s.ident.stage + 1) := by
  have stages : s.ident.stage = 2 ∨ s.ident.stage = 3 ∨ s.ident.stage = 4 ∨ s.ident.stage = 5 ∨ s.ident.stage = 6 := by omega
  unfold State.startStep
  rcases stages with h | h | h | h | h <;> rw [h]
  · exact .of_calm (.refl s) rfl 3
  · exact .of_calm (.of_logFuses s) (by simp) 4
  · exact .of_firstBinding ((Calm.of_loseRetired s).trans (.of_testUnits _ r)) (by simp) 5
  · exact .of_firstBinding (.of_testLinks s r) (by simp) 6
  · exact .of_calm (.of_testVats s r) (by simp) 7

/-- The last step: the vote, and Ready (R449, R474, R476). -/
theorem State.startStep_ready {s : State} (r : StartupReport) (stage : s.ident.stage = 7) :
    let u := s.startStep r
    u.ident.ready = true ∧ u.ident.stage = 8 ∧ u.ident.holes + u.ident.served = 1200 ∧ u.power.report = none ∧
    u.bind.applied = u.bind.found ∧ EvtOn s u pgIdent 2 := by
  have calm : Calm s (r.dissent.foldl State.loseReplica s).reconcile :=
    (Calm.foldl Calm.of_loseReplica r.dissent s).trans (.of_reconcile _)
  simp only [State.startStep, stage]
  generalize (r.dissent.foldl State.loseReplica s).reconcile = t at calm
  obtain ⟨trees, felt, eq⟩ := t.firstBinding_eq
  have counts : t.firstBinding.ident.holes + t.firstBinding.ident.served = 1200 := by
    have le := t.bind.found.holes_le
    rw [eq]
    dsimp only
    omega
  have applied : t.firstBinding.bind.applied = t.firstBinding.bind.found := by rw [eq]
  have pages : t.firstBinding.pages = t.pages := by rw [eq]
  generalize t.firstBinding = v at counts applied pages
  generalize hw : ({ v.measureBuses with
    power := { v.measureBuses.power with report := none }
    ident := { v.measureBuses.ident with stage := 8, ready := true } } : State) = w
  have only := w.setEvt_only pgIdent 2
  have on := w.setEvt_on pgIdent 2
  generalize w.setEvt pgIdent 2 = u at only on
  have page : w.page pgIdent = t.page pgIdent := by
    rw [← hw]
    unfold State.page
    rw [← pages]
    rfl
  refine ⟨by rw [only.2, ← hw], by rw [only.2, ← hw], ?_, by rw [only.2, ← hw], ?_, fun lost => ?_⟩
  · rw [only.2, ← hw]
    exact counts
  · rw [only.2, ← hw]
    exact applied
  · have kept := calm.page
    rw [← page] at kept
    rw [on (by rw [kept]; exact lost), kept]

/-- What waits for the first wave runs with it (R410). -/
theorem State.boot_eq {s : State} {f : FwImage} (h : s.sec.inactive = some f) :
    ∃ v : W32, s.boot = { s with
      sec := { s.sec with firmware := f, svn := f.svn, svnMin := max s.sec.svnMin f.raisedMin, inactive := none }
      free := s.free + 1, ident := { s.ident with fwVersion := v } } := by
  refine ⟨(Config.freeWord s.free).setWidth 32, ?_⟩
  simp only [State.boot, Security.activate, h]

theorem State.boot_eq_self {s : State} (h : s.sec.inactive = none) : s.boot = s := by simp only [State.boot, h]

/-- The module as a wave begins: with the first, what waits to run runs (R410, R473). -/
def State.waveBegun (s : State) : State := if s.power.waves = 0 then s.boot else s

theorem State.waveBegun_eq (s : State) :
    s.waveBegun = { s with sec := s.waveBegun.sec, ident := s.waveBegun.ident, free := s.waveBegun.free } := by
  unfold State.waveBegun
  split
  · cases h : s.sec.inactive with
    | none => rw [State.boot_eq_self h]
    | some f =>
      obtain ⟨v, eq⟩ := State.boot_eq h
      rw [eq]
  · rfl

theorem State.waveBegun_eq_self {s : State} (h : s.power.waves ≠ 0 ∨ s.sec.inactive = none) : s.waveBegun = s := by
  unfold State.waveBegun
  split
  · next first => exact State.boot_eq_self (h.resolve_left (not_not_intro first))
  · rfl

/-- A wave brings its fields up, and the eighth begins step 2 (R473, R474). -/
theorem exec_powerUpWave_closes {s : State} {r : StartupReport} (report : s.power.report = some r) (more : s.power.waves < 8)
    (passes : s.bootFails r = false) (trips : r.tripped = []) (fused : s.bind.fused.fields = []) :
    ∃ u, exec (.powerUpWave []) s = .next u ∧
      u = { s.waveBegun with fields := u.fields, power := { s.power with waves := s.power.waves + 1 }, ident := u.ident } ∧
      u.ident = (if s.power.waves = 7 then { s.waveBegun.ident with stage := 2 } else s.waveBegun.ident) ∧
      ∀ f, u.field f = if f ∈ nth [] waveFields s.power.waves then { s.field f with vcore := 850 } else s.field f := by
  have begun := s.waveBegun_eq
  obtain ⟨closes, fields⟩ := State.closeWave_spec (s := s.waveBegun) s.power.waves (by rw [begun]; exact fused)
  have goes : exec (.powerUpWave []) s = .next
      (let w : State := { s.waveBegun.closeWave s.power.waves [] with
        power := { (s.waveBegun.closeWave s.power.waves []).power with waves := s.power.waves + 1 } }
      if s.power.waves + 1 < 8 then w else w.stage 2) := by
    have below : ¬ 8 ≤ s.power.waves := by omega
    show execPowerUpWave [] s = _
    simp only [execPowerUpWave, report, passes, trips, below, List.all_nil, List.nil_append, Bool.not_true, Bool.false_eq_true,
      if_false]
    rfl
  generalize s.waveBegun.closeWave s.power.waves [] = c at closes fields goes
  generalize s.waveBegun = b at begun closes fields goes
  have power : c.power = s.power := by rw [closes, begun]
  have field : ∀ f, b.field f = s.field f := fun f => by rw [begun]; rfl
  simp only [field] at fields
  by_cases last : s.power.waves = 7
  · have below : ¬ s.power.waves + 1 < 8 := by omega
    simp only [below, if_false] at goes
    refine ⟨_, goes, ?_, ?_, fields⟩
    · rw [power, closes]
      rfl
    · rw [if_pos last, closes]
      rfl
  · have below : s.power.waves + 1 < 8 := by omega
    simp only [below, if_true] at goes
    refine ⟨_, goes, ?_, ?_, fields⟩
    · rw [power, closes]
    · rw [if_neg last, closes]

end Sys2Proof.Machine

open Sys2Proof Sys2Proof.Machine

/-- Settles O23: supplies valid keeps what is stored, a wave sets the core voltage of its fields, and every test and
retirement of a step leaves the power sequencing and the identity page to the step's own end. -/
theorem startUp : Obligations.StartUp := by
  refine ⟨fun s r wf tamper => ?_, fun s r report => ⟨fun fails => ?_, fun more passes trips fused => ?_,
    fun quiet waves low high => ?_, fun quiet waves stage => ?_⟩⟩
  · have goes : exec (.suppliesValid r) s = .next (s.powerOn r) := by
      show execSuppliesValid r s = _
      simp only [execSuppliesValid, wf, tamper, Bool.not_true, Bool.false_eq_true, if_false]
    obtain ⟨clusters, slots, links, vatPorts, sites⟩ := s.bind.found.persisted.mem_join s.bind.fused
    exact ⟨_, goes, rfl, rfl, rfl, rfl, fun _ => rfl, rfl, rfl, rfl, rfl, rfl, rfl, rfl, rfl, rfl, clusters, slots, links, vatPorts,
      sites, fun _ => Control.restart_rep, fun _ => rfl⟩
  · generalize hv : ({ s with power := { s.power with report := none } } : State) = v
    have goes : exec (.powerUpWave []) s = .next (v.recordFault pgSec fFW_SIG_FAIL 0) := by
      show execPowerUpWave [] s = _
      simp only [execPowerUpWave, report, fails, hv, List.all_nil, Bool.not_true, Bool.false_eq_true, if_false, if_true]
    have only := v.recordFault_only pgSec fFW_SIG_FAIL 0
    have on := v.recordFault_on pgSec fFW_SIG_FAIL 0
    generalize v.recordFault pgSec fFW_SIG_FAIL 0 = u at goes only on
    subst hv
    exact ⟨u, goes, on, only.1, only.2⟩
  · obtain ⟨u, goes, eq, ident, fields⟩ := exec_powerUpWave_closes report more passes trips fused
    refine ⟨u, goes, ?_, fun still => ?_, fun f first waits => ?_, fields⟩
    · rw [eq, s.waveBegun_eq]
    · rw [State.waveBegun_eq_self still] at eq ident
      exact ⟨by rw [eq], by rw [eq], ident⟩
    · obtain ⟨v, boots⟩ := State.boot_eq waits
      have begun : s.waveBegun = s.boot := if_pos first
      rw [begun, boots] at eq
      rw [eq]
  · have goes : step s = .next (s.startStep r) := by simp only [step, quiet, State.idle, report, waves, if_true]
    have ends := State.startStep_ends r low high
    exact ⟨_, goes, ends.stage, ends.ready, by rw [ends.power]; exact report, by rw [ends.power]; exact waves⟩
  · have goes : step s = .next (s.startStep r) := by simp only [step, quiet, State.idle, report, waves, if_true]
    exact ⟨_, goes, State.startStep_ready r stage⟩
end

section
/-! PROOFS. Number formats: the scale fit and the values of the narrow codes (R70 to R75, R87). -/

namespace Sys2Proof.Machine

/-! The scale fit -/

/-- Aligning a magnitude to an exponent at or below its own keeps its value. -/
theorem shiftedMag_value (a : Nat) {b k : Int} (h : k ≤ b) :
    ((a * 2 ^ (b - k).toNat : Nat) : ℚ) * (2 : ℚ) ^ k = a * (2 : ℚ) ^ b := by
  have shift : (2 : ℚ) ^ (b - k).toNat = (2 : ℚ) ^ (b - k) := by
    rw [← zpow_natCast, Int.toNat_of_nonneg (by omega)]
  push_cast
  rw [shift, mul_assoc, ← zpow_add₀ two_ne_zero, sub_add_cancel]

/-- `magLe` compares the exact values. -/
theorem magLe_iff (m : Nat) (e : Int) (a : Nat) (b : Int) :
    magLe m e a b = true ↔ (m : ℚ) * (2 : ℚ) ^ e ≤ a * (2 : ℚ) ^ b := by
  have pos : (0 : ℚ) < (2 : ℚ) ^ min e b := by positivity
  rw [← shiftedMag_value m (min_le_left e b), ← shiftedMag_value a (min_le_right e b),
    mul_le_mul_iff_of_pos_right pos, Nat.cast_le]
  exact decide_eq_true_iff

/-- The search of a fit stops at the first value that fits, or when its tries are used up. -/
theorem fitFrom_first (m : Nat) (e : Int) (l : Nat) (le : Int) (n : Nat) (s : Int) :
    s ≤ fitFrom m e l le n s ∧ fitFrom m e l le n s ≤ s + n ∧
      (fitFrom m e l le n s < s + n → magLe m e l (le + fitFrom m e l le n s) = true) ∧
      ∀ t, s ≤ t → t < fitFrom m e l le n s → ¬ magLe m e l (le + t) = true := by
  induction n generalizing s with
  | zero => exact ⟨le_refl s, by simp [fitFrom], by simp [fitFrom], fun t low high => absurd high (not_lt.mpr low)⟩
  | succ n ih =>
    by_cases fits : magLe m e l (le + s) = true
    · rw [fitFrom, if_pos fits]
      exact ⟨le_refl s, by omega, fun _ => fits, fun t low high => absurd high (not_lt.mpr low)⟩
    · rw [fitFrom, if_neg fits]
      obtain ⟨low, high, stops, first⟩ := ih (s + 1)
      refine ⟨by omega, by omega, fun below => stops (by omega), fun t from_s below => ?_⟩
      obtain rfl | later := eq_or_lt_of_le from_s
      · exact fits
      · exact first t later below

/-- The fit of G8 is the first value from −128 on that fits, or 127: a magnitude of 0 fits at once (R87). -/
theorem g8Fit_first (m : Nat) (e : Int) :
    -128 ≤ g8Fit m e ∧ g8Fit m e ≤ 127 ∧
      (g8Fit m e < 127 → (m : ℚ) * (2 : ℚ) ^ e ≤ 127 * (2 : ℚ) ^ g8Fit m e) ∧
      ∀ t, -128 ≤ t → t < g8Fit m e → ¬ (m : ℚ) * (2 : ℚ) ^ e ≤ 127 * (2 : ℚ) ^ t := by
  have fits_iff : ∀ t, magLe m e 127 (0 + t) = true ↔ (m : ℚ) * (2 : ℚ) ^ e ≤ 127 * (2 : ℚ) ^ t := fun t => by
    rw [magLe_iff, zero_add, Nat.cast_ofNat]
  by_cases zero : m = 0
  · have fit : g8Fit m e = -128 := if_pos zero
    rw [fit]
    refine ⟨by omega, by omega, fun _ => ?_, fun t low high => by omega⟩
    rw [zero, Nat.cast_zero, zero_mul]
    positivity
  · have fit : g8Fit m e = fitFrom m e 127 0 255 (-128) := if_neg zero
    obtain ⟨low, high, stops, first⟩ := fitFrom_first m e 127 0 255 (-128)
    rw [← fit] at low high stops first
    refine ⟨low, by omega, fun below => (fits_iff _).mp (stops (by omega)), fun t from_low below fits => ?_⟩
    exact first t from_low below ((fits_iff t).mpr fits)

/-! The narrow codes -/

/-- Every element of a block whose scale byte is 0xFF is NaN (R75). -/
@[simp] theorem narrowVal_nanScale (f : ElemFmt) (c : Nat) : narrowVal f 0xFF c = .nan := rfl

/-- Under any other scale byte a code is its signed magnitude, scaled (R75). -/
theorem narrowVal_fin (f : ElemFmt) {S : Nat} (h : S < 255) (c : Nat) :
    narrowVal f S c = .fin (narrowNeg f c) (narrowMag f c).1 ((narrowMag f c).2 + S - 127) :=
  if_neg (by omega)

/-- A code is negative when it reaches its sign bit (R70). -/
theorem narrowNeg_iff (f : ElemFmt) {c : Nat} (h : c < 2 ^ f.planes) :
    narrowNeg f c = true ↔ 2 ^ (f.planes - 1) ≤ c := by
  have planes : f.planes - 1 + 1 = f.planes := by cases f <;> rfl
  refine ⟨Nat.ge_two_pow_of_testBit, fun sign => ?_⟩
  exact Nat.testBit_of_two_pow_le_and_two_pow_add_one_gt sign (by rwa [planes])

/-- The magnitude of a code with `mb` bits of mantissa: M/2^mb of the lowest binade in exponent field 0, and 1 + M/2^mb of
its own in every other (R70, R71). -/
def narrowValue (mb : Nat) (bias : Int) (E M : Nat) : ℚ :=
  if E = 0 then (2 : ℚ) ^ (1 - bias) * ((M : ℚ) / 2 ^ mb) else (2 : ℚ) ^ ((E : Int) - bias) * (1 + (M : ℚ) / 2 ^ mb)

/-- The model's magnitude of a narrow code has the value of R70's table. -/
theorem narrowMag_value {f : ElemFmt} {mb eb bias : Nat} (params : f.nparams = (mb, eb, bias)) (c : Nat) :
    ((narrowMag f c).1 : ℚ) * (2 : ℚ) ^ (narrowMag f c).2 = narrowValue mb bias (c / 2 ^ mb % 2 ^ eb) (c % 2 ^ mb) := by
  have below : ∀ x : Int, (2 : ℚ) ^ (x - mb) = (2 : ℚ) ^ x / 2 ^ mb := fun x => by
    rw [zpow_sub₀ two_ne_zero, zpow_natCast]
  have mag : narrowMag f c = if c / 2 ^ mb % 2 ^ eb = 0 then (c % 2 ^ mb, 1 - (bias : Int) - mb)
      else (c % 2 ^ mb + 2 ^ mb, ((c / 2 ^ mb % 2 ^ eb : Nat) : Int) - bias - mb) := by
    simp only [narrowMag, params, Nat.shiftRight_eq_div_pow]
  rw [mag, narrowValue]
  split
  · rw [below]
    ring
  · rw [below]
    push_cast
    field_simp
    ring

/-- A narrow code under a scale byte below 0xFF stands for its signed value of R70 times 2^(S − 127) (R75). -/
theorem narrowVal_value {f : ElemFmt} {mb eb bias : Nat} (params : f.nparams = (mb, eb, bias)) {S c : Nat}
    (code : c < 2 ^ f.planes) (scale : S < 255) :
    ∃ g m x, narrowVal f S c = .fin g m x ∧ (g = true ↔ 2 ^ (f.planes - 1) ≤ c) ∧
      (m : ℚ) * (2 : ℚ) ^ x =
        (2 : ℚ) ^ ((S : Int) - 127) * narrowValue mb bias (c / 2 ^ mb % 2 ^ eb) (c % 2 ^ mb) := by
  refine ⟨_, _, _, narrowVal_fin f scale c, narrowNeg_iff f code, ?_⟩
  rw [add_sub_assoc, zpow_add₀ two_ne_zero, ← mul_assoc, narrowMag_value params, mul_comm]

end Sys2Proof.Machine

open Sys2Proof Sys2Proof.Machine

/-- Settles O57: the search stops at the first value that fits (`g8Fit_first`), so a value that fits bounds it, and
without one it ends at 127. -/
theorem gradientFit : Obligations.GradientFit := by
  intro m e
  obtain ⟨low, high, stops, first⟩ := g8Fit_first m e
  refine ⟨fun zero => if_pos zero, fun ⟨t, t_low, t_high, fits⟩ => ⟨low, high, ?_, first⟩, fun none_fits => ?_⟩
  · obtain below | last := lt_or_eq_of_le high
    · exact stops below
    · have reached : t = g8Fit m e := by
        by_contra other
        exact first t t_low (by omega) fits
      exact reached ▸ fits
  · by_contra other
    exact none_fits _ low high (stops (by omega))

/-- Settles O58: the value of a code for each of the three formats (`narrowVal_value`); the NaN blocks and the largest
magnitudes are evaluated. -/
theorem narrowValues : Obligations.NarrowValues := by
  refine ⟨fun f member c S code scale => ?_, narrowVal_nanScale, rfl, rfl, rfl⟩
  simp only [List.mem_cons, List.not_mem_nil, or_false] at member
  obtain rfl | rfl | rfl := member
  · exact narrowVal_value (f := .e2m3) rfl code scale
  · exact narrowVal_value (f := .e3m2) rfl code scale
  · exact narrowVal_value (f := .e2m1) rfl code scale
end

section
/-! PROOFS. The generator of stochastic rounding, and what an add draws from it (R110 to R118). -/

namespace Sys2Proof.Machine

/-- The non-zero states of 32 bits (R113). -/
def LfsrState (x : Nat) : Prop := 0 < x ∧ x < 2 ^ 32

/-- A step keeps to the states: an odd state shifts its bit 31 out and gets it back from the feedback, an even one that is
not 0 halves. -/
theorem LfsrState.step {x : Nat} (h : LfsrState x) : LfsrState (lfsrStep x) := by
  obtain ⟨pos, lt⟩ := h
  have half : x >>> 1 = x / 2 := Nat.shiftRight_eq_div_pow x 1
  unfold lfsrStep LfsrState
  split
  · have clear : (x >>> 1).testBit 31 = false := Nat.testBit_lt_two_pow (by omega)
    have top : (x >>> 1 ^^^ 0x80200003).testBit 31 = true := by
      rw [Nat.testBit_xor, clear]
      decide
    exact ⟨Nat.pos_of_ne_zero fun zero => by simp [zero] at top, Nat.xor_lt_two_pow (by omega) (by norm_num)⟩
  · omega

theorem LfsrState.advance {x : Nat} (h : LfsrState x) : LfsrState (lfsrAdvance x) :=
  List.foldlRecOn _ _ h fun _ state _ _ => state.step

/-- A seed is 32 bits wide whatever is mixed into it, and a zero is replaced (R115). -/
theorem lfsrSeed_state (stepSeed stream ptile engine slot : Nat) :
    LfsrState (lfsrSeed stepSeed stream ptile engine slot) := by
  unfold lfsrSeed
  extract_lets m a b c d f g x
  have wide : g < 2 ^ 32 := Nat.mod_lt _ (by decide)
  have mixed : x < 2 ^ 32 := Nat.xor_lt_two_pow wide ((Nat.shiftRight_le g 13).trans_lt wide)
  split
  · exact ⟨by decide, by decide⟩
  · exact ⟨by omega, mixed⟩

/-- What an add changes: it draws once and counts, and then may set the accumulator and its saturation bit (R112, R114). -/
theorem Slot.add_eq (s : Slot) (g : GroupSum) :
    s.add g = { s with a32 := (s.add g).a32, sat := (s.add g).sat, lfsr := lfsrAdvance s.lfsr, cnt := s.cnt + 1 } := by
  cases g with
  | nan => dsimp only [Slot.add]
  | inf neg => dsimp only [Slot.add]
  | fin w e =>
    dsimp only [Slot.add]
    split
    · rfl
    · split
      · split <;> rfl
      · rfl

end Sys2Proof.Machine

open Sys2Proof Sys2Proof.Machine

/-- Settles O59: seeds, steps and draws keep to the states of the generator, and an add's one equation gives what it draws
and what it leaves. -/
theorem roundingGenerator : Obligations.RoundingGenerator := by
  refine ⟨lfsrSeed_state, fun x pos lt => ?_, fun s g => ?_, fun s => ⟨rfl, rfl⟩⟩
  · have state : LfsrState x := ⟨pos, lt⟩
    exact ⟨state.step.1, state.step.2, state.advance⟩
  · rw [Slot.add_eq]
    dsimp only
    exact ⟨rfl, rfl, rfl⟩
end

section
/-! PROOFS. What a word of a tile leaves alone: the reasoning rules of its fetch, its issue, its counts and its engine. -/

namespace Sys2Proof.Machine

/-! Sparse maps -/

/-- A write of key `i` does not show in a concatenation that takes nothing from key `i`. -/
theorem flatMap_sput {α β : Type} [DecidableEq α] (d : α) (m : List (Nat × α)) (i : Nat) (v : α) (f : Nat × α → List β)
    (skip : ∀ w, f (i, w) = []) : (sput d m i v).flatMap f = m.flatMap f := by
  have erased : ∀ l : List (Nat × α), (l.filter fun kv => kv.1 != i).flatMap f = l.flatMap f := fun l => by
    induction l with
    | nil => rfl
    | cons a r ih =>
      obtain ⟨k, w⟩ := a
      by_cases hk : k = i
      · simp [hk, skip, ih]
      · simp [hk, ih]
  have inserted : ∀ l : List (Nat × α), (sins l i v).flatMap f = l.flatMap f := fun l => by
    induction l with
    | nil => simp [sins, skip]
    | cons a r ih =>
      unfold sins
      split
      · simp [skip]
      · simp [ih]
  unfold sput
  dsimp only
  split
  · exact erased m
  · rw [inserted, erased]

/-! Contexts -/

/-- Where the code region of a context lies (R178). -/
def CtxState.code (x : CtxState) : Nat × Nat := (x.codeBase, x.codeLen)

theorem loopBack_code (n : Nat) (x : CtxState) : (loopBack n x).code = x.code := by
  induction n generalizing x with
  | zero => rfl
  | succ n ih =>
    rw [loopBack]
    split
    · rfl
    · split
      · split
        · rfl
        · exact ih _
      · rfl

@[simp] theorem CtxState.advance_code (x : CtxState) : x.advance.code = x.code := loopBack_code 4 _

theorem Tile.setCtx_c1_code (t : Tile) (c : Ctx) {x : CtxState} (same : x.code = (t.ctx c).code) :
    (t.setCtx c x).c1.code = t.c1.code := by
  cases c with
  | c0 => rfl
  | c1 => exact same

@[simp] theorem Tile.setSat_c1_code (t : Tile) (c : Ctx) (sat : Bool) : (t.setSat c sat).c1.code = t.c1.code := by
  unfold Tile.setSat
  split
  · exact t.setCtx_c1_code c rfl
  · rfl

@[simp] theorem Tile.setCtx_engines (t : Tile) (c : Ctx) (x : CtxState) : (t.setCtx c x).engines = t.engines := by
  cases c <;> rfl
@[simp] theorem Tile.setCtx_sram (t : Tile) (c : Ctx) (x : CtxState) : (t.setCtx c x).sram = t.sram := by
  cases c <;> rfl

/-- Where the SAT bit is set, setting it changes nothing. -/
theorem Tile.setSat_of_flag (t : Tile) (c : Ctx) (flag : (t.ctx c).flags.getLsbD 0 = true) : t.setSat c true = t := by
  have keeps : (t.ctx c).flags ||| 1#32 = (t.ctx c).flags := by
    refine BitVec.eq_of_getLsbD_eq fun i _ => ?_
    obtain rfl | above := Nat.eq_zero_or_pos i
    · simp [flag]
    · simp [BitVec.getLsbD_one, Nat.ne_of_gt above]
  rw [Tile.setSat, if_pos rfl, keeps]
  cases c <;> rfl

/-! Operations in flight (R146, R209) -/

@[simp] theorem Tile.setCtx_others (t : Tile) (c : Ctx) (x : CtxState) (u : TileUnit) :
    (t.setCtx c x).others u = t.others u := by cases c <;> rfl
@[simp] theorem Tile.setSat_others (t : Tile) (c : Ctx) (sat : Bool) (u : TileUnit) :
    (t.setSat c sat).others u = t.others u := by
  unfold Tile.setSat
  split
  · exact t.setCtx_others c _ u
  · rfl

/-- Engine `k` is not among the units other than engine `k`. -/
theorem Tile.putEngine_others (t : Tile) (k : Nat) (g : Engine) :
    ({ t with engines := sput {} t.engines k g } : Tile).others (.engine k) = t.others (.engine k) := by
  unfold Tile.others
  dsimp only
  rw [flatMap_sput _ _ _ _ _ fun _ => if_pos rfl]

theorem Tile.written_of_others {t t' : Tile} {u : TileUnit} (h : t'.others u = t.others u) (rs : List (Nat × Nat)) :
    t'.written u rs = t.written u rs := by unfold Tile.written; rw [h]

/-- An operation that races with none reads and writes nothing that another unit's operation writes. -/
theorem Tile.written_of_races {t : Tile} {u : TileUnit} {o : UnitOp} (h : t.races u o = false) :
    t.written u o.ext = false := by
  simp only [Tile.races, List.any_eq_false, Bool.or_eq_true, not_or] at h
  exact List.any_eq_false.mpr fun x hx => (h x hx).2

/-- An operation that races with none writes nothing that another unit's operation reads or writes. -/
theorem Tile.meets_of_races {t : Tile} {u : TileUnit} {o : UnitOp} (h : t.races u o = false) :
    ((t.others u).any fun x => x.meets o.dst) = false := by
  simp only [Tile.races, List.any_eq_false, Bool.or_eq_true, not_or] at h
  exact List.any_eq_false.mpr fun x hx => (h x hx).1

/-- An operation as it joins its unit: raced from the start where another unit's operation writes what it reads or writes. -/
def UnitOp.noted (o : UnitOp) (t : Tile) (u : TileUnit) : UnitOp := { o with race := t.written u o.ext }

theorem UnitOp.noted_eq_self {o : UnitOp} {t : Tile} {u : TileUnit} (race : o.race = false)
    (alone : t.written u o.ext = false) : o.noted t u = o := by rw [UnitOp.noted, alone, ← race]

theorem State.meetReads_eq_self {s : State} {slot : Nat} {u : TileUnit} {ext : List (Nat × Nat)}
    (h : (s.tile slot).written u ext = false) (rs : List (Nat × Nat)) : s.meetReads slot u ext rs = s :=
  if_neg (by simp [h])

theorem State.conflicts_eq_self {s : State} {slot : Nat} {u : TileUnit} {ws : List (Nat × Nat)}
    (h : (((s.tile slot).others u).any fun o => o.meets ws) = false) : s.conflicts slot u ws = s :=
  if_neg (by simp [h])

/-! The frame of a word -/

theorem TileFrame.refl (s : State) (slot : Nat) : TileFrame s s slot := ⟨rfl, fun _ _ => rfl, .refl s [], rfl⟩

theorem TileFrame.trans {s t u : State} {slot : Nat} (h : TileFrame s t slot) (h' : TileFrame t u slot) :
    TileFrame s u slot := by
  obtain ⟨rest, tiles, pages, ctr⟩ := h
  obtain ⟨rest', tiles', pages', ctr'⟩ := h'
  refine ⟨?_, fun q hq => (tiles' q hq).trans (tiles q hq), pages.trans pages', ?_⟩
  · rw [rest', rest]
  · rw [ctr', ctr]

theorem TileFrame.bind_eq {s u : State} {slot : Nat} (h : TileFrame s u slot) : u.bind = s.bind := by rw [h.1]

/-- The tile that a frame allows to change. -/
theorem TileFrame.becomes {s u : State} {slot : Nat} {t : Tile} (h : TileFrame s u slot) (tile : u.tile slot = t) :
    TileBecomes s u slot t := ⟨h, by rw [tile]⟩

theorem State.setTile_frame (s : State) (slot : Nat) (t : Tile) : TileFrame s (s.setTile slot t) slot :=
  ⟨rfl, fun q hq => s.setTile_tile_ne slot q t hq, .refl s [], rfl⟩

theorem State.bump_frame (s : State) (k ev n slot : Nat) : TileFrame s (s.bump k ev n) slot := by
  refine ⟨?_, fun q _ => ?_, (s.bump_only k ev n).1.2.2, ?_⟩
  · rw [State.bump_eq]
  · rw [State.bump_eq]; rfl
  · rw [State.bump_eq]

@[simp] theorem State.bump_tile (s : State) (k ev n q : Nat) : (s.bump k ev n).tile q = s.tile q := by
  rw [State.bump_eq]; rfl

/-- A tagged word draws free values and leaves a tag record, or its drop is counted (R493, R499). -/
theorem State.tagWord_frame (s : State) (e : Env) (slot : Nat) : TileFrame s (s.tagWord e) slot := by
  unfold State.tagWord
  split
  · exact .refl s slot
  · refine ⟨rfl, fun _ _ => rfl, .refl s [], ?_⟩
    dsimp only
    split
    · unfold CtrReader.tag
      split <;> rfl
    · rfl

@[simp] theorem State.tagWord_tile (s : State) (e : Env) (q : Nat) : (s.tagWord e).tile q = s.tile q := by
  unfold State.tagWord
  split <;> rfl

theorem State.issue_frame (s : State) (e : Env) (x : CtxState) : TileFrame s (s.issue e x) e.slot :=
  ((s.setTile_frame _ _).trans (State.bump_frame _ _ _ _ _)).trans (State.tagWord_frame _ _ _)

@[simp] theorem State.issue_tile (s : State) (e : Env) (x : CtxState) :
    (s.issue e x).tile e.slot = (s.tile e.slot).setCtx e.c x := by simp [State.issue]

theorem State.noteSat_frame (s : State) (slot : Nat) (c : Ctx) (sat : Bool) : TileFrame s (s.noteSat slot c sat) slot := by
  unfold State.noteSat
  dsimp only
  split
  · exact (s.setTile_frame _ _).trans (State.bump_frame _ _ _ _ _)
  · exact .refl s slot

@[simp] theorem State.noteSat_tile (s : State) (slot : Nat) (c : Ctx) (sat : Bool) :
    (s.noteSat slot c sat).tile slot = (s.tile slot).setSat c sat := by
  unfold State.noteSat
  dsimp only
  split
  · rename_i sets
    rw [State.bump_tile, State.setTile_tile, (Bool.and_eq_true_iff.mp sets).1]
  · rename_i stays
    cases sat with
    | false => rfl
    | true => exact (Tile.setSat_of_flag _ c (by simpa using stays)).symm

/-- The ranges of a tile that no unit may write stay where they are as long as the images and the code region of context 1
do (R178, R227). -/
theorem State.guarded_eq {s u : State} {e : Env} (bound : u.bind = s.bind)
    (code : (u.tile e.slot).c1.code = (s.tile e.slot).c1.code) : u.guarded e = s.guarded e := by
  have image : u.tileImage e = s.tileImage e := by simp only [State.tileImage, State.image?, State.prog, bound]
  have region : [(u.tile e.slot).c1.code] = [(s.tile e.slot).c1.code] := by rw [code]
  unfold State.guarded
  rw [image]
  exact congrArg _ region

/-! The fetch of a word -/

theorem State.tileReads_clean {s : State} {slot : Nat} (clean : (s.tile slot).sram.errs = []) (rs : List (Nat × Nat)) :
    s.tileReads slot rs = s := if_pos clean

/-- The row of a context's next word takes it. -/
theorem seqRow_word {s : State} {t : Nat} {c : Ctx} {op : Nat} {e : Env} (word : WordAt s t c op e)
    (clean : (s.tile e.slot).sram.errs = []) (k : Env → State → State) : seqRow s t c op k = .next (k e s) := by
  obtain ⟨unit, fetch, row⟩ := word
  rw [seqRow, if_neg (by simp [unit]), fetch]
  dsimp only
  rw [if_pos row, State.tileReads_clean clean]

/-- The row of an issue word hands it to its unit, with the block. -/
theorem issueRow_issue {s : State} {t : Nat} {c : Ctx} {op : Nat} {full : Env → State → Bool} {e : Env} {b : Issue}
    (issue : IssueAt s t c op full e b) (k : Issue → Env → State → State) :
    issueRow s t c op full k = .next (k b e s) := by
  obtain ⟨word, clean, room, block⟩ := issue
  rw [issueRow, seqRow_word word clean, if_neg (by simp [room]), block]
  dsimp only
  rw [State.tileReads_clean clean]

@[simp] theorem State.perform_ok {α : Type} (s : State) (e : Env) (a : α) (k : α → State) :
    s.perform e (.ok a) k = k a := rfl
@[simp] theorem withInfo_ok {α : Type} (i : Nat) (a : α) : withInfo i (.ok a) = .ok a := rfl

end Sys2Proof.Machine
end

section
/-! PROOFS. Matrix and ream operations store what their elements give (R97 to R126, R143, R163 to R171, R198). -/

namespace Sys2Proof.Machine

theorem State.setEngine_frame (s : State) (e : Env) (k : Nat) (g : Engine) : TileFrame s (s.setEngine e k g) e.slot :=
  s.setTile_frame _ _

@[simp] theorem State.setEngine_tile (s : State) (e : Env) (k : Nat) (g : Engine) :
    (s.setEngine e k g).tile e.slot =
      { s.tile e.slot with engines := sput {} (s.tile e.slot).engines k g } := s.setTile_tile _ _

@[simp] theorem State.issue_engine (s : State) (e : Env) (x : CtxState) (k : Nat) :
    (s.issue e x).engine e k = s.engine e k := by simp [State.engine]

/-- The unit operation depends on the state by the guarded ranges alone. -/
theorem State.engUnit_eq {s u : State} {e : Env} (same : u.guarded e = s.guarded e) (j : EngJob) (os : List OutElem)
    (rows : Nat) : u.engUnit e j os rows = s.engUnit e j os rows := by
  unfold State.engUnit
  rw [same]

/-- A tile with the results of an operation stored and counted in its census slot. -/
def Tile.engStore (t : Tile) (j : EngJob) (os : List OutElem) : Tile :=
  let ws := os.flatMap fun o => o.spill ++ o.out
  ({ t with sram := t.sram.writes ws } : Tile).countCensus j.x.cslot (os.flatMap fun (o : OutElem) => o.cls)

@[simp] theorem Tile.engStore_others (t : Tile) (j : EngJob) (os : List OutElem) (u : TileUnit) :
    (t.engStore j os).others u = t.others u := rfl
@[simp] theorem Tile.engStore_c1 (t : Tile) (j : EngJob) (os : List OutElem) : (t.engStore j os).c1 = t.c1 := rfl

/-- The module once an operation's word has issued and its results are stored, before its engine takes it. -/
def State.engWritten (s : State) (e : Env) (j : EngJob) (os : List OutElem) (sat : Bool) : State :=
  let s1 := s.issue e (s.ctxOf e).advance
  (s1.setTile e.slot ((s1.tile e.slot).engStore j os)).noteSat e.slot e.c (sat || os.any fun o => o.sat)

theorem State.engWritten_frame (s : State) (e : Env) (j : EngJob) (os : List OutElem) (sat : Bool) :
    TileFrame s (s.engWritten e j os sat) e.slot :=
  ((s.issue_frame _ _).trans (State.setTile_frame _ _ _)).trans (State.noteSat_frame _ _ _ _)

@[simp] theorem State.engWritten_tile (s : State) (e : Env) (j : EngJob) (os : List OutElem) (sat : Bool) :
    (s.engWritten e j os sat).tile e.slot =
      ((advanced s e).engStore j os).setSat e.c (sat || os.any fun o => o.sat) := by
  simp [State.engWritten, advanced]

/-- An operation's results leave the guarded ranges where they were. -/
theorem State.engWritten_guarded (s : State) (e : Env) (j : EngJob) (os : List OutElem) (sat : Bool) :
    (s.engWritten e j os sat).guarded e = s.guarded e := by
  refine State.guarded_eq (s.engWritten_frame e j os sat).bind_eq ?_
  rw [State.engWritten_tile, Tile.setSat_c1_code, Tile.engStore_c1]
  exact Tile.setCtx_c1_code _ _ (CtxState.advance_code _)

/-- An engine that has taken an operation: the slots of its elements are kept, and it waits in the queue. -/
def Engine.take (g : Engine) (j : EngJob) (os : List OutElem) (u : UnitOp) : Engine :=
  ({ g with slots := os.foldl (fun m o => sput {} m o.slot o.st) g.slots } : Engine).push u
    (if j.x.fin then none else some (j.x.last j.mode))

/-- An operation whose results meet no guarded range and no access of another unit is stored and taken: neither its issue
nor its writes note a conflict. -/
theorem State.engFinish_eq {s : State} {e : Env} {j : EngJob} {os : List OutElem} {rows : Nat}
    (fits : s.writable e (1 + j.x.e) (writeRanges (os.flatMap fun o => o.spill ++ o.out)) = .ok ())
    (alone : (s.tile e.slot).races (.engine j.x.e) (s.engUnit e j os rows) = false) (sat : Bool) (steps : Nat) :
    s.engFinish e j os rows sat steps =
      ((s.engWritten e j os sat).setEngine e j.x.e ((s.engine e j.x.e).take j os (s.engUnit e j os rows))).bump
        (pgCluster (e.slot / 17)) 0x10 steps := by
  have unit := State.engUnit_eq (s.engWritten_guarded e j os sat) j os rows
  have unraced : (s.engUnit e j os rows).noted (((s.issue e (s.ctxOf e).advance).tile e.slot).engStore j os)
      (.engine j.x.e) = s.engUnit e j os rows :=
    UnitOp.noted_eq_self rfl
      ((Tile.written_of_others (t := s.tile e.slot) (by simp) _).trans (Tile.written_of_races alone))
  have calm : ∀ g, ((((s.engWritten e j os sat).setEngine e j.x.e g).tile e.slot).others (.engine j.x.e)).any
      (fun o => o.meets (s.engUnit e j os rows).dst) = false := fun g => by
    rw [State.setEngine_tile, Tile.putEngine_others, State.engWritten_tile, Tile.setSat_others, Tile.engStore_others,
      advanced, Tile.setCtx_others]
    exact Tile.meets_of_races alone
  calc s.engFinish e j os rows sat steps
    _ = (((s.engWritten e j os sat).setEngine e j.x.e (((s.issue e (s.ctxOf e).advance).engine e j.x.e).take j os
          (((s.engWritten e j os sat).engUnit e j os rows).noted
            (((s.issue e (s.ctxOf e).advance).tile e.slot).engStore j os) (.engine j.x.e)))).conflicts e.slot
          (.engine j.x.e) ((s.engWritten e j os sat).engUnit e j os rows).dst).bump
            (pgCluster (e.slot / 17)) 0x10 steps := by
      unfold State.engFinish
      dsimp only
      rw [fits]
      rfl
    _ = _ := by rw [unit, unraced, State.issue_engine, State.conflicts_eq_self (calm _)]

/-- An operation whose results meet no guarded range and no access of another unit is done. -/
theorem State.engFinish_done {s : State} {e : Env} {j : EngJob} {os : List OutElem} {rows : Nat}
    (fits : s.writable e (1 + j.x.e) (writeRanges (os.flatMap fun o => o.spill ++ o.out)) = .ok ())
    (alone : (s.tile e.slot).races (.engine j.x.e) (s.engUnit e j os rows) = false) (sat : Bool) (steps : Nat) :
    EngDone s (s.engFinish e j os rows sat steps) e j os rows sat := by
  rw [State.engFinish_eq fits alone]
  refine TileFrame.becomes (((s.engWritten_frame e j os sat).trans (State.setEngine_frame _ _ _ _)).trans
    (State.bump_frame _ _ _ _ _)) ?_
  rw [State.bump_tile, State.setEngine_tile, State.engWritten_tile]
  rfl

/-- An operation that reads and writes nothing leaves its tile but for the context that goes on and the engine's queue. -/
theorem State.engNothing_becomes (s : State) (e : Env) (k : Nat) (l : Option LastOp) :
    TileBecomes s (s.engNothing e k l) e.slot { advanced s e with
      engines := sput {} (s.tile e.slot).engines k ((s.engine e k).push (e.unitOp 0 []) l) } := by
  refine TileFrame.becomes ((s.issue_frame _ _).trans (State.setEngine_frame _ _ _ _)) ?_
  simp [State.engNothing, advanced]

/-- In a tile without memory errors, an operation outside ream mode that does not stop is done with its elements. -/
theorem State.engRun_done {s : State} {e : Env} {j : EngJob} {os : List OutElem}
    (elements : os = j.points.map fun q =>
      j.element (s.tile e.slot).seed e.ptile (s.tile e.slot).sram (s.engine e j.x.e) q.1 q.2)
    (clean : (s.tile e.slot).sram.errs = []) (goes : j.stop (s.tile e.slot).sram (s.engine e j.x.e) = none)
    (fits : s.writable e (1 + j.x.e) (writeRanges (os.flatMap fun o => o.spill ++ o.out)) = .ok ())
    (alone : (s.tile e.slot).races (.engine j.x.e) (s.engUnit e j os j.x.me) = false) :
    EngDone s (s.engRun e j) e j os j.x.me (j.loadSat (s.tile e.slot).sram) := by
  have unread : (s.tile e.slot).written (.engine j.x.e) j.extents = false := Tile.written_of_races alone
  unfold State.engRun
  dsimp only
  rw [State.meetReads_eq_self unread, goes, State.tileReads_clean clean, ← elements]
  exact State.engFinish_done fits alone _ _

/-- In a tile without memory errors, a ream whose row pointers are in order and whose segments the destination holds is
done with its segments. -/
theorem State.reamRun_done {s : State} {e : Env} {j : EngJob} {p : View} {nnz : Nat} {m : EccMem} {gs : List (Nat × Nat)}
    {os : List OutElem} (mem : (s.tile e.slot).sram = m)
    (parts : gs = segments m p (ptrRead m p (min nnz (512 * j.x.q + 512))) (512 * j.x.q) (min nnz (512 * j.x.q + 512)))
    (elements : os = (List.range j.x.ne).flatMap
      (j.reamElements (s.tile e.slot).seed e.ptile m (s.engine e j.x.e) (512 * j.x.q) gs))
    (clean : m.errs = []) (ordered : ptrFault m p nnz (ptrRead m p (min nnz (512 * j.x.q + 512))) = none)
    (held : gs.length ≤ nth 0 j.d.dims 1)
    (fits : s.writable e (1 + j.x.e) (writeRanges (os.flatMap fun o => o.spill ++ o.out)) = .ok ())
    (alone : (s.tile e.slot).races (.engine j.x.e) (s.engUnit e j os gs.length) = false) :
    ∃ sat, EngDone s (s.reamRun e j p nnz) e j os gs.length sat := by
  subst mem
  have unread : (s.tile e.slot).written (.engine j.x.e) j.extents = false := Tile.written_of_races alone
  unfold State.reamRun
  dsimp only
  simp only [State.meetReads_eq_self unread, EccMem.bad_clean _ _ clean, ordered, State.tileReads_clean clean]
  rw [← parts, if_neg (Nat.not_lt.mpr held), ← elements]
  exact ⟨_, State.engFinish_done fits alone _ _⟩

/-! The rows -/

/-- A word that is not a ream operation and passes its checks runs, or does nothing without rows or columns (R123). -/
theorem execEngIssue_eq {s : State} {t : Nat} {c : Ctx} {e : Env} {b : Issue} {j : EngJob}
    (issue : IssueAt s t c 0x08 engFull e b) (reserved : engReservedOk e.word b.blk = true)
    (dense : (EngArgs.parse e.word b.blk).ream = false) (check : s.engCheck e b (EngArgs.parse e.word b.blk) = .ok j) :
    exec (.engIssue t c) s = .next
      (let x := EngArgs.parse e.word b.blk
       if x.me = 0 ∨ x.ne = 0 then s.engNothing e x.e (s.engine e x.e).open_ else s.engRun e j) := by
  change issueRow s t c 0x08 engFull (engRow false) = _
  rw [issueRow_issue issue, engRow, if_pos dense, if_neg Bool.false_ne_true, doEngine]
  dsimp only
  rw [reserved, check]
  rfl

/-- A ream operation that passes its checks runs, or does nothing without rows, columns or non-zeros (R123, R167). -/
theorem execReamOperation_eq {s : State} {t : Nat} {c : Ctx} {e : Env} {b : Issue} {j : EngJob} {nnz : Nat}
    (issue : IssueAt s t c 0x08 engFull e b) (reserved : engReservedOk e.word b.blk = true)
    (ream : (EngArgs.parse e.word b.blk).ream = true)
    (check : s.reamCheck e b (EngArgs.parse e.word b.blk) = .ok (j, nnz)) :
    exec (.reamOperation t c) s = .next
      (let x := EngArgs.parse e.word b.blk
       if x.me = 0 ∨ x.ne = 0 then s.engNothing e x.e (s.engine e x.e).open_
       else if nnz = 0 then s.engNothing e x.e (if x.fin then none else some (x.last .ream))
       else match j.ptr with
         | some p => s.reamRun e j p nnz
         | none => s) := by
  change issueRow s t c 0x08 engFull (engRow true) = _
  rw [issueRow_issue issue, engRow, if_pos ream, if_pos rfl, doReam]
  dsimp only
  rw [reserved, check]
  rfl

end Sys2Proof.Machine

open Sys2Proof Sys2Proof.Machine

/-- Settles O38: past its checks each row runs its operation or one that does nothing (`execEngIssue_eq`,
`execReamOperation_eq`); an operation that runs ends in `engFinish`, which stores and keeps its elements where no conflict
is noted (`engFinish_done`). -/
theorem engineWords : Obligations.EngineWords := by
  rintro s t c e b x issue rfl reserved
  have ⟨_, clean, _, _⟩ := issue
  refine ⟨fun j dense check => ⟨fun rows cols goes fits alone => ?_, fun empty => ?_⟩,
    fun j nnz ream check => ⟨fun p ptr rows cols some_ ordered held fits alone => ?_, fun empty => ?_,
      fun rows cols none_ => ?_⟩⟩
  · refine ⟨_, execEngIssue_eq issue reserved dense check, ?_⟩
    dsimp only
    rw [if_neg (not_or.mpr ⟨rows, cols⟩)]
    exact State.engRun_done rfl clean goes fits alone
  · refine ⟨_, execEngIssue_eq issue reserved dense check, ?_⟩
    dsimp only
    rw [if_pos empty]
    exact s.engNothing_becomes e _ _
  · obtain ⟨sat, stored⟩ := State.reamRun_done rfl rfl rfl clean ordered held fits alone
    refine ⟨_, sat, execReamOperation_eq issue reserved ream check, ?_⟩
    dsimp only
    rw [if_neg (not_or.mpr ⟨rows, cols⟩), if_neg some_, ptr]
    exact stored
  · refine ⟨_, execReamOperation_eq issue reserved ream check, ?_⟩
    dsimp only
    rw [if_pos empty]
    exact s.engNothing_becomes e _ _
  · refine ⟨_, execReamOperation_eq issue reserved ream check, ?_⟩
    dsimp only
    rw [if_neg (not_or.mpr ⟨rows, cols⟩), if_pos none_]
    exact s.engNothing_becomes e _ _
end

section
/-! PROOFS. Units report the completion of their oldest operation (R146, R181, R186, R188, R209, R254). -/

namespace Sys2Proof.Machine

/-! The tile of a unit -/

/-- A tile's environment names the slot that serves the tile. -/
theorem State.env_slot {s : State} {t : Nat} {c : Ctx} {v : Env} (env : s.env t c = some v) :
    s.bind.applied.tileSlot t = some v.slot := by
  unfold State.env at env
  split at env
  case h_1 _ slot _ served =>
    split at env
    · split at env
      · obtain rfl := Option.some.inj env
        exact served
      · cases env
    · cases env
  case h_2 => cases env

theorem State.env_of_unitEnv {s : State} {t : Nat} {c : Ctx} {v : Env} (unit : s.unitEnv t c = some v) :
    s.env t c = some v := by
  unfold State.unitEnv at unit
  split at unit
  case h_1 e env =>
    split at unit
    · cases unit
    · exact env.trans unit
  case h_2 => cases unit

/-! An operation completes and leaves -/

/-- Completion writes counters alone. -/
theorem Tile.complete_eq (x : Tile) (ctr : Nat) (cen : Bool) :
    x.complete ctr cen = { x with ctrs := if cen then (x.incCtr ctr 1).ctrs else x.ctrs } := by
  cases cen <;> rfl

/-- What an operation leaves in its tile's memory: free bytes wherever it wrote once a write of another unit met it
(R146, R209). -/
def UnitOp.leaves (o : UnitOp) (m : EccMem) (f : Nat) : EccMem :=
  if o.race then (fillFree (o.dst ++ o.lose) m f).1 else m

theorem State.leave_tile (s : State) (slot : Nat) (o : UnitOp) :
    (s.leave slot o).tile slot = { s.tile slot with sram := o.leaves (s.tile slot).sram s.free } := by
  unfold State.leave UnitOp.leaves
  split
  · exact s.setTile_tile _ _
  · rfl

/-- What the completion of an operation of a tile may change: that tile, and the free values drawn for a raced one. -/
def CompletionFrame (s u : State) (slot : Nat) (race : Bool) : Prop :=
  u = { s with tiles := u.tiles, free := u.free } ∧ (race = false → u.free = s.free) ∧ ∀ q, q ≠ slot → u.tile q = s.tile q

theorem CompletionFrame.trans {s t u : State} {slot : Nat} {race : Bool} (h : CompletionFrame s t slot race)
    (h' : CompletionFrame t u slot race) : CompletionFrame s u slot race := by
  obtain ⟨rest, free, tiles⟩ := h
  obtain ⟨rest', free', tiles'⟩ := h'
  refine ⟨?_, fun calm => (free' calm).trans (free calm), fun q hq => (tiles' q hq).trans (tiles q hq)⟩
  rw [rest', rest]

theorem State.setTile_completion (s : State) (slot : Nat) (x : Tile) (race : Bool) :
    CompletionFrame s (s.setTile slot x) slot race :=
  ⟨rfl, fun _ => rfl, fun q hq => s.setTile_tile_ne slot q x hq⟩

theorem State.leave_completion (s : State) (slot : Nat) (o : UnitOp) :
    CompletionFrame s (s.leave slot o) slot o.race := by
  unfold State.leave
  split
  · rename_i raced
    exact ⟨rfl, fun calm => absurd raced (by simp [calm]), fun q hq => s.setTile_tile_ne slot q _ hq⟩
  · exact ⟨rfl, fun _ => rfl, fun _ _ => rfl⟩

/-- An operation leaves a tile that has become `x`, once the free values have come to number `f`. -/
def State.leaving (s : State) (slot : Nat) (x : Tile) (f : Nat) (o : UnitOp) : State :=
  { s.setTile slot x with free := f }.leave slot o

/-- The frame of what leaves, and the tile that it leaves behind. -/
theorem State.leaving_spec (s : State) (slot : Nat) (x : Tile) (f : Nat) (o : UnitOp) (calm : o.race = false → f = s.free) :
    CompletionFrame s (s.leaving slot x f o) slot o.race ∧
      (s.leaving slot x f o).tile slot = { x with sram := o.leaves x.sram f } := by
  have frame : CompletionFrame s { s.setTile slot x with free := f } slot o.race :=
    ⟨rfl, calm, fun q hq => s.setTile_tile_ne slot q x hq⟩
  have tile : ({ s.setTile slot x with free := f } : State).tile slot = x := s.setTile_tile slot x
  refine ⟨frame.trans (State.leave_completion _ slot o), ?_⟩
  rw [State.leaving, State.leave_tile, tile]

/-! The next operation -/

/-- No copy operation starts where none waits. -/
theorem State.copyNext_eq_self {s : State} {t slot : Nat} (served : s.bind.applied.tileSlot t = some slot)
    (ready : ∀ k ∈ (s.tile slot).copyQ, k.waiting = false) : s.copyNext t = s := by
  unfold State.copyNext
  split
  · rfl
  · rename_i v env
    obtain rfl : slot = v.slot := Option.some.inj (served.symm.trans (State.env_slot env))
    dsimp only
    split
    · rfl
    · rename_i o r queue
      exact if_pos (by simp [ready o (by simp [queue])])

/-- No vector operation takes its turn where none waits. -/
theorem State.vnext_eq_self {s : State} {v : Env} (ready : ∀ k ∈ (s.tile v.slot).vecQ, k.waiting = false) :
    s.vnext v = s := by
  unfold State.vnext
  split
  · rfl
  · rename_i o r queue
    exact if_pos (by simp [ready o (by simp [queue])])

/-! The rows -/

/-- An engine whose oldest operation reports: a raced one leaves the engine, with the free values that are left. -/
def Engine.reports (g : Engine) (o : UnitOp) (r : List UnitOp) (f : Nat) : Engine × Nat :=
  if o.race then { g with q := r }.leave o f else ({ g with q := r }, f)

theorem Engine.reports_free (g : Engine) (o : UnitOp) (r : List UnitOp) (f : Nat) (calm : o.race = false) :
    (g.reports o r f).2 = f := by
  rw [Engine.reports, if_neg (by simp [calm])]

section
variable {s : State} {t : Nat} {v : Env} {o : UnitOp} {r : List UnitOp}

theorem execEngineCompletion_eq {e : Nat} (tile : t < 19200) (unit : s.unitEnv t .c0 = some v) (engine : e < 8)
    (queue : (s.engine v e).q = o :: r) :
    exec (.engineCompletion t e) s = .next
      (let k := (s.engine v e).reports o r s.free
       let u := s.leaving v.slot { s.tile v.slot with engines := sput {} (s.tile v.slot).engines e k.1 } k.2 o
       u.setTile v.slot ((u.tile v.slot).complete o.ctr o.cen)) := by
  change execEngineCompletion t e s = _
  rw [execEngineCompletion, if_neg (by simp [tileOk, tile, engine]), unit]
  dsimp only
  rw [queue]
  rfl

theorem execVectorCompletion_eq (tile : t < 19200) (unit : s.unitEnv t .c0 = some v)
    (queue : (s.tile v.slot).vecQ = o :: r) (served : o.left = 0) (started : o.waiting = false) :
    exec (.vectorCompletion t) s = .next
      ((s.leaving v.slot ({ s.tile v.slot with vecQ := r }.complete o.ctr o.cen) s.free o).vnext v) := by
  change execVectorCompletion t s = _
  rw [execVectorCompletion, if_neg (by simp [tileOk, tile]), unit]
  dsimp only
  rw [queue]
  exact if_neg (by simp [served, started])

theorem execCopyCompletion_eq (tile : t < 19200) (unit : s.unitEnv t .c0 = some v)
    (queue : (s.tile v.slot).copyQ = o :: r) (served : o.left = 0) (started : o.waiting = false) :
    exec (.copyCompletion t) s = .next
      ((s.leaving v.slot ({ s.tile v.slot with copyQ := r }.complete o.ctr o.cen) s.free o).copyNext t) := by
  change execCopyCompletion t s = _
  rw [execCopyCompletion, if_neg (by simp [tileOk, tile]), unit]
  dsimp only
  rw [queue]
  exact if_neg (by simp [served, started])

end

end Sys2Proof.Machine

open Sys2Proof Sys2Proof.Machine

/-- Settles O39: each row takes the oldest operation off its queue, counts it and lets it leave (`execEngineCompletion_eq`,
`execVectorCompletion_eq`, `execCopyCompletion_eq`); where no operation waits behind it nothing else starts. -/
theorem unitsComplete : Obligations.UnitsComplete := by
  refine fun s t v o r tile unit =>
    ⟨⟨fun e engine queue => ?_, fun queue served started ready => ?_, fun queue served started ready => ?_⟩,
      fun x => ⟨rfl, rfl⟩⟩
  · obtain ⟨frame, left⟩ := s.leaving_spec v.slot
      { s.tile v.slot with engines := sput {} (s.tile v.slot).engines e ((s.engine v e).reports o r s.free).1 }
      _ o ((s.engine v e).reports_free o r s.free)
    refine ⟨_, execEngineCompletion_eq tile unit engine queue, frame.trans (State.setTile_completion _ _ _ _), ?_⟩
    dsimp only
    rw [State.setTile_tile, left]
    simp only [Tile.complete_eq]
    rfl
  · obtain ⟨frame, left⟩ := s.leaving_spec v.slot
      ({ s.tile v.slot with vecQ := r }.complete o.ctr o.cen) s.free o fun _ => rfl
    refine ⟨_, execVectorCompletion_eq tile unit queue served started, ?_⟩
    rw [State.vnext_eq_self (by rw [left, Tile.complete_eq]; exact ready)]
    refine ⟨frame, left.trans ?_⟩
    simp only [Tile.complete_eq]
    rfl
  · obtain ⟨frame, left⟩ := s.leaving_spec v.slot
      ({ s.tile v.slot with copyQ := r }.complete o.ctr o.cen) s.free o fun _ => rfl
    have slot := State.env_slot (State.env_of_unitEnv unit)
    refine ⟨_, execCopyCompletion_eq tile unit queue served started, ?_⟩
    rw [State.copyNext_eq_self (by rw [frame.1]; exact slot) (by rw [left, Tile.complete_eq]; exact ready)]
    refine ⟨frame, left.trans ?_⟩
    simp only [Tile.complete_eq]
    rfl
end

section
/-! PROOFS. Words of the sequencer: what the fetch of a word leaves, and what a control word that faults records
(R173, R178 to R186, R211, R213, R216). -/

namespace Sys2Proof.Machine

/-! The frame of the next word -/

theorem State.edge_frame (s : State) (k ev slot : Nat) : TileFrame s (s.edge k ev) slot := by
  unfold State.edge
  dsimp only
  split
  · exact .refl s slot
  · refine ⟨rfl, fun _ _ => rfl, fun j _ => ?_, rfl⟩
    simp only [State.page, sget_sput]
    split
    · next same => subst same; rfl
    · rfl

@[simp] theorem State.edge_tile (s : State) (k ev q : Nat) : (s.edge k ev).tile q = s.tile q := by
  rw [State.tile, State.edge_tiles]
  rfl

/-- A read counts the words that it corrected, and their write-backs fall due (R356). -/
theorem State.tileReads_becomes (s : State) (slot : Nat) (rs : List (Nat × Nat)) :
    TileBecomes s (s.tileReads slot rs) slot (s.tile slot) := by
  unfold State.tileReads
  dsimp only
  split
  · exact ⟨.refl s slot, rfl⟩
  · refine ⟨(s.setTile_frame _ _).trans (State.bump_frame _ _ _ _ _), ?_⟩
    rw [State.bump_tile, State.setTile_tile]
    rfl

/-- What a read of a tile's memory shows of its context. -/
@[simp] theorem State.tileReads_ctxOf (s : State) (e : Env) (rs : List (Nat × Nat)) :
    (s.tileReads e.slot rs).ctxOf e = s.ctxOf e := by
  rw [State.ctxOf, (s.tileReads_becomes e.slot rs).2]
  cases h : e.c <;> simp only [State.ctxOf, h] <;> rfl

/-- A tile that becomes `t` may go on to become another one. -/
theorem TileBecomes.then {s v u : State} {slot : Nat} {t t' : Tile} (h : TileBecomes s v slot t)
    (frame : TileFrame v u slot)
    (tile : ∀ due, v.tile slot = { t with sram := { t.sram with due := due } } →
      u.tile slot = { t' with sram := { t'.sram with due := due } }) : TileBecomes s u slot t' := by
  obtain ⟨frame', tile'⟩ := h
  refine ⟨frame'.trans frame, ?_⟩
  have := tile _ tile'
  rw [this]

/-- The row of a context's next word takes it, once its fetch has been counted. -/
theorem seqRow_takes {s : State} {t : Nat} {c : Ctx} {op : Nat} {e : Env} (word : WordAt s t c op e)
    (k : Env → State → State) : seqRow s t c op k = .next (k e (s.tileReads e.slot [(e.pc, 8)])) := by
  obtain ⟨unit, fetch, row⟩ := word
  rw [seqRow, if_neg (by simp [unit]), fetch]
  exact if_pos row

/-- A context's environment is that of its tile and of the context. -/
theorem State.env_names {s : State} {t : Nat} {c : Ctx} {e : Env} (env : s.env t c = some e) : e.t = t ∧ e.c = c := by
  unfold State.env at env
  split at env
  · split at env
    · split at env
      · obtain rfl := Option.some.inj env
        exact ⟨rfl, rfl⟩
      · cases env
    · cases env
  · cases env

/-- The word of a context is that of its tile and of the context. -/
theorem State.fetch_word {s : State} {t : Nat} {c : Ctx} {e : Env} (fetch : s.fetch t c = .word e) :
    e.t = t ∧ e.c = c := by
  unfold State.fetch at fetch
  split at fetch
  · cases fetch
  next v env =>
    have names := State.env_names env
    dsimp only at fetch
    split at fetch
    · cases fetch
    · split at fetch
      · cases fetch
      · split at fetch
        · cases fetch
        · obtain rfl := Fetch.word.inj fetch
          exact names

/-! Words that issue -/

/-- A word that issues once its fetch has been counted leaves its context as `x`. -/
theorem State.issue_becomes (s : State) (e : Env) (rs : List (Nat × Nat)) (x : CtxState) :
    TileBecomes s ((s.tileReads e.slot rs).issue e x) e.slot ((s.tile e.slot).setCtx e.c x) := by
  refine (s.tileReads_becomes e.slot rs).then (State.issue_frame _ _ _) fun due tile => ?_
  rw [State.issue_tile, tile]
  cases e.c <;> rfl

/-! Words that fault -/

/-- The running command, the pages and the clusters' own registers stay. -/
structure Unrecorded (s u : State) : Prop where
  run : u.run = s.run
  pages : u.pages = s.pages
  clusters : u.clusters = s.clusters

theorem Unrecorded.trans {s t u : State} (h : Unrecorded s t) (g : Unrecorded t u) : Unrecorded s u :=
  ⟨g.run.trans h.run, g.pages.trans h.pages, g.clusters.trans h.clusters⟩

theorem Unrecorded.page {s u : State} (h : Unrecorded s u) (k : Nat) : u.page k = s.page k := by
  rw [State.page, h.pages]
  rfl

theorem Unrecorded.of_discard (s : State) (p : Nat) : Unrecorded s (s.discard p) := by
  rw [State.discard_eq]
  exact ⟨rfl, rfl, rfl⟩

theorem Unrecorded.of_setQuery (s : State) (q : Nat) (x : QSlot) : Unrecorded s (s.setQuery q x) := ⟨rfl, rfl, rfl⟩

theorem Unrecorded.of_stopQueries (s : State) : Unrecorded s s.stopQueries := by
  unfold State.stopQueries
  generalize [1, 2, 3] = qs
  induction qs generalizing s with
  | nil => exact ⟨rfl, rfl, rfl⟩
  | cons q qs ih =>
    refine Unrecorded.trans ?_ (ih _)
    dsimp only
    split
    · exact .of_setQuery s q _
    · split
      · exact (Unrecorded.of_discard s q).trans (.of_setQuery _ q _)
      · exact ⟨rfl, rfl, rfl⟩

theorem pgCluster_ne_pgCmd (c : Nat) (p : HPort) : pgCluster c ≠ pgCmd p := by
  cases p <;> simp only [pgCluster, pgCmd, HPort.num] <;> omega

/-- RUN_STEPS does not end where it does not run. -/
theorem Unrecorded.of_endRun {s : State} (idle : s.run = none) (code : Nat) : Unrecorded s (s.endRun code) := by
  unfold State.endRun
  have stops : Unrecorded s { s.stopQueries with
      train := { s.stopQueries.train with ph1 := none, running := false }
      twin := { s.stopQueries.twin with probe := none } } := (Unrecorded.of_stopQueries s).trans ⟨rfl, rfl, rfl⟩
  dsimp only
  split
  · next running => cases (idle.symm.trans stops.run.symm).trans running
  · exact stops

/-- The end of a program's work with no command running leaves the clusters' pages and their own registers alone. -/
theorem State.progFault_cluster {s : State} (idle : s.run = none) (prog code c : Nat) :
    (s.progFault prog code).page (pgCluster c) = s.page (pgCluster c) ∧
      (s.progFault prog code).clusters = s.clusters := by
  unfold State.progFault
  split
  · have drops := Unrecorded.of_discard s 0
    have ends := drops.trans (.of_endRun (drops.run.trans idle) code)
    exact ⟨ends.page _, ends.clusters⟩
  · unfold State.queryFault
    have drops : Unrecorded s ((s.discard prog).setQuery prog { (s.discard prog).query prog with
        run := none, served := false, next := ((s.discard prog).query prog).completed }) :=
      (Unrecorded.of_discard s prog).trans (.of_setQuery _ prog _)
    dsimp only
    split
    · rw [State.recordFault_page_ne _ _ _ _ _ (pgCluster_ne_pgCmd c _), State.recordFault_eq]
      exact ⟨drops.page _, drops.clusters⟩
    · next running => cases (idle.symm.trans drops.run.symm).trans running
    · exact ⟨drops.page _, drops.clusters⟩

/-- A fault of a tile's unit is recorded on the page of its cluster, with the word's address in the cluster's registers
(R216). -/
theorem State.recordTile_eq {s : State} (e : Env) (f : TFault) (here : (s.page (pgCluster (e.slot / 17))).lost = false)
    (own : f.inbound = none) :
    ∃ r : ClusterRegs, r.seqPc = BitVec.ofNat 32 e.pc ∧
      s.recordTile e f = { s with clusters := sput {} s.clusters (e.slot / 17) r }.recordFault (pgCluster (e.slot / 17))
        f.code (e.tn * 2 ^ 28 + f.info) := by
  unfold State.recordTile
  rw [if_neg (by simp [here]), own]
  refine ⟨_, ?_, rfl⟩
  dsimp only
  split <;> rfl

/-- A word that raises DESC_INVALID with no command running leaves its tile's number and its address on the page of its
cluster (R183, R216). -/
theorem State.invalid_recorded {s : State} (e : Env) (unit : Nat) (here : (s.page (pgCluster (e.slot / 17))).lost = false)
    (idle : s.run = none) :
    ((s.invalid e unit).page (pgCluster (e.slot / 17))).code = fDESC_INVALID ∧
      ((s.invalid e unit).page (pgCluster (e.slot / 17))).info = BitVec.ofNat 32 (e.tn * 2 ^ 28) ∧
      ((s.invalid e unit).cluster (e.slot / 17)).seqPc = BitVec.ofNat 32 e.pc := by
  obtain ⟨r, pc, recorded⟩ := State.recordTile_eq e { code := fDESC_INVALID, unit := unit } here rfl
  have raised : s.invalid e unit = (s.recordTile e { code := fDESC_INVALID, unit := unit }).progFault e.prog fDESC_INVALID := by
    rw [State.invalid, State.tileFault]
    exact if_neg (show ¬ fDESC_INVALID = fSRAM_UE by decide)
  have quiet : (s.recordTile e { code := fDESC_INVALID, unit := unit }).run = none := by
    rw [recorded, State.recordFault_eq]
    exact idle
  obtain ⟨page, clusters⟩ := State.progFault_cluster quiet e.prog fDESC_INVALID (e.slot / 17)
  rw [State.cluster, raised, page, clusters, recorded]
  obtain ⟨-, code, info, -⟩ := State.recordFault_on { s with clusters := sput {} s.clusters (e.slot / 17) r }
    (pgCluster (e.slot / 17)) fDESC_INVALID (e.tn * 2 ^ 28 + 0) here
  refine ⟨code, info.trans (congrArg _ (Nat.add_zero _)), ?_⟩
  rw [State.recordFault_clusters, sget_sput_self, pc]

/-- What becomes of a tile survives a count of events. -/
theorem TileBecomes.edge {s u : State} {slot : Nat} {t : Tile} (h : TileBecomes s u slot t) (k ev : Nat) :
    TileBecomes s (u.edge k ev) slot t :=
  h.then (u.edge_frame k ev slot) fun _ tile => (u.edge_tile k ev slot).trans tile

/-! The rows -/

section
variable {s : State} {t : Nat} {c : Ctx} {e : Env}

/-- A control word that is refused leaves its fault on the page of its cluster. -/
theorem seqRow_faults {op : Nat} {k : Env → State → State} (word : WordAt s t c op e)
    (refused : ∀ v : State, v.ctxOf e = s.ctxOf e → k e v = v.invalid e 0)
    (here : (s.page (pgCluster (e.slot / 17))).lost = false) (idle : s.run = none) :
    ∃ u, seqRow s t c op k = .next u ∧ (u.page (pgCluster (e.slot / 17))).code = fDESC_INVALID ∧
      (u.page (pgCluster (e.slot / 17))).info = BitVec.ofNat 32 (t % 16 * 2 ^ 28) ∧
      (u.cluster (e.slot / 17)).seqPc = BitVec.ofNat 32 e.pc := by
  have ⟨_, fetch, _⟩ := word
  obtain ⟨⟨rest, -, pages, -⟩, -⟩ := s.tileReads_becomes e.slot [(e.pc, 8)]
  refine ⟨_, seqRow_takes word k, ?_⟩
  rw [refused _ (s.tileReads_ctxOf e _), ← (State.fetch_word fetch).1]
  refine State.invalid_recorded e 0 ?_ ?_
  · rw [pages _ (by simp)]
    exact here
  · rw [rest]
    exact idle

/-- A word that issues leaves its context as `x`. -/
theorem seqRow_issues {op : Nat} {k : Env → State → State} {x : CtxState} (word : WordAt s t c op e)
    (issued : ∀ v : State, v.ctxOf e = s.ctxOf e → k e v = v.issue e x) :
    ∃ u, seqRow s t c op k = .next u ∧ TileBecomes s u e.slot ((s.tile e.slot).setCtx e.c x) := by
  refine ⟨_, seqRow_takes word k, ?_⟩
  rw [issued _ (s.tileReads_ctxOf e _)]
  exact s.issue_becomes e _ x

theorem doLoop_invalid (bad : fld e.word 57 48 ≠ 0 ∨ fld e.word 47 36 = 0 ∨
      (s.ctxOf e).codeBase + (s.ctxOf e).codeLen < e.pc + 8 + 8 * fld e.word 47 36 ∨ 4 ≤ (s.ctxOf e).loops.length ∨
      ∃ l r, (s.ctxOf e).loops = l :: r ∧ l.stop < e.pc + 8 + 8 * fld e.word 47 36) :
    doLoop e s = s.invalid e 0 := by
  unfold doLoop
  refine if_pos ?_
  obtain h | h | h | h | ⟨l, r, loops, h⟩ := bad
  · exact .inl h
  · exact .inr (.inl h)
  · exact .inr (.inr (.inl h))
  · exact .inr (.inr (.inr (.inl h)))
  · refine .inr (.inr (.inr (.inr ?_)))
    rw [loops]
    exact h

/-- LOOP enters its body, or goes on after it where its count is 0 (R185). -/
theorem doLoop_issues {stop n : Nat} (atEnd : stop = e.pc + 8 + 8 * fld e.word 47 36)
    (zero : fld e.word 57 48 = 0) (body : fld e.word 47 36 ≠ 0) (room : stop ≤ (s.ctxOf e).codeBase + (s.ctxOf e).codeLen)
    (depth : (s.ctxOf e).loops.length < 4) (nested : ∀ l r, (s.ctxOf e).loops = l :: r → stop ≤ l.stop)
    (count : n = if fld e.word 35 32 = 0 then fld e.word 31 0 else (s.ctxOf e).reg (fld e.word 35 32) % 2 ^ 32) :
    doLoop e s = s.issue e (if n = 0 then (s.ctxOf e).goto stop else
      { s.ctxOf e with pc := e.pc + 8, loops := ⟨e.pc + 8, stop, n⟩ :: (s.ctxOf e).loops }) := by
  subst atEnd count
  have outer : ¬ (match (s.ctxOf e).loops with
      | [] => e.pc + 8 + 8 * fld e.word 47 36
      | l :: _ => l.stop) < e.pc + 8 + 8 * fld e.word 47 36 := by
    split
    · exact Nat.lt_irrefl _
    · next l r loops => exact Nat.not_lt.mpr (nested l r loops)
  unfold doLoop
  dsimp only
  refine (if_neg ?_).trans ?_
  · rintro (h | h | h | h | h)
    exacts [h zero, body h, Nat.not_lt.mpr room h, Nat.not_le.mpr depth h, outer h]
  · rw [ite_not, apply_ite (s.issue e)]

end

/-- CTR_SET writes its counter once the word has issued (R175, R186). -/
theorem ctrSet_becomes (s : State) (e : Env) (rs : List (Nat × Nat)) (x : CtxState) (i n : Nat) :
    let v := (s.tileReads e.slot rs).issue e x
    TileBecomes s (v.setTile e.slot { v.tile e.slot with ctrs := sput 0 (v.tile e.slot).ctrs i n }) e.slot
      { (s.tile e.slot).setCtx e.c x with ctrs := sput 0 (s.tile e.slot).ctrs i n } := by
  refine (s.issue_becomes e rs x).then (State.setTile_frame _ _ _) fun due tile => ?_
  rw [State.setTile_tile, tile]
  cases e.c <;> rfl

/-! The loop stack (R185) -/

theorem CtxState.goto_back {x : CtxState} {l : LoopLevel} {r : List LoopLevel} (loops : x.loops = l :: r) (more : 1 < l.left) :
    x.goto l.stop = { x with pc := l.start, loops := { l with left := l.left - 1 } :: r } := by
  simp [CtxState.goto, loopBack, loops, more]

theorem CtxState.goto_leaves {x : CtxState} {l : LoopLevel} (loops : x.loops = [l]) (last : l.left ≤ 1) :
    x.goto l.stop = { x with pc := l.stop, loops := [] } := by
  simp [CtxState.goto, loopBack, loops, Nat.not_lt.mpr last]

theorem CtxState.goto_inside {x : CtxState} {a : Nat} (inside : ∀ l r, x.loops = l :: r → a ≠ l.stop) :
    x.goto a = { x with pc := a } := by
  rw [CtxState.goto, loopBack]
  split
  · rfl
  · next l r loops => exact if_neg (inside l r loops)

/-! Scalar registers (R175) -/

@[simp] theorem CtxState.reg_setReg_self (x : CtxState) {i v : Nat} (hi : i ≠ 0) (hv : v < 2 ^ 64) :
    (x.setReg i v).reg i = v := by
  rw [CtxState.setReg, if_neg hi, CtxState.reg, if_neg hi, sget_sput_self, BitVec.toNat_ofNat, Nat.mod_eq_of_lt hv]

theorem CtxState.reg_setReg_ne (x : CtxState) {i k : Nat} (v : Nat) (hk : k ≠ i) : (x.setReg i v).reg k = x.reg k := by
  unfold CtxState.setReg
  split
  · rfl
  · simp only [CtxState.reg, sget_sput_ne _ _ _ _ _ hk]

end Sys2Proof.Machine

open Sys2Proof Sys2Proof.Machine

/-- Settles O33: a word with its low bits 0 issues (`seqRow_issues`); of a refused one the fault is recorded and the end of
the program's work leaves the record alone (`seqRow_faults`). -/
theorem controlWords : Obligations.ControlWords := by
  refine ⟨fun s t c e zero => ⟨fun word => ?_, fun word => ?_, fun word => ?_⟩, fun s t c e i bad here idle => ?_⟩
  · exact seqRow_issues word fun v same => by rw [doNop, if_neg (not_not.mpr zero), same]
  · refine ⟨_, seqRow_takes word _, ?_⟩
    rw [doTickWait, if_neg (not_not.mpr zero), State.tileReads_ctxOf]
    dsimp only
    split
    · exact (s.issue_becomes e _ _).edge _ _
    · exact s.issue_becomes e _ _
  · exact seqRow_issues word fun v same => by rw [doStepEnd, if_neg (not_not.mpr zero), same]
  · obtain ⟨rfl, word, h⟩ | ⟨rfl, word, h⟩ | ⟨rfl, word, h⟩ | ⟨rfl, word, h⟩ | ⟨rfl, word, h⟩ | ⟨⟨n, rfl⟩, word, h⟩ |
      ⟨rfl, word, h⟩ | ⟨rfl, word, h⟩ := bad
    · exact seqRow_faults word (fun v _ => if_pos h) here idle
    · exact seqRow_faults word (fun v _ => if_pos h) here idle
    · exact seqRow_faults word (fun v _ => if_pos h) here idle
    · exact seqRow_faults word (fun v _ => if_pos h) here idle
    · exact seqRow_faults word (fun v _ => if_pos h) here idle
    · have ⟨_, fetch, _⟩ := word
      rw [← (State.fetch_word fetch).2] at h
      exact seqRow_faults word (fun v _ => if_pos h) here idle
    · exact seqRow_faults word (fun v _ => if_pos h) here idle
    · exact seqRow_faults word (fun v same => doLoop_invalid (by rw [same]; exact h)) here idle

/-- Settles O34: each word issues with its context's register written, and a register reads what was written last. -/
theorem scalarWords : Obligations.ScalarWords := by
  refine fun s t c e => ⟨fun word zero => ?_, fun word zero => ?_, fun x v => ⟨if_pos rfl, if_pos rfl⟩,
    fun x i v hi hv => ⟨x.reg_setReg_self hi hv, fun k hk => x.reg_setReg_ne v hk⟩⟩
  · exact seqRow_issues word fun v same => by rw [doSeti, if_neg (not_not.mpr zero), same]
  · exact seqRow_issues word fun v same => by rw [doAddi, if_neg (not_not.mpr zero), same]

/-- Settles O35: LOOP issues with its body entered or passed (`doLoop_issues`), the loop stack by its recursion, CTR_SET
after its issue (`ctrSet_becomes`), CTR_WAIT as its counter stands. -/
theorem loopsAndCounters : Obligations.LoopsAndCounters := by
  refine ⟨⟨?_, fun x l r loops more => x.goto_back loops more, fun x l loops last => x.goto_leaves loops last,
    fun x a inside => x.goto_inside inside⟩, fun s t c e => ⟨fun word zero held same => ?_, fun word zero => ?_⟩⟩
  · rintro s t c e x stop n word rfl atEnd zero body room depth nested count
    exact seqRow_issues word fun v same => by
      rw [← same] at room depth nested count ⊢
      exact doLoop_issues atEnd zero body room depth nested count
  · have ⟨_, fetch, _⟩ := word
    refine ⟨_, seqRow_takes word _, ?_⟩
    rw [← (State.fetch_word fetch).2] at held
    rw [doCtrSet, if_neg (by rintro (h | ⟨h, low⟩) <;> [exact h zero; exact absurd (held h) (Nat.not_lt.mpr low)]),
      State.tileReads_ctxOf]
    exact ctrSet_becomes s e _ _ _ _
  · refine ⟨_, seqRow_takes word _, ?_⟩
    have ctrs : ((s.tileReads e.slot [(e.pc, 8)]).tile e.slot).ctrs = (s.tile e.slot).ctrs := by
      rw [(s.tileReads_becomes e.slot _).2]
    rw [doCtrWait, if_neg (not_not.mpr zero), State.tileReads_ctxOf, ctrs]
    dsimp only
    split
    · exact s.issue_becomes e _ _
    · exact s.tileReads_becomes e.slot _
end

section
/-! PROOFS. The requests of a unit operation: what its lines and its reads of other tiles leave alone (R241, R245, R291). -/

namespace Sys2Proof.Machine

/-! An operation takes its requests -/

/-- An operation of number `id` of a tile has only requests that satisfy `P` to make. -/
def Tile.Due (t : Tile) (id : Nat) (P : UnitReq → Prop) : Prop :=
  ∀ o ∈ t.copyQ ++ t.vecQ, o.id = id → ∀ q ∈ o.todo, P q

/-- A change of an operation that concerns its requests alone. -/
def UnitOp.Requests (f : UnitOp → UnitOp) : Prop := ∀ o, (f o).core = o.core

theorem Tile.modOp_due (t : Tile) (id : Nat) {f : UnitOp → UnitOp} {P : UnitReq → Prop}
    (asks : ∀ o, ∀ q ∈ (f o).todo, P q) : (t.modOp id f).Due id P := by
  intro o mem number
  simp only [Tile.modOp, ← List.map_append, List.mem_map] at mem
  obtain ⟨x, -, rfl⟩ := mem
  split at number
  · next own => rw [if_pos own]; exact asks x
  · next other => exact absurd number other

theorem map_core_modOp (q : List UnitOp) (id : Nat) {f : UnitOp → UnitOp} (h : UnitOp.Requests f) :
    (q.map fun o => if o.id = id then f o else o).map UnitOp.core = q.map UnitOp.core := by
  rw [List.map_map]
  refine List.map_congr_left fun o _ => ?_
  simp only [Function.comp]
  split
  · exact h o
  · rfl

/-- Sending a request leaves the queues of the tile's units alone. -/
theorem State.sendReq_due {s : State} {slot id : Nat} {P : UnitReq → Prop} (q : UnitReq)
    (due : (s.tile slot).Due id P) : ((s.sendReq slot q).tile slot).Due id P := by
  cases q with
  | line r => exact due
  | tile p =>
    have tile : (s.sendReq slot (.tile p)).tile slot = { s.tile slot with nextId := (s.tile slot).nextId + 1 } :=
      s.setTile_tile slot _
    rw [tile]
    exact due

/-- What a change of an operation's requests keeps, and sending one of them, survives an operation's sending. -/
theorem State.pump_keeps {I : State → Prop} {P : UnitReq → Prop} {slot id : Nat}
    (takes : ∀ v f, UnitOp.Requests f → I v → I (v.setTile slot ((v.tile slot).modOp id f)))
    (sends : ∀ v q, P q → I v → I (v.sendReq slot q)) (n : Nat) {v : State} (hv : I v) (due : (v.tile slot).Due id P) :
    I (State.pump slot id n v) := by
  induction n generalizing v with
  | zero => exact hv
  | succ n ih =>
    rw [State.pump]
    split
    · exact hv
    next o found =>
      split
      · exact hv
      next q r todo =>
        split
        · have mem := List.mem_of_find?_eq_some found
          have number : o.id = id := by simpa using List.find?_some found
          have asked : ∀ k ∈ q :: r, P k := fun k hk => due o mem number k (todo ▸ hk)
          refine ih (sends _ q (asked q (by simp)) (takes v (fun o => { o with todo := r }) (fun _ => rfl) hv))
            (State.sendReq_due q ?_)
          rw [State.setTile_tile]
          exact Tile.modOp_due _ id fun _ k hk => asked k (List.mem_cons_of_mem q hk)
        · exact hv

/-- What a change of an operation's requests keeps, and sending one of them, survives its asking. -/
theorem State.request_keeps {I : State → Prop} {P : UnitReq → Prop} {slot id : Nat} {qs : List UnitReq}
    (takes : ∀ v f, UnitOp.Requests f → I v → I (v.setTile slot ((v.tile slot).modOp id f)))
    (sends : ∀ v q, P q → I v → I (v.sendReq slot q)) (asks : ∀ q ∈ qs, P q) {v : State} (hv : I v) :
    I (v.request slot id qs) := by
  unfold State.request
  split
  · exact hv
  · refine State.pump_keeps takes sends 64
      (takes v (fun o => { o with left := qs.length, todo := qs }) (fun _ => rfl) hv) ?_
    rw [State.setTile_tile]
    exact Tile.modOp_due _ id fun _ => asks

@[simp] theorem State.request_nil (s : State) (slot id : Nat) : s.request slot id [] = s := rfl

/-! Lines (R291) -/

/-- A request for a line of a vat. -/
def UnitReq.IsLine (q : UnitReq) : Prop := ∃ r, q = .line r

theorem lineReads_isLine (e : Env) (id : Nat) (ms : List Move) : ∀ q ∈ lineReads e id ms, q.IsLine := by
  intro q hq
  obtain ⟨l, -, rfl⟩ := List.mem_map.mp hq
  exact ⟨_, rfl⟩

theorem lineWrites_isLine (e : Env) (id : Nat) (ws : List (Nat × List Byte)) : ∀ q ∈ lineWrites e id ws, q.IsLine := by
  intro q hq
  obtain ⟨l, -, rfl⟩ := List.mem_map.mp hq
  exact ⟨_, rfl⟩

/-- The queues of a vat may have grown; nothing else of it changes. -/
def VatQueued (a b : VatState) : Prop := b = { a with qStream := b.qStream, qC1 := b.qC1, qOther := b.qOther }

theorem VatQueued.trans {a b c : VatState} (h : VatQueued a b) (g : VatQueued b c) : VatQueued a c := by
  unfold VatQueued at *
  rw [g, h]

/-- A line request enters a queue of its vat and changes nothing else. -/
theorem State.enqueueLine_eq (s : State) (r : LineReq) :
    ∃ x : VatState, VatQueued (s.vats.vat (vatOf r.addr)) x ∧
      s.enqueueLine r = { s with vats := s.vats.setVat (vatOf r.addr) x } := by
  refine ⟨_, ?_, rfl⟩
  dsimp only
  split <;> rfl

/-- A tile that has become `t` has asked for nothing yet. -/
theorem TileBecomes.asks {s u : State} {slot : Nat} {t : Tile} (h : TileBecomes s u slot t) : TileAsks s u slot t := by
  obtain ⟨frame, tile⟩ := h
  have vats : u.vats = s.vats := by rw [frame.1]
  refine ⟨by rw [vats]; exact frame, by rw [vats], fun v => by rw [vats], ?_, ?_, ?_⟩ <;> rw [tile]

theorem TileAsks.takes {s v : State} {slot id : Nat} {t : Tile} {f : UnitOp → UnitOp} (hf : UnitOp.Requests f)
    (h : TileAsks s v slot t) : TileAsks s (v.setTile slot ((v.tile slot).modOp id f)) slot t := by
  obtain ⟨frame, vats, queues, tile, copies, vectors⟩ := h
  refine ⟨frame.trans (v.setTile_frame slot _), vats, queues, ?_, ?_, ?_⟩ <;> rw [State.setTile_tile]
  · rw [tile]
    rfl
  · exact (map_core_modOp _ id hf).trans copies
  · exact (map_core_modOp _ id hf).trans vectors

theorem TileAsks.sends {s v : State} {slot : Nat} {t : Tile} {q : UnitReq} (line : q.IsLine)
    (h : TileAsks s v slot t) : TileAsks s (v.sendReq slot q) slot t := by
  obtain ⟨r, rfl⟩ := line
  obtain ⟨frame, vats, queues, tile, copies, vectors⟩ := h
  obtain ⟨x, queued, eq⟩ := v.enqueueLine_eq r
  have sent : v.sendReq slot (.line r) = { v with vats := v.vats.setVat (vatOf r.addr) x } := eq
  rw [sent]
  refine ⟨⟨?_, frame.2.1, frame.2.2.1, frame.2.2.2⟩, ?_, fun k => ?_, tile, copies, vectors⟩
  · conv_lhs => rw [frame.1]
  · conv_lhs => rw [vats]
    rfl
  · by_cases hk : k = vatOf r.addr
    · subst hk
      have now : (v.vats.setVat (vatOf r.addr) x).vat (vatOf r.addr) = x := sget_sput_self _ _ _ _
      rw [now]
      exact VatQueued.trans (queues _) queued
    · have kept : (v.vats.setVat (vatOf r.addr) x).vat k = v.vats.vat k := sget_sput_ne _ _ _ _ _ hk
      rw [kept]
      exact queues k

/-- An operation that asks for lines changes its own requests and the vats' queues alone. -/
theorem TileAsks.request {s v : State} {slot : Nat} {t : Tile} (h : TileAsks s v slot t) (id : Nat) {qs : List UnitReq}
    (lines : ∀ q ∈ qs, q.IsLine) : TileAsks s (v.request slot id qs) slot t :=
  State.request_keeps (I := fun v => TileAsks s v slot t) (P := UnitReq.IsLine) (fun _ _ hf hv => hv.takes hf)
    (fun _ _ line hv => hv.sends line) lines h

end Sys2Proof.Machine
end

section
/-! PROOFS. Vector words store their results, or wait for their turn or their lines (R191 to R198, R309 to R311, R334 to
R339). -/

namespace Sys2Proof.Machine

/-! A vector operation and its queue -/

theorem Tile.putVecQ_others (t : Tile) (q : List UnitOp) (n : Nat) :
    ({ t with vecQ := q, nextId := n } : Tile).others .vector = t.others .vector := rfl

theorem advanced_others (s : State) (e : Env) (u : TileUnit) : (advanced s e).others u = (s.tile e.slot).others u :=
  Tile.setCtx_others _ _ _ _

@[simp] theorem advanced_vecQ (s : State) (e : Env) : (advanced s e).vecQ = (s.tile e.slot).vecQ := by
  unfold advanced; cases e.c <;> rfl
@[simp] theorem advanced_copyQ (s : State) (e : Env) : (advanced s e).copyQ = (s.tile e.slot).copyQ := by
  unfold advanced; cases e.c <;> rfl
@[simp] theorem advanced_census (s : State) (e : Env) : (advanced s e).census = (s.tile e.slot).census := by
  unfold advanced; cases e.c <;> rfl
@[simp] theorem advanced_nextId (s : State) (e : Env) : (advanced s e).nextId = (s.tile e.slot).nextId := by
  unfold advanced; cases e.c <;> rfl
@[simp] theorem advanced_sram (s : State) (e : Env) : (advanced s e).sram = (s.tile e.slot).sram := Tile.setCtx_sram _ _ _

/-- What may be written stays so as long as the images and the code region of context 1 do (R178, R227). -/
theorem State.writable_eq {s u : State} {e : Env} (same : u.guarded e = s.guarded e) (unit : Nat) (rs : List (Nat × Nat)) :
    u.writable e unit rs = s.writable e unit rs := by
  rw [State.writable, same]
  rfl

section
variable {s : State} {e : Env} {b : Issue} {x : VArgs} {j : VJob} {o : VOut}

/-- A vector operation that meets no other unit's enters its queue, and no conflict is noted. -/
theorem State.vqueue_eq {v : State} {u : UnitOp} (calm : u.race = false)
    (alone : (v.tile e.slot).races .vector u = false) :
    v.vqueue e u = v.setTile e.slot { v.tile e.slot with
      vecQ := (v.tile e.slot).vecQ ++ [u], nextId := (v.tile e.slot).nextId + 1 } := by
  have noted : u.noted (v.tile e.slot) .vector = u := UnitOp.noted_eq_self calm (Tile.written_of_races alone)
  change ((v.setTile e.slot { v.tile e.slot with
    vecQ := (v.tile e.slot).vecQ ++ [u.noted (v.tile e.slot) .vector]
    nextId := (v.tile e.slot).nextId + 1 }).conflicts e.slot .vector (u.noted (v.tile e.slot) .vector).dst) = _
  rw [noted]
  refine State.conflicts_eq_self ?_
  rw [State.setTile_tile]
  exact Tile.meets_of_races alone

/-- The state once a vector word has issued and its operation stands in its queue. -/
def State.vqueued (s : State) (e : Env) (u : UnitOp) : State := (s.issue e (s.ctxOf e).advance).vqueue e u

theorem State.vqueued_becomes {u : UnitOp} (calm : u.race = false) (alone : (s.tile e.slot).races .vector u = false) :
    TileFrame s (s.vqueued e u) e.slot ∧ (s.vqueued e u).tile e.slot =
      { advanced s e with vecQ := (advanced s e).vecQ ++ [u], nextId := (advanced s e).nextId + 1 } := by
  have tile : (s.issue e (s.ctxOf e).advance).tile e.slot = advanced s e := s.issue_tile e _
  have still : ((s.issue e (s.ctxOf e).advance).tile e.slot).races .vector u = false := by
    rw [tile, Tile.races, advanced_others]
    exact alone
  rw [State.vqueued, State.vqueue_eq calm still, tile]
  exact ⟨(s.issue_frame e _).trans (State.setTile_frame _ _ _), State.setTile_tile _ _ _⟩

/-! The results of a vector operation -/

/-- A tile with what a vector operation leaves in it, SAT aside (R191, R198). -/
def Tile.vstore (t : Tile) (x : VArgs) (o : VOut) : Tile :=
  let t : Tile := { t with
    sram := t.sram.writes ((o.ws.filter fun (w : Bool × Nat × List Byte) => !w.1).map fun (w : Bool × Nat × List Byte) => w.2)
    census := match o.clear with
      | some k => sput {} t.census k {}
      | none => t.census
    digests := match o.digest with
      | some (d, v) => sput {} t.digests d v
      | none => t.digests }
  t.countCensus x.cslot o.cls

theorem State.vapply_becomes (v : State) (e : Env) (x : VArgs) (o : VOut) :
    TileFrame v (v.vapply e x o) e.slot ∧
      (v.vapply e x o).tile e.slot = ((v.tile e.slot).vstore x o).setSat e.c o.sat := by
  have drawn : TileFrame v { v with free := v.free + o.free } e.slot := ⟨rfl, fun _ _ => rfl, .refl v [], rfl⟩
  refine ⟨(drawn.trans (State.setTile_frame _ _ _)).trans (State.noteSat_frame _ _ _ _), ?_⟩
  rw [State.vapply, State.noteSat_tile, State.setTile_tile]
  rfl

theorem filter_vat_eq_nil {α : Type} {rs : List (Bool × α)} (tile : ∀ r ∈ rs, r.1 = false) : (rs.filter fun r => r.1) = [] :=
  List.filter_eq_nil_iff.mpr fun r hr => by simp [tile r hr]

theorem vreads_eq_nil (e : Env) (id : Nat) (tile : ∀ r ∈ j.reads, r.1 = false) : vreads e id j = [] := by
  rw [vreads, filter_vat_eq_nil tile]
  rfl

/-- An operation that writes its tile alone, where it meets no other unit's, performs there and asks for nothing. -/
theorem State.vperform_eq {v : State} (tile : ∀ w ∈ o.ws, w.1 = false)
    (alone : (((v.tile e.slot).others .vector).any fun k => k.meets (o.rangesIn false)) = false) (id : Nat) :
    v.vperform e x id o none = v.vapply e x o := by
  have calm : (v.vapply e x o).conflicts e.slot .vector (o.rangesIn false) = v.vapply e x o := by
    refine State.conflicts_eq_self ?_
    rw [(v.vapply_becomes e x o).2, Tile.setSat_others]
    exact alone
  rw [State.vperform, calm, filter_vat_eq_nil tile]
  rfl

/-- An operation that waits for nothing and reads and writes its tile alone is stored at once (R191, R198). -/
theorem State.vissue_stores (clean : (s.tile e.slot).sram.errs = []) (first : ∀ q ∈ (s.tile e.slot).vecQ, q.waiting = false)
    (reads : ∀ r ∈ j.reads, r.1 = false) (run : j.run s = (o, none)) (writes : ∀ w ∈ o.ws, w.1 = false)
    (fits : s.writable e 9 (o.rangesIn false) = .ok ())
    (alone : (s.tile e.slot).races .vector (s.vunit e b j o false) = false) :
    TileBecomes s (s.vissue e b x j) e.slot
      ((({ advanced s e with vecQ := (advanced s e).vecQ ++ [s.vunit e b j o false]
                             nextId := (advanced s e).nextId + 1 } : Tile).vstore x o).setSat e.c o.sat) := by
  obtain ⟨frame, tile⟩ := State.vqueued_becomes (u := s.vunit e b j o false) rfl alone
  have unread : (s.tile e.slot).written .vector (s.vunit e b j o false).ext = false := Tile.written_of_races alone
  have calm : ((((s.vqueued e (s.vunit e b j o false)).tile e.slot).others .vector).any
      fun k => k.meets (o.rangesIn false)) = false := by
    rw [tile, Tile.putVecQ_others, advanced_others]
    exact Tile.meets_of_races alone
  have performed : s.vissue e b x j = (s.vqueued e (s.vunit e b j o false)).vapply e x o := by
    have goes : ((s.tile e.slot).vecQ.any fun q => q.waiting) = false := by simpa using first
    unfold State.vissue
    simp only [run, State.meetReads_eq_self unread, goes, vreads_eq_nil e _ reads, EccMem.bad_clean _ _ clean, fits,
      State.vcount, State.tileReads_clean clean]
    exact State.vperform_eq writes calm _
  obtain ⟨frame', tile'⟩ := (s.vqueued e (s.vunit e b j o false)).vapply_becomes e x o
  rw [performed]
  exact TileFrame.becomes (frame.trans frame') (tile'.trans (by rw [tile]))

/-- An operation behind one that waits, or that reads vat space, waits in the queue (R191, R292). -/
theorem State.vissue_waits
    (later : (∃ q ∈ (s.tile e.slot).vecQ, q.waiting = true) ∨ vreads e (s.tile e.slot).nextId j ≠ [])
    (run : (j.run s).1 = o) (alone : (s.tile e.slot).races .vector (s.vunit e b j o false) = false) :
    TileAsks s (s.vissue e b x j) e.slot
      { advanced s e with vecQ := (advanced s e).vecQ ++ [s.vunit e b j o true], nextId := (advanced s e).nextId + 1 } := by
  obtain ⟨frame, tile⟩ := State.vqueued_becomes (u := s.vunit e b j o true) rfl alone
  have queued := (frame.becomes tile).asks
  have waits : (((s.tile e.slot).vecQ.any fun q => q.waiting) || !(vreads e (s.tile e.slot).nextId j).isEmpty) = true := by
    simpa using later
  unfold State.vissue
  dsimp only
  rw [run, if_pos waits]
  split
  · exact queued
  · exact queued.request _ (lineReads_isLine _ _ _)

end

/-! The rows -/

/-- A vector word whose checks give a job issues it. -/
theorem vecDo_eq {s : State} {e : Env} {b : Issue} {j : VJob} {chk : State → Env → VArgs → Except TFault VJob}
    (zero : allZero (bytesAt b.blk 32 32) = true) (check : chk s e (VArgs.parse e.word b) = .ok j) :
    vecDo chk b e s = s.vissue e b (VArgs.parse e.word b) j := by
  unfold vecDo
  dsimp only
  rw [zero, check]
  rfl

/-- A row that hands its word to the vector engine stores the word's results or lets it wait. -/
theorem VecIssues.of_row {row : Nat → Ctx → Instr} {op : Nat} {sub : Option Nat}
    {chk : State → Env → VArgs → Except TFault VJob}
    (takes : ∀ s t c e b, IssueAt s t c op vecFull e b → (∀ k, sub = some k → fld e.word 42 37 = k) →
      exec (row t c) s = .next (vecDo chk b e s)) : VecIssues row op sub chk := by
  intro s t c e b j o issue zero subOp check alone
  have ⟨_, clean, _, _⟩ := issue
  have goes : exec (row t c) s = .next (s.vissue e b (VArgs.parse e.word b) j) :=
    (takes s t c e b issue subOp).trans (congrArg _ (vecDo_eq zero check))
  refine ⟨fun first reads run writes fits => ⟨_, goes, ?_⟩, fun later run => ⟨_, goes, State.vissue_waits later run alone⟩⟩
  have stores := State.vissue_stores (x := VArgs.parse e.word b) clean first reads run writes fits alone
  have tile : (o.ws.filter fun (w : Bool × Nat × List Byte) => !w.1) = o.ws :=
    List.filter_eq_self.mpr fun w hw => by simp [writes w hw]
  rw [Tile.vstore, tile] at stores
  exact stores

/-- A row of a sub-operation's own. -/
theorem vecSub_eq {sub n : Nat} {e : Env} (own : fld e.word 42 37 = sub) (k : Issue → Env → State → State) (b : Issue)
    (s : State) : vecSub sub n k b e s = k b e s := if_pos (.inl own)

theorem VecIssues.of_varith {row : Nat → Ctx → Instr} {k : Nat} (h : ∀ t c s, exec (row t c) s = varithRow k t c s) :
    VecIssues row 0x11 (some k) State.varith :=
  .of_row fun s t c e b issue own => by rw [h, varithRow, issueRow_issue issue, vecSub_eq (own k rfl)]

theorem VecIssues.of_vopt {row : Nat → Ctx → Instr} {k : Nat} (h : ∀ t c s, exec (row t c) s = voptRow k t c s) :
    VecIssues row 0x13 (some k) voptChk :=
  .of_row fun s t c e b issue own => by rw [h, voptRow, issueRow_issue issue, vecSub_eq (own k rfl)]

end Sys2Proof.Machine

open Sys2Proof Sys2Proof.Machine

/-- Settles O42: each row hands its word to the vector engine (`VecIssues.of_row`), which stores what the operation leaves
(`State.vissue_stores`) or queues it (`State.vissue_waits`). -/
theorem vectorWords : Obligations.VectorWords := by
  refine ⟨.of_row fun s t c e b issue _ => issueRow_issue issue _, ?_,
    .of_row fun s t c e b issue _ => issueRow_issue issue _, ?_,
    .of_row fun s t c e b issue _ => issueRow_issue issue _, .of_row fun s t c e b issue _ => issueRow_issue issue _⟩
  · simp only [List.forall_mem_cons, List.not_mem_nil, false_imp_iff, implies_true, and_true]
    refine ⟨?_, ?_, ?_, ?_, ?_, ?_, ?_, ?_, ?_, ?_⟩ <;> exact .of_varith fun _ _ _ => rfl
  · simp only [List.forall_mem_cons, List.not_mem_nil, false_imp_iff, implies_true, and_true]
    refine ⟨?_, ?_, ?_⟩ <;> exact .of_vopt fun _ _ _ => rfl
end

section
/-! PROOFS. CENSUS words clear a slot, store its counts or store the context's flags (R182, R198). -/

namespace Sys2Proof.Machine

theorem sput_default_sput (k : Nat) (m : List (Nat × Census)) : sput {} (sput {} m k {}) k {} = sput {} m k {} := by
  simp only [sput, if_true, List.filter_filter, Bool.and_self]

/-- An operation that reads and writes nothing meets no other. -/
theorem Tile.races_nothing (t : Tile) (u : TileUnit) {o : UnitOp} (ext : o.ext = []) (dst : o.dst = []) :
    t.races u o = false := by
  simp [Tile.races, UnitOp.meets, ext, dst]

/-- An AUX address in the tile's SRAM (R182). -/
theorem auxAddrOf_tile {a xb n : Nat} (some_ : a ≠ noneAddr) (pos : 0 < n) (fits : (a + xb) % 2 ^ 64 + n ≤ 0x280000) :
    auxAddrOf a xb n 1 = .ok (some ((a + xb) % 2 ^ 64)) := by
  have inside : tileRange ((a + xb) % 2 ^ 64) n = true := by
    simp only [tileRange, Bool.and_eq_true, decide_eq_true_eq]
    omega
  unfold auxAddrOf
  dsimp only
  rw [if_neg some_, if_neg (by simp [Nat.mod_one]), inside]
  rfl

/-- What a CENSUS that stores leaves, its address being `a`. -/
def censusStores (e : Env) (x : VArgs) (a : Nat) (s : State) : VOut :=
  { ws := [(false, a, if x.sub = 1 then (sget {} (s.tile e.slot).census x.cslot).bytes
      else leBytes 4 ((s.tile e.slot).ctx e.c).flags.toNat)] }

section
variable {s : State} {t : Nat} {c : Ctx} {e : Env} {b : Issue} {x : VArgs}

theorem State.census_clears (auxs : x.auxs = 0) (zero : allZero (bytesAt b.blk 4 60) = true) (sub : x.sub = 0) :
    s.census e x b = .ok { run := fun _ => ({ clear := some x.cslot }, none) } := by
  unfold State.census
  rw [auxs, zero, sub]
  rfl

theorem State.census_stores {a : Nat} (auxs : x.auxs = 0) (zero : allZero (bytesAt b.blk 4 60) = true)
    (sub : x.sub = 1 ∨ x.sub = 2) (some_ : x.s0 ≠ noneAddr)
    (addr : auxAddrOf x.s0 x.xb (if x.sub = 1 then 16 else 4) 1 = .ok (some a)) :
    s.census e x b = .ok { run := fun s => (censusStores e x a s, none) } := by
  have least : x.sub ≠ 0 ∧ x.sub ≤ 2 := by omega
  unfold State.census
  rw [auxs, zero, addr]
  simp [least.1, least.2, vinv, need, some_]
  rfl

/-- A CENSUS word whose checks give a job that writes its tile alone is stored at once. -/
theorem exec_census_stores {j : VJob} {o : VOut} {row : Instr} (issue : IssueAt s t c 0x16 vecFull e b)
    (first : ∀ q ∈ (s.tile e.slot).vecQ, q.waiting = false) (parsed : VArgs.parse e.word b = x)
    (own : exec row s = censusRow x.sub t c s) (check : s.census e x b = .ok j) (reads : j.reads = [])
    (run : j.run s = (o, none)) (writes : ∀ w ∈ o.ws, w.1 = false) (fits : s.writable e 9 (o.rangesIn false) = .ok ())
    (alone : (s.tile e.slot).races .vector (s.vunit e b j o false) = false) :
    ∃ u, exec row s = .next u ∧ TileBecomes s u e.slot
      ((({ advanced s e with vecQ := (s.tile e.slot).vecQ ++ [s.vunit e b j o false]
                             nextId := (s.tile e.slot).nextId + 1 } : Tile).vstore x o).setSat e.c o.sat) := by
  subst parsed
  have ⟨_, clean, _, _⟩ := issue
  have goes : exec row s = .next (s.vissue e b (VArgs.parse e.word b) j) := by
    rw [own, censusRow, issueRow_issue issue, vecSub_eq (by rfl), censusDo, check]
    rfl
  have stored := State.vissue_stores (x := VArgs.parse e.word b) clean first (by simp [reads]) run writes fits alone
  rw [advanced_vecQ, advanced_nextId] at stored
  exact ⟨_, goes, stored⟩

end

theorem Census.bytes_length (c : Census) : c.bytes.length = 16 := by simp [Census.bytes, leBytes_length]

end Sys2Proof.Machine

open Sys2Proof Sys2Proof.Machine

/-- Settles O43: a CENSUS word's checks give a job that clears or stores (`State.census_clears`, `State.census_stores`), and
the vector engine stores what it leaves. -/
theorem censusWords : Obligations.CensusWords := by
  intro s t c e b x issue first parsed auxs zero
  refine ⟨fun sub => ?_, fun a n bs what some_ addr room fits alone => ?_⟩
  · obtain ⟨u, goes, stored⟩ := exec_census_stores (row := .censusClear t c) issue first parsed.symm (by rw [sub]; rfl)
      (State.census_clears auxs zero sub) rfl rfl (by simp) rfl (Tile.races_nothing _ _ rfl rfl)
    simp only [Tile.vstore, Tile.countCensus, List.foldl_nil, sget_sput_self, sput_default_sput, advanced_census] at stored
    exact ⟨u, goes, stored⟩
  · have sized : bs.length = n ∧ bs = (if x.sub = 1 then (sget {} (s.tile e.slot).census x.cslot).bytes
        else leBytes 4 ((s.tile e.slot).ctx e.c).flags.toNat) ∧ n = (if x.sub = 1 then 16 else 4) := by
      obtain ⟨sub, rfl, rfl⟩ | ⟨sub, rfl, rfl⟩ := what
      · simp [sub, Census.bytes_length]
      · simp [sub, leBytes_length, State.ctxOf]
    obtain ⟨length, bytes, size⟩ := sized
    have at_ : auxAddrOf x.s0 x.xb (if x.sub = 1 then 16 else 4) 1 = .ok (some a) := by
      rw [← size, addr]
      exact auxAddrOf_tile some_ (by omega) (addr ▸ room)
    have leaves : censusStores e x a s = { ws := [(false, a, bs)] } := by rw [censusStores, ← bytes]
    have sub : x.sub = 1 ∨ x.sub = 2 := what.imp And.left And.left
    obtain ⟨u, goes, stored⟩ := exec_census_stores
      (row := if x.sub = 1 then .censusStore t c else .censusFlags t c) issue first parsed.symm
      (by obtain sub | sub := sub <;> rw [sub] <;> rfl) (State.census_stores auxs zero sub some_ at_) rfl rfl
      (by simp [leaves]) (by rw [leaves, ← fits, ← length]; rfl) (by rw [leaves]; exact alone)
    rw [leaves] at stored
    simp only [Tile.vstore, Tile.countCensus, List.foldl_nil, advanced_census, advanced_sram] at stored
    exact ⟨u, goes, stored⟩
end

section
/-! PROOFS. Copy words move bytes within the tile, ask for lines or for slices of other tiles, or wait for their turn (R190,
R237 to R247). -/

namespace Sys2Proof.Machine

/-! A copy operation and its queue -/

/-- What a copy operation may write stays so as long as the images and the code region of context 1 do (R178, R227). -/
theorem State.copyDst_eq {s u : State} {e : Env} (same : u.guarded e = s.guarded e) (j : CopyJob) :
    u.copyDst e j = s.copyDst e j := by
  unfold State.copyDst
  rw [same]

/-- The state once a copy word has issued and its operation stands in the queue. -/
def State.copyQueued (s : State) (e : Env) (u : UnitOp) : State :=
  let v := s.issue e (s.ctxOf e).advance
  v.setTile e.slot { v.tile e.slot with
    copyQ := (v.tile e.slot).copyQ ++ [u], nextId := (v.tile e.slot).nextId + 1 }

@[simp] theorem State.copyQueued_tile (s : State) (e : Env) (u : UnitOp) : (s.copyQueued e u).tile e.slot =
    { advanced s e with copyQ := (advanced s e).copyQ ++ [u], nextId := (advanced s e).nextId + 1 } := by
  rw [State.copyQueued, State.setTile_tile, State.issue_tile, advanced]

theorem State.copyQueued_frame (s : State) (e : Env) (u : UnitOp) : TileFrame s (s.copyQueued e u) e.slot :=
  (s.issue_frame e _).trans (State.setTile_frame _ _ _)

theorem Tile.putCopyQ_others (t : Tile) (q : List UnitOp) (n : Nat) :
    ({ t with copyQ := q, nextId := n } : Tile).others .copy = t.others .copy := rfl

theorem State.copyQueued_others (s : State) (e : Env) (u : UnitOp) :
    ((s.copyQueued e u).tile e.slot).others .copy = (s.tile e.slot).others .copy := by
  rw [State.copyQueued_tile, Tile.putCopyQ_others, advanced_others]

theorem State.copyQueued_guarded (s : State) (e : Env) (u : UnitOp) : (s.copyQueued e u).guarded e = s.guarded e := by
  refine State.guarded_eq (s.copyQueued_frame e u).bind_eq ?_
  rw [State.copyQueued_tile]
  exact Tile.setCtx_c1_code _ _ (CtxState.advance_code _)

/-- The memory of a tile whose copy engine meets no other unit, and has no word in error. -/
structure CopyReady (v : State) (e : Env) (j : CopyJob) : Prop where
  clean : (v.tile e.slot).sram.errs = []
  unread : (v.tile e.slot).written .copy j.ext = false
  alone : (((v.tile e.slot).others .copy).any fun o => o.meets (v.copyDst e j)) = false

section
variable {s v : State} {t : Nat} {c : Ctx} {op : Nat} {e : Env} {b : Issue} {j : CopyJob}

theorem CopyAt.queued_ready (copy : CopyAt s t c op e b j) (u : UnitOp) : CopyReady (s.copyQueued e u) e j := by
  obtain ⟨⟨-, clean, -, -⟩, -, -, -, still⟩ := copy
  refine ⟨?_, ?_, ?_⟩
  · rw [State.copyQueued_tile]
    exact (congrArg EccMem.errs (advanced_sram s e)).trans clean
  · rw [Tile.written_of_others (s.copyQueued_others e u)]
    exact Tile.written_of_races still
  · rw [State.copyQueued_others, State.copyDst_eq (s.copyQueued_guarded e u)]
    exact Tile.meets_of_races still

/-- The row of a copy word queues its operation, which starts at once on an idle engine. -/
theorem copyRow_issue (copy : CopyAt s t c op e b j) : issueRow s t c 0x09 copyFull (copyRow op) =
    .next (if (s.tile e.slot).copyQ.isEmpty
      then (s.copyQueued e (j.unit s e b false)).copyStart e (s.tile e.slot).nextId j
      else s.copyQueued e (j.unit s e b true)) := by
  have ⟨issue, own, reserved, check, still⟩ := copy
  set v := s.issue e (s.ctxOf e).advance with issued
  have tile : v.tile e.slot = advanced s e := s.issue_tile e _
  have dst : v.copyDst e j = s.copyDst e j :=
    State.copyDst_eq (State.guarded_eq (s.issue_frame e _).bind_eq
      (by rw [tile]; exact Tile.setCtx_c1_code _ _ (CtxState.advance_code _))) j
  have unit : ∀ w, ({ e.unitOp (v.tile e.slot).nextId (v.copyDst e j) with
      vdst := if j.dst.vat then j.dst.ranges else []
      ext := j.ext, waiting := w, word := e.word, pc := e.pc, xa := b.xa, xb := b.xb, blk := b.blk } : UnitOp) =
        j.unit s e b w := fun w => by rw [CopyJob.unit, dst, tile, advanced_nextId]
  have noted : ∀ w, (j.unit s e b w).noted (v.tile e.slot) .copy = j.unit s e b w := fun w => by
    refine UnitOp.noted_eq_self rfl ?_
    rw [tile, Tile.written_of_others (advanced_others s e .copy)]
    exact Tile.written_of_races still
  have calm : ∀ w, (s.copyQueued e (j.unit s e b w)).conflicts e.slot .copy (j.unit s e b w).dst =
      s.copyQueued e (j.unit s e b w) := fun w => by
    refine State.conflicts_eq_self ?_
    rw [State.copyQueued_others]
    exact Tile.meets_of_races still
  have row : doCopy b e s = (let q := (v.tile e.slot).copyQ.isEmpty
      let o := ({ e.unitOp (v.tile e.slot).nextId (v.copyDst e j) with
        vdst := if j.dst.vat then j.dst.ranges else []
        ext := j.ext, waiting := !q, word := e.word, pc := e.pc, xa := b.xa, xb := b.xb, blk := b.blk } : UnitOp).noted
          (v.tile e.slot) .copy
      let s' := (s.copyQueued e o).conflicts e.slot .copy o.dst
      if q then s'.copyStart e (v.tile e.slot).nextId j else s') := by
    unfold doCopy
    dsimp only
    rw [reserved, check]
    rfl
  rw [issueRow_issue issue, copyRow, if_pos (.inl own), row]
  dsimp only
  rw [unit, noted, calm, tile, advanced_nextId, advanced_copyQ]
  split
  · next idle => rw [idle, Bool.not_true]
  · next busy => rw [Bool.eq_false_iff.mpr busy, Bool.not_false]

/-! Moves within the tile -/

/-- The tile's memory becomes `m`, and SAT is set where an add saturated (R247). -/
def State.copyStored (v : State) (e : Env) (m : EccMem) (sat : Bool) : State :=
  (v.setTile e.slot { v.tile e.slot with sram := m }).noteSat e.slot e.c sat

theorem State.copyStored_frame (v : State) (e : Env) (m : EccMem) (sat : Bool) : TileFrame v (v.copyStored e m sat) e.slot :=
  (v.setTile_frame _ _).trans (State.noteSat_frame _ _ _ _)

@[simp] theorem State.copyStored_tile (v : State) (e : Env) (m : EccMem) (sat : Bool) :
    (v.copyStored e m sat).tile e.slot = ({ v.tile e.slot with sram := m } : Tile).setSat e.c sat := by
  rw [State.copyStored, State.noteSat_tile, State.setTile_tile]

theorem State.clean_ok (clean : (v.tile e.slot).sram.errs = []) (unit : Nat) (rs : List (Nat × Nat)) :
    v.clean e unit rs = .ok () := by
  rw [State.clean, EccMem.bad_clean _ _ clean]

/-- The writes of an operation that meets no other unit are no conflict. -/
theorem CopyReady.moved_eq (ready : CopyReady v e j) (m : EccMem) (ms : List Move) :
    (v.setTile e.slot { v.tile e.slot with sram := m }).moved e j ms = v.setTile e.slot { v.tile e.slot with sram := m } := by
  have same : (v.setTile e.slot { v.tile e.slot with sram := m }).copyDst e j = v.copyDst e j :=
    State.copyDst_eq (State.guarded_eq (v.setTile_frame e.slot _).bind_eq (by rw [State.setTile_tile])) j
  unfold State.moved
  rw [same, State.setTile_tile]
  exact if_neg (by rw [Bool.not_eq_true]; exact ready.alone)

theorem CopyReady.tileMoves_eq (ready : CopyReady v e j) {ms : List Move} {k : Tile → Tile × Bool} {m : EccMem} {sat : Bool}
    (fits : v.writable e 10 (dstRanges ms) = .ok ()) (rd : List (Nat × Nat))
    (leaves : k (v.tile e.slot) = ({ v.tile e.slot with sram := m }, sat)) :
    v.tileMoves e j ms rd k = v.copyStored e m sat := by
  unfold State.tileMoves
  rw [State.clean_ok ready.clean, fits]
  change (let w := v.tileReads e.slot rd
    let (t, sat) := k (w.tile e.slot)
    ((w.setTile e.slot t).moved e j ms).noteSat e.slot e.c sat) = _
  rw [State.tileReads_clean ready.clean]
  dsimp only
  rw [leaves]
  dsimp only
  rw [ready.moved_eq, State.copyStored]

theorem CopyReady.meetReads_eq (ready : CopyReady v e j) (rs : List (Nat × Nat)) :
    v.meetReads e.slot .copy j.ext rs = v := State.meetReads_eq_self ready.unread rs

/-! An operation starts -/

theorem CopyReady.start_moves (ready : CopyReady v e j) (op : j.x.op ≤ 1) (src : j.src.vat = false) (dst : j.dst.vat = false)
    (fits : v.writable e 10 (dstRanges j.moves) = .ok ()) (id : Nat) :
    v.copyStart e id j = v.copyStored e ((v.tile e.slot).sram.moves j.moves) false := by
  unfold State.copyStart
  dsimp only
  rw [if_pos op, if_neg (by simp [dst]), if_neg (by simp [src]), ready.meetReads_eq]
  exact ready.tileMoves_eq fits _ rfl

/-- COPY to vat space asks for the lines that it writes. -/
theorem CopyReady.start_writes (ready : CopyReady v e j) (op : j.x.op ≤ 1) (dst : j.dst.vat = true) (id : Nat) :
    ∃ qs, (∀ q ∈ qs, q.IsLine) ∧ v.copyStart e id j = v.request e.slot id qs := by
  refine ⟨_, lineWrites_isLine e id (j.moves.map fun q => (q.dst, (v.tile e.slot).sram.read q.src q.len)), ?_⟩
  unfold State.copyStart
  dsimp only
  rw [if_pos op, if_pos dst, ready.meetReads_eq, ite_self, State.clean_ok ready.clean, State.perform_ok,
    State.tileReads_clean ready.clean]

/-- COPY from vat space asks for the lines that it reads. -/
theorem State.copyStart_reads (op : j.x.op ≤ 1) (src : j.src.vat = true) (dst : j.dst.vat = false)
    (fits : v.writable e 10 (dstRanges j.moves) = .ok ()) (id : Nat) :
    v.copyStart e id j = v.request e.slot id (lineReads e id j.moves) := by
  unfold State.copyStart
  dsimp only
  rw [if_pos op, if_neg (by simp [dst]), if_pos src, fits, State.perform_ok]

/-- An indexed operation on an empty tensor moves nothing. -/
theorem State.copyStart_nothing (op : ¬ j.x.op ≤ 1) (nothing : j.dst.empty = true ∨ j.src.empty = true ∨ j.n = 0) (id : Nat) :
    v.copyStart e id j = v := by
  unfold State.copyStart
  dsimp only
  rw [if_neg op]
  refine if_pos ?_
  simpa [or_assoc] using nothing

/-- What a gather asks of other tiles for its slices. -/
def sliceReqs (e : Env) (id : Nat) (gs : List SliceRead) : List UnitReq :=
  gs.flatMap fun g => match g.tile with
    | some d => tileReqs e id d g.moves
    | none => []

/-- What an indexed operation does once its indices have been read and are in range. -/
def State.copyIndexed (v : State) (e : Env) (id : Nat) (j : CopyJob) : State :=
  let m := (v.tile e.slot).sram
  if j.x.op = 2 then
    let gs := j.gather m e
    let ms := gs.flatMap fun g => g.moves
    let own := (gs.filter fun g => g.tile.isNone).flatMap fun g => g.moves
    if j.src.vat then v.perform e (v.writable e 10 (dstRanges ms)) fun _ =>
      v.request e.slot id (gs.flatMap fun g => lineReads e id g.moves)
    else v.perform e (v.writable e 10 (dstRanges ms)) fun _ =>
      (v.copyStored e (m.moves own) false).request e.slot id (sliceReqs e id gs)
  else if j.x.op = 3 then
    v.tileMoves e j (j.scatter m) (srcRanges (j.scatter m)) fun t => ({ t with sram := t.sram.moves (j.scatter m) }, false)
  else
    v.tileMoves e j (j.scatter m) (srcRanges (j.scatter m) ++ dstRanges (j.scatter m)) fun t =>
      let r := scatterAdds (j.src.fmt == .f32) t.sram (j.scatter m) t.sram false
      ({ t with sram := r.1 }, r.2)

/-- The tensors of an indexed operation are not empty, and its indices are in range. -/
def CopyJob.Named (j : CopyJob) (m : EccMem) : Prop :=
  j.dst.empty = false ∧ j.src.empty = false ∧ j.n ≠ 0 ∧ j.badIndex m = none

theorem CopyReady.start_indexed (ready : CopyReady v e j) (op : ¬ j.x.op ≤ 1) (named : j.Named (v.tile e.slot).sram)
    (id : Nat) : v.copyStart e id j = v.copyIndexed e id j := by
  obtain ⟨dst, src, some_, good⟩ := named
  unfold State.copyStart State.copyIndexed
  dsimp only
  rw [if_neg op, if_neg (by simp [dst, src, some_]), ready.meetReads_eq]
  simp only [State.clean_ok ready.clean, State.perform_ok, State.tileReads_clean ready.clean, good, ready.meetReads_eq,
    ready.moved_eq]
  rfl

/-- A gather from vat space asks for the lines that it reads. -/
theorem State.copyIndexed_reads (op : j.x.op = 2) (src : j.src.vat = true)
    (fits : v.writable e 10 (dstRanges ((j.gather (v.tile e.slot).sram e).flatMap fun g => g.moves)) = .ok ()) (id : Nat) :
    v.copyIndexed e id j =
      v.request e.slot id ((j.gather (v.tile e.slot).sram e).flatMap fun g => lineReads e id g.moves) := by
  unfold State.copyIndexed
  dsimp only
  rw [if_pos op, if_pos src, fits, State.perform_ok]

/-- A gather moves the slices of its own tile and asks other tiles for theirs. -/
theorem State.copyIndexed_slices (op : j.x.op = 2) (src : j.src.vat = false)
    (fits : v.writable e 10 (dstRanges ((j.gather (v.tile e.slot).sram e).flatMap fun g => g.moves)) = .ok ()) (id : Nat) :
    v.copyIndexed e id j =
      (v.copyStored e ((v.tile e.slot).sram.moves
        (((j.gather (v.tile e.slot).sram e).filter fun g => g.tile.isNone).flatMap fun g => g.moves)) false).request
          e.slot id (sliceReqs e id (j.gather (v.tile e.slot).sram e)) := by
  unfold State.copyIndexed
  dsimp only
  rw [if_pos op, if_neg (by simp [src]), fits, State.perform_ok]

theorem CopyReady.indexed_scatter (ready : CopyReady v e j) (op : j.x.op = 3)
    (fits : v.writable e 10 (dstRanges (j.scatter (v.tile e.slot).sram)) = .ok ()) (id : Nat) :
    v.copyIndexed e id j = v.copyStored e ((v.tile e.slot).sram.moves (j.scatter (v.tile e.slot).sram)) false := by
  unfold State.copyIndexed
  dsimp only
  rw [if_neg (by omega), if_pos op]
  exact ready.tileMoves_eq fits _ rfl

theorem CopyReady.indexed_scatterAdd (ready : CopyReady v e j) (op : j.x.op = 4)
    (fits : v.writable e 10 (dstRanges (j.scatter (v.tile e.slot).sram)) = .ok ()) (id : Nat) :
    v.copyIndexed e id j =
      (let m := (v.tile e.slot).sram
       let r := scatterAdds (j.src.fmt == .f32) m (j.scatter m) m false
       v.copyStored e r.1 r.2) := by
  unfold State.copyIndexed
  dsimp only
  rw [if_neg (by omega), if_neg (by omega)]
  exact ready.tileMoves_eq fits _ rfl

end

/-! The rows -/

section
variable {s : State} {t : Nat} {c : Ctx} {op : Nat} {e : Env} {b : Issue} {j : CopyJob}

/-- A sequence of checks that succeeds ends in what its last part gives. -/
def Gives {α : Type} (P : α → Prop) (x : Except TFault α) : Prop := ∀ y, x = .ok y → P y

theorem Gives.bind {α β : Type} {P : β → Prop} {x : Except TFault α} {f : α → Except TFault β} (h : ∀ a, Gives P (f a)) :
    Gives P (x >>= f) := by
  intro y eq
  cases x with
  | error _ => cases eq
  | ok a => exact h a y eq

theorem Gives.pure {α : Type} {P : α → Prop} {a : α} (h : P a) : Gives P (pure a : Except TFault α) := by
  intro y eq
  obtain rfl := Except.ok.inj eq
  exact h

theorem Gives.error {α : Type} {P : α → Prop} {f : TFault} : Gives P (.error f : Except TFault α) :=
  fun _ eq => nomatch eq

/-- A checked job has the fields of its block. -/
theorem State.copyCheck_args (s : State) (e : Env) (b : Issue) (x : CopyArgs) :
    Gives (fun j => j.x = x) (s.copyCheck e b x) := by
  unfold State.copyCheck
  refine .bind fun ds => .bind fun dd => ?_
  dsimp only
  split
  · refine .bind fun di => .bind fun _ => .bind fun _ => .bind fun _ => ?_
    split
    · exact .bind fun _ => .bind fun _ => .pure rfl
    · exact .error
  · refine .bind fun di => .bind fun _ => .bind fun _ => .bind fun _ => ?_
    split
    · cases di with
      | none => exact .error
      | some i => exact .bind fun _ => .bind fun _ => .pure rfl
    · exact .error

theorem CopyAt.op_eq (copy : CopyAt s t c op e b j) : j.x.op = op := by
  obtain ⟨-, own, -, check, -⟩ := copy
  rw [State.copyCheck_args s e b _ j check]
  exact own

/-- The tile of a copy word whose operation starts at once. -/
theorem State.copyQueued_idle (u : UnitOp) (idle : (s.tile e.slot).copyQ = []) :
    (s.copyQueued e u).tile e.slot =
      (let a := advanced s e
       { a with nextId := a.nextId + 1, copyQ := [u] }) := by
  rw [State.copyQueued_tile, advanced_copyQ, idle, List.nil_append]

theorem State.copyQueued_sram (s : State) (e : Env) (u : UnitOp) :
    ((s.copyQueued e u).tile e.slot).sram = (s.tile e.slot).sram := by
  rw [State.copyQueued_tile]
  exact advanced_sram s e

/-- A copy operation of a word in `s` starts in `v`: its queue has it, and the memory is the word's. -/
structure CopyStart (s v : State) (e : Env) (j : CopyJob) : Prop extends CopyReady v e j where
  sram : (v.tile e.slot).sram = (s.tile e.slot).sram
  guarded : v.guarded e = s.guarded e

theorem CopyAt.starts (copy : CopyAt s t c op e b j) (u : UnitOp) : CopyStart s (s.copyQueued e u) e j :=
  ⟨copy.queued_ready u, s.copyQueued_sram e u, s.copyQueued_guarded e u⟩

theorem CopyStart.fits {v : State} {ms : List Move} (start : CopyStart s v e j)
    (fits : s.writable e 10 (dstRanges ms) = .ok ()) : v.writable e 10 (dstRanges ms) = .ok () :=
  (State.writable_eq start.guarded 10 _).trans fits

theorem CopyStart.indexed {v : State} (start : CopyStart s v e j) (op : 2 ≤ j.x.op) (named : j.Named (s.tile e.slot).sram)
    (id : Nat) : v.copyStart e id j = v.copyIndexed e id j :=
  start.start_indexed (by omega) (start.sram ▸ named) id

/-- A start that leaves memory `m` in the tile, and sets SAT where an add saturated. -/
def CopyStores (v u : State) (e : Env) (m : EccMem × Bool) : Prop :=
  TileFrame v u e.slot ∧ u.tile e.slot = ({ v.tile e.slot with sram := m.1 } : Tile).setSat e.c m.2

theorem State.copyStored_stores (v : State) (e : Env) (m : EccMem) (sat : Bool) :
    CopyStores v (v.copyStored e m sat) e (m, sat) := ⟨v.copyStored_frame e m sat, v.copyStored_tile e m sat⟩

theorem CopyStores.refl (v : State) (e : Env) : CopyStores v v e ((v.tile e.slot).sram, false) :=
  ⟨.refl v _, rfl⟩

/-- A copy row stores what its operation leaves in the tile, asks for its lines, or lets it wait, as its start says. -/
theorem CopyIssues.of_start {row : Nat → Ctx → Instr} {ok vat : State → Env → CopyJob → Prop}
    {mem : EccMem → Env → CopyJob → EccMem × Bool}
    (takes : ∀ t c s, exec (row t c) s = issueRow s t c 0x09 copyFull (copyRow op))
    (stores : ∀ s v e j id, j.x.op = op → CopyStart s v e j → j.src.vat = false → j.dst.vat = false → ok s e j →
      CopyStores v (v.copyStart e id j) e (mem (v.tile e.slot).sram e j))
    (asks : ∀ s v e j id, j.x.op = op → CopyStart s v e j → vat s e j →
      ∃ qs, (∀ q ∈ qs, q.IsLine) ∧ v.copyStart e id j = v.request e.slot id qs) :
    CopyIssues row op ok vat mem := by
  intro s t c e b j copy
  have goes := (takes t c s).trans (copyRow_issue copy)
  refine ⟨fun idle src dst may => ?_, fun idle may => ?_, fun busy => ?_⟩
  · obtain ⟨frame, tile⟩ := stores s _ e j (s.tile e.slot).nextId copy.op_eq (copy.starts (j.unit s e b false)) src dst may
    rw [idle, List.isEmpty_nil, if_pos rfl] at goes
    refine ⟨_, goes, TileFrame.becomes ((s.copyQueued_frame e _).trans frame) ?_⟩
    rw [tile, State.copyQueued_sram, State.copyQueued_idle _ idle, ← advanced_sram s e]
  · obtain ⟨qs, lines, start⟩ := asks s _ e j (s.tile e.slot).nextId copy.op_eq (copy.starts (j.unit s e b false)) may
    rw [idle, List.isEmpty_nil, if_pos rfl, start] at goes
    exact ⟨_, goes, ((s.copyQueued_frame e _).becomes (s.copyQueued_idle _ idle)).asks.request _ lines⟩
  · rw [if_neg (by simpa using busy)] at goes
    exact ⟨_, goes, (s.copyQueued_frame e _).becomes (s.copyQueued_tile e _)⟩

/-- COPY and PERMUTE. -/
theorem CopyIssues.of_moves {row : Nat → Ctx → Instr} (least : op ≤ 1)
    (takes : ∀ t c s, exec (row t c) s = issueRow s t c 0x09 copyFull (copyRow op)) :
    CopyIssues row op (fun s e j => s.writable e 10 (dstRanges j.moves) = .ok ())
      (fun s e j => j.dst.vat = true ∨ (j.src.vat = true ∧ j.dst.vat = false ∧
        s.writable e 10 (dstRanges j.moves) = .ok ()))
      (fun m _ j => (m.moves j.moves, false)) := by
  refine .of_start takes (fun s v e j id own start src dst fits => ?_) fun s v e j id own start may => ?_
  · rw [start.start_moves (own ▸ least) src dst (start.fits fits)]
    exact State.copyStored_stores _ _ _ _
  · obtain dst | ⟨src, dst, fits⟩ := may
    · exact start.start_writes (own ▸ least) dst id
    · exact ⟨_, lineReads_isLine _ _ _, State.copyStart_reads (own ▸ least) src dst (start.fits fits) id⟩

/-- An indexed operation on an empty tensor. -/
theorem CopyIssues.of_nothing {row : Nat → Ctx → Instr} (least : 2 ≤ op)
    (takes : ∀ t c s, exec (row t c) s = issueRow s t c 0x09 copyFull (copyRow op)) :
    CopyIssues row op (fun _ _ j => j.dst.empty = true ∨ j.src.empty = true ∨ j.n = 0)
      (fun _ _ j => j.dst.empty = true ∨ j.src.empty = true ∨ j.n = 0) (fun m _ _ => (m, false)) :=
  .of_start takes (fun s v e j id own _ _ _ nothing => by
      rw [State.copyStart_nothing (by omega) nothing]
      exact CopyStores.refl v e)
    fun s v e j id own _ nothing => ⟨[], by simp, State.copyStart_nothing (by omega) nothing id⟩

end

/-! Reads of other tiles (R245) -/

/-- A request for bytes of another tile for an operation of the word `e`. -/
def UnitReq.IsSlice (e : Env) (q : UnitReq) : Prop := ∃ p, q = .tile p ∧ p.kind = .copyRead ∧ p.src = e.t ∧ p.ctx = e.c

theorem tileReqs_isSlice (e : Env) (id d : Nat) (ms : List Move) : ∀ q ∈ tileReqs e id d ms, q.IsSlice e := by
  intro q hq
  obtain ⟨l, -, rfl⟩ := List.mem_map.mp hq
  exact ⟨_, rfl, rfl, rfl, rfl⟩

/-- Slot `e.slot` becomes `t` but for its numbers and its operations' requests, and reads of other tiles leave. -/
structure SlicesAsked (s v : State) (e : Env) (t : Tile) : Prop where
  frame : TileFrame { s with felt := v.felt } v e.slot
  felt : ∃ ps, v.felt = { s.felt with packets := s.felt.packets ++ ps, unacked := v.felt.unacked } ∧
    ∀ p ∈ ps, p.kind = .copyRead ∧ p.src = e.t ∧ p.ctx = e.c
  tile : v.tile e.slot =
    { t with nextId := (v.tile e.slot).nextId, copyQ := (v.tile e.slot).copyQ, vecQ := (v.tile e.slot).vecQ }

theorem SlicesAsked.of_frame {s v : State} {e : Env} {t : Tile} (frame : TileFrame s v e.slot) (tile : v.tile e.slot = t) :
    SlicesAsked s v e t := by
  have felt : v.felt = s.felt := by rw [frame.1]
  refine ⟨by rw [felt]; exact frame, ⟨[], ?_, by simp⟩, by rw [tile]⟩
  rw [List.append_nil, felt]

theorem SlicesAsked.takes {s v : State} {e : Env} {t : Tile} (h : SlicesAsked s v e t) (id : Nat) (f : UnitOp → UnitOp) :
    SlicesAsked s (v.setTile e.slot ((v.tile e.slot).modOp id f)) e t := by
  obtain ⟨frame, felt, tile⟩ := h
  refine ⟨frame.trans (v.setTile_frame _ _), felt, ?_⟩
  rw [State.setTile_tile, tile]
  rfl

/-- A read of another tile is one packet. -/
theorem Felt.send_copyRead (f : Felt) {p : Packet} (kind : p.kind = .copyRead) :
    ∃ q us, f.send p = { f with packets := f.packets ++ [q], unacked := us } ∧
      q.kind = p.kind ∧ q.src = p.src ∧ q.ctx = p.ctx := by
  unfold Felt.send
  dsimp only
  rw [Packet.split, if_pos (.inr (.inl kind))]
  exact ⟨_, _, rfl, rfl, rfl, rfl⟩

theorem SlicesAsked.sends {s v : State} {e : Env} {t : Tile} {q : UnitReq} (h : SlicesAsked s v e t) (slice : q.IsSlice e) :
    SlicesAsked s (v.sendReq e.slot q) e t := by
  obtain ⟨p, rfl, kind, src, ctx⟩ := slice
  obtain ⟨frame, ⟨ps, felt, reads⟩, tile⟩ := h
  obtain ⟨q, us, sent, kind', src', ctx'⟩ := v.felt.send_copyRead
    (p := { p with op := (v.tile e.slot).nextId, mid := v.bind.applied.midOf (p.src / 16) (p.dst / 16) }) kind
  obtain ⟨rest, tiles, pages, ctr⟩ := frame.trans (v.setTile_frame e.slot _)
  have now : (v.sendReq e.slot (.tile p)).tile e.slot = { v.tile e.slot with nextId := (v.tile e.slot).nextId + 1 } :=
    v.setTile_tile e.slot _
  refine ⟨?_, ⟨ps ++ [q], ?_, ?_⟩, ?_⟩
  · rw [State.sendReq, sent]
    refine ⟨?_, tiles, pages, ctr⟩
    conv_lhs => rw [rest]
  · rw [State.sendReq, sent, felt, List.append_assoc]
  · simp only [List.mem_append, List.mem_singleton]
    rintro k (hk | rfl)
    · exact reads k hk
    · exact ⟨kind'.trans kind, src'.trans src, ctx'.trans ctx⟩
  · rw [now, tile]

theorem SlicesAsked.request {s v : State} {e : Env} {t : Tile} (h : SlicesAsked s v e t) (id : Nat) {qs : List UnitReq}
    (slices : ∀ q ∈ qs, q.IsSlice e) : SlicesAsked s (v.request e.slot id qs) e t :=
  State.request_keeps (I := fun v => SlicesAsked s v e t) (P := UnitReq.IsSlice e) (fun _ f _ hv => hv.takes _ f)
    (fun _ _ slice hv => hv.sends slice) slices h

theorem sliceReqs_isSlice (e : Env) (id : Nat) (gs : List SliceRead) : ∀ q ∈ sliceReqs e id gs, q.IsSlice e := by
  intro q hq
  obtain ⟨g, -, mem⟩ := List.mem_flatMap.mp hq
  split at mem
  · exact tileReqs_isSlice _ _ _ _ q mem
  · cases mem

/-- A gather that has queued its operation and stored its own slices reads the others. -/
theorem SlicesAsked.gathers (s : State) (e : Env) (u : UnitOp) (m : EccMem) (id : Nat) (gs : List SliceRead) :
    SlicesAsked s (((s.copyQueued e u).copyStored e m false).request e.slot id (sliceReqs e id gs)) e
      { (s.copyQueued e u).tile e.slot with sram := m } :=
  (SlicesAsked.of_frame ((s.copyQueued_frame e u).trans (State.copyStored_frame _ e m false))
    (State.copyStored_tile (s.copyQueued e u) e m false)).request id (sliceReqs_isSlice e id gs)

/-- The slices of a gather whose source lies in one tile are that tile's own. -/
theorem CopyJob.gather_own {j : CopyJob} (parts : j.parts = none) (m : EccMem) (e : Env) :
    ∀ g ∈ j.gather m e, g.tile = none := by
  intro g hg
  simp only [CopyJob.gather, List.mem_flatMap, List.mem_map] at hg
  obtain ⟨-, -, i, -, rfl⟩ := hg
  rw [CopyJob.sliceRead, parts]

theorem sliceReqs_own {gs : List SliceRead} (own : ∀ g ∈ gs, g.tile = none) (e : Env) (id : Nat) :
    sliceReqs e id gs = [] := by
  refine List.flatMap_eq_nil_iff.mpr fun g hg => ?_
  rw [own g hg]

end Sys2Proof.Machine

open Sys2Proof Sys2Proof.Machine

/-- Settles O40: a copy word queues its operation (`copyRow_issue`), and each clause says what the operation's start does
there (`CopyIssues.of_start`). -/
theorem copyWords : Obligations.CopyWords := by
  refine ⟨?_, ?_, ?_, ?_, ?_, ?_⟩
  · simp only [List.forall_mem_cons, List.not_mem_nil, false_imp_iff, implies_true, and_true]
    exact ⟨.of_moves (by decide) fun _ _ _ => rfl, .of_moves (by decide) fun _ _ _ => rfl⟩
  · simp only [List.forall_mem_cons, List.not_mem_nil, false_imp_iff, implies_true, and_true]
    exact ⟨.of_nothing (by decide) fun _ _ _ => rfl, .of_nothing (by decide) fun _ _ _ => rfl,
      .of_nothing (by decide) fun _ _ _ => rfl⟩
  · refine .of_start (fun _ _ _ => rfl) (fun s v e j id own start src dst ok => ?_)
      fun s v e j id own start may => ?_
    · obtain ⟨named, parts, fits⟩ := ok
      rw [start.indexed (by omega) named,
        State.copyIndexed_slices own src (by rw [start.sram]; exact start.fits fits),
        List.filter_eq_self.mpr fun g hg => by rw [j.gather_own parts _ _ g hg]; rfl,
        sliceReqs_own (j.gather_own parts _ _), State.request_nil]
      exact State.copyStored_stores _ _ _ _
    · obtain ⟨named, src, fits⟩ := may
      refine ⟨_, ?_, (start.indexed (by omega) named id).trans
        (State.copyIndexed_reads own src (by rw [start.sram]; exact start.fits fits) id)⟩
      intro q hq
      obtain ⟨g, -, mem⟩ := List.mem_flatMap.mp hq
      exact lineReads_isLine _ _ _ q mem
  · refine .of_start (fun _ _ _ => rfl) (fun s v e j id own start src dst ok => ?_)
      fun s v e j id own _ nothing => ⟨[], by simp, State.copyStart_nothing (by omega) nothing id⟩
    obtain ⟨named, fits⟩ := ok
    rw [start.indexed (by omega) named, start.indexed_scatter own (by rw [start.sram]; exact start.fits fits)]
    exact State.copyStored_stores _ _ _ _
  · refine .of_start (fun _ _ _ => rfl) (fun s v e j id own start src dst ok => ?_)
      fun s v e j id own _ nothing => ⟨[], by simp, State.copyStart_nothing (by omega) nothing id⟩
    obtain ⟨named, fits⟩ := ok
    rw [start.indexed (by omega) named, start.indexed_scatterAdd own (by rw [start.sram]; exact start.fits fits)]
    exact State.copyStored_stores _ _ _ _
  · intro s t c e b j copy idle src named fits
    have goes := copyRow_issue copy
    have start := copy.starts (j.unit s e b false)
    rw [idle, List.isEmpty_nil, if_pos rfl, start.indexed (by rw [copy.op_eq]) named,
      State.copyIndexed_slices copy.op_eq src (by rw [start.sram]; exact start.fits fits), start.sram] at goes
    obtain ⟨frame, ⟨ps, felt, reads⟩, tile⟩ := SlicesAsked.gathers s e (j.unit s e b false)
      ((s.tile e.slot).sram.moves (((j.gather (s.tile e.slot).sram e).filter fun g => g.tile.isNone).flatMap
        fun g => g.moves)) (s.tile e.slot).nextId (j.gather (s.tile e.slot).sram e)
    refine ⟨_, ps, goes, frame, felt, reads, ?_⟩
    dsimp only
    rw [tile, State.copyQueued_idle _ idle]
end

section
/-! PROOFS. Remote words send their packets (R200 to R206, R250, R263, R265, R273). -/

namespace Sys2Proof.Machine

/-! What a felt interface sends -/

/-- Packets leave and operations are to be acknowledged; nothing else of the felt changes. -/
def Felt.Sends (f g : Felt) (ps : List Packet) (us : List Unacked) : Prop :=
  g = { f with packets := f.packets ++ ps, unacked := f.unacked ++ us }

/-- An operation's packets on its channel are those without one, but for the channel and the hold. -/
theorem Packet.split_chan (p : Packet) (chan : Chan) (held : Bool) :
    ({ p with chan := chan, held := held } : Packet).split.map (fun q => { q with chan := .request, held := false }) =
      ({ p with chan := .request, held := false } : Packet).split := by
  unfold Packet.split
  dsimp only
  split
  · rfl
  · rw [List.map_map]
    rfl

/-- One operation leaves for one tile, which acknowledges it unless the express channel takes it (R263, R265). -/
theorem Felt.send_sends (f : Felt) (p : Packet) : ∃ ps us, f.Sends (f.send p) ps us ∧
    ps.map (fun q => { q with chan := .request, held := false }) =
      ({ p with chan := .request, held := false } : Packet).split ∧
    (us.map (fun k => k.dst) = [p.dst] ∨ (us = [] ∧ p.len = 0 ∧ p.ren = true ∧ (p.kind = .put ∨ p.kind = .get))) ∧
    ∀ k ∈ us, k.src = p.src ∧ k.ctx = p.ctx ∧ k.acked = false ∧ k.op = p.op := by
  unfold Felt.send Felt.Sends
  dsimp only
  generalize (if p.kind = .conv then Chan.reduction else _) = chan
  split
  · next express =>
    refine ⟨_, [], by rw [List.append_nil], Packet.split_chan p _ _, .inr ?_, by simp⟩
    simp only [Bool.and_eq_true, Bool.or_eq_true, beq_iff_eq] at express
    obtain ⟨⟨⟨len, ren⟩, kind⟩, -⟩ := express
    exact ⟨rfl, len, ren, kind⟩
  · exact ⟨_, _, rfl, Packet.split_chan p _ _, .inl rfl, by simp⟩

/-- An MCAST leaves as one operation, which every destination acknowledges (R265, R273). -/
theorem Felt.cast_sends (f : Felt) (p : Packet) (ds : List Nat) : ∃ ps us, f.Sends (f.cast p ds) ps us ∧
    ps.map (fun q => { q with chan := .request, held := false }) =
      (if ds = [] then [] else ({ p with chan := .request, held := false, copies := ds } : Packet).split) ∧
    us.map (fun k => k.dst) = ds ∧ ∀ k ∈ us, k.src = p.src ∧ k.ctx = p.ctx ∧ k.acked = false ∧ k.op = p.op := by
  unfold Felt.cast Felt.Sends
  cases ds with
  | nil => exact ⟨[], [], by simp, rfl, rfl, by simp⟩
  | cons d ds =>
    rw [if_neg (by simp), if_neg (by simp)]
    exact ⟨_, _, rfl, Packet.split_chan { p with copies := d :: ds } _ _, by simp [Function.comp_def], by simp⟩

/-! A remote word issues -/

/-- The felt once a remote word has sent its packets. -/
def State.remoteFelt (s : State) (e : Env) (x : RArgs) : Felt :=
  let ds := s.targets e x
  let f := if x.mcast then s.felt.cast (packetOf s e x (ds.headD 0)) ds
    else ds.foldl (fun f d => f.send (packetOf s e x d)) s.felt
  let key := ordKey e.prog x.tree x.ord
  if x.conv then { f with rounds := sput 0 f.rounds key (sget 0 f.rounds key + 1) } else f

/-- The module once a remote word has issued. -/
def State.remoteIssued (s : State) (e : Env) (x : RArgs) : State :=
  let t := s.tile e.slot
  let v := ({ s.setTile e.slot { t with nextId := t.nextId + 1 } with felt := s.remoteFelt e x } : State).issue e
    (s.ctxOf e).advance
  if decide (0 < x.len) && (x.isGet || x.swap) then v else v.setTile e.slot ((v.tile e.slot).complete e.ctr e.cen)

section
variable {s : State} {e : Env} {b : Issue} {x : RArgs}

/-- Giving an operation its number leaves the context alone. -/
theorem State.ctxOf_numbered (s : State) (e : Env) (n : Nat) (f : Felt) :
    ({ s.setTile e.slot { s.tile e.slot with nextId := n } with felt := f } : State).ctxOf e = s.ctxOf e := by
  have tile : ({ s.setTile e.slot { s.tile e.slot with nextId := n } with felt := f } : State).tile e.slot =
      { s.tile e.slot with nextId := n } := s.setTile_tile e.slot _
  rw [State.ctxOf, tile]
  cases h : e.c <;> simp only [State.ctxOf, h] <;> rfl

theorem doRemote_eq (parsed : RArgs.parse e.word b = x) (clean : (s.tile e.slot).sram.errs = [])
    (reserved : remoteReservedOk e.word b x = true) (check : s.remoteCheck e x = .ok ())
    (unread : x.isGet = true ∨ s.localLen e x = 0 ∨
      (s.tile e.slot).written .outside [(x.laddr, s.localLen e x)] = false) :
    doRemote b e s = s.remoteIssued e x := by
  subst parsed
  set x := RArgs.parse e.word b
  set rd := if x.isGet || s.localLen e x = 0 then [] else [(x.laddr, s.localLen e x)] with reads
  have calm : s.meetReads e.slot .outside rd rd = s := by
    refine State.meetReads_eq_self ?_ rd
    rw [reads]
    split
    · simp [Tile.written]
    · next some_ =>
      obtain get | none_ | still := unread
      · simp [get] at some_
      · simp [none_] at some_
      · exact still
  have checks : (do
      need (remoteReservedOk e.word b x) fDESC_INVALID 11
      s.remoteCheck e x
      s.clean e 11 rd) = .ok () := by
    rw [reserved, check, State.clean_ok clean]
    rfl
  unfold doRemote
  dsimp only
  rw [← reads, checks, State.perform_ok, calm, State.tileReads_clean clean]
  unfold State.remoteIssued State.remoteFelt
  dsimp only
  rw [State.ctxOf_numbered]
  rfl

/-- An operation that is no MCAST goes to one tile at most. -/
theorem State.targets_one (single : x.mcast = false) : s.targets e x = [] ∨ ∃ d, s.targets e x = [d] := by
  unfold State.targets
  split
  · exact .inl rfl
  · dsimp only
    rw [if_neg (by simp [single])]
    split
    · split
      · exact .inr ⟨_, rfl⟩
      · exact .inl rfl
    · exact .inr ⟨_, rfl⟩

/-- The packets of an operation without channel and hold. -/
theorem packetOf_plain (s : State) (e : Env) (x : RArgs) (d : Nat) :
    ({ packetOf s e x d with chan := .request, held := false } : Packet) = packetOf s e x d := rfl

/-- What a remote word sends: its packets to each destination, and what is to be acknowledged. -/
def RemoteSends (s : State) (e : Env) (x : RArgs) (ps : List Packet) (us : List Unacked) : Prop :=
  let ds := s.targets e x
  ps.map (fun p => { p with chan := .request, held := false }) =
    (if x.mcast then (if ds = [] then [] else ({ packetOf s e x (ds.headD 0) with copies := ds } : Packet).split)
     else ds.flatMap (fun d => (packetOf s e x d).split)) ∧
  (us.map (fun k => k.dst) = ds ∨ (us = [] ∧ x.len = 0 ∧ x.ren = true ∧ (kindOf x.op = .put ∨ kindOf x.op = .get))) ∧
  ∀ k ∈ us, k.src = e.t ∧ k.ctx = e.c ∧ k.acked = false ∧ k.op = (s.tile e.slot).nextId

/-- A PUT or GET has its word's length; a converging add's is its tree's (R206). -/
theorem packetOf_len (kind : kindOf x.op = .put ∨ kindOf x.op = .get) (d : Nat) : (packetOf s e x d).len = x.len := by
  have plain : x.conv = false := by
    by_contra conv
    have op : x.op = 0x26 := by simpa [RArgs.conv] using conv
    rw [op] at kind
    exact absurd kind (by decide)
  rw [packetOf, plain]
  rfl

theorem State.remoteFelt_sends (s : State) (e : Env) (x : RArgs) :
    ∃ ps us, RemoteSends s e x ps us ∧
      s.felt.Sends (if x.mcast then s.felt.cast (packetOf s e x ((s.targets e x).headD 0)) (s.targets e x)
        else (s.targets e x).foldl (fun f d => f.send (packetOf s e x d)) s.felt) ps us := by
  unfold RemoteSends
  cases many : x.mcast with
  | true =>
    obtain ⟨ps, us, sends, packets, acks, own⟩ := s.felt.cast_sends (packetOf s e x ((s.targets e x).headD 0)) (s.targets e x)
    exact ⟨ps, us, ⟨packets, .inl acks, own⟩, sends⟩
  | false =>
    obtain none_ | ⟨d, one⟩ := s.targets_one (e := e) many
    · rw [none_]
      exact ⟨[], [], ⟨rfl, .inl rfl, by simp⟩, by simp [Felt.Sends]⟩
    · rw [one]
      obtain ⟨ps, us, sends, packets, acks, own⟩ := s.felt.send_sends (packetOf s e x d)
      refine ⟨ps, us, ⟨?_, acks.imp_right ?_, own⟩, sends⟩
      · rw [packets, packetOf_plain]
        simp
      · rintro ⟨none_, len, ren, kind⟩
        exact ⟨none_, (packetOf_len kind d).symm.trans len, ren, kind⟩

/-- The tile of a remote word once it has issued. -/
theorem State.remoteIssued_becomes (s : State) (e : Env) (x : RArgs) :
    (s.remoteIssued e x).felt = s.remoteFelt e x ∧
      TileBecomes { s with felt := s.remoteFelt e x } (s.remoteIssued e x) e.slot
        (let a := { advanced s e with nextId := (s.tile e.slot).nextId + 1 }
         if 0 < x.len ∧ (x.isGet ∨ x.swap) then a else a.complete e.ctr e.cen) := by
  set w : State := { s.setTile e.slot { s.tile e.slot with nextId := (s.tile e.slot).nextId + 1 } with
    felt := s.remoteFelt e x } with sent
  have numbered : w.tile e.slot = { s.tile e.slot with nextId := (s.tile e.slot).nextId + 1 } := s.setTile_tile e.slot _
  have frame : TileFrame { s with felt := s.remoteFelt e x } (w.issue e (s.ctxOf e).advance) e.slot :=
    (State.setTile_frame { s with felt := s.remoteFelt e x } e.slot _).trans (w.issue_frame e _)
  have tile : (w.issue e (s.ctxOf e).advance).tile e.slot =
      { advanced s e with nextId := (s.tile e.slot).nextId + 1 } := by
    rw [State.issue_tile, numbered, advanced]
    cases e.c <;> rfl
  have waits : (decide (0 < x.len) && (x.isGet || x.swap)) = decide (0 < x.len ∧ (x.isGet ∨ x.swap)) := by
    simp
  unfold State.remoteIssued
  dsimp only
  rw [← sent, waits, tile]
  split
  · next wait =>
    rw [if_pos (of_decide_eq_true wait)]
    exact ⟨by rw [frame.1], frame.becomes tile⟩
  · next done =>
    rw [if_neg (of_decide_eq_false (Bool.eq_false_iff.mpr done))]
    have all := frame.trans (State.setTile_frame _ e.slot
      ((({ advanced s e with nextId := (s.tile e.slot).nextId + 1 } : Tile)).complete e.ctr e.cen))
    exact ⟨by rw [all.1], all.becomes (State.setTile_tile _ _ _)⟩

end

/-- A row of a remote word. -/
theorem RemoteIssues.of_row {row : Nat → Ctx → Instr} {op : Nat}
    (takes : ∀ t c s, exec (row t c) s = issueRow s t c op feltFull doRemote)
    (kinds : kindOf op = .put ∨ kindOf op = .get → op ∈ [0x20, 0x21]) : RemoteIssues row op := by
  intro s t c e b x n ds issue reserved check unread
  have ⟨⟨_, _, own⟩, clean, _, _⟩ := issue
  have same : x.op = op := own
  have goes := (takes t c s).trans (issueRow_issue issue doRemote)
  rw [doRemote_eq rfl clean reserved check unread] at goes
  obtain ⟨felt, becomes⟩ := s.remoteIssued_becomes e x
  obtain ⟨ps, us, ⟨packets, acks, mine⟩, sends⟩ := s.remoteFelt_sends e x
  refine ⟨_, ps, us, goes, packets, acks.imp_right ?_, ?_, ?_, felt ▸ becomes⟩
  · rintro ⟨none_, len, ren, kind⟩
    exact ⟨none_, len, ren, kinds (same ▸ kind)⟩
  · simpa [and_assoc] using mine
  · rw [felt, State.remoteFelt]
    dsimp only
    rw [sends]
    split <;> rfl

end Sys2Proof.Machine

open Sys2Proof Sys2Proof.Machine

/-- Settles O36: each row hands its word to the felt interface, whose packets and acknowledgements `State.remoteFelt_sends`
gives. -/
theorem remoteWords : Obligations.RemoteWords := by
  refine ⟨?_, ?_, ?_, ?_, ?_, ?_, ?_⟩ <;> exact .of_row (fun _ _ _ => rfl) (by decide)
end

section
/-! PROOFS. Packets, returned data and acknowledgements arrive (R202 to R207, R250, R265). -/

namespace Sys2Proof.Machine

/-! Ranges -/

/-- A range inside another meets what that one meets. -/
theorem overlap_of_inside {p r x : Nat × Nat} (low : r.1 ≤ p.1) (high : p.1 + p.2 ≤ r.1 + r.2) (h : overlap p x = true) :
    overlap r x = true := by
  simp only [overlap, decide_eq_true_eq] at *
  omega

theorem overlap_comm (a b : Nat × Nat) : overlap a b = overlap b a := by
  simp only [overlap, max_comm, min_comm]

/-- The packets of a range lie inside it (R250). -/
theorem packetParts_inside {r q : Nat × Nat} (mem : q ∈ packetParts r) : r.1 ≤ q.1 ∧ q.1 + q.2 ≤ r.1 + r.2 := by
  obtain ⟨i, hi, rfl⟩ := List.mem_map.mp mem
  rw [List.mem_range, cdiv] at hi
  dsimp only
  omega

/-- A range of a tile that no unit may write, and that no operation in flight of another unit reads or writes. -/
structure State.Free (s : State) (e : Env) (t : Tile) (rs : List (Nat × Nat)) : Prop where
  guarded : ∀ r ∈ rs, (s.guarded e).any (overlap r) = false
  alone : ∀ o ∈ t.others .outside, o.meets rs = false

/-- A shorter range is free where the whole of it is. -/
theorem State.Free.shorter {s : State} {e : Env} {t : Tile} {a n m : Nat} (h : s.Free e t [(a, n)]) (le : m ≤ n) :
    s.Free e t [(a, m)] := by
  obtain ⟨guarded, alone⟩ := h
  simp only [List.mem_singleton, forall_eq, List.any_eq_false] at guarded
  refine ⟨?_, fun o ho => ?_⟩
  · simp only [List.mem_singleton, forall_eq, List.any_eq_false]
    exact fun g hg meets => guarded g hg (overlap_of_inside (Nat.le_refl a) (Nat.add_le_add_left le a) meets)
  · have whole := alone o ho
    simp only [UnitOp.meets, List.any_cons, List.any_nil, Bool.or_false, List.any_eq_false] at whole ⊢
    intro x hx meets
    rw [overlap_comm] at meets
    refine whole x hx ?_
    rw [overlap_comm]
    exact overlap_of_inside (Nat.le_refl a) (Nat.add_le_add_left le a) meets

/-! What an arrival leaves -/

/-- The felt becomes `f` and the tile in `slot` becomes `t`; the rest is the frame of `TileFrame`. -/
structure Lands (s u : State) (slot : Nat) (f : Felt) (t : Tile) : Prop where
  felt : u.felt = f
  frame : TileFrame { s with felt := f } u slot
  tile : u.tile slot = t

section
variable {s v : State} {slot : Nat} {f : Felt} {t : Tile} {e : Env}

/-- A packet leaves the felt, and the routers count the words that they corrected (R251). -/
theorem Lands.of_flits (s : State) (slot : Nat) (f : Felt) (es : List FlitErr) :
    Lands s (({ s with felt := f } : State).flitReads es) slot f (s.tile slot) := by
  have counts := Counted.of_flitReads { s with felt := f } es
  generalize ({ s with felt := f } : State).flitReads es = u at counts
  obtain ⟨eq, pages⟩ := counts
  obtain ⟨k, rfl⟩ : ∃ k, u = { s with felt := f, pages := k } := ⟨_, eq⟩
  exact ⟨rfl, ⟨rfl, fun _ _ => rfl, pages, rfl⟩, rfl⟩

theorem Lands.setTile (h : Lands s v slot f t) (t' : Tile) : Lands s (v.setTile slot t') slot f t' :=
  ⟨h.felt, h.frame.trans (v.setTile_frame slot t'), v.setTile_tile slot t'⟩

theorem Lands.noteSat (h : Lands s v slot f t) (c : Ctx) (sat : Bool) :
    Lands s (v.noteSat slot c sat) slot f (t.setSat c sat) := by
  have frame := h.frame.trans (v.noteSat_frame slot c sat)
  refine ⟨by rw [frame.1], frame, ?_⟩
  rw [State.noteSat_tile, h.tile]

theorem Lands.putFelt (h : Lands s v slot f t) (g : Felt) : Lands s { v with felt := g } slot g t := by
  obtain ⟨rfl, ⟨rest, tiles, pages, ctr⟩, tile⟩ := h
  refine ⟨rfl, ⟨?_, tiles, pages, ctr⟩, tile⟩
  conv_lhs => rw [rest]

theorem Lands.bind (h : Lands s v slot f t) : v.bind = s.bind := by rw [h.frame.1]

/-- An operation is acknowledged by its destination (R265). -/
theorem Lands.ackPacket (h : Lands s v slot f t) (src : Nat) (c : Ctx) (dst op : Nat) :
    Lands s (v.ackPacket src c dst op) slot
      { f with unacked := ackOp src c dst op (s.bind.applied.midOf (dst / 16) (src / 16)) f.unacked } t := by
  have acked : v.ackPacket src c dst op = { v with felt := { f with
      unacked := ackOp src c dst op (s.bind.applied.midOf (dst / 16) (src / 16)) f.unacked } } := by
    rw [State.ackPacket, h.felt, h.bind]
  rw [acked]
  exact h.putFelt _

/-- What an operation leaves where its last packet has arrived: its counter steps and it is acknowledged (R204, R265). -/
theorem Lands.fin (h : Lands s v e.slot f t) (p : Packet) :
    Lands s (if p.last then (v.remoteInc e p).ackPacket p.src p.ctx p.dst p.op else v) e.slot
      { f with unacked := if p.last then
          ackOp p.src p.ctx p.dst p.op (s.bind.applied.midOf (p.dst / 16) (p.src / 16)) f.unacked else f.unacked }
      (if p.last then t.complete p.rctr p.ren else t) := by
  cases p.last with
  | false => exact h
  | true =>
    have counted := (h.setTile (t.complete p.rctr p.ren)).ackPacket p.src p.ctx p.dst p.op
    rw [if_pos rfl, State.remoteInc, h.tile]
    exact counted

/-- Bytes that arrive for a free range are stored. -/
theorem State.landWrite_eq {ws : List (Nat × List Byte)} (free : v.Free e (v.tile e.slot) (writeRanges ws)) (src : Nat)
    (c : Ctx) (vc : Nat) (k : State → State) : v.landWrite e src c vc ws k =
      k (v.setTile e.slot { v.tile e.slot with sram := (v.tile e.slot).sram.writes ws }) := by
  obtain ⟨guarded, alone⟩ := free
  have passes : ((writeRanges ws).flatMap packetParts).find? (fun r => (v.guarded e).any (overlap r)) = none := by
    refine List.find?_eq_none.mpr fun q hq meets => ?_
    obtain ⟨r, hr, part⟩ := List.mem_flatMap.mp hq
    obtain ⟨g, hg, hits⟩ := List.any_eq_true.mp meets
    obtain ⟨low, high⟩ := packetParts_inside part
    exact List.any_eq_false.mp (guarded r hr) g hg (overlap_of_inside low high hits)
  unfold State.landWrite
  rw [passes]
  dsimp only
  rw [State.conflicts_eq_self]
  rw [State.setTile_tile]
  exact List.any_eq_false.mpr fun o ho => Bool.eq_false_iff.mp (alone o ho)

/-- A read of a clean tile that no operation writes meanwhile. -/
theorem State.landRead_eq {a n : Nat} (clean : (v.tile e.slot).sram.errs = [])
    (unread : (v.tile e.slot).written .outside [(a, n)] = false) (src : Nat) (c : Ctx) (vc : Nat)
    (k : List Byte → State → State) : v.landRead e src c vc a n k = k ((v.tile e.slot).sram.read a n) v := by
  unfold State.landRead
  dsimp only
  rw [State.meetReads_eq_self unread, EccMem.bad_clean _ _ clean, State.tileReads_clean clean]

/-- The module as an arriving operation finds it: what may be written is as it was, and the tile's memory has no error. -/
structure Arrives (s v : State) (e : Env) (f : Felt) : Prop extends Lands s v e.slot f (s.tile e.slot) where
  guarded : v.guarded e = s.guarded e

theorem Lands.arrives (h : Lands s v e.slot f (s.tile e.slot)) : Arrives s v e f :=
  ⟨h, State.guarded_eq h.bind (by rw [h.tile])⟩

/-- Bytes that arrive for a free range are stored. -/
theorem Arrives.write {ws : List (Nat × List Byte)} (h : Arrives s v e f) (free : s.Free e (s.tile e.slot) (writeRanges ws))
    (src : Nat) (c : Ctx) (vc : Nat) (k : State → State) : ∃ w, v.landWrite e src c vc ws k = k w ∧
      Lands s w e.slot f { s.tile e.slot with sram := (s.tile e.slot).sram.writes ws } := by
  obtain ⟨guarded, alone⟩ := free
  refine ⟨_, State.landWrite_eq ⟨fun r hr => ?_, ?_⟩ src c vc k, ?_⟩
  · rw [h.guarded]
    exact guarded r hr
  · rw [h.tile]
    exact alone
  · rw [h.tile]
    exact h.setTile _

/-- A clean tile's bytes are read as they are. -/
theorem Arrives.read {a n : Nat} (h : Arrives s v e f) (clean : (s.tile e.slot).sram.errs = [])
    (unread : (s.tile e.slot).written .outside [(a, n)] = false) (src : Nat) (c : Ctx) (vc : Nat)
    (k : List Byte → State → State) : v.landRead e src c vc a n k = k ((s.tile e.slot).sram.read a n) v := by
  rw [State.landRead_eq (by rw [h.tile]; exact clean) (by rw [h.tile]; exact unread), h.tile]

/-! Packets (R202 to R204) -/

/-- What is still to be acknowledged once a packet has been performed (R265). -/
def State.acksOf (s : State) (p : Packet) (us : List Unacked) : List Unacked :=
  if p.last then ackOp p.src p.ctx p.dst p.op (s.bind.applied.midOf (p.dst / 16) (p.src / 16)) us else us

/-- A tile once a packet has been performed there (R204). -/
def Packet.finish (p : Packet) (t : Tile) : Tile := if p.last then t.complete p.rctr p.ren else t

theorem Arrives.land_put {p : Packet} (h : Arrives s v e f) (kind : p.kind = .put ∨ p.kind = .mcast) (some_ : p.data ≠ [])
    (free : s.Free e (s.tile e.slot) [(p.addr, p.data.length)]) : Lands s (v.land e p) e.slot
      { f with unacked := s.acksOf p f.unacked }
      (p.finish { s.tile e.slot with sram := (s.tile e.slot).sram.write p.addr p.data }) := by
  have stores : v.land e p = v.landWrite e p.src p.ctx p.chan.vc [(p.addr, p.data)] fun s =>
      if p.last then (s.remoteInc e p).ackPacket p.src p.ctx p.dst p.op else s := by
    unfold State.land
    obtain kind | kind := kind <;> simp [kind, some_]
  obtain ⟨w, eq, stored⟩ := h.write (ws := [(p.addr, p.data)]) free p.src p.ctx p.chan.vc _
  rw [stores, eq]
  exact stored.fin p

/-- The data that returns to a packet's source (R250). -/
def Packet.returns (p : Packet) (mid : Option Nat) (bs : List Byte) : List Response :=
  (List.range (cdiv bs.length 512)).map fun i =>
    { prog := p.prog, dst := p.src, ctx := p.ctx, pieces := [(p.ret + 512 * i, (bs.drop (512 * i)).take 512)]
      ctr := p.ctr, cen := p.cen, op := p.op, last := decide (i + 1 = cdiv bs.length 512), src := p.dst, mid := mid }

theorem Lands.respond (h : Lands s v e.slot f t) (p : Packet) (bs : List Byte) : Lands s (v.respond p bs) e.slot
    { f with responses := f.responses ++ p.returns (s.bind.applied.midOf (p.dst / 16) (p.src / 16)) bs } t := by
  have same : v.respond p bs = { v with felt := { f with
      responses := f.responses ++ p.returns (s.bind.applied.midOf (p.dst / 16) (p.src / 16)) bs } } := by
    rw [← h.felt, ← h.bind]
    rfl
  rw [same]
  exact h.putFelt _

theorem Arrives.land_get {p : Packet} (h : Arrives s v e f) (kind : p.kind = .get) (some_ : p.len ≠ 0)
    (clean : (s.tile e.slot).sram.errs = []) (unread : (s.tile e.slot).written .outside [(p.addr, p.len)] = false) :
    Lands s (v.land e p) e.slot
      { f with
        unacked := s.acksOf p f.unacked
        responses := f.responses ++ p.returns (s.bind.applied.midOf (p.dst / 16) (p.src / 16))
          ((s.tile e.slot).sram.read p.addr p.len) }
      (p.finish (s.tile e.slot)) := by
  have reads : v.land e p = v.landRead e p.src p.ctx p.chan.vc p.addr p.len fun d s =>
      (fun s : State => if p.last then (s.remoteInc e p).ackPacket p.src p.ctx p.dst p.op else s) (s.respond p d) := by
    unfold State.land
    simp [kind, some_]
  rw [reads, h.read clean unread]
  exact (h.toLands.respond p _).fin p

theorem chunksOf_length {α : Type} (n k : Nat) (xs : List α) : (chunksOf n k xs).length = k := by
  induction k generalizing xs with
  | zero => rfl
  | succ k ih => rw [chunksOf, List.length_cons, ih]

/-- An atomic operation gives four bytes for each element that both sides have. -/
theorem atomicBytes_length (k : PacketKind) (f32fmt : Bool) (old new : List Byte) :
    (atomicBytes k f32fmt old new).1.length = 4 * min (old.length / 4) (new.length / 4) := by
  simp only [atomicBytes, List.length_flatMap, leBytes_length, List.map_const', List.sum_replicate, List.length_zipWith,
    chunksOf_length, smul_eq_mul, Nat.mul_comm]

theorem Arrives.land_atomic {p : Packet} (h : Arrives s v e f) (kind : p.kind = .radd ∨ p.kind = .rmax ∨ p.kind = .rswap)
    (some_ : p.data ≠ []) (free : s.Free e (s.tile e.slot) [(p.addr, p.data.length)])
    (clean : (s.tile e.slot).sram.errs = [])
    (unread : (s.tile e.slot).written .outside [(p.addr, p.data.length)] = false) :
    let old := (s.tile e.slot).sram.read p.addr p.data.length
    let d := atomicBytes p.kind (p.elem == 1) old p.data
    Lands s (v.land e p) e.slot
      { f with
        unacked := s.acksOf p f.unacked
        responses := f.responses ++
          if p.kind = .rswap then p.returns (s.bind.applied.midOf (p.dst / 16) (p.src / 16)) old else [] }
      (p.finish ({ s.tile e.slot with sram := (s.tile e.slot).sram.write p.addr d.1 }.setSat p.ctx d.2)) := by
  intro old d
  have reads : v.land e p = v.landRead e p.src p.ctx p.chan.vc p.addr p.data.length fun old s =>
      s.landWrite e p.src p.ctx p.chan.vc [(p.addr, (atomicBytes p.kind (p.elem == 1) old p.data).1)] fun s =>
        (fun s : State => if p.last then (s.remoteInc e p).ackPacket p.src p.ctx p.dst p.op else s)
          (if p.kind = .rswap then
            (s.noteSat e.slot p.ctx (atomicBytes p.kind (p.elem == 1) old p.data).2).respond p old
          else s.noteSat e.slot p.ctx (atomicBytes p.kind (p.elem == 1) old p.data).2) := by
    unfold State.land
    obtain kind | kind | kind := kind <;> simp [kind, some_]
  have short : d.1.length ≤ p.data.length := by
    rw [atomicBytes_length]
    omega
  obtain ⟨w, eq, stored⟩ := h.write (ws := [(p.addr, d.1)]) (free.shorter short) p.src p.ctx p.chan.vc _
  rw [reads, h.read clean unread, eq]
  have noted := stored.noteSat p.ctx d.2
  split
  · exact (noted.respond p old).fin p
  · rw [List.append_nil]
    exact noted.fin p

end

/-- An I32 RADD of one word is the sum modulo 2^32 (R203). -/
theorem atomicBytes_radd_word {old new : List Byte} (one : old.length = 4) (one' : new.length = 4) :
    atomicBytes .radd false old new = (leBytes 4 ((leNat old + leNat new) % 2 ^ 32), false) := by
  have word : ∀ bs : List Byte, bs.length = 4 → chunksOf 4 (bs.length / 4) bs = [bs] := fun bs len => by
    rw [len]
    change [bs.take 4] = [bs]
    rw [List.take_of_length_le (Nat.le_of_eq len)]
  rw [atomicBytes, word old one, word new one']
  simp [atomicElem]

/-! Flows (R207, R265) -/

/-- The packet that a flow delivers is the flow's. -/
theorem takePacket_flow {src dst : Nat} {c : Ctx} {ps r : List Packet} {p : Packet}
    (taken : takePacket src c dst ps = some (p, r)) : p.src = src ∧ p.ctx = c ∧ p.dst = dst := by
  induction ps generalizing r with
  | nil => cases taken
  | cons q qs ih =>
    rw [takePacket] at taken
    split at taken
    · next mine =>
      simp only [Bool.and_eq_true, beq_iff_eq] at mine
      obtain ⟨⟨src, ctx⟩, -⟩ := mine
      split at taken
      · cases taken
      · obtain ⟨rfl, -⟩ := Prod.mk.inj (Option.some.inj taken)
        exact ⟨src, ctx, rfl⟩
    · obtain ⟨⟨q', r'⟩, later, eq⟩ := Option.map_eq_some_iff.mp taken
      obtain ⟨rfl, -⟩ := Prod.mk.inj eq
      exact ih later

/-- A tile's environment is that of the tile and of the context. -/
theorem State.unitEnv_names {s : State} {t : Nat} {c : Ctx} {e : Env} (unit : s.unitEnv t c = some e) : e.t = t ∧ e.c = c :=
  State.env_names (State.env_of_unitEnv unit)

section
variable {s : State} {src dst : Nat} {c : Ctx} {e : Env} {p : Packet} {r : List Packet}

/-- The oldest packet of a flow arrives, and its destination performs it. -/
theorem exec_remoteArrival (hs : src < 19200) (hd : dst < 19200)
    (taken : takePacket src c dst s.felt.packets = some (p, r)) (unit : s.unitEnv dst c = some e) :
    ∃ v m k, exec (.remoteArrival src c dst) s = .next (v.land e { p with mid := m, sub := k }) ∧
      Arrives s v e { s.felt with packets := r } := by
  refine ⟨_, s.copyMid p dst, ({ p with mid := s.copyMid p dst } : Packet).travel.sub, ?_,
    (Lands.of_flits s e.slot { s.felt with packets := r } p.errs).arrives⟩
  change execRemoteArrival src c dst s = _
  unfold execRemoteArrival
  rw [if_neg (by simp [tileOk, hs, hd]), taken, unit]
  rfl

end

/-! Data that returns (R204) -/

section
variable {s : State} {t : Nat} {e : Env} {p : Response} {r : List Response}

theorem exec_getResponse (ht : t < 19200) (taken : takeResponse t s.felt.responses = some (p, r))
    (unit : s.unitEnv t p.ctx = some e)
    (free : s.Free e (s.tile e.slot) (writeRanges p.pieces)) :
    ∃ u, exec (.getResponse t) s = .next u ∧ Lands s u e.slot { s.felt with responses := r }
      (let x := { s.tile e.slot with sram := (s.tile e.slot).sram.writes p.pieces }
       if p.last then x.complete p.ctr p.cen else x) := by
  have arrives := (Lands.of_flits s e.slot { s.felt with responses := r } p.errs).arrives
  obtain ⟨w, eq, stored⟩ := arrives.write free p.src p.ctx p.chan.vc
    (fun s => if p.last then s.setTile e.slot ((s.tile e.slot).complete p.ctr p.cen) else s)
  refine ⟨if p.last then w.setTile e.slot ((w.tile e.slot).complete p.ctr p.cen) else w, ?_, ?_⟩
  · change execGetResponse t s = _
    unfold execGetResponse
    rw [if_neg (by simp [tileOk, ht]), taken]
    dsimp only
    rw [unit]
    exact congrArg _ eq
  · split
    · rw [stored.tile]
      exact stored.setTile _
    · exact stored

end

/-! Acknowledgements (R265) -/

/-- A release changes holds alone. -/
theorem releaseHeld_unheld (src : Nat) (c : Ctx) (dst : Nat) (us : List Unacked) (ps : List Packet) :
    (releaseHeld src c dst us ps).map (fun p => { p with held := false }) = ps.map fun p => { p with held := false } := by
  rw [releaseHeld, List.map_map]
  refine List.map_congr_left fun p _ => ?_
  simp only [Function.comp]
  split <;> rfl

theorem exec_acknowledgement {s : State} {t dst : Nat} {c : Ctx} {k : Unacked} {us : List Unacked} (ht : t < 19200)
    (hd : dst < 19200) (dropped : dropAcked t c dst s.felt.unacked = some (k, us)) :
    ∃ u, exec (.acknowledgement t c dst) s = .next u ∧ Counted { s with felt := { s.felt with
      unacked := us, packets := releaseHeld t c dst us s.felt.packets } } u := by
  refine ⟨_, ?_, .of_flitReads _ k.errs⟩
  change execAcknowledgement t c dst s = _
  unfold execAcknowledgement
  rw [if_neg (by simp [tileOk, ht, hd]), dropped]

end Sys2Proof.Machine
end

section
/-! PROOFS. Converging adds: an operand waits for its turn, and the operands whose turn has come are added (R206, R276,
R277). -/

namespace Sys2Proof.Machine

/-! Operands arrive -/

/-- The path of a packet does not matter to its operand. -/
theorem convLand_path (p : Packet) (m : Option Nat) (n : Nat) (l : List ConvOperand) :
    convLand { p with mid := m, sub := n } l = convLand p l := by
  induction l with
  | nil => rfl
  | cons o l ih => simp only [convLand, ih]

theorem convLand_ne_nil (p : Packet) (l : List ConvOperand) : convLand p l ≠ [] := by
  cases l with
  | nil => exact List.cons_ne_nil _ _
  | cons o l =>
    rw [convLand]
    split <;> exact List.cons_ne_nil _ _

/-- An operand of a round. -/
def ConvOperand.Of (prog tree round : Nat) (o : ConvOperand) : Prop := o.prog = prog ∧ o.tree = tree ∧ o.round = round

/-- A packet joins operands of its round. -/
theorem convLand_of {p : Packet} {l : List ConvOperand} (same : ∀ o ∈ l, o.Of p.prog p.tree p.round) :
    ∀ o ∈ convLand p l, o.Of p.prog p.tree p.round := by
  induction l with
  | nil =>
    intro o ho
    rw [convLand, List.mem_singleton] at ho
    subst ho
    exact ⟨rfl, rfl, rfl⟩
  | cons k l ih =>
    have first : k.Of p.prog p.tree p.round := same k List.mem_cons_self
    have others : ∀ o ∈ l, o.Of p.prog p.tree p.round := fun o ho => same o (List.mem_cons_of_mem k ho)
    intro o ho
    rw [convLand] at ho
    split at ho
    · obtain rfl | ho := List.mem_cons.mp ho
      · exact first
      · exact others o ho
    · obtain rfl | ho := List.mem_cons.mp ho
      · exact first
      · exact ih others o ho

/-! A tree's turn -/

theorem eraseDups_replicate (n k : Nat) : (List.replicate (n + 1) k).eraseDups = [k] := by
  have none_ : (List.replicate n k).filter (fun b => !b == k) = [] := by
    refine List.filter_eq_nil_iff.mpr fun b hb => ?_
    simp [List.eq_of_mem_replicate hb]
  rw [List.replicate_succ, List.eraseDups_cons, none_, List.eraseDups_nil]

/-- Where every operand is one tree's, that tree alone has operands at its destination. -/
theorem State.convTrees_one {s : State} {prog tree round dst : Nat} (some_ : s.felt.conv ≠ [])
    (same : ∀ o ∈ s.felt.conv, o.Of prog tree round) (ends : (s.treeDest prog tree).any (fun d => d.1 == dst) = true) :
    s.convTrees prog dst = [tree] := by
  have mine : (s.felt.conv.filter fun o => o.prog == prog) = s.felt.conv :=
    List.filter_eq_self.mpr fun o ho => by simp [(same o ho).1]
  have trees : (s.felt.conv.map fun o => o.tree) = List.replicate s.felt.conv.length tree :=
    List.eq_replicate_iff.mpr ⟨List.length_map _, fun k hk => by
      obtain ⟨o, ho, rfl⟩ := List.mem_map.mp hk
      exact (same o ho).2.1⟩
  obtain ⟨n, length⟩ := Nat.exists_eq_succ_of_ne_zero (mt List.length_eq_zero_iff.mp some_)
  rw [State.convTrees, mine, trees, length, eraseDups_replicate]
  simp [ends]

/-- A tile folds nothing where no tree's turn has come. -/
theorem State.foldRounds_waits {s : State} {e : Env} {prog : Nat}
    (none_ : ∀ k ∈ s.convTrees prog e.t, ∀ h, s.tree e k = some h → s.convNext e.t h prog k = none) (fuel : Nat) :
    State.foldRounds e prog fuel s = s := by
  cases fuel with
  | zero => rfl
  | succ fuel =>
    have stops : ((s.convTrees prog e.t).findSome? fun k =>
        (s.tree e k).bind fun h => (s.convNext e.t h prog k).map fun os => (k, h, os)) = none := by
      refine List.findSome?_eq_none_iff.mpr fun k hk => ?_
      cases found : s.tree e k with
      | none => rfl
      | some h => simp [none_ k hk h found]
    rw [State.foldRounds, stops]

/-- The one tree whose turn has come is folded. -/
theorem State.foldRounds_turn {s : State} {e : Env} {prog tree : Nat} {h : List Byte} {os : List ConvOperand}
    (trees : s.convTrees prog e.t = [tree]) (header : s.tree e tree = some h) (turn : s.convNext e.t h prog tree = some os)
    (fuel : Nat) : State.foldRounds e prog (fuel + 1) s = s.foldOne e h prog tree os (State.foldRounds e prog fuel) := by
  have first : ((s.convTrees prog e.t).findSome? fun k =>
      (s.tree e k).bind fun h => (s.convNext e.t h prog k).map fun os => (k, h, os)) = some (tree, h, os) := by
    simp [trees, header, turn]
  rw [State.foldRounds, first]

/-- A tree of which some operand of the next group is missing waits. -/
theorem State.convNext_waits {s : State} {dst prog tree : Nat} {h : List Byte}
    (missing : ∀ g, (s.treeGroups prog tree (leAt h 3 1 == 1) (leAt h 10 2))[sget 0 s.felt.next (treeKey prog tree)]? = some g →
      (g.filterMap (s.convOp prog tree (sget 0 s.felt.done (treeKey prog tree)) (4 * leAt h 8 2))).length ≠ g.length) :
    s.convNext dst h prog tree = none := by
  unfold State.convNext
  dsimp only
  split
  · rfl
  · next g found => rw [if_neg (by simp [missing g found])]

theorem State.convOp_fields {s : State} {prog tree k n ord : Nat} {o : ConvOperand}
    (found : s.convOp prog tree k n ord = some o) : o.round = k ∧ o.ord = ord := by
  have fields := List.find?_some found
  simp only [Bool.and_eq_true, beq_iff_eq] at fields
  obtain ⟨⟨⟨-, round⟩, ord⟩, -⟩ := fields
  exact ⟨round, ord⟩

/-- The operands of a turn are those of the round in progress; in F32 the one of the next ordinal (R277). -/
theorem State.convNext_operands {s : State} {dst prog tree : Nat} {h : List Byte} {os : List ConvOperand}
    (turn : s.convNext dst h prog tree = some os) :
    (∀ o ∈ os, o.round = sget 0 s.felt.done (treeKey prog tree)) ∧
      (leAt h 3 1 = 1 → os.map (fun o => o.ord) = [sget 0 s.felt.next (treeKey prog tree)]) := by
  unfold State.convNext at turn
  dsimp only at turn
  split at turn
  · cases turn
  · next g found =>
    split at turn
    · next whole =>
      obtain rfl := Option.some.inj turn
      refine ⟨fun o ho => ?_, fun f32 => ?_⟩
      · obtain ⟨ord, -, at_⟩ := List.mem_filterMap.mp ho
        exact (State.convOp_fields at_).1
      · have single : g = [sget 0 s.felt.next (treeKey prog tree)] := by
          rw [State.treeGroups, f32, if_pos (beq_self_eq_true 1)] at found
          obtain ⟨_, eq⟩ := List.getElem?_eq_some_iff.mp found
          simpa using eq.symm
        subst single
        cases at_ : s.convOp prog tree (sget 0 s.felt.done (treeKey prog tree)) (4 * leAt h 8 2)
            (sget 0 s.felt.next (treeKey prog tree)) with
        | none => simp [at_] at whole
        | some o => simp [at_, (State.convOp_fields at_).2]
    · cases turn

/-! A group is folded -/

theorem operands_ctx (os : List ConvOperand) (c : Ctx) :
    (os.head?.map fun o => o.ctx).getD c = (os.map fun o => o.ctx).headD c := by
  cases os <;> rfl

section
variable {s v : State} {e : Env} {f : Felt} {t : Tile} {h : List Byte} {prog tree : Nat} {os : List ConvOperand}

/-- What is still to be acknowledged once a tile has added the operands `os` (R265). -/
def State.operandAcks (s : State) (dst : Nat) (os : List ConvOperand) (us : List Unacked) : List Unacked :=
  os.foldl (fun us o => ackOp o.src o.ctx dst o.op (s.bind.applied.midOf (dst / 16) (o.src / 16)) us) us

theorem Lands.ackOperands (lands : Lands s v e.slot f t) (os : List ConvOperand) :
    Lands s (os.foldl (fun s o => s.ackPacket o.src o.ctx e.t o.op) v) e.slot
      { f with unacked := s.operandAcks e.t os f.unacked } t := by
  induction os generalizing v f with
  | nil => exact lands
  | cons o os ih => exact ih (lands.ackPacket o.src o.ctx e.t o.op)

/-- What the end of a group leaves in the felt, the round's last group being `last` (R277). -/
def Felt.endGroup (f : Felt) (key k : Nat) (last : Bool) : Felt :=
  if last then { f with
    conv := f.conv.filter fun o => !(treeKey o.prog o.tree == key && o.round == k)
    done := sput 0 f.done key (k + 1), next := sput 0 f.next key 0 }
  else { f with next := sput 0 f.next key (sget 0 f.next key + 1) }

theorem Felt.endGroup_more (f : Felt) (key k : Nat) :
    f.endGroup key k false = { f with next := sput 0 f.next key (sget 0 f.next key + 1) } := rfl

/-- The last ordinal's operand of a round asks for its destination's counter (R204). -/
def Felt.asksCounter (f : Felt) (h : List Byte) (key k : Nat) : Bool :=
  f.conv.any fun o => (treeKey o.prog o.tree == key && o.round == k) && o.ord + 1 == leAt h 10 2 && o.ren

theorem Lands.endGroup (lands : Lands s v e.slot f t) (h : List Byte) (key k : Nat) (last : Bool) :
    Lands s (v.endGroup e.slot h key k last) e.slot (f.endGroup key k last)
      (if last then t.complete (leAt h 12 1) (f.asksCounter h key k) else t) := by
  obtain ⟨rfl, frame, rfl⟩ := lands
  have lands : Lands s v e.slot v.felt (v.tile e.slot) := ⟨rfl, frame, rfl⟩
  cases last with
  | false => exact lands.putFelt _
  | true => exact (lands.setTile _).putFelt _

/-- The sum of a tree's destination and of operands, with saturation (R203, R206). -/
def Tile.foldSum (t : Tile) (h : List Byte) (os : List ConvOperand) : List Byte × Bool :=
  atomicBytes .radd (leAt h 3 1 == 1) (t.sram.read (leAt h 4 4) (4 * leAt h 8 2)) (sumOperands os)

/-- A tile that has added operands; SAT is that of the first one's context, `c` where there is none. -/
def Tile.fold (t : Tile) (h : List Byte) (os : List ConvOperand) (c : Ctx) : Tile :=
  ({ t with sram := t.sram.write (leAt h 4 4) (t.foldSum h os).1 } : Tile).setSat
    ((os.map fun (o : ConvOperand) => o.ctx).headD c) (t.foldSum h os).2

/-- The operands of a turn are added to the destination and acknowledged, and their group ends. -/
theorem Arrives.foldOne (arrives : Arrives s v e f) (some_ : 0 < leAt h 8 2)
    (free : s.Free e (s.tile e.slot) [(leAt h 4 4, 4 * leAt h 8 2)]) (clean : (s.tile e.slot).sram.errs = [])
    (unread : (s.tile e.slot).written .outside [(leAt h 4 4, 4 * leAt h 8 2)] = false) (go : State → State) :
    let key := treeKey prog tree
    let k := sget 0 f.done key
    let last := decide ((v.treeGroups prog tree (leAt h 3 1 == 1) (leAt h 10 2)).length ≤ sget 0 f.next key + 1)
    let t := (s.tile e.slot).fold h os e.c
    ∃ w, v.foldOne e h prog tree os go = go w ∧
      Lands s w e.slot (Felt.endGroup { f with unacked := s.operandAcks e.t os f.unacked } key k last)
        (if last then t.complete (leAt h 12 1) (f.asksCounter h key k) else t) := by
  intro key k last t
  set d := (s.tile e.slot).foldSum h os with sum
  have short : d.1.length ≤ 4 * leAt h 8 2 := by
    rw [sum, Tile.foldSum, atomicBytes_length, EccMem.read_length]
    omega
  set c := (os.map fun (o : ConvOperand) => o.ctx).headD e.c
  obtain ⟨w, eq, stored⟩ := arrives.write (ws := [(leAt h 4 4, d.1)]) (free.shorter short)
    ((os.head?.map fun o => o.src).getD e.t) c 3 fun s =>
      let s := s.noteSat e.slot c d.2
      let s := os.foldl (fun s o => s.ackPacket o.src o.ctx e.t o.op) s
      go (s.endGroup e.slot h key k
        (decide ((v.treeGroups prog tree (leAt h 3 1 == 1) (leAt h 10 2)).length ≤ sget 0 s.felt.next key + 1)))
  have acked := (stored.noteSat c d.2).ackOperands os
  refine ⟨_, ?_, acked.endGroup h key k last⟩
  unfold State.foldOne
  dsimp only
  rw [arrives.read clean unread, if_neg (by omega), arrives.felt, operands_ctx]
  refine eq.trans ?_
  dsimp only
  rw [acked.felt]

end

/-! The clause of a converging add -/

section
variable {s v : State} {e : Env} {f : Felt} {t : Tile}

/-- What a tree is, and which of its operands come next, depends on what is bound and on the felt alone. -/
theorem Lands.convTrees_eq (h : Lands s v e.slot f t) (prog d : Nat) :
    v.convTrees prog d = ({ s with felt := f } : State).convTrees prog d := by rw [h.frame.1]; rfl

theorem Lands.tree_eq (h : Lands s v e.slot f t) (k : Nat) : v.tree e k = s.tree e k := by rw [h.frame.1]; rfl

theorem Lands.treeGroups_eq (h : Lands s v e.slot f t) (prog tree : Nat) (f32fmt : Bool) (n : Nat) :
    v.treeGroups prog tree f32fmt n = s.treeGroups prog tree f32fmt n := by rw [h.frame.1]; rfl

theorem Lands.convNext_eq (h : Lands s v e.slot f t) (d : Nat) (hd : List Byte) (prog k : Nat) :
    v.convNext d hd prog k = ({ s with felt := f } : State).convNext d hd prog k := by rw [h.frame.1]; rfl

theorem Arrives.land_conv {p : Packet} (h : Arrives s v e f) (kind : p.kind = .conv) :
    ∃ w, v.land e p = State.foldRounds e p.prog ((convLand p f.conv).length + 1) w ∧
      Arrives s w e { f with conv := convLand p f.conv } := by
  refine ⟨{ v with felt := { f with conv := convLand p f.conv } }, ?_, (h.toLands.putFelt _).arrives⟩
  unfold State.land
  rw [kind, h.felt]

/-! A turn -/

variable {h : List Byte} {prog tree : Nat} {os : List ConvOperand}

/-- Where every operand is of one round, the end of the round takes them all (R277). -/
theorem Felt.endGroup_last {k : Nat} (same : ∀ o ∈ f.conv, o.Of prog tree k) :
    f.endGroup (treeKey prog tree) k true = { f with
      conv := [], done := sput 0 f.done (treeKey prog tree) (k + 1), next := sput 0 f.next (treeKey prog tree) 0 } := by
  have taken : (f.conv.filter fun o => !(treeKey o.prog o.tree == treeKey prog tree && o.round == k)) = [] := by
    refine List.filter_eq_nil_iff.mpr fun o ho => ?_
    obtain ⟨prog, tree, round⟩ := same o ho
    simp [prog, tree, round]
  rw [Felt.endGroup, taken]
  rfl

theorem Felt.asksCounter_eq {k : Nat} (same : ∀ o ∈ f.conv, o.Of prog tree k) (h : List Byte) :
    f.asksCounter h (treeKey prog tree) k = f.conv.any fun o => o.ord + 1 == leAt h 10 2 && o.ren := by
  rw [Felt.asksCounter, Bool.eq_iff_iff]
  simp only [List.any_eq_true]
  refine exists_congr fun o => and_congr_right fun ho => ?_
  obtain ⟨prog, tree, round⟩ := same o ho
  simp [prog, tree, round]

/-- After a group's turn its tree's destination adds no other: the round is complete, or an operand of the next group is
missing. -/
theorem Lands.folded {k : Nat} {last : Bool} (lands : Lands s v e.slot (f.endGroup (treeKey prog tree) k last) t)
    (some_ : f.conv ≠ []) (same : ∀ o ∈ f.conv, o.Of prog tree k) (round : k = sget 0 f.done (treeKey prog tree))
    (ends : (s.treeDest prog tree).any (fun d => d.1 == e.t) = true) (header : s.tree e tree = some h)
    (missing : ∀ g, (s.treeGroups prog tree (leAt h 3 1 == 1) (leAt h 10 2))[sget 0 f.next (treeKey prog tree) + 1]? = some g →
      (g.filterMap (({ s with felt := f } : State).convOp prog tree k (4 * leAt h 8 2))).length ≠ g.length)
    (fuel : Nat) : State.foldRounds e prog fuel v = v := by
  refine State.foldRounds_waits ?_ fuel
  rw [lands.convTrees_eq]
  cases last with
  | true =>
    rw [Felt.endGroup_last same]
    intro k hk
    simp [State.convTrees] at hk
  | false =>
    have trees : ({ s with felt := f.endGroup (treeKey prog tree) k false } : State).convTrees prog e.t = [tree] :=
      State.convTrees_one some_ same ends
    rw [trees]
    intro j hj h' header'
    obtain rfl := List.mem_singleton.mp hj
    obtain rfl := Option.some.inj ((header.symm.trans (lands.tree_eq j).symm).trans header')
    rw [lands.convNext_eq]
    refine State.convNext_waits fun g found => ?_
    have turn : sget 0 (f.endGroup (treeKey prog j) k false).next (treeKey prog j) = sget 0 f.next (treeKey prog j) + 1 := by
      simp only [Felt.endGroup_more, sget_sput_self]
    rw [turn] at found
    have lacks := missing g found
    rw [round] at lacks
    exact lacks

/-- The operands whose turn has come are added, and nothing else (R206, R277). -/
theorem Arrives.fold_turn (arrives : Arrives s v e f) {k : Nat} (round : k = sget 0 f.done (treeKey prog tree))
    (some_ : f.conv ≠ []) (same : ∀ o ∈ f.conv, o.Of prog tree k)
    (ends : (s.treeDest prog tree).any (fun d => d.1 == e.t) = true) (header : s.tree e tree = some h)
    (turn : ({ s with felt := f } : State).convNext e.t h prog tree = some os) (elements : 0 < leAt h 8 2)
    (free : s.Free e (s.tile e.slot) [(leAt h 4 4, 4 * leAt h 8 2)]) (clean : (s.tile e.slot).sram.errs = [])
    (unread : (s.tile e.slot).written .outside [(leAt h 4 4, 4 * leAt h 8 2)] = false)
    (missing : ∀ g, (s.treeGroups prog tree (leAt h 3 1 == 1) (leAt h 10 2))[sget 0 f.next (treeKey prog tree) + 1]? = some g →
      (g.filterMap (({ s with felt := f } : State).convOp prog tree k (4 * leAt h 8 2))).length ≠ g.length) (fuel : Nat) :
    let key := treeKey prog tree
    let last := decide ((s.treeGroups prog tree (leAt h 3 1 == 1) (leAt h 10 2)).length ≤ sget 0 f.next key + 1)
    let t := (s.tile e.slot).fold h os e.c
    Lands s (State.foldRounds e prog (fuel + 1) v) e.slot
      (Felt.endGroup { f with unacked := s.operandAcks e.t os f.unacked } key k last)
      (if last then t.complete (leAt h 12 1) (f.asksCounter h key k) else t) := by
  intro key last t
  obtain ⟨w, eq, lands⟩ := arrives.foldOne (prog := prog) (tree := tree) (os := os) elements free clean unread
    (State.foldRounds e prog fuel)
  rw [arrives.treeGroups_eq, ← round] at lands
  rw [State.foldRounds_turn (by rw [arrives.convTrees_eq]; exact State.convTrees_one some_ same ends)
    (by rw [arrives.tree_eq, header]) (by rw [arrives.convNext_eq, turn]), eq,
    lands.folded (f := { f with unacked := s.operandAcks e.t os f.unacked }) some_ same round ends header missing fuel]
  exact lands

end

end Sys2Proof.Machine

open Sys2Proof Sys2Proof.Machine

/-- Settles O37: a packet that arrives is performed as its kind says (`Arrives.land_put`, `Arrives.land_atomic`,
`Arrives.land_get`), an operand of a converging add waits or has its turn (`Arrives.fold_turn`), and returned data and
acknowledgements end their operations. -/
theorem remoteLands : Obligations.RemoteLands := by
  refine ⟨fun s src dst c e p r hs hd taken unit clean => ?_, fun s t e p r ht taken unit guarded alone => ?_,
    fun s t dst c k us ht hd dropped => ?_⟩
  · obtain ⟨v, m, n, goes, arrives⟩ := exec_remoteArrival hs hd taken unit
    obtain ⟨rfl, rfl, rfl⟩ := takePacket_flow taken
    obtain ⟨tile, ctx⟩ := State.unitEnv_names unit
    refine ⟨fun some_ guarded alone => ?_, fun kind => ?_, fun kind some_ unread => ?_⟩
    · have free : s.Free e (s.tile e.slot) [(p.addr, p.data.length)] := ⟨by simpa using guarded, alone⟩
      refine ⟨fun kind => ?_, fun kind words unread => ?_⟩
      · obtain ⟨felt, frame, stored⟩ := arrives.land_put (p := { p with mid := m, sub := n }) kind some_ free
        exact ⟨_, goes, felt ▸ frame, felt, stored⟩
      · obtain ⟨felt, frame, stored⟩ := arrives.land_atomic (p := { p with mid := m, sub := n }) kind some_ free clean unread
        refine ⟨_, goes, felt ▸ frame, felt, stored, fun radd int one => ?_⟩
        rw [radd, beq_eq_false_iff_ne.mpr int]
        exact atomicBytes_radd_word ((EccMem.read_length _ _ _).trans one) one
    · obtain ⟨w, eq, joined⟩ := arrives.land_conv (p := { p with mid := m, sub := n }) kind
      rw [convLand_path] at joined eq
      refine ⟨fun waits => ?_, fun h os same header ends all turn some_ => ?_⟩
      · have stops := State.foldRounds_waits (s := w) (e := e) (prog := p.prog)
          (fun k hk h header => by
            rw [joined.convTrees_eq] at hk
            rw [joined.tree_eq] at header
            rw [joined.convNext_eq]
            rw [tile] at hk ⊢
            exact waits k hk h header) ((convLand p s.felt.conv).length + 1)
        obtain ⟨felt, frame, stored⟩ := joined.toLands
        exact ⟨w, goes.trans (congrArg _ (eq.trans stops)), felt ▸ frame, felt, stored⟩
      · have operands : ∀ o ∈ convLand p s.felt.conv, o.Of p.prog p.tree p.round := convLand_of all
        dsimp only
        intro guarded alone unread round missing
        have free : s.Free e (s.tile e.slot) [(leAt h 4 4, 4 * leAt h 8 2)] := ⟨by simpa using guarded, alone⟩
        have folded := joined.fold_turn (k := p.round) round (convLand_ne_nil _ _) operands
          (by rw [tile]; exact ends) header (by rw [tile]; exact turn) some_ free clean unread
          (by rw [round]; exact missing) (convLand p s.felt.conv).length
        obtain ⟨rounds, ordinals⟩ := State.convNext_operands turn
        rw [tile, ctx] at folded
        refine ⟨ordinals, rounds, _, goes.trans (congrArg _ eq), ?_⟩
        rw [← round]
        obtain ⟨felt, frame, stored⟩ := folded
        refine ⟨felt ▸ frame, ?_⟩
        split
        · next last =>
          rw [decide_eq_true last, Felt.endGroup_last operands] at felt
          rw [decide_eq_true last, if_pos rfl, Felt.asksCounter_eq operands] at stored
          exact ⟨felt, stored⟩
        · next more =>
          rw [decide_eq_false more] at felt stored
          exact ⟨felt, stored⟩
    · obtain ⟨felt, frame, stored⟩ := arrives.land_get (p := { p with mid := m, sub := n }) kind some_ clean unread
      exact ⟨_, goes, felt ▸ frame, felt, stored⟩
  · have free : s.Free e (s.tile e.slot) (writeRanges p.pieces) :=
      ⟨fun w hw => by simpa using List.all_eq_true.mp guarded w hw, alone⟩
    obtain ⟨u, goes, felt, frame, stored⟩ := exec_getResponse ht taken unit free
    exact ⟨u, goes, felt ▸ frame, felt, stored⟩
  · obtain ⟨u, goes, eq, pages⟩ := exec_acknowledgement ht hd dropped
    have felt : u.felt = { s.felt with unacked := us, packets := releaseHeld t c dst us s.felt.packets } := by rw [eq]
    refine ⟨u, goes, ?_, pages, ?_, ?_⟩
    · rw [felt]
      exact eq
    · rw [felt]
    · rw [felt]
      exact releaseHeld_unheld t c dst us _
end

section
/-! PROOFS. Moves within a memory without errors deliver what their sources held (R237, R239). -/

namespace Sys2Proof.Machine

/-- A read delivers the bytes of its range and no others. -/
theorem EccMem.read_congr {m m' : EccMem} {a n : Nat} (same : ∀ x, a ≤ x → x < a + n → m'.byte x = m.byte x) :
    m'.read a n = m.read a n := by
  induction n generalizing a with
  | zero => rfl
  | succ n ih =>
    rw [EccMem.read, EccMem.read, same a (Nat.le_refl a) (by omega),
      ih fun x low high => same x (by omega) (by omega)]

/-- Ranges that do not overlap share no byte. -/
theorem outside_of_not_overlap {p r : Nat × Nat} {x : Nat} (apart : overlap p r = false) (low : r.1 ≤ x)
    (high : x < r.1 + r.2) : x < p.1 ∨ p.1 + p.2 ≤ x := by
  simp only [overlap, decide_eq_false_iff_not] at apart
  omega

/-- One move: the bytes of its source go to its destination. -/
def EccMem.move (m : EccMem) (q : Move) : EccMem := m.write q.dst (m.read q.src q.len)

theorem EccMem.moves_cons (m : EccMem) (q : Move) (ms : List Move) : m.moves (q :: ms) = (m.move q).moves ms := rfl

section
variable {m : EccMem}

theorem EccMem.move_errs (clean : m.errs = []) (q : Move) : (m.move q).errs = [] := EccMem.write_errs m _ _ clean

/-- A move delivers what its source holds. -/
theorem EccMem.move_delivers (clean : m.errs = []) (q : Move) : (m.move q).read q.dst q.len = m.read q.src q.len := by
  have stored := m.read_write q.dst (m.read q.src q.len) clean
  rwa [EccMem.read_length] at stored

theorem EccMem.move_outside (clean : m.errs = []) (q : Move) {x : Nat} (out : x < q.dst ∨ q.dst + q.len ≤ x) :
    (m.move q).byte x = m.byte x :=
  EccMem.write_outside m _ _ x clean (by rwa [EccMem.read_length])

/-- Moves leave every byte outside their destinations alone. -/
theorem EccMem.moves_outside (clean : m.errs = []) {ms : List Move} {x : Nat}
    (out : ∀ a ∈ ms, x < a.dst ∨ a.dst + a.len ≤ x) : (m.moves ms).byte x = m.byte x := by
  induction ms generalizing m with
  | nil => rfl
  | cons q ms ih =>
    obtain ⟨first, rest⟩ := List.forall_mem_cons.mp out
    rw [EccMem.moves_cons, ih (EccMem.move_errs clean q) rest, EccMem.move_outside clean q first]

/-- Moves leave a range that no destination meets alone. -/
theorem EccMem.moves_read_apart (clean : m.errs = []) {ms : List Move} {r : Nat × Nat}
    (apart : ∀ a ∈ ms, overlap (a.dst, a.len) r = false) : (m.moves ms).read r.1 r.2 = m.read r.1 r.2 :=
  EccMem.read_congr fun _ low high => EccMem.moves_outside clean fun a ha => outside_of_not_overlap (apart a ha) low high

/-- Moves whose destinations meet neither each other nor any source deliver what the sources held before the first. -/
theorem EccMem.moves_deliver (clean : m.errs = []) {ms : List Move}
    (apart : ms.Pairwise fun a b => overlap (a.dst, a.len) (b.dst, b.len) = false)
    (sources : ∀ a ∈ ms, ∀ b ∈ ms, overlap (a.dst, a.len) (b.src, b.len) = false) :
    ∀ a ∈ ms, (m.moves ms).read a.dst a.len = m.read a.src a.len := by
  induction ms generalizing m with
  | nil => exact fun a ha => absurd ha (List.not_mem_nil)
  | cons q ms ih =>
    obtain ⟨first, rest⟩ := List.pairwise_cons.mp apart
    have later := ih (EccMem.move_errs clean q) rest fun a ha b hb =>
      sources a (List.mem_cons_of_mem q ha) b (List.mem_cons_of_mem q hb)
    rw [EccMem.moves_cons]
    refine List.forall_mem_cons.mpr ⟨?_, fun a ha => (later a ha).trans ?_⟩
    · calc ((m.move q).moves ms).read q.dst q.len
        _ = (m.move q).read q.dst q.len := EccMem.moves_read_apart (r := (q.dst, q.len)) (EccMem.move_errs clean q) fun a ha => by
            rw [overlap_comm]; exact first a ha
        _ = m.read q.src q.len := EccMem.move_delivers clean q
    · exact EccMem.moves_read_apart (ms := [q]) (r := (a.src, a.len)) clean <| List.forall_mem_singleton.mpr <|
        sources q List.mem_cons_self a (List.mem_cons_of_mem q ha)

end

end Sys2Proof.Machine

open Sys2Proof Sys2Proof.Machine

/-- Settles O41: by induction on the moves, each delivers (`EccMem.move_delivers`), and none touches what another reads or has
delivered (`EccMem.moves_read_apart`). -/
theorem movesDeliver : Obligations.MovesDeliver := fun _ _ clean apart sources =>
  ⟨EccMem.moves_deliver clean apart sources, fun _ out => EccMem.moves_outside clean out⟩
end

section
/-! PROOFS. Lines of vats are served, and data for copy engines arrives (R241, R251, R254, R286, R291 to R293, R357, R359,
R362). -/

namespace Sys2Proof.Machine

/-! Requests that are answered -/

/-- An operation with no request left to make sends none. -/
theorem State.pump_eq_self {s : State} {slot id : Nat} (n : Nat) (due : (s.tile slot).Due id fun _ => False) :
    State.pump slot id n s = s := by
  cases n with
  | zero => rfl
  | succ n =>
    rw [State.pump]
    split
    · rfl
    · next o found =>
      split
      · rfl
      · next q r todo =>
        have number : o.id = id := by simpa using List.find?_some found
        exact absurd (by rw [todo]; exact List.mem_cons_self) (due o (List.mem_of_find?_eq_some found) number q)

/-- An operation counts one of its requests as answered (R241). -/
def UnitOp.answer (o : UnitOp) : UnitOp := { o with left := o.left - 1 }

/-- The answer to the last request that an operation has sent, where it has none left to make, only counts. -/
theorem State.answered_eq {s : State} {slot id : Nat}
    (done : ∀ o ∈ (s.tile slot).copyQ ++ (s.tile slot).vecQ, o.id = id → o.todo = []) :
    s.answered slot id = s.setTile slot ((s.tile slot).modOp id UnitOp.answer) := by
  refine State.pump_eq_self 1 ?_
  rw [State.setTile_tile]
  intro o mem number q hq
  simp only [Tile.modOp, ← List.map_append, List.mem_map] at mem
  obtain ⟨x, hx, rfl⟩ := mem
  split at number
  · next own =>
    rw [if_pos own] at hq
    exact absurd (done x hx own ▸ hq : q ∈ []) List.not_mem_nil
  · next other => exact other number

/-- A queue without an operation of the number is left alone. -/
theorem map_modOp_of_ne {q : List UnitOp} {id : Nat} {f : UnitOp → UnitOp} (other : ∀ o ∈ q, o.id ≠ id) :
    (q.map fun o => if o.id = id then f o else o) = q :=
  (List.map_congr_left fun o ho => if_neg (other o ho)).trans (List.map_id' q)

/-- A vector operation of whose lines some are due, or a queue without the operation, goes on waiting (R292). -/
theorem State.vserved_eq {s : State} {v : Env} {id : Nat}
    (waits : ∀ o ∈ ((s.answered v.slot id).tile v.slot).vecQ, o.id = id → o.left ≠ 0) :
    s.vserved v id = s.answered v.slot id := by
  unfold State.vserved
  dsimp only
  split
  · next o r queue =>
    refine if_neg fun ready => ?_
    simp only [Bool.and_eq_true, decide_eq_true_eq, beq_iff_eq] at ready
    obtain ⟨⟨number, -⟩, none_⟩ := ready
    exact waits o (by rw [queue]; exact List.mem_cons_self) number none_
  · rfl

/-- The tile of an environment is served in the same slot for either context, as long as programs stay bound (R32). -/
theorem State.env_some {s u : State} {t : Nat} {c : Ctx} {e : Env} (bind : u.bind = s.bind) (env : s.env t c = some e)
    (c' : Ctx) : ∃ e', u.env t c' = some e' ∧ e'.slot = e.slot := by
  have prog : ∀ i, u.prog i = s.prog i := fun i => by rw [State.prog, bind, State.prog]
  have owner : u.owner (t / 16) = s.owner (t / 16) := by simp only [State.owner, prog]
  unfold State.env at env ⊢
  rw [owner, bind]
  simp only [prog]
  split at env
  · split at env
    · split at env
      · obtain rfl := Option.some.inj env
        exact ⟨_, rfl, rfl⟩
      · cases env
    · cases env
  · cases env

/-- The tile in `slot` becomes `t`, and nothing else changes. -/
structure SetsTile (s u : State) (slot : Nat) (t : Tile) : Prop where
  rest : u = { s with tiles := u.tiles }
  others : ∀ q, q ≠ slot → u.tile q = s.tile q
  tile : u.tile slot = t

theorem SetsTile.of_setTile (s : State) (slot : Nat) (t : Tile) : SetsTile s (s.setTile slot t) slot t :=
  ⟨rfl, fun q hq => s.setTile_tile_ne slot q t hq, s.setTile_tile slot t⟩

theorem SetsTile.trans {s w u : State} {slot : Nat} {t t' : Tile} (h : SetsTile s w slot t) (g : SetsTile w u slot t') :
    SetsTile s u slot t' :=
  ⟨by rw [g.rest, h.rest], fun q hq => (g.others q hq).trans (h.others q hq), g.tile⟩

theorem SetsTile.pages {s u : State} {slot : Nat} {t : Tile} (h : SetsTile s u slot t) : PagesKeep s u [] := by
  rw [h.rest]
  exact fun _ _ => rfl

/-- A line of a tile's operation is done: the operation counts it, and waits for the others (R241, R292). -/
theorem State.lineDone_sets {s u : State} {t id : Nat} {c : Ctx} {e : Env} (bind : u.bind = s.bind)
    (env : s.env t c = some e) (done : ∀ o ∈ (u.tile e.slot).copyQ ++ (u.tile e.slot).vecQ, o.id = id → o.todo = [])
    (waits : ∀ o ∈ (u.tile e.slot).vecQ, o.id = id → 2 ≤ o.left) :
    SetsTile u (u.lineDone t id) e.slot ((u.tile e.slot).modOp id UnitOp.answer) := by
  obtain ⟨e', env', slot⟩ := State.env_some bind env .c0
  rw [← slot] at done waits ⊢
  have answered := State.answered_eq done
  have lines : u.lineDone t id = u.answered e'.slot id := by
    unfold State.lineDone
    rw [env']
    refine State.vserved_eq ?_
    rw [answered, State.setTile_tile]
    intro o mem number
    obtain ⟨x, hx, rfl⟩ := List.mem_map.mp mem
    split at number
    · next own =>
      have more := waits x hx own
      rw [if_pos own, UnitOp.answer]
      dsimp only
      omega
    · next other => exact absurd number other
  rw [lines, answered]
  exact .of_setTile _ _ _

/-! The queues of a vat -/

/-- The line of a tile waits at its port: a flit that no router can correct, or a tile that is not clocked (R251, R254; log
entry 50). -/
theorem State.holds_tile {s : State} {r : LineReq} {t id : Nat} {c : Ctx} {e : Env} (untrained : s.trainImage = none)
    (asker : r.asker = .tile t c id) (env : s.env t c = some e) : s.holds r = (flitBad r.errs || s.unclocked e.slot) := by
  simp only [State.holds, State.writeHeld, untrained, asker, State.askerSlots, env, Option.toList_some, List.map_cons,
    List.map_nil, List.any_cons, List.any_nil, Bool.or_false, Bool.false_or]

/-- The third queue's only request is offered first in its turn, unless it is held (R293). -/
theorem VatState.offer_other {x : VatState} {r : LineReq} {held : LineReq → Bool} (turn : x.turn = 2) (queue : x.qOther = [r])
    (free : held r = false) : x.offer held = some (2, 0) := by
  have first : firstFree held (x.queue 2) [] 0 = some 0 := by
    rw [show x.queue 2 = [r] from queue, firstFree, if_neg (by simp), if_neg (by simp [free])]
  simp [VatState.offer, turn, first]

/-- A vat whose only request is held offers none. -/
theorem VatState.offer_none {x : VatState} {r : LineReq} {held : LineReq → Bool} (turn : x.turn = 2) (queue : x.qOther = [r])
    (streams : x.qStream = []) (late : x.qC1 = []) (waits : held r = true) : x.offer held = none := by
  have other : firstFree held (x.queue 2) [] 0 = none := by
    rw [show x.queue 2 = [r] from queue, firstFree, if_neg (by simp), if_pos waits, firstFree]
  have stream : firstFree held (x.queue 0) [] 0 = none := by rw [show x.queue 0 = [] from streams, firstFree]
  have c1 : firstFree held (x.queue 1) [] 0 = none := by rw [show x.queue 1 = [] from late, firstFree]
  simp [VatState.offer, turn, other, stream, c1]

/-! A port takes a request -/

@[simp] theorem Vats.setVat_vat (x : Vats) (v : Nat) (y : VatState) : (x.setVat v y).vat v = y := sget_sput_self _ _ _ _

@[simp] theorem Vats.setVat_vat_ne (x : Vats) (v : Nat) (y : VatState) {k : Nat} (h : k ≠ v) :
    (x.setVat v y).vat k = x.vat k := sget_sput_ne _ _ _ _ _ h

/-- Of the port sites and the vats those of vat `v` alone change; its third queue becomes `q`, its turn `n`. -/
structure VatServes (s u : State) (v : Nat) (q : List LineReq) (n : Nat) : Prop where
  pages : PagesKeep s u []
  sites : ∀ f, f ≠ vatSite v → u.site f = s.site f
  stripes : u.vats.stripes = s.vats.stripes
  vat : u.vats.vat v = { s.vats.vat v with qOther := q, turn := n }
  vats : ∀ k, k ≠ v → u.vats.vat k = s.vats.vat k

theorem VatServes.keeps {s w u : State} {v n : Nat} {q : List LineReq} (h : VatServes s w v q n) (pages : PagesKeep w u [])
    (sites : u.sites = w.sites) (stripes : u.vats.stripes = w.vats.stripes) (vats : u.vats.vats = w.vats.vats) :
    VatServes s u v q n := by
  have vat : ∀ k, u.vats.vat k = w.vats.vat k := fun k => by rw [Vats.vat, vats, Vats.vat]
  refine ⟨h.pages.trans pages, fun f hf => ?_, stripes.trans h.stripes, (vat v).trans h.vat,
    fun k hk => (vat k).trans (h.vats k hk)⟩
  rw [State.site, sites]
  exact h.sites f hf

/-- A vat and the site of its port change. -/
theorem VatServes.of_set (s : State) (v : Nat) (q : List LineReq) (n : Nat) (y : SiteRegs) :
    VatServes s (({ s with vats := s.vats.setVat v { s.vats.vat v with qOther := q, turn := n } } : State).setSite (vatSite v) y)
      v q n :=
  ⟨.refl s [], fun _ hf => State.setSite_site_ne _ _ _ _ hf, rfl, Vats.setVat_vat _ _ _, fun _ hk => Vats.setVat_vat_ne _ _ _ hk⟩

/-- A transfer of a port that passes its check: both directions go on to the next number (R359, R364). -/
def SiteRegs.transfer (y : SiteRegs) : SiteRegs :=
  { y with fails := 0, seqTx := (y.seqTx + 1) % 2 ^ 32, seqRx := (y.seqRx + 1) % 2 ^ 32 }

/-- A transfer of a port whose check fails (R357, R362). -/
def SiteRegs.refused (y : SiteRegs) : SiteRegs :=
  { y with chkFail := satAdd 32 y.chkFail 1, replays := satAdd 32 y.replays 1, fails := y.fails + 1 }

/-- The port of vat `v` has taken the request in the third queue, and not yet performed it. -/
structure LineTaken (s w : State) (v : Nat) : Prop extends VatServes s w v [] 0 where
  site : w.site (vatSite v) = (s.site (vatSite v)).transfer

theorem LineTaken.keeps {s w u : State} {v : Nat} (h : LineTaken s w v) (pages : PagesKeep w u []) (sites : u.sites = w.sites)
    (stripes : u.vats.stripes = w.vats.stripes) (vats : u.vats.vats = w.vats.vats) : LineTaken s u v := by
  refine ⟨h.toVatServes.keeps pages sites stripes vats, ?_⟩
  rw [State.site, sites]
  exact h.site

theorem LineTaken.setsTile {s w u : State} {v slot : Nat} {t : Tile} (h : LineTaken s w v) (sets : SetsTile w u slot t) :
    LineTaken s u v :=
  h.keeps sets.pages (by rw [sets.rest]) (by rw [sets.rest]) (by rw [sets.rest])

/-- Only pages, port sites and what is not memory of the vats differ. -/
def PortsOnly (s w : State) : Prop :=
  w = { s with pages := w.pages, sites := w.sites, vats := { s.vats with vats := w.vats.vats } }

theorem PortsOnly.env {s w : State} (h : PortsOnly s w) (t : Nat) (c : Ctx) : w.env t c = s.env t c := by
  rw [h]
  rfl

theorem PortsOnly.tile {s w : State} (h : PortsOnly s w) (slot : Nat) : w.tile slot = s.tile slot := by
  rw [h]
  rfl

theorem PortsOnly.mem {s w : State} (h : PortsOnly s w) : w.vats.mem = s.vats.mem := by rw [h]

section
variable {s : State} {v : Nat} {r : LineReq}

/-- A port that serves its own vat alone takes the request that this vat offers (R289). -/
theorem exec_vatLineRequest (vat : v < 40) (own : s.bind.applied.servedBy v = [v]) :
    exec (.vatLineRequest v) s = .next (s.takeLine v v) := by
  change execVatLineRequest v s = _
  unfold execVatLineRequest
  rw [if_neg (by simp [vatOk, vat]), own]

theorem State.takeLine_eq_self (p : Nat) (idle : (s.vats.vat v).offer s.holds = none) : s.takeLine p v = s := by
  unfold State.takeLine
  dsimp only
  rw [idle]

/-- A check that fails, and not for the ninth time on end, is counted (R362). -/
theorem State.checkFailed_counted (f : Nat) (few : (s.site f).fails < 8) :
    ∃ w, s.checkFailed f = (false, w) ∧ Counted (s.setSite f (s.site f).refused) w := by
  have more : (s.site f).fails + 1 < 9 := by omega
  refine ⟨_, Prod.ext (decide_eq_false (by omega)) rfl, ?_⟩
  rw [SiteRegs.refused]
  dsimp only [State.checkFailed]
  rw [if_pos more]
  exact (Counted.of_bump _ _ _ _).trans (.of_bump _ _ _ _)

/-- A request whose packet fails its check stays to be sent again (R357, R362). -/
theorem State.takeLine_refused (offers : (s.vats.vat v).offer s.holds = some (2, 0)) (queue : (s.vats.vat v).qOther = [r])
    (fails : r.fails ≠ 0) (few : (s.site (vatSite v)).fails < 8) :
    Counted (({ s with vats := s.vats.setVat v { s.vats.vat v with qOther := [{ r with fails := r.fails - 1 }] } }
      : State).setSite (vatSite v) (s.site (vatSite v)).refused) (s.takeLine v v) := by
  obtain ⟨w, check, counted⟩ := State.checkFailed_counted (s := { s with
    vats := s.vats.setVat v { s.vats.vat v with qOther := [{ r with fails := r.fails - 1 }] } }) (vatSite v) few
  have takes : s.takeLine v v = w := by
    unfold State.takeLine
    simp only [offers, show (s.vats.vat v).queue 2 = [r] from queue, List.getElem?_cons_zero, if_pos fails, List.set_cons_zero,
      VatState.setQueue, check, Bool.false_eq_true, if_false]
  rw [takes]
  exact counted

/-- Another request is performed once the port has taken it (R359, R364). -/
theorem State.takeLine_serves (offers : (s.vats.vat v).offer s.holds = some (2, 0)) (queue : (s.vats.vat v).qOther = [r])
    (passes : r.fails = 0) : ∃ w, s.takeLine v v = w.serveLine r ∧ LineTaken s w v ∧ PortsOnly s w := by
  have counted := Counted.of_flitReads (({ s with vats := s.vats.setVat v { s.vats.vat v with qOther := [], turn := 0 } }
      : State).setSite (vatSite v) (s.site (vatSite v)).transfer) r.errs
  refine ⟨_, ?_, ⟨(VatServes.of_set s v [] 0 _).keeps counted.pages ?_ ?_ ?_, ?_⟩, ?_⟩
  rotate_left
  · rw [counted.eq]
  · rw [counted.eq]
  · rw [counted.eq]
  · rw [counted.eq]
    exact State.setSite_site _ _ _
  · rw [PortsOnly, counted.eq]
    rfl
  · unfold State.takeLine
    simp only [offers, show (s.vats.vat v).queue 2 = [r] from queue, List.getElem?_cons_zero, ne_eq, passes, not_true_eq_false,
      if_false]
    rfl

/-- The queues of vat `v` offer the request in the third queue to the vat's own port, which serves no other vat. -/
structure LineOffered (s : State) (v : Nat) (r : LineReq) : Prop where
  vat : v < 40
  own : s.bind.applied.servedBy v = [v]
  offers : (s.vats.vat v).offer s.holds = some (2, 0)
  queue : (s.vats.vat v).qOther = [r]
  clean : s.vats.mem.errs = []

theorem LineOffered.exec_refused (h : LineOffered s v r) (fails : r.fails ≠ 0) (few : (s.site (vatSite v)).fails < 8) :
    ∃ u, exec (.vatLineRequest v) s = .next u ∧
      VatServes s u v [{ r with fails := r.fails - 1 }] (s.vats.vat v).turn ∧ PortsOnly s u ∧
      u.site (vatSite v) = (s.site (vatSite v)).refused := by
  have counted := State.takeLine_refused h.offers h.queue fails few
  refine ⟨_, exec_vatLineRequest h.vat h.own, (VatServes.of_set s v _ _ _).keeps counted.pages ?_ ?_ ?_, ?_, ?_⟩
  · rw [counted.eq]
  · rw [counted.eq]
  · rw [counted.eq]
  · rw [PortsOnly, counted.eq]
    rfl
  · rw [counted.eq]
    exact State.setSite_site _ _ _

/-- A line read answers whoever asked (R291). -/
theorem LineOffered.exec_read (h : LineOffered s v r) (passes : r.fails = 0) (read : r.write = false) :
    ∃ w, exec (.vatLineRequest v) s = .next (w.lineRead r) ∧ LineTaken s w v ∧ PortsOnly s w := by
  obtain ⟨w, takes, taken, only⟩ := State.takeLine_serves h.offers h.queue passes
  have clean : w.vats.mem.errs = [] := by rw [only]; exact h.clean
  have counted := Counted.of_reads w [(r.addr, 64)]
  refine ⟨_, ?_, taken.keeps counted.pages ?_ ?_ ?_, ?_⟩
  rotate_left
  · rw [counted.eq]
  · rw [counted.eq]
  · rw [counted.eq]
  · rw [PortsOnly, counted.eq, only]
  · rw [exec_vatLineRequest h.vat h.own, takes, State.serveLine, if_neg (by simp [read]), State.vatLines,
      State.vatAccess_clean clean]

/-- A line write outside training stores its piece (R291, R340). -/
theorem State.lineWrite_untrained {w : State} (untrained : w.trainImage = none) (line off : Nat) (bs : List Byte) (ph1 : Bool) :
    Counted (w.vatWrite (line + off) bs) (w.lineWrite line [(off, bs)] ph1) := by
  have still : ((w.vatWrite (line + off) bs).bump (pgVat (vatOf line)) 0x41 1).trainImage = none := by
    rw [State.bump_eq]
    exact untrained
  unfold State.lineWrite
  simp only [List.foldl_cons, List.foldl_nil, still]
  exact .of_bump _ _ _ _

/-- A line write of a tile stores its piece, and the line is done (R291). -/
theorem LineOffered.exec_write {t id off : Nat} {c : Ctx} {bs : List Byte} (h : LineOffered s v r) (passes : r.fails = 0)
    (write : r.write = true) (piece : r.data = [(off, bs)]) (asker : r.asker = .tile t c id) (untrained : s.trainImage = none) :
    ∃ x, exec (.vatLineRequest v) s = .next (x.lineDone t id) ∧ LineTaken s x v ∧
      PortsOnly (s.vatWrite (r.addr + off) bs) x := by
  obtain ⟨w, takes, taken, only⟩ := State.takeLine_serves h.offers h.queue passes
  have clean : w.vats.mem.errs = [] := by rw [only]; exact h.clean
  have still : w.trainImage = none := by rw [only]; exact untrained
  have counted := State.lineWrite_untrained still r.addr off bs r.ph1
  have stored : LineTaken s (w.vatWrite (r.addr + off) bs) v := taken.keeps (fun _ _ => rfl) rfl rfl rfl
  refine ⟨_, ?_, stored.keeps counted.pages ?_ ?_ ?_, ?_⟩
  rotate_left
  · rw [counted.eq]
  · rw [counted.eq]
  · rw [counted.eq]
  · rw [PortsOnly, counted.eq, only]
    rfl
  · rw [exec_vatLineRequest h.vat h.own, takes, State.serveLine, if_pos write, piece, asker, State.portWriteThen,
      State.vatAccess_clean clean]

end

/-! What a line does to the tile that asked for it -/

/-- A vector operation keeps a line as it was when it was served (R292). -/
def UnitOp.keepLine (a : Nat) (bs : List Byte) (o : UnitOp) : UnitOp := { o with got := o.got ++ [(a, bs)] }

/-- A change of the only vector operation, whose number no copy operation has. -/
theorem Tile.modOp_vector {x : Tile} {o : UnitOp} {id : Nat} (f : UnitOp → UnitOp) (queue : x.vecQ = [o]) (number : o.id = id)
    (copies : ∀ k ∈ x.copyQ, k.id ≠ id) : x.modOp id f = { x with vecQ := [f o] } := by
  rw [Tile.modOp, map_modOp_of_ne copies, queue, List.map_singleton, if_pos number]

/-- A change of an operation that is no vector operation. -/
theorem Tile.modOp_copy {x : Tile} {id : Nat} (f : UnitOp → UnitOp) (vectors : ∀ o ∈ x.vecQ, o.id ≠ id) :
    x.modOp id f = { x with copyQ := x.copyQ.map fun o => if o.id = id then f o else o } := by
  rw [Tile.modOp, map_modOp_of_ne vectors]

section
variable {s w : State} {r : LineReq} {t id : Nat} {c : Ctx} {e : Env}

/-- A line read of a vector operation stays with it while other lines are to come (R292). -/
theorem State.lineRead_vector {o : UnitOp} (env : w.env t c = some e) (asker : r.asker = .tile t c id)
    (queue : (w.tile e.slot).vecQ = [o]) (number : o.id = id) (asked : o.todo = []) (more : 2 ≤ o.left)
    (copies : ∀ k ∈ (w.tile e.slot).copyQ, k.id ≠ id) : SetsTile w (w.lineRead r) e.slot
      { w.tile e.slot with vecQ := [(o.keepLine r.addr (w.vats.mem.read r.addr 64)).answer] } := by
  have own : (w.tile e.slot).vecQ.any (fun o => o.id == id) = true := by simp [queue, number]
  have keeps := Tile.modOp_vector (UnitOp.keepLine r.addr (w.vats.mem.read r.addr 64)) queue number copies
  have reads : w.lineRead r = (w.setTile e.slot ((w.tile e.slot).modOp id
      (UnitOp.keepLine r.addr (w.vats.mem.read r.addr 64)))).lineDone t id := by
    rw [State.lineRead, asker]
    dsimp only
    rw [env]
    dsimp only
    rw [if_pos own]
    rfl
  rw [reads, keeps]
  have sets := SetsTile.of_setTile w e.slot
    { w.tile e.slot with vecQ := [o.keepLine r.addr (w.vats.mem.read r.addr 64)] }
  generalize w.setTile e.slot _ = x at sets
  have bind : x.bind = w.bind := by rw [sets.rest]
  have done : SetsTile x (x.lineDone t id) e.slot ((x.tile e.slot).modOp id UnitOp.answer) := by
    refine State.lineDone_sets bind env ?_ ?_
    · rw [sets.tile]
      intro k hk same
      obtain hc | hv := List.mem_append.mp hk
      · exact absurd same (copies k hc)
      · rw [List.mem_singleton.mp hv]
        exact asked
    · rw [sets.tile]
      intro k hk _
      rw [List.mem_singleton.mp hk]
      exact more
  have answers := Tile.modOp_vector (x := { w.tile e.slot with vecQ := [o.keepLine r.addr (w.vats.mem.read r.addr 64)] })
    UnitOp.answer rfl number copies
  rw [sets.tile, answers] at done
  exact sets.trans done

/-- A line read of another operation answers its tile with a response (R291). -/
theorem State.lineRead_response (env : w.env t c = some e) (asker : r.asker = .tile t c id)
    (vectors : ∀ o ∈ (w.tile e.slot).vecQ, o.id ≠ id) : w.lineRead r =
      { w with felt := { w.felt with responses := w.felt.responses ++ [{
          prog := (w.owner (t / 16)).getD 0, dst := t, ctx := c, opId := some id, mid := r.mid
          pieces := r.dest.map fun d => (d.2.1, w.vats.mem.read (r.addr + d.1) d.2.2) }] } } := by
  have other : ¬ (w.tile e.slot).vecQ.any (fun o => o.id == id) = true := by simpa using vectors
  rw [State.lineRead, asker]
  dsimp only
  rw [env]
  dsimp only
  rw [if_neg other]

/-- A line write of a copy operation is done (R241, R291). -/
theorem State.lineDone_copy (env : w.env t c = some e) (vectors : ∀ o ∈ (w.tile e.slot).vecQ, o.id ≠ id)
    (asked : ∀ o ∈ (w.tile e.slot).copyQ, o.id = id → o.todo = []) : SetsTile w (w.lineDone t id) e.slot
      { w.tile e.slot with copyQ := (w.tile e.slot).copyQ.map fun o => if o.id = id then o.answer else o } := by
  rw [← Tile.modOp_copy UnitOp.answer vectors]
  refine State.lineDone_sets rfl env (fun o ho same => ?_) fun o ho same => absurd same (vectors o ho)
  exact (List.mem_append.mp ho).elim (fun hc => asked o hc same) fun hv => absurd same (vectors o hv)

end

/-! Responses for copy engines (R241) -/

/-- A response that waits for a tile's copy engine is written into the tile, and its request is answered. -/
theorem exec_vatResponse {s : State} {t id : Nat} {e : Env} {r : Response} (tile : t < 19200) (unit : s.unitEnv t .c0 = some e)
    (waits : s.felt.responses = [r]) (dst : r.dst = t) (op : r.opId = some id) (good : flitBad r.errs = false)
    (done : ∀ o ∈ (s.tile e.slot).copyQ ++ (s.tile e.slot).vecQ, o.id = id → o.todo = [])
    (alone : ∀ o ∈ (s.tile e.slot).others .copy, o.meets (writeRanges r.pieces) = false) :
    ∃ w u, exec (.vatResponse t 0) s = .next u ∧ Counted { s with felt := { s.felt with responses := [] } } w ∧
      SetsTile w u e.slot
        ({ s.tile e.slot with sram := (s.tile e.slot).sram.writes r.pieces }.modOp id UnitOp.answer) := by
  set w := ({ s with felt := { s.felt with responses := [] } } : State).flitReads r.errs with flits
  have counted : Counted _ w := .of_flitReads _ _
  have same : w.tile e.slot = s.tile e.slot := by rw [counted.eq]; rfl
  set x : Tile := { w.tile e.slot with sram := (w.tile e.slot).sram.writes r.pieces } with written
  have calm : (w.setTile e.slot x).conflicts e.slot .copy (writeRanges r.pieces) = w.setTile e.slot x := by
    refine State.conflicts_eq_self ?_
    rw [State.setTile_tile, written, same]
    exact List.any_eq_false.mpr fun o ho => Bool.eq_false_iff.mp (alone o ho)
  have runs : exec (.vatResponse t 0) s = .next ((w.setTile e.slot x).answered e.slot id) := by
    rw [← calm]
    change execVatResponse t 0 s = _
    unfold execVatResponse
    rw [if_neg (by simp [tileOk, tile]), unit]
    dsimp only
    rw [waits]
    simp only [List.zipIdx_cons, List.zipIdx_nil, List.filter_cons, List.filter_nil, dst, op, good, beq_self_eq_true,
      Option.isSome_some, Bool.not_false, Bool.and_self, if_true, List.getElem?_cons_zero]
    rfl
  have sets := SetsTile.of_setTile w e.slot x
  refine ⟨w, _, runs, counted, ?_⟩
  generalize w.setTile e.slot x = y at sets
  rw [← same, ← written, ← sets.tile, State.answered_eq]
  · exact sets.trans (.of_setTile _ _ _)
  · rw [sets.tile, written, same]
    exact done

end Sys2Proof.Machine

open Sys2Proof Sys2Proof.Machine

/-- Settles O49: a port takes the request that its vat offers (`LineOffered`) and counts its check, reads it for its tile or
stores it; a response is written into its tile (`exec_vatResponse`). -/
theorem linesServed : Obligations.LinesServed := by
  refine ⟨fun s v r t id c vat own clean turn queue asker untrained e env => ⟨?_, ?_⟩, ?_⟩
  · intro waits streams late
    have held : s.holds r = true := by
      rw [State.holds_tile untrained asker env, State.unclocked]
      simpa using waits
    rw [exec_vatLineRequest vat own, State.takeLine_eq_self v (VatState.offer_none turn queue streams late held)]
  · intro good clocked vats taken
    have free : s.holds r = false := by
      rw [State.holds_tile untrained asker env, State.unclocked, good, clocked]
      rfl
    have offered : LineOffered s v r := ⟨vat, own, VatState.offer_other turn queue free, queue, clean⟩
    have took : ∀ u, LineTaken s u v → taken u := fun u h => ⟨⟨h.pages, h.sites, h.stripes, h.vat, h.vats⟩, h.site⟩
    refine ⟨fun fails few => ?_, fun o passes read vecs number asked more copies => ?_, fun passes read vectors => ?_,
      fun off bs passes write piece vectors asked => ?_⟩
    · obtain ⟨u, goes, h, only, site⟩ := offered.exec_refused fails few
      rw [turn] at h
      exact ⟨u, goes, ⟨h.pages, h.sites, h.stripes, h.vat, h.vats⟩, only, site⟩
    · obtain ⟨w, goes, lines, only⟩ := offered.exec_read passes read
      have sets := State.lineRead_vector ((only.env t c).trans env) asker ((only.tile e.slot).symm ▸ vecs) number asked more
        ((only.tile e.slot).symm ▸ copies)
      rw [only.tile, only.mem] at sets
      refine ⟨_, goes, took _ (lines.setsTile sets), ?_, ?_, fun q hq => (sets.others q hq).trans (only.tile q), sets.tile⟩
      · rw [sets.rest]
        exact only.mem
      · rw [sets.rest, only]
    · obtain ⟨w, goes, lines, only⟩ := offered.exec_read passes read
      have answers := State.lineRead_response ((only.env t c).trans env) asker ((only.tile e.slot).symm ▸ vectors)
      refine ⟨_, goes, ?_⟩
      rw [answers]
      refine ⟨took _ (lines.keeps (fun _ _ => rfl) rfl rfl rfl), only.mem, ?_⟩
      rw [only]
      rfl
    · obtain ⟨x, goes, lines, only⟩ := offered.exec_write passes write piece asker untrained
      have sets := State.lineDone_copy ((only.env t c).trans env) ((only.tile e.slot).symm ▸ vectors)
        ((only.tile e.slot).symm ▸ asked)
      rw [only.tile] at sets
      generalize x.lineDone t id = u at sets goes
      have mem : u.vats.mem = s.vats.mem.write (r.addr + off) bs := by rw [sets.rest]; exact only.mem
      refine ⟨u, goes, took u (lines.setsTile sets), ?_, ?_, fun a out => ?_,
        fun q hq => (sets.others q hq).trans (only.tile q), sets.tile⟩
      · rw [sets.rest, only]
        rfl
      · rw [mem, EccMem.read_write _ _ _ clean]
      · rw [mem, EccMem.write_outside _ _ _ _ clean out]
  · intro s t e r id tile unit waits dst op good done alone
    obtain ⟨w, u, goes, counted, sets⟩ := exec_vatResponse tile unit waits dst op good done alone
    refine ⟨u, goes, ?_, ?_, fun q hq => (sets.others q hq).trans ?_, sets.tile⟩
    · exact PagesKeep.trans counted.pages sets.pages
    · rw [sets.rest, counted.eq]
    · rw [counted.eq]
      rfl
end

section
/-! PROOFS. LOAD_PROGRAM of the lease holder (R228, R302, R304, R321, R352, R382, R402, R411, R440, R441). -/

namespace Sys2Proof.Machine

/-! What is written into vat space -/

/-- Only vat space, the regions that are tainted, the pair's state, free values and block counters change. -/
structure StoresVats (s u : State) : Prop where
  eq : u = { s with pages := u.pages, vats := u.vats, sec := u.sec, twin := u.twin, free := u.free }
  pages : PagesKeep s u []

theorem StoresVats.refl (s : State) : StoresVats s s := ⟨rfl, .refl s []⟩

theorem StoresVats.trans {s t u : State} (h : StoresVats s t) (g : StoresVats t u) : StoresVats s u :=
  ⟨by rw [g.eq, h.eq], h.pages.trans g.pages⟩

theorem StoresVats.foldl {α : Type} {f : State → α → State} (hf : ∀ s a, StoresVats s (f s a)) (l : List α) (s : State) :
    StoresVats s (l.foldl f s) :=
  List.foldlRecOn (motive := StoresVats s) l f (.refl s) fun t h a _ => h.trans (hf t a)

theorem StoresVats.of_vatStore (s : State) (a : Nat) (bs : List Byte) : StoresVats s (s.vatStore a bs) := by
  have counted := Counted.of_countLines (s.vatWrite a bs) 0x41 (a, bs.length)
  refine ⟨?_, counted.pages⟩
  rw [State.vatStore, counted.eq]
  rfl

theorem StoresVats.of_loadChunk (s : State) (i : Image) (l : LayerImage) (c : Nat) : StoresVats s (s.loadChunk i l c) := by
  unfold State.loadChunk
  extract_lets n o put
  have puts : ∀ t off len, StoresVats t (put t off len) := fun t _ _ => of_vatStore t _ _
  exact ((puts s _ _).trans (puts _ _ _)).trans (of_vatStore _ _ _)

theorem StoresVats.of_loadLayers (s : State) (i : Image) : StoresVats s (s.loadLayers i) := by
  unfold State.loadLayers
  refine .foldl (fun t p => ?_) _ s
  extract_lets u
  have table : StoresVats t u := of_vatStore t _ _
  exact table.trans (.foldl (fun v c => of_loadChunk v i p.1 c) _ _)

theorem StoresVats.of_initCouch (s : State) (i : Image) (n : Nat) : StoresVats s (s.initCouch i n) := by
  have zeroed : ∀ v x, StoresVats s { s with vats := v, sec := x } := fun _ _ => ⟨rfl, fun _ _ => rfl⟩
  unfold State.initCouch
  extract_lets fill m m' sec vats t
  have filled : StoresVats s t := zeroed _ _
  exact filled.trans (of_vatStore t _ _)

theorem StoresVats.of_freeMark (s : State) : StoresVats s s.freeMark := ⟨rfl, fun _ _ => rfl⟩

/-! The load -/

/-- An image that has passed its checks is in its slot, unbound: the training image with its committed step, whose extents
are new, a query image with its ring at the start (R302, R304, R321, R352, R402, R411). -/
def State.installed (s : State) (slot n : Nat) (i : Image) : State :=
  let s := s.setProg slot (some { image := i, measurement := measure i.raw })
  if slot = 0 then
    (({ s with train := { committed := n, doubled := s.train.doubled } }.loadLayers i).initCouch i n).freeMark
  else { s.setQuery slot {} with train := { s.train with invalid := none } }

/-- The load of the training image. -/
theorem State.installed_train (s : State) (n : Nat) (i : Image) : StoresVats
    { s.setProg 0 (some { image := i, measurement := measure i.raw }) with
      train := { committed := n, doubled := s.train.doubled } } (s.installed 0 n i) :=
  ((StoresVats.of_loadLayers _ i).trans (.of_initCouch _ i n)).trans (.of_freeMark _)

/-- The training run and the query slots once the training image is loaded (R402, R440). -/
theorem State.installed_train_run (s : State) {slot : Nat} (n : Nat) (i : Image) (train : slot = 0) :
    (s.installed slot n i).train = { committed := n, doubled := s.train.doubled } ∧
      (s.installed slot n i).queries = s.queries := by
  subst train
  obtain ⟨eq, -⟩ := s.installed_train n i
  rw [eq]
  exact ⟨rfl, rfl⟩

/-- The load of a query image. -/
theorem State.installed_query (s : State) {slot : Nat} (n : Nat) (i : Image) (query : slot ≠ 0) : s.installed slot n i =
    { (s.setProg slot (some { image := i, measurement := measure i.raw })).setQuery slot {} with
      train := { s.train with invalid := none } } := if_neg query

/-- A load changes its program slot, the training run or the query slot, and what the training image's tables take. -/
theorem State.installed_eq (s : State) (slot n : Nat) (i : Image) :
    let u := s.installed slot n i
    u = { s.setProg slot (some { image := i, measurement := measure i.raw }) with
      pages := u.pages, vats := u.vats, sec := u.sec, twin := u.twin, free := u.free, train := u.train, queries := u.queries } ∧
    PagesKeep s u [] := by
  intro u
  by_cases train : slot = 0
  · subst train
    obtain ⟨eq, pages⟩ : StoresVats _ u := s.installed_train n i
    exact ⟨by rw [eq], pages⟩
  · have query : u = _ := s.installed_query n i train
    rw [query]
    exact ⟨rfl, .refl s []⟩

theorem State.installed_frame (s : State) (slot n : Nat) (i : Image) : EventFrame s (s.installed slot n i) [] := by
  obtain ⟨eq, pages⟩ := s.installed_eq slot n i
  exact ⟨by rw [eq]; rfl, by rw [eq]; rfl, pages⟩

/-- How LOAD_PROGRAM ends once the checks of R228 have answered. -/
def State.loadEnds (s : State) (p : HPort) (slot n : Nat) (i : Image) : Option LoadFail → State
  | some f => (s.recordFault (pgCmd p) f.code 0).endWith f.code f.record 0
  | none => (s.installed slot n i).endWith 0 0 (i.h * 256 + i.w)

/-- LOAD_PROGRAM to a slot that is not bound reads the image and checks it (R228, R440). -/
theorem State.loadProgram_eq {s : State} {r : Running} {k : Nat} {i : Image} {o : Option LoadFail}
    (unbound : ∀ g, s.prog r.page.args.a0.toNat = some g → g.bound = none)
    (found : (s.port r.port).images.find?
      (fun q => q.1 == r.page.args.a1.toNat && q.2.raw.length == r.page.args.a2.toNat) = some (k, i))
    (check : i.loadFail (r.page.args.a0.toNat == 0) (s.train.doubled || !s.bind.found.vatPorts.isEmpty) s.vats.vatEnd = o) :
    s.loadProgram r = (s.dmaTook r.port 1).loadEnds r.port r.page.args.a0.toNat r.page.args.a3.toNat i o := by
  -- the transfer changes neither the host's images nor what the checks read
  change ((s.dmaTook r.port 1).port r.port).images.find? _ = _ at found
  change i.loadFail _ ((s.dmaTook r.port 1).train.doubled || !(s.dmaTook r.port 1).bind.found.vatPorts.isEmpty)
    (s.dmaTook r.port 1).vats.vatEnd = _ at check
  unfold State.loadProgram
  cases loaded : s.prog r.page.args.a0.toNat with
  | none =>
    simp only [loaded, found, check, Bool.false_eq_true, if_false]
    cases o <;> rfl
  | some g =>
    simp only [loaded, unbound g loaded, Option.isSome_none, found, check, Bool.false_eq_true, if_false]
    cases o <;> rfl

/-- LOAD_PROGRAM as the lease holder's command has begun, and has read the image from the host (R359, R361, R437). -/
def State.loading (s : State) (p : HPort) (a : CmdArgs) : State := (s.begun p 3 a).dmaTook p 1

section
variable {s : State} {p : HPort} {a : CmdArgs} {i : Image}

theorem State.loading_eq (s : State) (p : HPort) (a : CmdArgs) : s.loading p a =
    { s with h0 := (s.loading p a).h0, h1 := (s.loading p a).h1, pages := (s.loading p a).pages
             sites := (s.loading p a).sites, run := some { latched s p 3 a with begun := true } } := by
  rw [State.loading, State.dmaTook_eq, State.begun_eq]

theorem State.loading_frame (s : State) (p : HPort) (a : CmdArgs) :
    EventFrame (s.modCmd p fun c => { c with op := 3, args := a }) (s.loading p a) [] := by
  obtain ⟨h0, h1, pages⟩ := s.begun_frame p 3 a
  exact ⟨h0, h1, pages⟩

theorem State.loading_site (s : State) (p : HPort) (a : CmdArgs) {f : Nat} (hf : f ≠ hostSite p) :
    (s.loading p a).site f = s.site f := by
  have took : (s.loading p a).site f = (s.begun p 3 a).site f := State.setSite_site_ne _ _ _ _ hf
  rw [took, State.begun_eq]
  rfl

/-- A command that begins leaves the images in host memory alone (log entry 4). -/
theorem State.begun_images (s : State) (p : HPort) (op : Nat) (a : CmdArgs) :
    ((s.begun p op a).port p).images = (s.port p).images := by
  obtain ⟨-, -, own, -⟩ := begun_staged s p op a
  rw [own]

/-- LOAD_PROGRAM of the lease holder ends as the checks of its image answer. -/
theorem exec_loadProgram {o : Option LoadFail} (accepts : Accepts s p) (args : argsOk 3 a = true)
    (unbound : ∀ g, s.prog a.a0.toNat = some g → g.bound = none)
    (found : (s.port p).images.find? (fun q => q.1 == a.a1.toNat && q.2.raw.length == a.a2.toNat) = some (a.a1.toNat, i))
    (check : i.loadFail (a.a0.toNat == 0) (s.train.doubled || !s.bind.found.vatPorts.isEmpty) s.vats.vatEnd = o) :
    exec (.loadProgram p a) s = .next ((s.loading p a).loadEnds p a.a0.toNat a.a3.toNat i o) := by
  have loads : (s.begun p 3 a).loadProgram (latched s p 3 a) = (s.loading p a).loadEnds p a.a0.toNat a.a3.toNat i o := by
    refine State.loadProgram_eq (r := latched s p 3 a) (fun g hg => unbound g ((s.begun_prog p 3 a _).symm.trans hg))
      ((congrArg _ (s.begun_images p 3 a)).trans found) ?_
    rw [State.begun_eq]
    exact check
  exact congrArg Host.Outcome.next ((hostCommand_runs accepts 3 a args).trans loads)

/-- An image that fails a check: the command ends with its code, and names it in RET0 (R438, R441). -/
theorem State.loadEnds_fails (idle : s.run = none) (slot n : Nat) (f : LoadFail) :
    let u := (s.loading p a).loadEnds p slot n i (some f)
    Ended s u p 3 a f.code f.record 0 ∧ HostFrame s u p [pgCmd p] ∧
    u = { s with h0 := u.h0, h1 := u.h1, pages := u.pages, sites := u.sites, train := s.train.idle } ∧
    ∀ g, g ≠ hostSite p → u.site g = s.site g := by
  have records := (s.loading p a).recordFault_only (pgCmd p) f.code 0
  have marks := (s.loading p a).recordFault_lost (pgCmd p) f.code 0 (pgCmd p)
  intro u
  have ends : u = ((s.loading p a).recordFault (pgCmd p) f.code 0).endWith f.code f.record 0 := rfl
  clear_value u
  generalize (s.loading p a).recordFault (pgCmd p) f.code 0 = w at records marks ends
  have run : w.run = some { latched s p 3 a with begun := true } := by rw [records.2, s.loading_eq p a]
  have frame := ((s.loading_frame p a).mono (by simp)).trans records.1
  obtain ⟨done, outer, eq, fields, -⟩ := endWith_spec frame _ run rfl rfl (marks.trans (s.begun_lost p 3 a _)) f.code f.record 0
  rw [← ends] at done outer eq fields
  have rest : u = { s with h0 := u.h0, h1 := u.h1, pages := u.pages, sites := (s.loading p a).sites, train := s.train.idle } := by
    rw [eq, fields (by decide) (by decide), records.2, s.loading_eq p a, ← idle]
  refine ⟨done, outer.mono (by simp), ?_, fun g hg => ?_⟩
  · rw [rest]
  · rw [rest]
    exact s.loading_site p a hg

/-- An image that passes its checks is installed, and the command succeeds (R438, R441). -/
theorem State.loadEnds_installs {slot n : Nat} {w : State} (installs : (s.loading p a).installed slot n i = w) :
    let u := (s.loading p a).loadEnds p slot n i none
    Ended s u p 3 a 0 0 (i.h * 256 + i.w) ∧ HostFrame s u p [pgCmd p] ∧
    u = { s.setProg slot (some { image := i, measurement := measure i.raw }) with
      h0 := u.h0, h1 := u.h1, pages := u.pages, sites := u.sites, run := none, sec := u.sec, twin := u.twin, free := u.free
      vats := w.vats, train := w.train.idle, queries := w.queries } := by
  intro u
  obtain ⟨keeps, pages⟩ := (s.loading p a).installed_eq slot n i
  have frame := (s.loading_frame p a).trans ((s.loading p a).installed_frame slot n i)
  have ends : u = ((s.loading p a).installed slot n i).endWith 0 0 (i.h * 256 + i.w) := rfl
  clear_value u
  rw [installs] at keeps pages frame ends
  have run : w.run = some { latched s p 3 a with begun := true } := by
    rw [keeps, s.loading_eq p a]
    rfl
  have lost : (w.page (pgCmd p)).lost = (s.page (pgCmd p)).lost := by
    rw [pages (pgCmd p) (by simp)]
    exact s.begun_lost p 3 a _
  obtain ⟨done, outer, eq, fields, -⟩ := endWith_spec frame _ run rfl rfl lost 0 0 (i.h * 256 + i.w)
  rw [← ends] at done outer eq fields
  refine ⟨done, outer, ?_⟩
  rw [eq, fields (by decide) (by decide), keeps, s.loading_eq p a]
  rfl

end

end Sys2Proof.Machine

open Sys2Proof Sys2Proof.Machine

/-- Settles O11: the command begins, reads the image (`exec_loadProgram`), and either installs it (`State.loadEnds_installs`)
or ends with the failure that the checks name (`State.loadEnds_fails`). -/
theorem loadProgramLoads : Obligations.LoadProgramLoads := by
  intro s p a i accepts args unbound found
  refine ⟨fun check => ?_, fun f check => ?_⟩
  · have goes := exec_loadProgram accepts args unbound found check
    obtain ⟨w, installs⟩ : ∃ w, (s.loading p a).installed a.a0.toNat a.a3.toNat i = w := ⟨_, rfl⟩
    obtain ⟨done, outer, rest⟩ := State.loadEnds_installs installs
    generalize (s.loading p a).loadEnds p a.a0.toNat a.a3.toNat i none = u at done outer rest goes
    have kept : u.tiles = s.tiles ∧ u.felt = s.felt ∧ u.lease = s.lease ∧ u.repair = s.repair := by
      rw [rest]
      exact ⟨rfl, rfl, rfl, rfl⟩
    obtain ⟨tiles, felt, lease, repair⟩ := kept
    refine ⟨u, goes, done, ?_, fun k hk => ?_, fun train => ?_, fun query => ?_, tiles, felt, lease, repair, outer⟩
    · rw [rest]
      exact s.setProg_prog _ _
    · rw [rest]
      exact s.setProg_prog_ne _ _ _ hk
    · obtain ⟨run, queries⟩ := State.installed_train_run (s.loading p a) a.a3.toNat i train
      rw [installs] at run queries
      have same : w.queries = s.queries := queries.trans (by rw [s.loading_eq p a])
      rw [rest, run, same]
      exact ⟨rfl, rfl, rfl, fun _ => rfl⟩
    · rw [State.installed_query _ _ _ query, s.loading_eq p a] at installs
      rw [rest, ← installs]
      exact ⟨rfl, s.setQuery_query a.a0.toNat {}, rfl, fun q hq => s.setQuery_query_ne a.a0.toNat q {} hq⟩
  · obtain ⟨done, outer, rest, sites⟩ :=
      State.loadEnds_fails (p := p) (a := a) (i := i) accepts.run_eq_none a.a0.toNat a.a3.toNat f
    exact ⟨_, exec_loadProgram accepts args unbound found check, done, outer, rest, sites⟩
end

section
/-! PROOFS. Corrected words are written back, and the patrol of a vat without errors (R254, R322, R356). -/

namespace Sys2Proof.Machine

/-! A word is settled -/

/-- The bytes of a memory written back where they stand are read there. -/
theorem sget_sputs_read (m : EccMem) (cells : Mem) (w n x : Nat) :
    sget 0 (sputs 0 cells w (m.read w n)) x = if w ≤ x ∧ x < w + n then m.byte x else sget 0 cells x := by
  induction n generalizing cells w with
  | zero => rw [EccMem.read, sputs, if_neg (by omega)]
  | succ n ih =>
    rw [EccMem.read, sputs, ih, sget_sput]
    by_cases first : x = w
    · rw [if_neg (by omega), if_pos first, if_pos (by omega), first]
    · rw [if_neg first]
      exact if_congr (by omega) rfl rfl

/-- A word that is settled reads as before, and so does every other (R356). -/
theorem EccMem.settle_byte (m : EccMem) {w : Nat} (word : w % 8 = 0) (x : Nat) : (m.settle w).byte x = m.byte x := by
  have cells : sget 0 (m.settle w).cells x = if w ≤ x ∧ x < w + 8 then m.byte x else sget 0 m.cells x :=
    sget_sputs_read m m.cells w 8 x
  by_cases own : x / 8 * 8 = w
  · have valid : sget {} (m.settle w).errs (x / 8 * 8) = {} := by rw [own]; exact sget_filter_self {} m.errs w
    have none_ : ({} : WordErr).fix.1.getD 0 = 0 := by decide
    rw [EccMem.byte, valid, cells, if_pos (by omega), none_, Nat.zero_shiftRight]
    exact BitVec.xor_zero
  · have error : sget {} (m.settle w).errs (x / 8 * 8) = sget {} m.errs (x / 8 * 8) := sget_filter_ne {} m.errs w _ own
    rw [EccMem.byte, error, cells, if_neg (by omega), ← EccMem.byte]

/-- A word that is settled has valid check bits (R356). -/
theorem EccMem.settle_errs (m : EccMem) (w : Nat) : ∀ e ∈ (m.settle w).errs, e.1 ≠ w := fun e he => by
  simpa using (List.mem_filter.mp he).2

/-- The write-back of a word that is settled is no longer due (R356). -/
theorem EccMem.settle_due (m : EccMem) (w : Nat) : (m.settle w).due.contains w = false := by
  simp [EccMem.settle]

/-! The rows -/

section
variable {s : State} {k a v : Nat}

/-- A tile that is not clocked writes none back (R254). -/
theorem exec_sramWriteBack_unclocked (slot : k < 24480) (unclocked : (s.field (fieldOfCluster (k / 17))).tstate ≠ 0) :
    exec (.sramWriteBack k a) s = .next s := by
  change execSramWriteBack k a s = _
  rw [execSramWriteBack, if_neg (by simp [slotOk, slot]), if_pos (by simpa [State.unclocked] using unclocked)]

/-- A word of a clocked tile that is due is settled. -/
theorem exec_sramWriteBack_due (slot : k < 24480) (clocked : (s.field (fieldOfCluster (k / 17))).tstate = 0)
    (due : (s.tile k).sram.due.contains (a / 8 * 8) = true) : exec (.sramWriteBack k a) s =
      .next (s.setTile k { s.tile k with sram := (s.tile k).sram.settle (a / 8 * 8) }) := by
  change execSramWriteBack k a s = _
  rw [execSramWriteBack, if_neg (by simp [slotOk, slot]), if_neg (by simp [State.unclocked, clocked])]
  exact if_pos due

/-- The first word of a served vat that is due is settled. -/
theorem exec_vatWriteBack_due {w : Nat} (vat : v < 40) (due : s.vats.mem.due.find? (fun w => vatOf w == v) = some w)
    (served : s.bind.applied.servingPort v ≠ none) : exec (.vatWriteBack v) s =
      .next { s with vats := { s.vats with mem := s.vats.mem.settle w } } := by
  change execVatWriteBack v s = _
  rw [execVatWriteBack, if_neg (by simp [vatOk, vat]), due]
  exact if_neg (by simpa using served)

theorem exec_patrol_off (vat : v < 40) (off : (s.vats.vat v).patrol = false) : exec (.patrol v) s = .next s := by
  change execPatrol v s = _
  rw [execPatrol, if_neg (by simp [vatOk, vat]), if_pos (by simp [off])]

/-- The patrol of a vat whose words hold no error counts the lines that it reads (R322). -/
theorem exec_patrol_clean (vat : v < 40) (on : (s.vats.vat v).patrol = true) (served : s.bind.applied.servingPort v ≠ none)
    (clean : s.vats.mem.errs = []) : exec (.patrol v) s = .next (s.bump (pgVat v) 0x45 (64 * s.vats.stripes)) := by
  change execPatrol v s = _
  rw [execPatrol, if_neg (by simp [vatOk, vat]), if_neg (by simpa [on] using served)]
  have counted : (s.bump (pgVat v) 0x45 (64 * s.vats.stripes)).vats.mem.errs = [] := by rw [State.bump_vats, clean]
  simp only [clean, List.filter_nil, List.map_nil, List.foldl_nil, State.vatRetry, State.vatReads, counted, if_true]

end

end Sys2Proof.Machine

open Sys2Proof Sys2Proof.Machine

/-- Settles O48: each write-back that is due settles its word (`EccMem.settle_byte`), and a patrol that finds no error
counts. -/
theorem writeBacks : Obligations.WriteBacks := by
  refine ⟨fun s k a slot unclocked => exec_sramWriteBack_unclocked slot unclocked, fun s k a slot clocked due => ?_,
    fun s v w vat due word served => ?_, fun s v vat => ⟨exec_patrol_off vat, fun on served clean => ?_⟩⟩
  · refine ⟨_, exec_sramWriteBack_due slot clocked due, rfl, fun q hq => s.setTile_tile_ne k q _ hq, ?_⟩
    rw [State.setTile_tile]
    exact ⟨EccMem.settle_errs _ _, EccMem.settle_due _ _, EccMem.settle_byte _ (by omega), rfl⟩
  · exact ⟨_, exec_vatWriteBack_due vat due served, rfl, EccMem.settle_byte _ word, EccMem.settle_errs _ w,
      EccMem.settle_due _ w⟩
  · have counted := Counted.of_bump s (pgVat v) 0x45 (64 * s.vats.stripes)
    exact ⟨_, exec_patrol_clean vat on served clean, counted.eq, counted.pages⟩
end

section
/-! PROOFS. What discards, ends of commands and retirements leave of the felt's links: those that gave up, and those that are
retired (R24 to R30, R215, R272, R281, R384). -/

namespace Sys2Proof.Machine

/-- A fold keeps what each of its steps keeps. -/
theorem foldl_keeps {α β : Type} (p : State → β) {f : State → α → State} (hf : ∀ s a, p (f s a) = p s) (l : List α)
    (s : State) : p (l.foldl f s) = p s := by
  induction l generalizing s with
  | nil => rfl
  | cons a l ih => exact (ih _).trans (hf s a)

/-! Work is discarded -/

/-- The links that have given up, those of the attempt among them, and the binding. -/
def State.linkWork (s : State) : List Nat × List Nat × Binding := (s.felt.gaveUp, s.felt.attemptLinks, s.bind)

theorem State.linkWork_of {s u : State} (felt : u.felt = s.felt) (bind : u.bind = s.bind) : u.linkWork = s.linkWork := by
  rw [State.linkWork, felt, bind]
  rfl

section
variable (s : State)

@[simp] theorem State.recordFault_linkWork (k code info : Nat) : (s.recordFault k code info).linkWork = s.linkWork :=
  State.linkWork_of (by simp) (by simp)

@[simp] theorem State.endCommand_linkWork (code : Nat) : (s.endCommand code).linkWork = s.linkWork := by
  rw [State.endCommand_eq_endWith, State.endWith_eq]
  rfl

@[simp] theorem State.discard_linkWork (p : Nat) : (s.discard p).linkWork = s.linkWork := by
  have felt : (s.discard p).felt = s.felt.drop p (fun t => s.owner (t / 16) == some p) := by
    unfold State.discard
    dsimp only
    rw [State.freeTiles_eq, State.freeVat_eq]
  rw [State.linkWork, felt, State.discard_eq]
  rfl

@[simp] theorem State.setQuery_linkWork (q : Nat) (x : QSlot) : (s.setQuery q x).linkWork = s.linkWork := rfl

@[simp] theorem State.endService_linkWork : s.endService.linkWork = s.linkWork := rfl

@[simp] theorem State.stopQueries_linkWork : s.stopQueries.linkWork = s.linkWork := by
  unfold State.stopQueries
  refine foldl_keeps _ (fun s q => ?_) _ s
  dsimp only
  split
  · rfl
  · split
    · simp
    · rfl

@[simp] theorem State.settleCommand_linkWork : s.settleCommand.linkWork = s.linkWork := by
  unfold State.settleCommand
  dsimp only
  repeat' split
  all_goals simp

@[simp] theorem State.endRun_linkWork (code : Nat) : (s.endRun code).linkWork = s.linkWork := by
  have stops : State.linkWork { s.stopQueries with
      train := { s.stopQueries.train with ph1 := none, running := false }
      twin := { s.stopQueries.twin with probe := none } } = s.linkWork := s.stopQueries_linkWork
  unfold State.endRun
  dsimp only
  split
  · split
    · split
      · exact stops
      · exact (State.endCommand_linkWork _ code).trans stops
    · exact stops
  · exact stops

@[simp] theorem State.queryFault_linkWork (q code : Nat) : (s.queryFault q code).linkWork = s.linkWork := by
  unfold State.queryFault
  dsimp only
  split
  · simp
  · split <;> simp
  · simp

@[simp] theorem State.redoStep_linkWork (code : Nat) : (s.redoStep code).linkWork = s.linkWork := by
  unfold State.redoStep
  split
  · rfl
  · have drops := s.discard_linkWork 0
    generalize s.discard 0 = t at drops
    dsimp only
    split
    · exact (t.endRun_linkWork code).trans drops
    · exact drops

@[simp] theorem State.redoQuery_linkWork (q code : Nat) : (s.redoQuery q code).linkWork = s.linkWork := by
  unfold State.redoQuery
  split
  · rfl
  · split <;> simp

@[simp] theorem State.absorbAll_linkWork (code : Nat) : (s.absorbAll code).linkWork = s.linkWork := by
  simp [State.absorbAll]

@[simp] theorem State.freeTiles_linkWork (rs : List (Nat × Nat × Nat)) : (s.freeTiles rs).linkWork = s.linkWork := by
  rw [State.freeTiles_eq]
  rfl

@[simp] theorem State.linkFault_linkWork (l code : Nat) : (s.linkFault l code).linkWork = s.linkWork := by
  unfold State.linkFault
  dsimp only
  split <;> simp

end

/-! Units are retired -/

/-- The links that have given up, and the retired ones. -/
def State.linkMarks (s : State) : List Nat × List Nat := (s.felt.gaveUp, s.bind.found.links)

theorem State.linkMarks_of_work {s u : State} (h : u.linkWork = s.linkWork) : u.linkMarks = s.linkMarks :=
  congrArg (fun x => (x.1, x.2.2.found.links)) h

theorem State.linkMarks_of {s u : State} (felt : u.felt = s.felt) (bind : u.bind = s.bind) : u.linkMarks = s.linkMarks :=
  State.linkMarks_of_work (State.linkWork_of felt bind)

section
variable (s : State)

@[simp] theorem State.recordFault_linkMarks (k code info : Nat) : (s.recordFault k code info).linkMarks = s.linkMarks :=
  State.linkMarks_of_work (by simp)

@[simp] theorem State.endCommand_linkMarks (code : Nat) : (s.endCommand code).linkMarks = s.linkMarks :=
  State.linkMarks_of_work (by simp)

@[simp] theorem State.losePage_linkMarks (k : Nat) : (s.losePage k).linkMarks = s.linkMarks := State.linkMarks_of (by simp) (by simp)

@[simp] theorem State.logRepair_linkMarks (code source kind unit : Nat) :
    (s.logRepair code source kind unit).linkMarks = s.linkMarks := rfl

@[simp] theorem State.setEvt_linkMarks (k bits : Nat) : (s.setEvt k bits).linkMarks = s.linkMarks :=
  State.linkMarks_of (by simp) (by simp)

@[simp] theorem State.loseClusterPage_linkMarks (c : Nat) : (s.loseClusterPage c).linkMarks = s.linkMarks :=
  State.losePage_linkMarks _ _

@[simp] theorem State.recordCause_linkMarks (r cause : Nat) : (s.recordCause r cause).linkMarks = s.linkMarks := by
  unfold State.recordCause
  dsimp only
  split
  · exact (State.losePage_linkMarks _ _).trans (State.recordFault_linkMarks _ _ cause 0)
  · exact State.recordFault_linkMarks _ _ cause 0

@[simp] theorem State.sendAlive_linkMarks (p type : Nat) (body : List Byte) : (s.sendAlive p type body).linkMarks = s.linkMarks :=
  State.linkMarks_of (by simp [State.sendAlive, State.calUnits]) (by simp [State.sendAlive, State.calUnits])

@[simp] theorem State.portOff_linkMarks (p : Nat) (retire : Bool) : (s.portOff p retire).linkMarks = s.linkMarks := by
  unfold State.portOff
  dsimp only
  split <;> simp <;> rfl

@[simp] theorem State.sendLeave_linkMarks (reason : Nat) : (s.sendLeave reason).linkMarks = s.linkMarks := by
  have sends : (s.sendAliveAll 3 (leBytes 2 reason)).linkMarks = s.linkMarks :=
    foldl_keeps _ (fun s p => s.sendAlive_linkMarks p _ _) _ s
  refine (foldl_keeps _ (fun s p => ?_) _ _).trans sends
  split
  · exact s.portOff_linkMarks p false
  · rfl

@[simp] theorem State.setTwin_linkMarks (st : Nat) : (s.setTwin st).linkMarks = s.linkMarks := by
  unfold State.setTwin
  split
  · rfl
  · exact State.setEvt_linkMarks _ _ _

@[simp] theorem State.leavePair_linkMarks (reason : Nat) : (s.leavePair reason).linkMarks = s.linkMarks := by
  have leaves := s.sendLeave_linkMarks reason
  unfold State.leavePair
  dsimp only
  generalize s.sendLeave reason = t at leaves
  exact (State.setTwin_linkMarks _ 0).trans leaves

@[simp] theorem State.restrict_linkMarks (cause : Nat) : (s.restrict cause).linkMarks = s.linkMarks := by
  unfold State.restrict
  split
  · rfl
  · dsimp only
    have discards : ((((s.discard 0).discard 1).discard 2).discard 3).linkMarks = s.linkMarks :=
      State.linkMarks_of_work (by simp)
    generalize (((s.discard 0).discard 1).discard 2).discard 3 = d at discards
    have records : ∀ v : State, v.linkMarks = s.linkMarks →
        (((v.recordCause 0 cause).recordCause 1 cause).recordCause 2 cause).linkMarks = s.linkMarks := by
      intro v h
      simp [h]
    rw [State.endCommand_linkMarks]
    split
    · exact (State.leavePair_linkMarks _ cause).trans (records _ discards)
    · exact records _ discards

@[simp] theorem State.loseReplica_linkMarks (r : Replica) : (s.loseReplica r).linkMarks = s.linkMarks := by
  have records : ((s.recordFault (pgCc r.num) fCONTROL_REPLICA_LOST r.num).logRepair fCONTROL_REPLICA_LOST 2 0x14
    r.num).linkMarks = s.linkMarks := by simp
  unfold State.loseReplica
  split
  · rfl
  · dsimp only
    generalize (s.recordFault (pgCc r.num) fCONTROL_REPLICA_LOST r.num).logRepair fCONTROL_REPLICA_LOST 2 0x14 r.num = t at records
    split
    · exact ((State.restrict_linkMarks _ _).trans (State.losePage_linkMarks _ _)).trans records
    · exact (State.losePage_linkMarks _ _).trans records

/-! The loss of the partner -/

@[simp] theorem State.toSimplex_linkMarks : (s.toSimplex none).linkMarks = s.linkMarks := by
  have loses : ((s.recordFault pgTwin fPARTNER_LOST 0).setTwin 2).linkMarks = s.linkMarks := by simp
  unfold State.toSimplex
  dsimp only
  rw [(State.enterPhase2_keeps rfl).1]
  exact loses

@[simp] theorem State.endJoin_linkMarks (code : Nat) : (s.endJoin code).linkMarks = s.linkMarks := by
  unfold State.endJoin
  split
  · split <;> simp
  · rfl

@[simp] theorem State.joinFails_linkMarks (code info : Nat) : (s.joinFails code info).linkMarks = s.linkMarks := by
  have records : (if code = 1 then s else s.recordFault pgTwin code info).linkMarks = s.linkMarks := by
    split <;> simp
  unfold State.joinFails
  dsimp only
  generalize (if code = 1 then s else s.recordFault pgTwin code info) = t at records
  refine (State.endJoin_linkMarks _ code).trans ?_
  split
  · exact (State.setTwin_linkMarks _ 0).trans records
  · split
    · exact (State.setTwin_linkMarks _ 2).trans records
    · exact records

@[simp] theorem State.partnerLost_linkMarks : s.partnerLost.linkMarks = s.linkMarks := by
  unfold State.partnerLost
  repeat' split
  all_goals simp

@[simp] theorem State.calDown_linkMarks (p : Nat) (retire : Bool) : (s.calDown p retire).linkMarks = s.linkMarks := by
  unfold State.calDown
  dsimp only
  split <;> simp

/-! Sites, clusters and links -/

@[simp] theorem State.retireVatPort_linkMarks (v : Nat) : (s.retireVatPort v).linkMarks = s.linkMarks := by
  have records : (((s.recordFault (pgVat v) fVAT_PORT_RETIRED (vatSite v)).logRepair fVAT_PORT_RETIRED 2 0x11
      (vatSite v)).losePage (pgSite (vatSite v))).linkMarks = s.linkMarks := by simp
  unfold State.retireVatPort
  split
  · rfl
  · dsimp only
    split
    · exact (State.restrict_linkMarks _ _).trans records
    · exact records

@[simp] theorem State.dropLease_linkMarks (p : HPort) : (s.dropLease p).linkMarks = s.linkMarks := by
  unfold State.dropLease
  split
  · exact State.setEvt_linkMarks _ _ _
  · rfl

@[simp] theorem State.loseSite_linkMarks (f : Nat) (link : Bool) : (s.loseSite f link).linkMarks = s.linkMarks := by
  unfold State.loseSite
  split
  · rfl
  · dsimp only
    rw [State.losePage_linkMarks]
    generalize hm : ({ s with bind := { s.bind with
      found := { s.bind.found with sites := f :: s.bind.found.sites } } } : State) = m
    have marks : m.linkMarks = s.linkMarks := by rw [← hm]; rfl
    have hosts : ∀ (u : State) (p : HPort), (if hostSite p = f then
        (u.setPort p { u.port p with link := 3, rate := 0, width := 0 }).dropLease p else u).linkMarks = u.linkMarks := by
      intro u p
      split
      · exact (State.dropLease_linkMarks _ p).trans (State.linkMarks_of (by simp) (by simp))
      · rfl
    have cals : ∀ (u : State) (p : Nat), (if calSite p = f then u.calDown p true else u).linkMarks = u.linkMarks := by
      intro u p
      split <;> simp
    have logs : (if link then (m.recordFault (pgSite f) fLINK_RETIRED f).logRepair fLINK_RETIRED 2 0x11 f
        else m).linkMarks = s.linkMarks := by
      split <;> simp [marks]
    have down := ((foldl_keeps _ cals (List.range 4) _).trans (foldl_keeps _ hosts [HPort.h0, HPort.h1] _)).trans logs
    cases siteVat f with
    | none => exact down
    | some v => exact (State.retireVatPort_linkMarks _ v).trans down

@[simp] theorem State.siteEffects_linkMarks (f : Nat) : (s.siteEffects f).linkMarks = s.linkMarks := by
  unfold State.siteEffects
  split
  · rfl
  · refine (foldl_keeps _ (fun s r => ?_) _ _).trans (s.loseSite_linkMarks f _)
    split <;> simp

@[simp] theorem State.segmentEffects_linkMarks (fc y : Nat) : (s.segmentEffects fc y).linkMarks = s.linkMarks := by
  unfold State.segmentEffects
  split <;> simp

@[simp] theorem State.loseCluster_linkMarks (c : Nat) : (s.loseCluster c).linkMarks = s.linkMarks := by
  have records : (((s.recordFault (pgCluster c) fCLUSTER_RETIRED c).logRepair fCLUSTER_RETIRED 2 0x12
      (c * 32 + 31)).loseClusterPage c).linkMarks = s.linkMarks := by simp
  unfold State.loseCluster
  split
  · rfl
  · simp only [State.siteEffects_linkMarks, State.segmentEffects_linkMarks]
    exact records

@[simp] theorem State.isolate_linkMarks (n : Nat) (l : List Nat) : (s.isolate n l).linkMarks = s.linkMarks := by
  induction n generalizing l s with
  | zero => rw [State.isolate]
  | succ n ih =>
    cases l with
    | nil => rfl
    | cons c l =>
      rw [State.isolate]
      split
      · exact (ih _ _).trans (s.loseCluster_linkMarks c)
      · exact ih s l

/-- A living link is retired; no other is, and none gives up (R281, R366). -/
theorem State.retireLink_linkMarks {l : Nat} (up : s.bind.found.linkUp l = true) :
    (s.retireLink l).linkMarks = (s.felt.gaveUp, l :: s.bind.found.links) := by
  have records : ((s.linkFault l fLINK_RETIRED).logRepair fLINK_RETIRED 2 0x12
      ((linkEnds l).1.1 * 32 + 17 + (linkEnds l).1.2)).linkMarks = s.linkMarks := State.linkMarks_of_work (s.linkFault_linkWork l _)
  have living : ¬ s.bind.found.links.contains l = true := by simpa [Retire.linkUp] using up
  unfold State.retireLink
  rw [if_neg living]
  dsimp only
  generalize (s.linkFault l fLINK_RETIRED).logRepair fLINK_RETIRED 2 0x12
    ((linkEnds l).1.1 * 32 + 17 + (linkEnds l).1.2) = t at records
  obtain ⟨gaveUp, links⟩ := Prod.mk.inj records
  have marks : State.linkMarks { t with bind := { t.bind with
      found := { t.bind.found with links := l :: t.bind.found.links } } } = (s.felt.gaveUp, l :: s.bind.found.links) := by
    rw [State.linkMarks, gaveUp, links]
  split
  · exact (State.siteEffects_linkMarks _ _).trans marks
  · exact (State.isolate_linkMarks _ _ _).trans marks

end

end Sys2Proof.Machine
end

section
/-! PROOFS. Replays on the links of the felt, links that give up, and their retraining (R249, R280, R281, R365). -/

namespace Sys2Proof.Machine

/-! Sparse maps -/

/-- A key that a map does not list reads the default. -/
theorem sget_unlisted {α : Type} (d : α) {m : List (Nat × α)} {i : Nat} (unlisted : ∀ e ∈ m, e.1 ≠ i) : sget d m i = d := by
  induction m with
  | nil => rfl
  | cons e m ih =>
    rw [sget, if_neg (unlisted e List.mem_cons_self).symm]
    exact ih fun x hx => unlisted x (List.mem_cons_of_mem _ hx)

/-- A function of every value that keeps the default. -/
theorem sget_map {α : Type} (d : α) (m : List (Nat × α)) (i : Nat) {f : α → α} (keeps : f d = d) :
    sget d (m.map fun e => (e.1, f e.2)) i = f (sget d m i) := by
  induction m with
  | nil => exact keeps.symm
  | cons e m ih =>
    rw [List.map_cons, sget, sget, ih]
    split <;> rfl

/-! Replays -/

/-- The replays of one flit of a lane that have failed in a row, the present one among them (R280). -/
def Felt.failures (f : Felt) (key seq : Nat) : Nat :=
  let last := sget (0, 0) f.replays key
  if last.1 = seq then last.2 + 1 else 1

/-- The flit of a lane whose replay failed last, and how often in a row. -/
def State.noteReplay (s : State) (key : Nat) (x : Nat × Nat) : State :=
  { s with felt := { s.felt with replays := sput (0, 0) s.felt.replays key x } }

/-- A link that takes part: living, between living clusters, and not retraining (R248, R281). -/
structure LinkWorks (s : State) (l : Nat) : Prop where
  link : linkOk l = true
  up : s.bind.found.linkUp l = true
  calm : s.felt.gaveUp.contains l = false
  first : s.bind.found.living (linkEnds l).1.1 = true
  second : s.bind.found.living (linkEnds l).2.1 = true

section
variable {s : State} {l lane seq : Nat}

/-- A replay request on a working link is counted, and the replay passes, fails, or is given up. -/
theorem LinkWorks.exec_replayRequest (works : LinkWorks s l) (hl : lane < 2) (hs : seq < 256) (fw good : Bool) :
    ∃ t, Counted s t ∧ exec (.replayRequest l fw good lane seq) s = .next
      (if good then (t.resend ⟨l, fw, lane, seq⟩).noteReplay (laneKey l fw lane) (0, 0)
        else if t.felt.failures (laneKey l fw lane) seq < 8 then
          t.noteReplay (laneKey l fw lane) (seq, t.felt.failures (laneKey l fw lane) seq)
        else t.giveUp l) := by
  obtain ⟨link, up, calm, first, second⟩ := works
  have counted := Counted.of_bump s (pgCluster (if fw then (linkEnds l).2.1 else (linkEnds l).1.1)) 0x24 1
  refine ⟨_, counted, ?_⟩
  change execReplayRequest l fw good s lane seq = _
  unfold execReplayRequest
  rw [if_neg (by simp [link, hl, hs])]
  dsimp only
  rw [if_neg (by simpa [up, first, second] using calm)]
  generalize s.bump _ 0x24 1 = t
  cases good with
  | true => rfl
  | false =>
    rw [if_neg Bool.false_ne_true, if_neg Bool.false_ne_true]
    by_cases few : t.felt.failures (laneKey l fw lane) seq < 8
    · rw [if_pos few]
      exact if_pos few
    · rw [if_neg few]
      exact if_neg few

end

/-! A link gives up (R280) -/

/-- The felt once a link has given up: express signals alone go on. -/
def Felt.cut (f : Felt) (l : Nat) : Felt :=
  { f with
    packets := f.packets.filter fun p => p.chan == .express
    responses := [], unacked := [], conv := [], rounds := [], done := [], next := []
    replays := f.replays.filter fun k => k.1 / 4 != l, gaveUp := f.gaveUp ++ [l], attemptLinks := l :: f.attemptLinks }

/-- The first link that gives up in an attempt takes no cluster with it (R281). -/
theorem State.giveUp_first {s : State} (l : Nat) (first : s.felt.attemptLinks = []) :
    ∃ t : State, t.linkWork = s.linkWork ∧ s.giveUp l = { t with felt := t.felt.cut l } := by
  have absorbs : ((s.linkFault l fLINK_REPLAY_FAIL).absorbAll fLINK_REPLAY_FAIL).linkWork = s.linkWork := by simp
  unfold State.giveUp
  dsimp only
  generalize (s.linkFault l fLINK_REPLAY_FAIL).absorbAll fLINK_REPLAY_FAIL = a at absorbs
  have frees := (a.freeTiles_linkWork
    (a.feltRanges (a.felt.packets.filter fun p => p.chan != .express) a.felt.responses a.felt.conv)).trans absorbs
  generalize a.freeTiles _ = t at frees
  have alone : t.felt.attemptLinks = [] := (congrArg (fun x => x.2.1) frees).trans first
  refine ⟨t, frees, List.foldl_fixed' (fun c => ?_) _⟩
  have one : [l].eraseDups = [l] := by simp [List.eraseDups_cons]
  dsimp only
  rw [alone, one]
  exact if_pos (Nat.lt_succ_of_le (List.length_filter_le _ [l]))

theorem laneKey_link (l : Nat) (fw : Bool) {lane : Nat} (hl : lane < 2) : laneKey l fw lane / 4 = l := by
  unfold laneKey
  split <;> omega

/-- What the felt holds once a link has given up (R280). -/
theorem Felt.cut_spec (f : Felt) (l : Nat) (fw : Bool) {lane : Nat} (hl : lane < 2) :
    (∀ p ∈ (f.cut l).packets, p.chan = .express) ∧ sget (0, 0) (f.cut l).replays (laneKey l fw lane) = (0, 0) := by
  refine ⟨fun p hp => by simpa using (List.mem_filter.mp hp).2, sget_unlisted _ fun e he same => ?_⟩
  have other : e.1 / 4 ≠ l := by simpa using (List.mem_filter.mp he).2
  exact other (by rw [same, laneKey_link l fw hl])

/-! Retraining (R281, R365) -/

/-- A transient fault that no fault of its unit precedes in the windows does not recur (R365). -/
theorem State.recurs_first {s : State} {key : Nat} (first : ∀ w ∈ s.repair.windows, w.1 ≠ key) :
    ∃ ws, s.recurs key = (false, { s with repair := { s.repair with windows := ws } }) := by
  have unseen : s.repair.windows.find? (fun w => w.1 == key) = none :=
    List.find?_eq_none.mpr fun w hw => by simpa using first w hw
  unfold State.recurs
  rw [unseen]
  exact ⟨_, rfl⟩

/-- No link retrains any more, and the windows of R365 are as given. -/
def State.retrained (s : State) (windows : List (Nat × Nat)) : State :=
  { s with felt := { s.felt with gaveUp := [] }, repair := { s.repair with windows := windows } }

/-- Retraining of the only link that has given up ends: it returns, or is retired. -/
theorem exec_linkRetrainDone_only {s : State} {l : Nat} (link : linkOk l = true) (gaveUp : s.felt.gaveUp = [l])
    (first : ∀ w ∈ s.repair.windows, w.1 ≠ fLINK_REPLAY_FAIL * 2 ^ 32 + l) (pass : Bool) :
    ∃ ws, exec (.linkRetrainDone l pass) s =
      .next (if pass then s.retrained ws else (s.retrained ws).retireLink l) := by
  obtain ⟨ws, recurs⟩ := State.recurs_first first
  refine ⟨ws, ?_⟩
  change execLinkRetrainDone l pass s = _
  unfold execLinkRetrainDone
  rw [if_neg (by simp [link]), if_neg (by simp [gaveUp]), recurs]
  simp [gaveUp, State.retrained]

end Sys2Proof.Machine

open Sys2Proof Sys2Proof.Machine

/-- Settles O45: a replay on a working link passes, fails or is given up (`LinkWorks.exec_replayRequest`), the first link that
gives up cuts the felt (`State.giveUp_first`), and retraining returns it or retires it. -/
theorem linkReplays : Obligations.LinkReplays := by
  intro s l lane seq fw link hl hs up
  refine ⟨fun calm first second => ?_, fun gaveUp fresh => ⟨?_, ?_⟩⟩
  · have works : LinkWorks s l := ⟨link, up, calm, first, second⟩
    refine ⟨?_, fun few => ?_, fun many none_ alone => ?_⟩
    · obtain ⟨t, counted, goes⟩ := works.exec_replayRequest hl hs fw true
      refine ⟨_, goes, counted.pages, ?_, fun v => ?_⟩
      · rw [counted.eq]
        rfl
      · rw [counted.eq]
        exact sget_map {} s.vats.vats v (f := fun x => { x with
          qStream := Replay.lines ⟨l, fw, lane, seq⟩ x.qStream, qC1 := Replay.lines ⟨l, fw, lane, seq⟩ x.qC1
          qOther := Replay.lines ⟨l, fw, lane, seq⟩ x.qOther }) rfl
    · obtain ⟨t, counted, goes⟩ := works.exec_replayRequest hl hs fw false
      have felt : t.felt = s.felt := by rw [counted.eq]
      rw [if_neg Bool.false_ne_true, felt, if_pos (show s.felt.failures _ seq < 8 from few)] at goes
      exact ⟨_, goes, counted.pages, by rw [counted.eq]; rfl⟩
    · obtain ⟨t, counted, goes⟩ := works.exec_replayRequest hl hs fw false
      have felt : t.felt = s.felt := by rw [counted.eq]
      rw [if_neg Bool.false_ne_true, felt, if_neg (show ¬ s.felt.failures _ seq < 8 from Nat.not_lt.mpr many)] at goes
      obtain ⟨x, work, gives⟩ := t.giveUp_first l (felt ▸ alone)
      have same : x.linkWork = s.linkWork := work.trans (by rw [counted.eq]; rfl)
      obtain ⟨gaveUp, rest⟩ := Prod.mk.inj same
      obtain ⟨express, ended⟩ := x.felt.cut_spec l fw hl
      rw [gives] at goes
      refine ⟨_, goes, ?_, rfl, rfl, rfl, rfl, rfl, rfl, express, ended, (Prod.mk.inj rest).2⟩
      rw [Felt.cut, gaveUp, none_]
      rfl
  · obtain ⟨ws, goes⟩ := exec_linkRetrainDone_only link gaveUp fresh true
    exact ⟨_, goes, rfl⟩
  · obtain ⟨ws, goes⟩ := exec_linkRetrainDone_only link gaveUp fresh false
    obtain ⟨calm, links⟩ := Prod.mk.inj ((s.retrained ws).retireLink_linkMarks up)
    exact ⟨_, goes, links ▸ List.mem_cons_self, calm⟩
end

section
/-! PROOFS. Sealed inputs of a step arrive: the port's check, the checks of their objects, and their placing (R254, R362, R399 to
R401, R506). -/

namespace Sys2Proof.Machine

theorem setNth_eq_set {α : Type} (l : List α) (i : Nat) (v : α) : setNth l i v = l.set i v := by
  induction l generalizing i with
  | nil => rfl
  | cons x l ih =>
    cases i with
    | zero => rfl
    | succ i => rw [setNth, ih, List.set_cons_succ]

/-! The row -/

/-- The input of a slot that is not there yet can come by its port (R399, R424). -/
structure InputComes (s : State) (slot j : Nat) (p : HPort) (x : Input) : Prop where
  known : slot < 4
  port : s.inputPort slot = some p
  entry : s.inputAt slot j = some x
  absent : x.placed = false
  idle : x.coming = false
  up : (s.port p).dmaUp = true

section
variable {s : State} {slot j : Nat} {p : HPort} {x : Input}

/-- An input for a tile that is not clocked waits (R254). -/
theorem InputComes.exec_held (h : InputComes s slot j p x) (held : s.inputHeld slot j = true) (wire : Bool) :
    exec (.hostReadCompletion slot j wire) s = .next s := by
  change execHostReadCompletion slot j wire s = _
  rw [execHostReadCompletion, if_neg (Nat.not_le.mpr h.known), h.port, h.entry]
  exact if_pos (by simp [held])

/-- Another one arrives, or its transfer fails. -/
theorem InputComes.exec_free (h : InputComes s slot j p x) (free : s.inputHeld slot j = false) (wire : Bool) :
    exec (.hostReadCompletion slot j wire) s = .next (if wire then s.takeInput p slot j x else s.dmaFailed p) := by
  change execHostReadCompletion slot j wire s = _
  rw [execHostReadCompletion, if_neg (Nat.not_le.mpr h.known), h.port, h.entry]
  dsimp only
  rw [if_neg (by simp [h.absent, h.idle, h.up, free])]
  cases wire <;> rfl

/-- A transfer that fails the port's check, and not for the ninth time on end, is counted (R362). -/
theorem State.dmaFailed_counted (few : (s.site (hostSite p)).fails < 8) :
    Counted (s.setSite (hostSite p) (s.site (hostSite p)).refused) (s.dmaFailed p) := by
  obtain ⟨w, check, counted⟩ := State.checkFailed_counted (hostSite p) few
  have fails : s.dmaFailed p = w := by
    unfold State.dmaFailed
    rw [check]
    rfl
  rw [fails]
  exact counted

end

/-! The checks of a step's input (R399) -/

section
variable {s : State} {r : Running} {a : Phase1} {j : Nat} {p : HPort} {x : Input} {g : Prog} {m : List Byte} {k : Nat}

theorem State.dmaTook_port (q : HPort) (n : Nat) : (s.dmaTook p n).port q = s.port q := by cases q <;> rfl

/-- What a step's input gives: its bytes and whether its tag verifies, or the fault of its first check that fails. -/
def State.stepInput (s : State) (p : HPort) (x : Input) : Except Nat (List Byte × Bool) :=
  s.sec.ingress (s.port p).mem 0 (leAt x.entry 16 1) (leAt x.entry 0 8) (leAt x.entry 8 8)

/-- An entry whose reserved bytes hold no bit, or one of length 0, which skips every check (R399, R443). -/
def Input.wellFormed (x : Input) : Prop := leAt x.entry 8 8 = 0 ∨ allZero (bytesAt x.entry 17 7) = true

/-- An input that fails a check is a fault of the step (R401). -/
theorem State.takeInput_error {c : Nat} (formed : x.wellFormed) (bad : s.stepInput p x = .error c) :
    s.takeInput p 0 j x = (s.dmaTook p 1).inputFault p 0 x.ring c := by
  have mem : (s.dmaTook p 1).sec.ingress ((s.dmaTook p 1).port p).mem 0 (leAt x.entry 16 1) (leAt x.entry 0 8)
      (leAt x.entry 8 8) = .error c := by rw [State.dmaTook_port]; exact bad
  rw [State.takeInput, if_neg (fun h => formed.elim h.1 fun zero => by simpa [entryReserved, zero] using h.2)]
  dsimp only
  rw [mem]

/-- An input that passes them is counted and placed (R400, R506). -/
theorem State.takeInput_ok {pt : List Byte} {good : Bool} (formed : x.wellFormed) (ok : s.stepInput p x = .ok (pt, good))
    (loaded : s.prog 0 = some g) (fits : pt.length ≤ leAt (nth [] g.image.inputs j) 16 8) :
    s.takeInput p 0 j x = ((s.dmaTook p 1).bump (pgSite (hostSite p)) 0x30 (payloadUnits pt.length)).placeInput p 0 j
      (nth [] g.image.inputs j) (bytesAt x.entry 24 8) pt good := by
  have mem : (s.dmaTook p 1).sec.ingress ((s.dmaTook p 1).port p).mem 0 (leAt x.entry 16 1) (leAt x.entry 0 8)
      (leAt x.entry 8 8) = .ok (pt, good) := by rw [State.dmaTook_port]; exact ok
  have image : (s.dmaTook p 1).image? 0 = some g.image := congrArg (Option.map fun q : Prog => q.image) loaded
  rw [State.takeInput, if_neg (fun h => formed.elim h.1 fun zero => by simpa [entryReserved, zero] using h.2)]
  dsimp only
  rw [mem]
  dsimp only
  rw [image]
  exact if_neg (Nat.not_lt.mpr fits)

/-! An input is placed in its tile (R506) -/

/-- The attempt with entry `j` of its inputs replaced. -/
def Phase1.setInput (a : Phase1) (j : Nat) (x : Input) : Phase1 := { a with inputs := setNth a.inputs j x }

theorem Phase1.setInput_get (h : a.inputs[j]? = some x) (y : Input) : (a.setInput j y).inputs[j]? = some y := by
  obtain ⟨inside, -⟩ := List.getElem?_eq_some_iff.mp h
  rw [Phase1.setInput, setNth_eq_set, List.getElem?_set_self inside]

theorem Phase1.setInput_setInput (a : Phase1) (j : Nat) (y z : Input) : (a.setInput j y).setInput j z = a.setInput j z := by
  simp only [Phase1.setInput, setNth_eq_set, List.set_set]

theorem State.modInput_step (ph1 : s.train.ph1 = some a) (entry : a.inputs[j]? = some x) (f : Input → Input) :
    s.modInput 0 j f = { s with train := { s.train with ph1 := some (a.setInput j (f x)) } } := by
  simp only [State.modInput, if_true, ph1, Option.map_some, entry, Phase1.setInput]

/-- The module's slot of the tile that a map entry names. -/
theorem State.inputSlot_bound {px py : Nat} (loaded : s.prog 0 = some g) (bound : g.bound = some (px, py))
    (serves : s.bind.applied.tileSlot (((py + leAt m 3 1) * 40 + px + leAt m 2 1) * 16 + leAt m 4 1) = some k) :
    s.inputSlot 0 m = some k := by
  rw [State.inputSlot, loaded]
  dsimp only
  rw [bound]
  exact serves

/-- The tile in slot `k` becomes `t` and the attempt becomes `a`; nothing else changes. -/
structure InputPlaced (s u : State) (k : Nat) (t : Tile) (a : Phase1) : Prop where
  rest : u = { s with tiles := u.tiles, train := { s.train with ph1 := some a } }
  others : ∀ q, q ≠ k → u.tile q = s.tile q
  tile : u.tile k = t

/-- A step's input whose tag verifies is written whole: the counter increments, and the input counts as verified (R400,
R506). -/
theorem State.inputLanded_good (ph1 : s.train.ph1 = some a) (entry : a.inputs[j]? = some x) (good : x.good = true)
    (loaded : s.prog 0 = some g) (slot : s.inputSlot 0 (nth [] g.image.inputs j) = some k) :
    InputPlaced s (s.inputLanded p 0 j) k ((s.tile k).incCtr (leAt (nth [] g.image.inputs j) 1 1) 1)
      (a.setInput j { x with placed := true, coming := false }) := by
  have image : s.image? 0 = some g.image := congrArg (Option.map fun q : Prog => q.image) loaded
  have input : s.inputAt 0 j = some x := by
    simp only [State.inputAt, if_true, ph1]
    exact entry
  have sets := SetsTile.of_setTile s k ((s.tile k).incCtr (leAt (nth [] g.image.inputs j) 1 1) 1)
  have lands : s.inputLanded p 0 j = { s.incCounter k (leAt (nth [] g.image.inputs j) 1 1) 1 with
      train := { s.train with ph1 := some (a.setInput j { x with placed := true, coming := false }) } } := by
    rw [State.inputLanded, image, input]
    dsimp only
    rw [slot]
    dsimp only
    rw [if_pos good]
    exact State.modInput_step (s := s.incCounter k (leAt (nth [] g.image.inputs j) 1 1) 1) ph1 entry _
  rw [lands]
  exact ⟨rfl, sets.others, sets.tile⟩

/-- The bytes of an input in its tile: its length, its TAG and its plaintext (R506). -/
def inputBytes (tag pt : List Byte) : List Byte := leBytes 8 pt.length ++ tag ++ pt

theorem bytesAt_length (bs : List Byte) (off n : Nat) : (bytesAt bs off n).length = n := by
  simp only [bytesAt, List.length_append, List.length_replicate, List.length_take]
  omega

theorem inputBytes_length {tag : List Byte} (pt : List Byte) (eight : tag.length = 8) :
    (inputBytes tag pt).length = 16 + pt.length := by
  rw [inputBytes, List.length_append, List.length_append, leBytes_length, eight]

/-- A step's input whose tag verifies is placed in a tile where no operation in flight meets it. -/
theorem State.placeInput_tile {pt tag : List Byte} (ph1 : s.train.ph1 = some a) (entry : a.inputs[j]? = some x)
    (loaded : s.prog 0 = some g) (named : nth [] g.image.inputs j = m) (space : leAt m 0 1 = 0)
    (slot : s.inputSlot 0 m = some k)
    (alone : ∀ q ∈ (s.tile k).others .outside, q.meets [(leAt m 8 8, (inputBytes tag pt).length)] = false) :
    InputPlaced s (s.placeInput p 0 j m tag pt true) k
      { (s.tile k).incCtr (leAt m 1 1) 1 with sram := (s.tile k).sram.write (leAt m 8 8) (inputBytes tag pt) }
      (a.setInput j { x with placed := true, coming := false, plain := pt, good := true }) := by
  subst named
  generalize hm : nth [] g.image.inputs j = m at *
  set b := a.setInput j { x with coming := true, plain := pt, good := true } with hb
  set w := State.setTile { s with train := { s.train with ph1 := some b } } k
    { s.tile k with sram := (s.tile k).sram.write (leAt m 8 8) (inputBytes tag pt) } with hw
  have sets : SetsTile { s with train := { s.train with ph1 := some b } } w k _ := .of_setTile _ _ _
  have calm : w.conflicts k .outside [(leAt m 8 8, (inputBytes tag pt).length)] = w := by
    refine State.conflicts_eq_self (List.any_eq_false.mpr fun q hq => ?_)
    rw [sets.tile] at hq
    simpa using alone q hq
  have places : s.placeInput p 0 j m tag pt true = w.inputLanded p 0 j := by
    unfold State.placeInput
    rw [if_pos space, State.modInput_step ph1 entry, ← hb]
    dsimp only
    rw [show State.inputSlot { s with train := { s.train with ph1 := some b } } 0 m = some k from slot]
    exact congrArg (fun v : State => v.inputLanded p 0 j) calm
  have lands := State.inputLanded_good (s := w) (p := p) (a := b) (j := j) rfl (Phase1.setInput_get entry _) rfl loaded
    (hm ▸ slot)
  rw [hm, sets.tile, hb, Phase1.setInput_setInput, ← places] at lands
  exact ⟨lands.rest, fun q hq => (lands.others q hq).trans (sets.others q hq), lands.tile⟩

/-- Port `p` has taken one transfer that passed its check, and performance counters have counted it (R357, R362). -/
structure InputTook (s w : State) (p : HPort) : Prop where
  eq : w = { s with pages := w.pages, sites := w.sites }
  pages : PagesKeep s w []
  site : PortTook s w p 1

theorem InputTook.of_bump (s : State) (p : HPort) (unit ev n : Nat) : InputTook s ((s.dmaTook p 1).bump unit ev n) p := by
  have counted := Counted.of_bump (s.dmaTook p 1) unit ev n
  generalize (s.dmaTook p 1).bump unit ev n = w at counted
  have sites : w.sites = (s.dmaTook p 1).sites := by rw [counted.eq]
  exact ⟨by rw [counted.eq, State.dmaTook_eq], counted.pages, (s.dmaTook_took p 1).congr rfl sites⟩

theorem InputPlaced.pages {u : State} {t : Tile} (h : InputPlaced s u k t a) : PagesKeep s u [] := by
  rw [h.rest]
  exact .refl s []

theorem InputPlaced.site {u : State} {t : Tile} (h : InputPlaced s u k t a) (f : Nat) : u.site f = s.site f := by
  rw [h.rest]
  rfl

/-- Port `p` has delivered an input: the tile in slot `k` becomes `t` and the attempt becomes `a`. -/
structure InputDelivered (s u : State) (p : HPort) (k : Nat) (t : Tile) (a : Phase1) : Prop where
  rest : u = { s with pages := u.pages, sites := u.sites, tiles := u.tiles, train := { s.train with ph1 := some a } }
  pages : PagesKeep s u []
  site : PortTook s u p 1
  others : ∀ q, q ≠ k → u.tile q = s.tile q
  tile : u.tile k = t

theorem InputTook.placed {w u : State} {t : Tile} (took : InputTook s w p) (placed : InputPlaced w u k t a) :
    InputDelivered s u p k t a := by
  have tile : ∀ q, w.tile q = s.tile q := fun q => by rw [took.eq]; rfl
  refine ⟨?_, took.pages.trans placed.pages, ⟨fun f other => ?_, ?_⟩,
    fun q other => (placed.others q other).trans (tile q), placed.tile⟩
  · rw [placed.rest, took.eq]
  · exact (placed.site f).trans (took.site.1 f other)
  · exact (placed.site _).trans took.site.2

/-- A step's input that passes every check is taken and placed (R399, R400, R506). -/
theorem State.takeInput_placed {pt : List Byte} (ph1 : s.train.ph1 = some a) (entry : a.inputs[j]? = some x)
    (loaded : s.prog 0 = some g) (formed : x.wellFormed) (ok : s.stepInput p x = .ok (pt, true))
    (fits : pt.length ≤ leAt (nth [] g.image.inputs j) 16 8) (named : nth [] g.image.inputs j = m) (space : leAt m 0 1 = 0)
    (slot : s.inputSlot 0 m = some k)
    (alone : ∀ q ∈ (s.tile k).others .outside, q.meets [(leAt m 8 8, 16 + pt.length)] = false) :
    InputDelivered s (s.takeInput p 0 j x) p k
      { (s.tile k).incCtr (leAt m 1 1) 1 with
        sram := (s.tile k).sram.write (leAt m 8 8) (inputBytes (bytesAt x.entry 24 8) pt) }
      (a.setInput j { x with placed := true, coming := false, plain := pt, good := true }) := by
  rw [State.takeInput_ok formed ok loaded fits, named]
  have took := InputTook.of_bump s p (pgSite (hostSite p)) 0x30 (payloadUnits pt.length)
  generalize (s.dmaTook p 1).bump (pgSite (hostSite p)) 0x30 (payloadUnits pt.length) = w at took ⊢
  have eq := took.eq
  have tile : w.tile k = s.tile k := by rw [eq]; rfl
  rw [← inputBytes_length pt (bytesAt_length x.entry 24 8), ← tile] at alone
  rw [← tile]
  exact took.placed (State.placeInput_tile (by rw [eq]; exact ph1) entry (by rw [eq]; exact loaded) named space
    (by rw [eq]; exact slot) alone)

end

/-! A step's input that fails (R401) -/

theorem pgSite_ne_pgCmd (f : Nat) (p : HPort) : pgSite f ≠ pgCmd p := by
  cases p <;> simp only [pgSite, pgCmd, HPort.num] <;> omega

theorem State.stopQueries_train (s : State) : s.stopQueries.train = s.train := by
  unfold State.stopQueries
  refine foldl_keeps State.train (fun s q => ?_) _ s
  have discarded : (s.discard q).train = s.train := by rw [State.discard_eq]
  dsimp only
  split
  · rfl
  · split
    · exact discarded
    · rfl

/-- RUN_STEPS has ended with a fault. -/
structure StepsEnd (s u : State) (p : HPort) (code : Nat) : Prop where
  run : u.run = none
  train : u.train = { s.train.idle with ph1 := none }
  status : (u.port p).cmd.status = code
  pages : PagesKeep s u [pgCmd p]

/-- A program fault of the step ends RUN_STEPS at once when no step is in phase 2 (R52). -/
theorem State.progFault_ends {s : State} {r : Running} (run : s.run = some r) (op : r.op = 4) (ph2 : s.train.ph2 = none)
    (code : Nat) : StepsEnd s (s.progFault 0 code) r.port code := by
  have quiet := (Unrecorded.of_discard s 0).trans (.of_stopQueries _)
  have train : (s.discard 0).stopQueries.train = s.train := by rw [State.stopQueries_train, State.discard_eq]
  unfold State.progFault State.endRun
  rw [if_pos rfl]
  dsimp only
  generalize (s.discard 0).stopQueries = v at quiet train ⊢
  have running : v.run = some r := quiet.run.trans run
  rw [running, train, ph2]
  dsimp only
  rw [if_pos op, if_neg (by simp)]
  set t : State := { v with
    run := some r
    train := { s.train with ph1 := none, ph2 := none, running := false }
    twin := { v.twin with probe := none } } with ht
  replace running : t.run = some r := rfl
  have ends : t.endCommand code = t.endWith code (t.ret0 r) 0 := by rw [State.endCommand, running]
  obtain ⟨⟨⟨-, -, pages⟩, -⟩, -⟩ := endWith_ended r running code (t.ret0 r) 0
  rw [ends]
  refine ⟨State.endWith_run _ _ _ _, ?_, State.endWith_status running _ _ _, fun k hk => ?_⟩
  · rw [State.endWith_train, running, ht, ← ph2]
    rfl
  · have page : t.page k = s.page k := quiet.page k
    rw [pages k (by simpa using hk), State.modCmd_page, ← page]
    rfl

end Sys2Proof.Machine
end

section
/-! PROOFS. Stream and view entries start (R254, R300, R333). -/

namespace Sys2Proof.Machine

/-! Lines are queued at their vats -/

/-- Of the module the queues of the vats alone change. -/
def OnlyQueues (s u : State) : Prop := u = { s with vats := { s.vats with vats := u.vats.vats } }

/-- The read of a line for an entry. -/
def entryRead (a : Asker) (ph1 : Bool) (line : Nat) : LineReq := { addr := line, write := false, asker := a, ph1 := ph1 }

section
variable {s : State} (a : Asker) (ph1 : Bool)

/-- The read of one line joins the stream queue of its vat. -/
def State.queueLine (s : State) (a : Asker) (ph1 : Bool) (line : Nat) : State :=
  { s with vats := s.vats.setVat (vatOf line) { s.vats.vat (vatOf line) with
    qStream := (s.vats.vat (vatOf line)).qStream ++ [entryRead a ph1 line] } }

theorem State.queueStream_eq (lines : List Nat) : s.queueStream a ph1 lines = lines.foldl (fun s => s.queueLine a ph1) s := rfl

theorem State.queueStream_onlyQueues (lines : List Nat) : OnlyQueues s (s.queueStream a ph1 lines) := by
  rw [State.queueStream_eq]
  induction lines generalizing s with
  | nil => rfl
  | cons line lines ih =>
    have rest := ih (s := s.queueLine a ph1 line)
    unfold OnlyQueues at *
    rw [List.foldl_cons, rest]
    rfl

/-- A request stays in its queue when a line is queued. -/
theorem State.queueLine_keeps (line : Nat) {v : Nat} {q : LineReq} (waits : q ∈ (s.vats.vat v).qStream) :
    q ∈ ((s.queueLine a ph1 line).vats.vat v).qStream := by
  unfold State.queueLine
  by_cases own : v = vatOf line
  · subst own
    rw [Vats.setVat_vat]
    exact List.mem_append_left _ waits
  · rw [Vats.setVat_vat_ne _ _ _ own]
    exact waits

theorem State.queueLine_waits (s : State) (line : Nat) :
    entryRead a ph1 line ∈ ((s.queueLine a ph1 line).vats.vat (vatOf line)).qStream := by
  unfold State.queueLine
  rw [Vats.setVat_vat]
  exact List.mem_append_right _ List.mem_cons_self

/-- Every line waits at its vat (R300, R333). -/
theorem State.queueStream_waits {lines : List Nat} {line : Nat} (mem : line ∈ lines) :
    entryRead a ph1 line ∈ ((s.queueStream a ph1 lines).vats.vat (vatOf line)).qStream := by
  rw [State.queueStream_eq]
  have stays : ∀ (lines : List Nat) (s : State) (v : Nat) (q : LineReq), q ∈ (s.vats.vat v).qStream →
      q ∈ ((lines.foldl (fun s => s.queueLine a ph1) s).vats.vat v).qStream := by
    intro lines
    induction lines with
    | nil => exact fun _ _ _ h => h
    | cons l lines ih => exact fun s v q h => ih _ v q (s.queueLine_keeps a ph1 l h)
  induction lines generalizing s with
  | nil => cases mem
  | cons l lines ih =>
    obtain rfl | later := List.mem_cons.mp mem
    · exact stays lines _ _ _ (s.queueLine_waits a ph1 line)
    · exact ih later

end

/-! An entry starts -/

/-- An entry of `n` bytes or blocks starts: its lines are queued, or its tiles' counters increment when it has none. -/
def State.castStart (s : State) (a : Asker) (ph1 : Bool) (slots : List Nat) (ctr n : Nat) (lines : List Nat) : State :=
  if slots.isEmpty then s else if n = 0 then s.castDone a slots ctr else s.queueStream a ph1 lines

/-- What the start of an entry leaves: tiles and queues of vats alone change. -/
structure CastStarts (s u : State) (a : Asker) (slots : List Nat) (n : Nat) (lines : List Nat) : Prop where
  eq : u = { s with tiles := u.tiles, vats := { s.vats with vats := u.vats.vats } }
  tiles : slots ≠ [] → u.tiles = s.tiles ∨ n = 0
  waits : slots ≠ [] → n ≠ 0 → ∀ line ∈ lines,
    ∃ q ∈ (u.vats.vat (vatOf line)).qStream, q.addr = line ∧ q.write = false ∧ q.asker = a

theorem State.castDone_onlyTiles (s : State) (a : Asker) (slots : List Nat) (ctr : Nat) : OnlyTiles s (s.castDone a slots ctr) := by
  unfold State.castDone
  split
  · exact .refl s
  · exact .foldl (fun s k => show OnlyTiles s (s.incCounter k ctr 1) from rfl) _ s

theorem State.castStart_spec (s : State) (a : Asker) (ph1 : Bool) (slots : List Nat) (ctr n : Nat) (lines : List Nat) :
    CastStarts s (s.castStart a ph1 slots ctr n lines) a slots n lines := by
  unfold State.castStart
  by_cases nowhere : slots = []
  · rw [if_pos (by simp [nowhere])]
    exact ⟨rfl, fun h => absurd nowhere h, fun h => absurd nowhere h⟩
  · rw [if_neg (by simp [nowhere])]
    by_cases nothing : n = 0
    · rw [if_pos nothing]
      have only := s.castDone_onlyTiles a slots ctr
      unfold OnlyTiles at only
      exact ⟨by rw [only], fun _ => .inr nothing, fun _ h => absurd nothing h⟩
    · rw [if_neg nothing]
      have only := State.queueStream_onlyQueues (s := s) a ph1 lines
      have waits := fun line => State.queueStream_waits (s := s) a ph1 (lines := lines) (line := line)
      generalize s.queueStream a ph1 lines = u at only waits
      refine ⟨?_, fun _ => .inl ?_, fun _ _ line mem => ⟨_, waits line mem, rfl, rfl, rfl⟩⟩
      · rw [only]
      · rw [only]

/-- A row starts an entry; one without data waits for the clocks of its tiles (R254), which run. -/
theorem castStart_row (s0 s : State) (a : Asker) (ph1 : Bool) {slots : List Nat} (ctr : Nat) {n : Nat} (lines : List Nat)
    (clocked : n = 0 → ∀ q ∈ slots, s.unclocked q = false) :
    (if slots.isEmpty then .next s
      else if n = 0 then .next (if slots.any s.unclocked then s0 else s.castDone a slots ctr)
      else .next (s.queueStream a ph1 lines) : Out) = .next (s.castStart a ph1 slots ctr n lines) := by
  unfold State.castStart
  split
  · rfl
  · split
    · next nothing => rw [if_neg (by simpa using clocked nothing)]
    · rfl

/-! Entries that have started -/

/-- The note of an entry that starts lies in the work of its program. -/
theorem State.noteStarted_eq (s : State) (p k : Nat) (view : Bool) : s.noteStarted p k view =
    { s with train := { s.train with ph1 := (s.noteStarted p k view).train.ph1 }
             queries := (s.noteStarted p k view).queries } := by
  unfold State.noteStarted
  split <;> rfl

/-- An entry whose tick has arrived is noted in the work in progress (R300, R333). -/
theorem State.noteStarted_started {s : State} {p n : Nat} {view : Bool} (own : p = 0 ∨ view = false)
    (arrived : s.tickArrived p n = true) (k : Nat) :
    (s.noteStarted p k view).startedEntries p view = s.startedEntries p view ++ [k] := by
  by_cases train : p = 0
  · subst train
    cases ph1 : s.train.ph1 with
    | none => simp [State.tickArrived, ph1] at arrived
    | some a => cases view <;> simp [State.noteStarted, State.startedEntries, ph1]
  · obtain rfl := own.resolve_left train
    cases run : (s.query p).run with
    | none => simp [State.tickArrived, train, run] at arrived
    | some q => simp [State.noteStarted, State.startedEntries, train, run]

/-! The rows -/

section
variable {s : State} {p k n : Nat} {i : Image} {e : List Byte}

/-- An entry that has started does not start again. -/
theorem exec_streamEntry_again (slot : p < 4) (image : s.image? p = some i) (entry : i.streams[k]? = some e)
    (started : k ∈ s.startedEntries p false) : exec (.streamEntry p k) s = .next s := by
  change execStreamEntry p k s = _
  unfold execStreamEntry
  rw [if_neg (Nat.not_le.mpr slot), image]
  dsimp only
  rw [entry]
  exact if_pos (by simp [started])

/-- A stream entry whose tick has arrived, and whose layer phase 2 has completed, starts (R300). -/
theorem exec_streamEntry_starts (slot : p < 4) (image : s.image? p = some i) (entry : i.streams[k]? = some e)
    (arrived : s.tickArrived p (RectEntry.parse e).tick = true) (ready : p = 0 → s.layerReady i (streamLayer e) = true)
    (clocked : streamLen e = 0 → ∀ q ∈ s.destSlots p (RectEntry.parse e), s.unclocked q = false)
    (fresh : k ∉ s.startedEntries p false) : exec (.streamEntry p k) s =
      .next ((s.noteStarted p k false).castStart (.stream p k) (p == 0) (s.destSlots p (RectEntry.parse e))
        (RectEntry.parse e).rctr (streamLen e) (linesOf (streamSrc e) (streamLen e))) := by
  have due : ¬ (!s.tickArrived p (RectEntry.parse e).tick || (s.startedEntries p false).contains k ||
      (p == 0 && !s.layerReady i (streamLayer e))) = true := by
    simp [arrived, fresh]
    exact ready
  have slots : (s.noteStarted p k false).destSlots p (RectEntry.parse e) = s.destSlots p (RectEntry.parse e) := by
    rw [State.noteStarted_eq]
    rfl
  change execStreamEntry p k s = _
  unfold execStreamEntry
  rw [if_neg (Nat.not_le.mpr slot), image]
  dsimp only
  rw [entry]
  dsimp only
  rw [if_neg due, slots]
  refine castStart_row s _ _ _ _ _ fun nothing q hq => ?_
  rw [State.noteStarted_eq]
  exact clocked nothing q hq

end

section
variable {s : State} {k : Nat} {i : Image} {e : List Byte} {l : LayerImage}

theorem exec_viewEntry_again (image : s.trainImage = some i) (entry : i.views[k]? = some e)
    (layer : i.layers[viewLayer e]? = some l) (started : k ∈ s.startedEntries 0 true) : exec (.viewEntry k) s = .next s := by
  change execViewEntry k s = _
  unfold execViewEntry
  rw [image]
  dsimp only
  rw [entry]
  dsimp only
  rw [layer]
  exact if_pos (by simp [started])

/-- The lines that hold the blocks of a view entry (R333, R344). -/
def Image.viewLines (i : Image) (l : LayerImage) (e : List Byte) : List Nat :=
  ((List.range (viewNblk e)).map fun j => i.gradEntry l (viewFirst e + j) / 64 * 64).eraseDups

/-- A view entry whose tick has arrived, and whose layer phase 2 has completed, starts (R333). -/
theorem exec_viewEntry_starts (image : s.trainImage = some i) (entry : i.views[k]? = some e)
    (layer : i.layers[viewLayer e]? = some l) (arrived : s.tickArrived 0 (RectEntry.parse e).tick = true)
    (ready : s.layerReady i (viewLayer e) = true)
    (clocked : viewNblk e = 0 → ∀ q ∈ s.destSlots 0 (RectEntry.parse e), s.unclocked q = false)
    (fresh : k ∉ s.startedEntries 0 true) : exec (.viewEntry k) s =
      .next ((s.noteStarted 0 k true).castStart (.view k) true (s.destSlots 0 (RectEntry.parse e)) (RectEntry.parse e).rctr
        (viewNblk e) (i.viewLines l e)) := by
  have due : ¬ (!s.tickArrived 0 (RectEntry.parse e).tick || (s.startedEntries 0 true).contains k ||
      !s.layerReady i (viewLayer e)) = true := by simp [arrived, fresh, ready]
  have slots : (s.noteStarted 0 k true).destSlots 0 (RectEntry.parse e) = s.destSlots 0 (RectEntry.parse e) := rfl
  change execViewEntry k s = _
  unfold execViewEntry
  rw [image]
  dsimp only
  rw [entry]
  dsimp only
  rw [layer]
  dsimp only
  rw [if_neg due, slots]
  exact castStart_row s _ _ _ _ _ clocked

end

end Sys2Proof.Machine

open Sys2Proof Sys2Proof.Machine

/-- Settles O51: an input waits, fails its transfer, is placed (`State.placeInput_tile`) or ends the step
(`State.progFault_ends`); an entry starts once (`State.castStart_spec`). -/
theorem inputsAndEntries : Obligations.InputsAndEntries := by
  refine ⟨fun s slot j p x slots port entry absent idle up free few => ?_,
    fun s r a j x g run ph1 entry absent idle up loaded => ?_,
    fun s p i k e slot image entry arrived ready clocked => ⟨exec_streamEntry_again slot image entry, fun fresh => ?_⟩,
    fun s i k e l image entry layer arrived ready clocked => ⟨exec_viewEntry_again image entry layer, fun fresh => ?_⟩⟩
  · have comes : InputComes s slot j p x := ⟨slots, port, entry, absent, idle, up⟩
    have counted := State.dmaFailed_counted (s := s) (p := p) few
    have sites : (s.dmaFailed p).sites = (s.setSite (hostSite p) (s.site (hostSite p)).refused).sites := by rw [counted.eq]
    refine ⟨_, comes.exec_free free false, ?_, counted.pages, fun f other => ?_, ?_⟩
    · rw [if_neg Bool.false_ne_true, counted.eq]
      rfl
    · rw [if_neg Bool.false_ne_true, State.site, sites]
      exact State.setSite_site_ne _ _ _ _ other
    · rw [if_neg Bool.false_ne_true, State.site, sites]
      exact State.setSite_site _ _ _
  · have comes : InputComes s 0 j r.port x :=
      ⟨by decide, by simp [State.inputPort, run], by simpa [State.inputAt, ph1] using entry, absent, idle, up⟩
    refine ⟨comes.exec_held, fun free space formed => ⟨fun empty => ?_, fun px py k pt bound serves ok fits alone => ?_,
      fun c bad op ph2 => ?_⟩⟩
    · rw [empty]
      exact Security.ingress_empty _ _ _ _ _
    · rw [comes.exec_free free true, if_pos rfl]
      have placed := State.takeInput_placed ph1 entry loaded formed ok fits rfl space
        (State.inputSlot_bound loaded bound serves) alone
      refine ⟨_, rfl, placed.pages, ?_, placed.site.2, placed.site.1, placed.others, placed.tile⟩
      rw [placed.rest]
      simp only [Phase1.setInput, idle]
    · rw [comes.exec_free free true, if_pos rfl, State.takeInput_error formed bad]
      have same : (s.dmaTook r.port 1).inputFault r.port 0 x.ring c =
          ((s.dmaTook r.port 1).recordFault (pgSite (hostSite r.port)) c x.ring).progFault 0 c := rfl
      have recorded := State.recordFault_on (s.dmaTook r.port 1) (pgSite (hostSite r.port)) c x.ring
      have ends := State.progFault_ends (s := (s.dmaTook r.port 1).recordFault (pgSite (hostSite r.port)) c x.ring)
        (by rw [State.recordFault_run]; exact run) op (by rw [State.recordFault_train]; exact ph2) c
      have train := ends.train
      rw [State.recordFault_train] at train
      rw [same]
      refine ⟨_, rfl, ends.run, by rw [train], by rw [train]; rfl, ends.status, by rw [train]; rfl, fun sound => ?_⟩
      obtain ⟨-, code, info, -⟩ := recorded sound
      rw [ends.pages _ (by simpa using pgSite_ne_pgCmd _ _)]
      exact ⟨code, info⟩
  · refine ⟨_, exec_streamEntry_starts slot image entry arrived ready clocked fresh, ?_⟩
    obtain ⟨eq, tiles, waits⟩ := State.castStart_spec (s.noteStarted p k false) (.stream p k) (p == 0)
      (s.destSlots p (RectEntry.parse e)) (RectEntry.parse e).rctr (streamLen e) (linesOf (streamSrc e) (streamLen e))
    have noted := State.noteStarted_started (view := false) (.inr rfl) arrived k
    have note := State.noteStarted_eq s p k false
    generalize State.castStart (s.noteStarted p k false) _ _ _ _ _ _ = u at eq tiles waits ⊢
    generalize s.noteStarted p k false = v at eq tiles noted note
    have unmoved : v.tiles = s.tiles := by rw [note]
    refine ⟨?_, ?_, unmoved ▸ tiles, fun somewhere line mem => waits somewhere (fun nothing => ?_) line mem⟩
    · rw [← noted, eq]
      rfl
    · rw [eq, note]
    · rw [nothing, linesOf, if_pos rfl] at mem
      cases mem
  · refine ⟨_, exec_viewEntry_starts image entry layer arrived ready clocked fresh, ?_⟩
    obtain ⟨eq, tiles, waits⟩ := State.castStart_spec (s.noteStarted 0 k true) (.view k) true
      (s.destSlots 0 (RectEntry.parse e)) (RectEntry.parse e).rctr (viewNblk e) (i.viewLines l e)
    have noted := State.noteStarted_started (view := true) (.inl rfl) arrived k
    have note := State.noteStarted_eq s 0 k true
    refine ⟨?_, ?_, fun somewhere b within => waits somewhere (Nat.ne_zero_of_lt within) _ ?_⟩
    · rw [← noted, eq]
      rfl
    · rw [eq]
      rfl
    · exact List.mem_eraseDups.mpr (List.mem_map.mpr ⟨b, List.mem_range.mpr within, rfl⟩)
end
section
/-! PROOFS. Phase 2 of one chunk in a memory without errors: what its lines store, what it leaves to its tiles, and its journal
(R291, R307, R314 to R318, R374). -/

namespace Sys2Proof.Machine

/-! Consecutive writes -/

theorem sputs_append {α : Type} [DecidableEq α] (d : α) (m : List (Nat × α)) (i : Nat) (vs ws : List α) :
    sputs d m i (vs ++ ws) = sputs d (sputs d m i vs) (i + vs.length) ws := by
  induction vs generalizing m i with
  | nil => rfl
  | cons v vs ih => rw [List.cons_append, sputs, sputs, ih, List.length_cons, Nat.add_right_comm, Nat.add_assoc]

theorem EccMem.write_nil {m : EccMem} (clean : m.errs = []) (a : Nat) : m.write a [] = m := by
  unfold EccMem.write
  rw [if_pos clean]
  rfl

/-- A write of consecutive pieces is the write of the whole. -/
theorem EccMem.write_append {m : EccMem} (clean : m.errs = []) (a : Nat) (bs cs : List Byte) :
    m.write a (bs ++ cs) = (m.write a bs).write (a + bs.length) cs := by
  simp only [EccMem.write, clean, if_true, sputs_append]

theorem EccMem.writes_append (m : EccMem) (ps qs : List (Nat × List Byte)) : m.writes (ps ++ qs) = (m.writes ps).writes qs :=
  List.foldl_append

theorem EccMem.writes_errs {m : EccMem} (clean : m.errs = []) (ps : List (Nat × List Byte)) : (m.writes ps).errs = [] :=
  List.foldlRecOn (motive := fun m => m.errs = []) _ _ clean fun m clean _ _ => EccMem.write_errs m _ _ clean

/-- A write elsewhere leaves what a range reads. -/
theorem EccMem.read_write_outside {m : EccMem} (clean : m.errs = []) {a b n : Nat} {bs : List Byte}
    (apart : a + n ≤ b ∨ b + bs.length ≤ a) : (m.write b bs).read a n = m.read a n :=
  EccMem.read_congr fun x _ _ => EccMem.write_outside m b bs x clean (by omega)

/-- Where line `k` of `n` bytes at an address begins. -/
def lineCut (a n k : Nat) : Nat := min (a + n) (max a ((a / 64 + k) * 64))

/-- The pieces of some bytes, cut at line boundaries, with their addresses. -/
def linePieces (a : Nat) (bs : List Byte) (k : Nat) : List (Nat × List Byte) :=
  (List.range k).map fun j =>
    (lineCut a bs.length j, (bs.drop (lineCut a bs.length j - a)).take (lineCut a bs.length (j + 1) - lineCut a bs.length j))

/-- The first pieces are the write of the bytes before the next cut. -/
theorem EccMem.writes_linePieces {m : EccMem} (clean : m.errs = []) (a : Nat) (bs : List Byte) (k : Nat) :
    m.writes (linePieces a bs k) = m.write a (bs.take (lineCut a bs.length k - a)) := by
  induction k with
  | zero =>
    rw [show lineCut a bs.length 0 - a = 0 by unfold lineCut; omega, List.take_zero, EccMem.write_nil clean]
    rfl
  | succ k ih =>
    have cuts : a ≤ lineCut a bs.length k ∧ lineCut a bs.length k ≤ a + bs.length ∧
        lineCut a bs.length k ≤ lineCut a bs.length (k + 1) := by unfold lineCut; omega
    obtain ⟨low, high, next⟩ := cuts
    have upTo : lineCut a bs.length (k + 1) - a =
        (lineCut a bs.length k - a) + (lineCut a bs.length (k + 1) - lineCut a bs.length k) := by omega
    have address : a + (bs.take (lineCut a bs.length k - a)).length = lineCut a bs.length k := by
      rw [List.length_take]; omega
    rw [upTo, List.take_add, EccMem.write_append clean, address, ← ih, linePieces, List.range_succ, List.map_append,
      EccMem.writes_append]
    rfl

/-- The line writes of some bytes are their pieces. -/
theorem lineParts_pieces {a : Nat} {bs : List Byte} (filled : bs.isEmpty = false) :
    (lineParts a bs).map (fun l => (l.1 + l.2.1, l.2.2)) = linePieces a bs ((a + bs.length - 1) / 64 - a / 64 + 1) := by
  have pos : 0 < bs.length := by cases bs <;> simp at filled ⊢
  rw [lineParts, filled, if_neg Bool.false_ne_true, List.map_map]
  refine List.map_congr_left fun j hj => ?_
  have := List.mem_range.mp hj
  have cut : lineCut a bs.length j = max a ((a / 64 + j) * 64) := by unfold lineCut; omega
  have next : lineCut a bs.length (j + 1) = min (a + bs.length) ((a / 64 + j) * 64 + 64) := by unfold lineCut; omega
  simp only [Function.comp_apply, cut, next]
  rw [show (a / 64 + j) * 64 + (max a ((a / 64 + j) * 64) - (a / 64 + j) * 64) = max a ((a / 64 + j) * 64) by omega]

/-- Bytes written line by line are written whole. -/
theorem EccMem.writes_lineParts {m : EccMem} (clean : m.errs = []) (a : Nat) (bs : List Byte) :
    m.writes ((lineParts a bs).map fun l => (l.1 + l.2.1, l.2.2)) = m.write a bs := by
  cases empty : bs.isEmpty with
  | true =>
    obtain rfl := List.isEmpty_iff.mp empty
    exact (EccMem.write_nil clean a).symm
  | false =>
    rw [lineParts_pieces empty, EccMem.writes_linePieces clean, List.take_of_length_le]
    unfold lineCut
    omega

/-! What phase 2 changes -/

/-- The bytes of vat space that some writes store, the tiles' census and flags of context 1 in some slots, block counters, the
counter reader, the security state and the number of free values drawn: nothing else changes. -/
structure Phase2Works (s u : State) (slots : List Nat) (ps : List (Nat × List Byte)) : Prop where
  eq : u = { s with
    pages := u.pages, sec := u.sec, ctr := u.ctr, free := u.free, tiles := u.tiles
    vats := { s.vats with mem := s.vats.mem.writes ps } }
  pages : PagesKeep s u []
  tile : ∀ q, u.tile q = { s.tile q with
    census := (u.tile q).census, c1 := { (s.tile q).c1 with flags := (u.tile q).c1.flags } }
  others : ∀ q, q ∉ slots → u.tile q = s.tile q
  still : slots = [] → u.tiles = s.tiles

section
variable {s t u : State} {ps qs : List (Nat × List Byte)}

/-- Work that leaves the tiles alone. -/
theorem Phase2Works.of_still (eq : u = { s with
      pages := u.pages, sec := u.sec, ctr := u.ctr, free := u.free, vats := { s.vats with mem := s.vats.mem.writes ps } })
    (pages : PagesKeep s u []) : Phase2Works s u [] ps := by
  have tiles : u.tiles = s.tiles := by rw [eq]
  have tile : ∀ q, u.tile q = s.tile q := fun q => by rw [State.tile, tiles, State.tile]
  exact ⟨by rw [tiles]; exact eq, pages, fun q => by rw [tile], fun q _ => tile q, fun _ => tiles⟩

theorem Phase2Works.of_counted (h : Counted s u) : Phase2Works s u [] [] :=
  .of_still (by rw [h.eq]; rfl) h.pages

theorem Phase2Works.mem {slots : List Nat} (h : Phase2Works s u slots ps) : u.vats.mem = s.vats.mem.writes ps := by rw [h.eq]

theorem Phase2Works.clean {slots : List Nat} (h : Phase2Works s u slots ps) (clean : s.vats.mem.errs = []) :
    u.vats.mem.errs = [] := by rw [h.mem, EccMem.writes_errs clean]

theorem Phase2Works.bind {slots : List Nat} (h : Phase2Works s u slots ps) : u.bind = s.bind := by rw [h.eq]

theorem Phase2Works.trans {slots slots' : List Nat} (h : Phase2Works s t slots ps) (g : Phase2Works t u slots' qs) :
    Phase2Works s u (slots ++ slots') (ps ++ qs) := by
  refine ⟨?_, h.pages.trans g.pages, fun q => ?_, fun q out => ?_, fun none => ?_⟩
  · rw [EccMem.writes_append, g.eq, h.eq]
  · rw [g.tile q, h.tile q]
  · obtain ⟨out, out'⟩ := not_or.mp (mt List.mem_append.mpr out)
    rw [g.others q out', h.others q out]
  · obtain ⟨none, none'⟩ := List.append_eq_nil_iff.mp none
    rw [g.still none', h.still none]

end

/-! The lines that phase 2 writes -/

/-- Some writes of vat space, and what they dirty of a moving copy (R388). -/
structure VatStores (s u : State) (ps : List (Nat × List Byte)) : Prop where
  eq : u = { s with
    pages := u.pages, sec := u.sec, twin := { s.twin with join := u.twin.join }
    vats := { s.vats with mem := s.vats.mem.writes ps } }
  pages : PagesKeep s u []

/-- Line writes outside phase 1 store their pieces (R291, R340). -/
theorem State.portWrites_stores {s : State} (clean : s.vats.mem.errs = []) (ls : List (Nat × Nat × List Byte)) :
    VatStores s (ls.foldl (fun s l => s.portWrite l.1 [l.2] false) s) (ls.map fun l => (l.1 + l.2.1, l.2.2)) := by
  induction ls generalizing s with
  | nil => exact ⟨rfl, .refl s []⟩
  | cons l ls ih =>
    have counts := s.portWrite_clean clean l.1 l.2.1 l.2.2
    have mem : (s.portWrite l.1 [l.2] false).vats.mem = s.vats.mem.write (l.1 + l.2.1) l.2.2 := by rw [counts.eq]; rfl
    have rest := ih (s := s.portWrite l.1 [l.2] false) (by rw [mem, EccMem.write_errs _ _ _ clean])
    refine ⟨?_, (PagesKeep.trans (fun _ _ => rfl) counts.pages).trans rest.pages⟩
    rw [List.foldl_cons, rest.eq, mem, counts.eq]
    rfl

/-- Phase 2 writes bytes of any length (R291). -/
theorem State.phase2Write_works {s : State} (clean : s.vats.mem.errs = []) (a : Nat) (bs : List Byte) :
    Phase2Works s (s.phase2Write a bs) [] [(a, bs)] := by
  have stores := State.portWrites_stores clean (lineParts a bs)
  have whole : s.vats.mem.writes [(a, bs)] = s.vats.mem.writes ((lineParts a bs).map fun l => (l.1 + l.2.1, l.2.2)) :=
    (EccMem.writes_lineParts clean a bs).symm
  have ends : s.phase2Write a bs =
      { s.portWrites a bs false with twin := { (s.portWrites a bs false).twin with join := s.twin.join } } := by
    simp only [State.phase2Write, EccMem.bad_clean _ _ clean, Option.isSome_none, Bool.false_eq_true, if_false]
  refine .of_still ?_ (by rw [ends]; exact stores.pages)
  rw [ends, whole, State.portWrites, stores.eq]

/-- Pieces go to the addresses that their offsets have. -/
theorem State.putPieces_works {s : State} (clean : s.vats.mem.errs = []) (at_ : Nat → Option Nat)
    (ps : List (Nat × List Byte)) :
    Phase2Works s (s.putPieces at_ ps) [] (ps.flatMap fun p => ((at_ p.1).map fun a => (a, p.2)).toList) := by
  induction ps generalizing s with
  | nil => exact .of_counted (.refl s)
  | cons p ps ih =>
    rw [State.putPieces, List.foldl_cons, List.flatMap_cons]
    cases at_ p.1 with
    | none => exact ih clean
    | some a =>
      have first := State.phase2Write_works clean a p.2
      exact first.trans (ih (first.clean clean))

/-- Words of context 1 count, and draw free values (R491, R499). -/
theorem State.chunkWords_works (s : State) (n : Nat) (q : Nat × Nat × Nat) : Phase2Works s (s.chunkWords n q) [] [] := by
  have drawn : Phase2Works s { s with free := s.free + 1 } [] [] := .of_still rfl (.refl s [])
  have counted := drawn.trans (.of_counted
    (.of_bump { s with free := s.free + 1 } (pgCluster (q.2.2 / 17)) 0x15 (Config.freeWord s.free).toNat))
  unfold State.chunkWords
  dsimp only
  split
  · exact counted
  · exact counted.trans (.of_still rfl (.refl _ []))

theorem State.chunkIssues_works (s : State) (g n : Nat) : Phase2Works s (s.chunkIssues g n) [] [] :=
  List.foldlRecOn (motive := fun u => Phase2Works s u [] []) _ _ (.of_counted (.refl s))
    fun t works _ _ => works.trans (t.chunkWords_works n _)

/-! The tiles of a chunk -/

/-- A tile that has counted its elements of a chunk in census slot 31, cleared before (R198, R374). -/
def Tile.chunkCounted (t : Tile) (cls : List (Option CensusClass)) : Tile :=
  { t with census := sput {} t.census 31 {} }.countCensus 31 cls

/-- A tile of a chunk takes its census slot 31 and its flag (R96, R198, R374). -/
theorem State.tileCensus_works (s : State) (slot : Nat) (cls : List (Option CensusClass)) (sat : Bool) :
    Phase2Works s ((s.setTile slot ((s.tile slot).chunkCounted cls)).noteSat slot .c1 sat) [slot] [] := by
  have frame := (s.setTile_frame slot ((s.tile slot).chunkCounted cls)).trans (State.noteSat_frame _ slot .c1 sat)
  have stored := State.noteSat_tile (s.setTile slot ((s.tile slot).chunkCounted cls)) slot .c1 sat
  rw [State.setTile_tile] at stored
  generalize State.noteSat _ slot .c1 sat = u at frame stored
  obtain ⟨eq, others, pages, -⟩ := frame
  refine ⟨?_, pages, fun q => ?_, fun q out => others q (by simpa using out), nofun⟩
  · rw [eq]
    rfl
  · by_cases here : q = slot
    · subst here
      rw [stored]
      cases sat <;> rfl
    · rw [others q here]

theorem State.chunkCensus_works (s : State) (g : Nat) (o : ChunkOut) :
    Phase2Works s (s.chunkCensus g o) ((s.bind.applied.chunkTiles g).map Prod.snd) [] := by
  unfold State.chunkCensus
  generalize s.bind.applied.chunkTiles g = qs
  induction qs generalizing s with
  | nil => exact .of_counted (.refl s)
  | cons q qs ih =>
    rw [List.foldl_cons, List.map_cons]
    exact (s.tileCensus_works q.2 _ _).trans (ih _)

/-! The journal -/

/-- The slot that a chunk takes lies in the journal (R315, R318). -/
theorem State.takeSlot_le (s : State) (i : Image) (n : Nat) : (s.takeSlot i n).1 ≤ 131071 := by
  unfold State.takeSlot
  dsimp only
  omega

theorem State.takeSlot_counted {s t : State} (h : Counted s t) (i : Image) (n : Nat) :
    (t.takeSlot i n).1 = (s.takeSlot i n).1 := by
  rw [h.eq]
  rfl

theorem journalWord_length (g st : Nat) : (journalWord g st).length = 8 := by simp [journalWord, leBytes_length]

/-- The writes of step 7 of R317. -/
def Image.completeWrites (i : Image) (n g slot : Nat) : List (Nat × List Byte) :=
  [(i.journal slot + 8, journalWord g 2), (i.couch + 0x880000 + g, leBytes 1 (n % 256))]

theorem State.chunkComplete_works {s : State} (clean : s.vats.mem.errs = []) (i : Image) (n g slot : Nat) :
    Phase2Works s (s.chunkComplete i n g slot) [] (i.completeWrites n g slot) := by
  have complete := State.phase2Write_works clean (i.journal slot + 8) (journalWord g 2)
  exact complete.trans (State.phase2Write_works (complete.clean clean) _ _)

/-- After step 7 of R317 the journal entry of the slot is COMPLETE for the chunk. -/
theorem EccMem.completeWrites_entry {m : EccMem} (clean : m.errs = []) {i : Image} {n g slot : Nat} (within : slot ≤ 131071) :
    (m.writes (i.completeWrites n g slot)).read (i.journal slot + 8) 8 = journalWord g 2 := by
  have entry := m.read_write (i.journal slot + 8) (journalWord g 2) clean
  rw [journalWord_length] at entry
  have below : i.journal slot + 8 + 8 ≤ i.couch + 0x880000 + g := by unfold Image.journal; omega
  have last := EccMem.read_write_outside (bs := leBytes 1 (n % 256))
    (m.write_errs (i.journal slot + 8) (journalWord g 2) clean) (.inl below)
  exact last.trans entry

/-- After step 7 of R317 the chunk's done byte is the step's number. -/
theorem EccMem.completeWrites_done {m : EccMem} (clean : m.errs = []) (i : Image) (n g slot : Nat) :
    ((m.writes (i.completeWrites n g slot)).byte (i.couch + 0x880000 + g)).toNat = n % 256 := by
  have done := (m.write (i.journal slot + 8) (journalWord g 2)).read_write (i.couch + 0x880000 + g) (leBytes 1 (n % 256))
    (m.write_errs _ _ clean)
  have byte := (List.cons.inj done).1
  exact (congrArg BitVec.toNat byte).trans (by simp [BitVec.toNat_ofNat])

theorem EccMem.completeWrites_outside {m : EccMem} (clean : m.errs = []) {i : Image} {n g slot a : Nat}
    (entry : a < i.journal slot + 8 ∨ i.journal slot + 16 ≤ a) (done : a ≠ i.couch + 0x880000 + g) :
    (m.writes (i.completeWrites n g slot)).byte a = m.byte a := by
  have last := EccMem.write_outside (m.write (i.journal slot + 8) (journalWord g 2)) (i.couch + 0x880000 + g)
    (leBytes 1 (n % 256)) a (m.write_errs _ _ clean) (by rw [leBytes_length]; omega)
  exact last.trans (m.write_outside _ _ a clean (by rw [journalWord_length]; omega))

/-! The chunk -/

/-- Steps 1 to 6 of R317 in a memory without errors, whose reads only count. -/
def State.updateChunk (s : State) (i : Image) (l : LayerImage) (c n g slot : Nat) (y : LayerSeal) : State :=
  let s := s.phase2Write (i.journal slot + 8) (journalWord g 0)
  let s := (chunkRanges i l c).foldl (fun s r => s.countLines 0x40 r) s
  let out := chunkOut s.vats.mem i l c n y
  let s := (s.chunkCensus g out.2).putPieces (fun o => some (i.couchSlot slot + o)) out.1
  let s := (s.phase2Write (i.journal slot) (leBytes 8 n)).phase2Write (i.journal slot + 8) (journalWord g 1)
  s.putPieces (homeOf (chunkPieces i l c)) out.1

/-- What steps 1 to 6 of R317 write: EMPTY, then the chunk's new state into the slot, WRITTEN, and the same state home. -/
def Image.updateWrites (i : Image) (m : EccMem) (l : LayerImage) (c n g slot : Nat) (y : LayerSeal) : List (Nat × List Byte) :=
  let new := chunkState (m.write (i.journal slot + 8) (journalWord g 0)) i l c n y
  (i.journal slot + 8, journalWord g 0) :: (new.map (fun p => (i.couchSlot slot + p.1, p.2)) ++
    [(i.journal slot, leBytes 8 n), (i.journal slot + 8, journalWord g 1)] ++
    new.flatMap fun p => (((chunkPieces i l c).find? fun h => h.2.1 == p.1).map fun h => (h.1, p.2)).toList)

theorem State.updateChunk_works {s : State} (clean : s.vats.mem.errs = []) (i : Image) (l : LayerImage) (c n g slot : Nat)
    (y : LayerSeal) : Phase2Works s (s.updateChunk i l c n g slot y) ((s.bind.applied.chunkTiles g).map Prod.snd)
      (i.updateWrites s.vats.mem l c n g slot y) := by
  have empty := (State.phase2Write_works clean (i.journal slot + 8) (journalWord g 0)).trans
    (.of_counted (.of_reads _ (chunkRanges i l c)))
  unfold State.updateChunk
  dsimp only
  generalize (chunkRanges i l c).foldl (fun (s : State) r => s.countLines 0x40 r) _ = t at empty ⊢
  have mem : t.vats.mem = s.vats.mem.write (i.journal slot + 8) (journalWord g 0) := empty.mem
  rw [Image.updateWrites, chunkState, ← mem]
  generalize chunkOut t.vats.mem i l c n y = out
  have counted := t.chunkCensus_works g out.2
  rw [empty.bind] at counted
  replace counted := empty.trans counted
  have staged := counted.trans
    (State.putPieces_works (counted.clean clean) (fun o => some (i.couchSlot slot + o)) out.1)
  have named := staged.trans (State.phase2Write_works (staged.clean clean) (i.journal slot) (leBytes 8 n))
  have written := named.trans (State.phase2Write_works (named.clean clean) (i.journal slot + 8) (journalWord g 1))
  have home := written.trans (State.putPieces_works (written.clean clean) (homeOf (chunkPieces i l c)) out.1)
  simpa [homeOf, Function.comp_def, List.map_eq_flatMap] using home

/-- Phase 2 of a chunk in a memory without errors (R317): the steps before the last, unless its layer is skipped, and step 7. -/
theorem State.doChunk_clean {s : State} {i : Image} {x : SealedStep} {g k c : Nat} {l : LayerImage} {y : LayerSeal}
    (clean : s.vats.mem.errs = []) (layer : i.layerOf g = some (k, l, c)) (found : x.layers[k]? = some y) :
    ∃ t, Phase2Works s t [] [] ∧ s.doChunk i x g =
      (if y.skip then t else t.updateChunk i l c x.step g (s.takeSlot i x.step).1 y).chunkComplete i x.step g
        (s.takeSlot i x.step).1 := by
  have drawn : Phase2Works s (s.takeSlot i x.step).2 [] [] := .of_still rfl (.refl s [])
  have read := drawn.trans (.of_counted (.of_reads _ [(i.journal (s.takeSlot i x.step).1, 16)]))
  have issued := read.trans (State.chunkIssues_works _ g x.step)
  refine ⟨_, issued, ?_⟩
  unfold State.doChunk
  rw [layer]
  dsimp only
  rw [found]
  dsimp only
  rw [State.phase2Read_clean (drawn.clean clean)]
  split
  · rfl
  · have empty := State.phase2Write_works (issued.clean clean) (i.journal (s.takeSlot i x.step).1 + 8) (journalWord g 0)
    rw [State.phase2Read_clean (empty.clean (issued.clean clean))]
    rfl

/-- The row of phase 2 takes the first chunk that is not done (R314, R317). -/
theorem exec_phase2Chunk {s : State} {i : Image} {x : SealedStep} {g k c : Nat} {l : LayerImage} {y : LayerSeal}
    (image : s.trainImage = some i) (ph2 : s.train.ph2 = some x) (clean : s.vats.mem.errs = [])
    (next : s.nextChunk i x.step = some g) (layer : i.layerOf g = some (k, l, c)) (found : x.layers[k]? = some y) :
    ∃ t, Phase2Works s t [] [] ∧ exec .phase2Chunk s = .next
      ((if y.skip then t else t.updateChunk i l c x.step g (s.takeSlot i x.step).1 y).chunkComplete i x.step g
        (s.takeSlot i x.step).1) := by
  have counts := Counted.of_reads s [(i.couch + 0x880000, g + 1)]
  have goes : exec .phase2Chunk s =
      .next (([(i.couch + 0x880000, g + 1)].foldl (fun s r => s.countLines 0x40 r) s).doChunk i x g) := by
    change execPhase2Chunk s = _
    unfold execPhase2Chunk
    rw [ph2, image]
    dsimp only
    rw [next]
    dsimp only
    rw [State.phase2Read_clean clean]
  have reads := Phase2Works.of_counted counts
  obtain ⟨t, works, does⟩ := State.doChunk_clean (reads.clean clean) layer found
  rw [State.takeSlot_counted counts] at does
  exact ⟨t, reads.trans works, by rw [goes, does]⟩

/-- The tiles that work on a chunk before step 7 of R317: none of a skipped layer. -/
def Retire.updateTiles (r : Retire) (g : Nat) (y : LayerSeal) : List Nat :=
  if y.skip then [] else (r.chunkTiles g).map Prod.snd

/-- The writes of a chunk before step 7 of R317: none of a skipped layer. -/
def Image.writesBefore (i : Image) (m : EccMem) (l : LayerImage) (c n g slot : Nat) (y : LayerSeal) :
    List (Nat × List Byte) := if y.skip then [] else i.updateWrites m l c n g slot y

/-- The chunk of a skipped layer performs step 7 alone, another one all of R317. -/
theorem Phase2Works.updates {s t : State} (h : Phase2Works s t [] []) (clean : s.vats.mem.errs = []) (i : Image)
    (l : LayerImage) (c n g slot : Nat) (y : LayerSeal) :
    Phase2Works s (if y.skip then t else t.updateChunk i l c n g slot y) (s.bind.applied.updateTiles g y)
      (i.writesBefore s.vats.mem l c n g slot y) := by
  unfold Retire.updateTiles Image.writesBefore
  split
  · exact h
  · have updates := State.updateChunk_works (h.clean clean) i l c n g slot y
    rw [h.bind, h.mem] at updates
    exact h.trans updates

end Sys2Proof.Machine

open Sys2Proof Sys2Proof.Machine

/-- Settles O53: a chunk is its updates, of a layer that is not skipped (`Phase2Works.updates`), and then its completion
(`State.chunkComplete_works`). -/
theorem chunksComplete : Obligations.ChunksComplete := by
  intro s i x g k c l y image ph2 clean next layer found
  obtain ⟨t, before, goes⟩ := exec_phase2Chunk image ph2 clean next layer found
  have within := s.takeSlot_le i x.step
  generalize (s.takeSlot i x.step).1 = slot at goes within ⊢
  have updates := before.updates clean i l c x.step g slot y
  have works := updates.trans (State.chunkComplete_works (updates.clean clean) i x.step g slot)
  generalize State.chunkComplete _ i x.step g slot = u at goes works
  rw [List.append_nil] at works
  have mem := works.mem
  rw [EccMem.writes_append] at mem
  have sound := EccMem.writes_errs clean (i.writesBefore s.vats.mem l c x.step g slot y)
  refine ⟨u, goes, works.pages, ?_, ?_, fun skip => ⟨?_, fun a entry done => ?_⟩, fun skip a => ?_,
    fun q out => works.others q fun updated => ?_, works.tile, ?_⟩
  · rw [mem, EccMem.completeWrites_entry sound within]
  · rw [mem, EccMem.completeWrites_done sound]
  · exact works.still (if_pos skip)
  · rw [mem, EccMem.completeWrites_outside sound entry done, Image.writesBefore, if_pos skip]
    rfl
  · rw [works.mem, Image.writesBefore, skip, if_neg Bool.false_ne_true]
    rfl
  · unfold Retire.updateTiles at updated
    split at updated
    · cases updated
    · exact out updated
  · rw [works.eq]
    exact ⟨rfl, rfl, rfl, rfl⟩
end

section
/-! PROOFS. The SECDED code (R353 to R355): every column of H has odd weight, so the sum of two of them is no column. -/

namespace Sys2Proof.Machine

/-- The low `n` bits of a number hold an odd count of ones. -/
def oddWeight : Nat → Nat → Bool
  | 0, _ => false
  | n + 1, s => s.testBit n ^^ oddWeight n s

theorem oddWeight_xor (n a b : Nat) : oddWeight n (a ^^^ b) = (oddWeight n a ^^ oddWeight n b) := by
  induction n with
  | zero => rfl
  | succ n ih =>
    simp only [oddWeight, Nat.testBit_xor, ih, Bool.xor_assoc, Bool.xor_left_comm]

theorem findFrom_eq_none {α : Type} {p : α → Bool} {l : List α} (h : ∀ a ∈ l, p a = false) (i : Nat) :
    findFrom p l i = none := by
  induction l generalizing i with
  | nil => rfl
  | cons a l ih =>
    rw [findFrom, h a (by simp), if_neg (by decide)]
    exact ih (fun b hb => h b (by simp [hb])) _

/-- A syndrome of even weight other than 0 names no bit (R355). -/
theorem syndrome_even {s : Nat} (nonzero : s ≠ 0) (even : oddWeight 8 s = false) : syndrome s = .uncorrectable := by
  have apart : ∀ a, oddWeight 8 a = true → (s == a) = false := fun a odd => by
    refine beq_eq_false_iff_ne.mpr fun same => ?_
    rw [same, odd] at even
    cases even
  have data : ∀ a ∈ hCols, oddWeight 8 a = true := by decide
  have check : ∀ r ∈ List.range 8, oddWeight 8 (2 ^ r) = true := by decide
  have noData : findFrom (· == s) hCols 0 = none :=
    findFrom_eq_none (fun a ha => by rw [BEq.comm]; exact apart a (data a ha)) 0
  have noCheck : findFrom (fun r => s == 2 ^ r) (List.range 8) 0 = none :=
    findFrom_eq_none (fun r hr => apart _ (check r hr)) 0
  simp only [syndrome, nonzero, if_false, noData, noCheck]

theorem checkByteFrom_xor (hs : List Nat) (a b i : Nat) :
    checkByteFrom hs (a ^^^ b) i = checkByteFrom hs a i ^^^ checkByteFrom hs b i := by
  induction hs generalizing i with
  | nil => simp [checkByteFrom]
  | cons h hs ih =>
    have here : (if (a ^^^ b).testBit i then h else 0) = (if a.testBit i then h else 0) ^^^ (if b.testBit i then h else 0) := by
      rw [Nat.testBit_xor]
      cases a.testBit i <;> cases b.testBit i <;> simp
    rw [checkByteFrom, here, ih, checkByteFrom, checkByteFrom]
    ac_rfl

theorem checkByte_xor (a b : Nat) : checkByte (a ^^^ b) = checkByte a ^^^ checkByte b := checkByteFrom_xor hCols a b 0

theorem two_pow_add_eq_xor {i j : Nat} (h : j < i) : 2 ^ i + 2 ^ j = 2 ^ i ^^^ 2 ^ j := by
  have sum := Nat.two_pow_add_eq_or_of_lt (Nat.pow_lt_pow_right (by decide : 1 < 2) h) 1
  rw [Nat.mul_one] at sum
  rw [sum]
  refine Nat.eq_of_testBit_eq fun k => ?_
  rw [Nat.testBit_or, Nat.testBit_xor, Nat.testBit_two_pow, Nat.testBit_two_pow]
  by_cases hi : i = k
  · simp [hi, show j ≠ k by omega]
  · simp [hi]

/-- The columns of H: one for each data bit and each check bit (R353). -/
def secdedColumns : List Nat := hCols ++ (List.range 8).map (2 ^ ·)

theorem secdedColumns_odd : ∀ a ∈ secdedColumns, oddWeight 8 a = true := by decide

theorem secdedColumns_nodup : secdedColumns.Nodup := by decide

theorem secdedColumns_data : ∀ i, i < 64 → secdedColumns[i]? = some (checkByte (2 ^ i)) := by decide

theorem secdedColumns_check : ∀ i, i < 8 → secdedColumns[64 + i]? = some (2 ^ i) := by decide

/-- Errors in two places of a word are uncorrectable (R355). -/
theorem WordErr.fix_double {e : WordErr} {m n a b : Nat} (ha : secdedColumns[m]? = some a) (hb : secdedColumns[n]? = some b)
    (two : m ≠ n) (sum : e.c ^^^ checkByte e.d = a ^^^ b) : e.fix = (none, false) := by
  have nonzero : a ^^^ b ≠ 0 := fun zero => two
    ((List.getElem?_inj (List.getElem?_eq_some_iff.mp ha).1 secdedColumns_nodup).mp
      (by rw [ha, hb, Nat.xor_eq_zero_iff.mp zero]))
  have even : oddWeight 8 (a ^^^ b) = false := by
    rw [oddWeight_xor, secdedColumns_odd a (List.mem_of_getElem? ha), secdedColumns_odd b (List.mem_of_getElem? hb)]
    rfl
  simp only [WordErr.fix, sum, syndrome_even nonzero even]

/-- The syndrome of an error in one data bit names it (R355). -/
theorem syndrome_data : ∀ i, i < 64 → syndrome (checkByte (2 ^ i)) = .dataBit i := by decide

/-- The syndrome of an error in one check bit names it (R355). -/
theorem syndrome_check : ∀ i, i < 8 → syndrome (2 ^ i) = .checkBit i := by decide

end Sys2Proof.Machine

open Sys2Proof Sys2Proof.Machine

/-- Settles O47: a single error's syndrome is its column of H, and that of a double error is the sum of two columns
(`WordErr.fix_double`). -/
theorem secdedCorrects : Obligations.SecdedCorrects := by
  have zero : checkByte 0 = 0 := by decide
  refine ⟨fun i hi => ?_, fun i hi => ?_, fun i j hi hj => ?_, fun i j hi hj => ?_, fun i j hi hj => ?_, fun r => ?_⟩
  · simp only [WordErr.fix, Nat.zero_xor, syndrome_data i hi, Nat.xor_self]
  · simp only [WordErr.fix, zero, Nat.xor_zero, syndrome_check i hi]
  · refine WordErr.fix_double (secdedColumns_data i hi) (secdedColumns_data j (hj.trans hi)) hj.ne' ?_
    rw [two_pow_add_eq_xor hj, checkByte_xor, Nat.zero_xor]
  · exact WordErr.fix_double (secdedColumns_check j hj) (secdedColumns_data i hi) (by omega) rfl
  · refine WordErr.fix_double (secdedColumns_check i hi) (secdedColumns_check j (hj.trans hi)) (by omega) ?_
    rw [zero, Nat.xor_zero, two_pow_add_eq_xor hj]
  · have clean : syndrome 0 = .clean := rfl
    simp only [WordErr.fix, zero, Nat.zero_xor, clean]
end

section
/-! PROOFS. Register writes of a port that the module hears, while it is ready and no tamper scrub runs (R426, R432, R436). -/

namespace Sys2Proof.Machine

section
variable {s : State} {p : HPort} {off k o : Nat}

/-- The rule of a word of an existing page of a ready module is its page's (R428, R432). -/
theorem State.writeRule_page (ready : s.ident.ready = true) (calm : s.sec.scrubBusy = false) (page : pageExists k = true)
    (hk : off / 0x1000 = k) (ho : off % 0x1000 = o) : s.writeRule p off = s.pageRule p k o := by
  have pages := (pageExists_iff k).mp page
  have own : ¬ ((0xF0000 ≤ off ∧ off < 0xF0400) ∨ off = 0xF1000 ∨ off = 0xF1004) := by omega
  simp only [State.writeRule, calm, hk, ho, own, State.answers_of_ready ready page, Bool.false_and, Bool.not_true,
    Bool.false_eq_true, if_false]

/-- A port may write what is open to it, and the lease holder what is its own (R432). -/
def State.mayPut (s : State) (p : HPort) (k o : Nat) : Prop :=
  s.pageRule p k o = .allowed ∨ (s.pageRule p k o = .holder ∧ s.lease.owner = p.num + 1)

theorem State.tryWord_mayPut (ready : s.ident.ready = true) (calm : s.sec.scrubBusy = false) (page : pageExists k = true)
    (hk : off / 0x1000 = k) (ho : off % 0x1000 = o) (may : s.mayPut p k o) (v same : W32) :
    s.tryWord p off v same = (s.putWord p off v same, false) := by
  have rule := State.writeRule_page (p := p) ready calm page hk ho
  unfold State.tryWord State.mayWrite State.dropsWrite
  rw [rule]
  obtain allowed | ⟨holder, owner⟩ := may
  · rw [allowed]
    rfl
  · rw [holder, owner]
    simp

/-- A write of a word that is open to the port takes effect (R426, R432). -/
theorem State.writeReg_mayPut (reach : s.reaches p = true) (ready : s.ident.ready = true) (calm : s.sec.scrubBusy = false)
    (page : pageExists k = true) (hk : off / 0x1000 = k) (ho : off % 0x1000 = o) (access : accessOk off 4 = true)
    (may : s.mayPut p k o) (v : W64) : s.writeReg p off 4 v = s.putWord p off (v.extractLsb' 0 32) 0 := by
  simp only [State.writeReg, access, reach, State.tryWord_mayPut ready calm page hk ho may, Bool.not_true, Bool.or_self,
    Bool.false_eq_true, if_false, if_true]

/-- A write of the lease holder's register by the other port is dropped (R432). -/
theorem State.writeReg_drops (reach : s.reaches p = true) (ready : s.ident.ready = true) (calm : s.sec.scrubBusy = false)
    (page : pageExists k = true) (hk : off / 0x1000 = k) (ho : off % 0x1000 = o) (access : accessOk off 4 = true)
    (rule : s.pageRule p k o = .holder) (owner : s.lease.owner ≠ p.num + 1) (v : W64) :
    s.writeReg p off 4 v = s.recordFault (pgCmd p) fLEASE_NOT_HELD off := by
  have rule := (State.writeRule_page (p := p) ready calm page hk ho).trans rule
  simp [State.writeReg, access, reach, State.tryWord, State.mayWrite, State.dropsWrite, rule, owner]

/-- The effect of a write of a block-specific register on the page of a unit that is not lost (R427). -/
theorem State.putWord_block (page : pageExists k = true) (hk : off / 0x1000 = k) (ho : off % 0x1000 = o) (block : 0x80 ≤ o)
    (there : (s.page k).lost = false) (v same : W32) : s.putWord p off v same = s.putBlock p k o v := by
  have pages := (pageExists_iff k).mp page
  simp (disch := omega) only [State.putWord, hk, ho, there, if_neg, Bool.false_eq_true, if_false]

end

/-- The low word of a 32-bit register's value. -/
theorem extractLsb'_setWidth (v : W32) : (v.setWidth 64).extractLsb' 0 32 = v := by
  ext i hi
  simp [show i < 64 by omega, BitVec.getLsbD_eq_getElem hi]

/-- The rule of the selection of a selectable site (R357, R364). -/
theorem State.pageRule_chkSel {f : Nat} (s : State) (p : HPort) (hf : f ∈ selectableSites) :
    s.pageRule p (0x200 + f) 0x100 = .holder := by
  have rule : ∀ f ∈ selectableSites, blockRule (0x200 + f) 0x100 = .holder := by decide
  simp (disch := omega) only [State.pageRule, if_neg, rule f hf]

theorem selectableSites_lt {f : Nat} (hf : f ∈ selectableSites) : f < 48 := by
  have small : ∀ f ∈ selectableSites, f < 48 := by decide
  exact small f hf

/-! The staging and table registers of a command page (R436) -/

/-- The two halves of a word, in order, are the word. -/
theorem append_halves (v : W64) : (v.extractLsb' 32 32 ++ v.extractLsb' 0 32 : BitVec (32 + 32)) = v := by
  refine BitVec.eq_of_toNat_eq ?_
  have bound := v.isLt
  rw [BitVec.toNat_append, BitVec.extractLsb'_toNat, BitVec.extractLsb'_toNat, ← Nat.shiftLeft_add_eq_or_of_lt (by omega)]
  simp only [Nat.shiftRight_eq_div_pow, Nat.shiftLeft_eq]
  omega

theorem extractLsb'_append_low (x y : W32) : (x ++ y : BitVec (32 + 32)).extractLsb' 0 32 = y := by
  rw [BitVec.extractLsb'_append_eq_of_add_le (by omega)]
  exact BitVec.extractLsb'_eq_self

/-- The two halves of a register, written one after the other, give its value. -/
theorem setHalf_both {o : Nat} (x : W64) (aligned : o % 8 = 0) (v : W64) :
    setHalf (setHalf x o (v.extractLsb' 0 32)) (o + 4) (v.extractLsb' 32 32) = v := by
  have upper : ¬ (o + 4) % 8 = 0 := by omega
  rw [setHalf, if_neg upper, setHalf, if_pos aligned, extractLsb'_append_low]
  exact append_halves v

theorem argOf_setArg (a : CmdArgs) (i : Nat) (x : W64) : argOf (setArg a i x) i = x := by
  match i with
  | 0 | 1 | 2 | 3 | 4 | 5 | 6 | _ + 7 => rfl

theorem setArg_setArg (a : CmdArgs) (i : Nat) (x y : W64) : setArg (setArg a i x) i y = setArg a i y := by
  match i with
  | 0 | 1 | 2 | 3 | 4 | 5 | 6 | _ + 7 => rfl

/-- The eight arguments of a command (R436). -/
theorem CmdPage.put_arg (c : CmdPage) {i : Nat} (hi : i < 8) (v : W64) :
    (c.put (0x108 + 8 * i) (v.extractLsb' 0 32)).put (0x108 + 8 * i + 4) (v.extractLsb' 32 32) =
      { c with args := setArg c.args i v } := by
  have low : (0x108 + 8 * i - 0x108) / 8 = i := by rw [Nat.add_sub_cancel_left, Nat.mul_div_cancel_left i (by omega)]
  have high : (0x108 + 8 * i + 4 - 0x108) / 8 = i := by rw [Nat.add_assoc, Nat.add_sub_cancel_left]; omega
  simp (disch := omega) only [CmdPage.put, if_neg, if_pos, low, high, argOf_setArg, setArg_setArg, setHalf_both]

theorem QTab.put_base (t : QTab) (v : W64) :
    (t.put 0 (v.extractLsb' 0 32)).put 4 (v.extractLsb' 32 32) = { t with base := v } := by
  have h := setHalf_both (o := 0) t.base rfl v
  simp_all [QTab.put]

theorem QTab.put_fill (t : QTab) (v : W64) :
    (t.put 0x10 (v.extractLsb' 0 32)).put 0x14 (v.extractLsb' 32 32) = { t with fill := v } := by
  have h := setHalf_both (o := 0x10) t.fill rfl v
  simp_all [QTab.put]

theorem QTab.put_done (t : QTab) (v : W64) :
    (t.put 0x18 (v.extractLsb' 0 32)).put 0x1C (v.extractLsb' 32 32) = { t with done := v } := by
  have h := setHalf_both (o := 0x18) t.done rfl v
  simp_all [QTab.put]

theorem CmdPage.put_feedBase (c : CmdPage) (v : W64) :
    (c.put 0x180 (v.extractLsb' 0 32)).put 0x184 (v.extractLsb' 32 32) = { c with feedBase := v } := by
  have h := setHalf_both (o := 0x180) c.feedBase rfl v
  simp_all [CmdPage.put]

theorem CmdPage.put_feedFill (c : CmdPage) (v : W64) :
    (c.put 0x190 (v.extractLsb' 0 32)).put 0x194 (v.extractLsb' 32 32) = { c with feedFill := v } := by
  have h := setHalf_both (o := 0x190) c.feedFill rfl v
  simp_all [CmdPage.put]

/-- The registers of a command page that a write stages a value in: all but CMD_GO and CMD_ABORT (R436). -/
def staged (o : Nat) : Bool := stagingReg o && o != 0x148 && o != 0x150

theorem staged_spec {o : Nat} (h : staged o = true) :
    stagingReg o = true ∧ o ≠ 0x148 ∧ o ≠ 0x150 ∧ 0x100 ≤ o ∧ o < 0x200 := by
  simp [staged, stagingReg] at h ⊢
  omega

theorem modCmd_modCmd (s : State) (p : HPort) (f g : CmdPage → CmdPage) :
    (s.modCmd p f).modCmd p g = s.modCmd p fun c => g (f c) := by cases p <;> rfl

section
variable {s : State} {p : HPort} {o : Nat}

/-- A staging register is open to its own port (R432). -/
theorem State.mayPut_staged (h : staged o = true) : s.mayPut p (pgCmd p) o := by
  obtain ⟨reg, -⟩ := staged_spec h
  have own : pgCmd p = 1 ∨ pgCmd p = 2 := by cases p <;> decide
  exact .inl (by simp [State.pageRule, own, reg])

theorem State.putWord_staged (there : (s.page (pgCmd p)).lost = false) (h : staged o = true) {off : Nat}
    (hk : off / 0x1000 = pgCmd p) (ho : off % 0x1000 = o) (v same : W32) :
    s.putWord p off v same = s.modCmd p (·.put o v) := by
  obtain ⟨-, go, abort, low, high⟩ := staged_spec h
  have own : pgCmd p = 1 ∨ pgCmd p = 2 := by cases p <;> decide
  have page : pageExists (pgCmd p) = true := by cases p <;> decide
  rw [State.putWord_block page hk ho (by omega) there]
  simp only [State.putBlock, own, abort, go, if_true, if_false]

variable (reach : s.reaches p = true) (ready : s.ident.ready = true) (calm : s.sec.scrubBusy = false)
  (there : (s.page (pgCmd p)).lost = false)
include reach ready calm there

/-- A 4-byte write of a staging register (R436). -/
theorem exec_stage4 (h : staged o = true) (aligned : o % 4 = 0) (v : W64) {c : CmdPage}
    (hc : (s.port p).cmd.put o (v.extractLsb' 0 32) = c) :
    exec (.registerWrite p (0x1000 + 0x1000 * p.num + o) 4 v) s = .next (s.setPort p { s.port p with cmd := c }) := by
  obtain ⟨-, -, -, low, high⟩ := staged_spec h
  have num : p.num < 2 := by cases p <;> decide
  have hk : (0x1000 + 0x1000 * p.num + o) / 0x1000 = pgCmd p := by unfold pgCmd; omega
  have ho : (0x1000 + 0x1000 * p.num + o) % 0x1000 = o := by omega
  have page : pageExists (pgCmd p) = true := by cases p <;> decide
  have access : accessOk (0x1000 + 0x1000 * p.num + o) 4 = true := by simp [accessOk]; omega
  show Host.Outcome.next (s.writeReg p _ 4 v) = _
  rw [State.writeReg_mayPut reach ready calm page hk ho access (State.mayPut_staged h), State.putWord_staged there h hk ho,
    State.modCmd, hc]

/-- An 8-byte write of a staging register: its two words, the lower first (R426, R436). -/
theorem exec_stage8 (h : staged o = true) (h' : staged (o + 4) = true) (aligned : o % 8 = 0) (v : W64) {c : CmdPage}
    (hc : ((s.port p).cmd.put o (v.extractLsb' 0 32)).put (o + 4) (v.extractLsb' 32 32) = c) :
    exec (.registerWrite p (0x1000 + 0x1000 * p.num + o) 8 v) s = .next (s.setPort p { s.port p with cmd := c }) := by
  obtain ⟨-, -, -, low, high⟩ := staged_spec h
  have num : p.num < 2 := by cases p <;> decide
  have hk : (0x1000 + 0x1000 * p.num + o) / 0x1000 = pgCmd p := by unfold pgCmd; omega
  have ho : (0x1000 + 0x1000 * p.num + o) % 0x1000 = o := by omega
  have hk' : (0x1000 + 0x1000 * p.num + o + 4) / 0x1000 = pgCmd p := by unfold pgCmd; omega
  have ho' : (0x1000 + 0x1000 * p.num + o + 4) % 0x1000 = o + 4 := by omega
  have page : pageExists (pgCmd p) = true := by cases p <;> decide
  have access : accessOk (0x1000 + 0x1000 * p.num + o) 8 = true := by simp [accessOk]; omega
  have first := State.tryWord_mayPut ready calm page hk ho (State.mayPut_staged h) (v.extractLsb' 0 32) 0
  rw [State.putWord_staged there h hk ho] at first
  have there' : ((s.modCmd p (·.put o (v.extractLsb' 0 32))).page (pgCmd p)).lost = false := by
    rw [State.modCmd_page]
    exact there
  have second := State.tryWord_mayPut (s := s.modCmd p (·.put o (v.extractLsb' 0 32))) (by simpa using ready)
    (by simpa using calm) page hk' ho' (State.mayPut_staged h') (v.extractLsb' 32 32) 0
  rw [State.putWord_staged there' h' hk' ho', modCmd_modCmd] at second
  have both : s.writeReg p (0x1000 + 0x1000 * p.num + o) 8 v =
      s.modCmd p fun c => (c.put o (v.extractLsb' 0 32)).put (o + 4) (v.extractLsb' 32 32) := by
    simp only [State.writeReg, access, reach, first, second, State.recordFaults, Bool.not_true, Bool.or_self,
      Bool.false_eq_true, if_false, show ¬ (8 = 4) by decide, Bool.false_and, List.append_nil]
  show Host.Outcome.next (s.writeReg p _ 8 v) = _
  rw [both, State.modCmd, hc]

/-- The four registers of a query table, which the page holds at `a` (R436). -/
theorem exec_stageTable {a : Nat} {k : QTab → CmdPage} {q : QTab} (v : W64)
    (regs : ∀ (t : QTab) (o : Nat) (x : W32), o < 0x20 → (k t).put (a + o) x = k (t.put o x)) (hq : (s.port p).cmd = k q)
    (at_ : a ∈ [0x1A0, 0x1C0, 0x1E0]) :
    ∀ r ∈ [(a, 8, k { q with base := v }), (a + 8, 4, k { q with count := v.extractLsb' 0 32 }),
        (a + 0x10, 8, k { q with fill := v }), (a + 0x18, 8, k { q with done := v })],
      exec (.registerWrite p (0x1000 + 0x1000 * p.num + r.1) r.2.1 v) s =
        .next (s.setPort p { s.port p with cmd := r.2.2 }) := by
  have stages : ∀ a ∈ [0x1A0, 0x1C0, 0x1E0], ∀ o ∈ [0, 4, 8, 0x10, 0x14, 0x18, 0x1C],
      staged (a + o) = true ∧ (a + o) % 4 = o % 4 ∧ (a + o) % 8 = o % 8 := by decide
  have at_o := stages a at_
  have double : ∀ {o : Nat} {t : QTab}, o ∈ [0, 4, 8, 0x10, 0x14, 0x18, 0x1C] → o + 4 ∈ [0, 4, 8, 0x10, 0x14, 0x18, 0x1C] →
      o % 8 = 0 → o + 4 < 0x20 → (q.put o (v.extractLsb' 0 32)).put (o + 4) (v.extractLsb' 32 32) = t →
      exec (.registerWrite p (0x1000 + 0x1000 * p.num + (a + o)) 8 v) s =
        .next (s.setPort p { s.port p with cmd := k t }) := by
    intro o t ho ho' aligned inside ht
    refine exec_stage8 reach ready calm there (at_o o ho).1 ?_ ((at_o o ho).2.2.trans aligned) v ?_
    · rw [Nat.add_assoc]
      exact (at_o _ ho').1
    · rw [hq, regs _ _ _ (by omega), Nat.add_assoc, regs _ _ _ inside, ht]
  simp only [List.forall_mem_cons, List.not_mem_nil, false_imp_iff, implies_true, and_true]
  refine ⟨double (o := 0) (by decide) (by decide) rfl (by decide) (q.put_base v), ?_,
    double (o := 0x10) (by decide) (by decide) rfl (by decide) (q.put_fill v),
    double (o := 0x18) (by decide) (by decide) rfl (by decide) (q.put_done v)⟩
  obtain ⟨stage, aligned, -⟩ := at_o 8 (by decide)
  exact exec_stage4 reach ready calm there stage aligned v (by rw [hq, regs _ _ _ (by decide)]; rfl)

end

/-! Event registers that software writes (R447) -/

theorem HostPort.drop_keeps (h : HostPort) (v : Nat) : PortKeeps h (h.drop v) := rfl

/-- A held message that is dropped changes the ports' PBA alone (R447). -/
theorem State.dropGroup_only (s : State) (g : Nat) : OnlyEvents s (s.dropGroup g) [] := by
  unfold State.dropGroup
  split
  · exact ⟨⟨HostPort.drop_keeps _ _, .refl _, .refl s []⟩, rfl⟩
  · split
    · exact ⟨⟨.refl _, HostPort.drop_keeps _ _, .refl s []⟩, rfl⟩
    · exact ⟨⟨HostPort.drop_keeps _ _, HostPort.drop_keeps _ _, .refl s []⟩, rfl⟩

/-- The pages after software writes an event register of a unit that is not lost. -/
theorem State.writeEvt_pages {s : State} {k : Nat} (there : (s.page k).lost = false) (f : Page → Page) :
    (s.writeEvt k f).pages = sput {} s.pages k (f (s.page k)) := by
  simp only [State.writeEvt, there, Bool.false_eq_true, if_false]
  split
  · exact State.sendGroup_pages _ _
  · exact State.dropGroup_pages _ _

/-- Software that writes an event register changes that page and the messages alone (R447). -/
theorem State.writeEvt_only (s : State) (k : Nat) (f : Page → Page) : OnlyEvents s (s.writeEvt k f) [k] := by
  by_cases there : (s.page k).lost = true
  · simp only [State.writeEvt, there, if_true]
    exact .refl s [k]
  · generalize ht : ({ s with pages := sput {} s.pages k (f (s.page k)) } : State) = t
    have written : OnlyEvents s t [k] := by
      subst ht
      refine ⟨⟨.refl _, .refl _, fun j hj => ?_⟩, rfl⟩
      have other : j ≠ k := by simpa using hj
      simp [State.page, other]
    have sent : OnlyEvents t (t.sendGroup (pageGroup k)) [] :=
      ⟨⟨t.sendGroup_h0 _, t.sendGroup_h1 _, fun j _ => by rw [t.sendGroup_page]⟩,
        (t.sendGroup_eq _).trans (by rw [State.sendGroup_pages])⟩
    have either : s.writeEvt k f = if groupPending t.pages (pageGroup k) then t.sendGroup (pageGroup k)
        else t.dropGroup (pageGroup k) := by
      have pages : t.pages = sput {} s.pages k (f (s.page k)) := by rw [← ht]
      simp only [State.writeEvt, there, ht, pages, Bool.false_eq_true, if_false]
    rw [either]
    split
    · exact written.trans (sent.mono (by simp))
    · exact written.trans ((t.dropGroup_only _).mono (by simp))

/-- The write of an event enable by a port that may write it (R432, R447). -/
theorem exec_evtEn {s : State} {p : HPort} {k : Nat} (reach : s.reaches p = true) (ready : s.ident.ready = true)
    (calm : s.sec.scrubBusy = false) (hk : k < 10) (there : (s.page k).lost = false) (may : s.mayPut p k 0x14) (v : W32) :
    exec (.registerWrite p (0x1000 * k + 0x14) 4 (v.setWidth 64)) s =
      .next (s.writeEvt k fun g => { g with evt := g.evt ||| 0, evtEn := v }) := by
  have page : pageExists k = true := (pageExists_iff k).mpr (.inl hk)
  have quot : (0x1000 * k + 0x14) / 0x1000 = k := by omega
  have rem : (0x1000 * k + 0x14) % 0x1000 = 0x14 := by omega
  have access : accessOk (0x1000 * k + 0x14) 4 = true := by simp [accessOk]; omega
  have word : ∀ w, s.putWord p (0x1000 * k + 0x14) w 0 = s.writeEvt k fun g => { g with evt := g.evt ||| 0, evtEn := w } := by
    intro w
    simp (disch := omega) only [State.putWord, quot, rem, there, if_neg, if_true, Bool.false_eq_true, if_false]
  show Host.Outcome.next (s.writeReg p _ 4 _) = _
  rw [State.writeReg_mayPut reach ready calm page quot rem access may, word, extractLsb'_setWidth]

/-- The lease holder may write the event enables of every page but the other port's command page (R432). -/
theorem State.mayPut_evtEn {s : State} {p : HPort} {k : Nat} (owner : s.lease.owner = p.num + 1) (other : k ≠ pgCmd p.other) :
    s.mayPut p k 0x14 := by
  by_cases cmd : k = 1 ∨ k = 2
  · have own : k = pgCmd p := by
      cases p <;> simp [pgCmd, HPort.num, HPort.other] at other ⊢ <;> omega
    exact .inl (by simp [State.pageRule, cmd, ← own])
  · by_cases free : k = 0 ∨ k = 3
    · exact .inl (by simp [State.pageRule, cmd, free])
    · exact .inr ⟨by simp [State.pageRule, cmd, free], owner⟩

/-- LATENCY_TOLERANCE changes the tolerance, and may begin a wake (R469, R470). -/
theorem State.setTolerance_eq {s : State} (ready : s.ident.ready = true) (v : W32) :
    s.setTolerance v = { s with power := { s.power with tolerance := v, waking := (s.setTolerance v).power.waking } } := by
  simp only [State.setTolerance, ready, Bool.not_true, Bool.false_eq_true, if_false]
  split
  · unfold State.wake
    split <;> rfl
  · rfl

end Sys2Proof.Machine

open Sys2Proof Sys2Proof.Machine

/-- Settles O17: each register is open to the port or the lease holder's alone, so a write takes its effect
(`State.writeReg_mayPut`, `exec_stage8`) or is dropped with the fault (`State.writeReg_drops`). -/
theorem registerWrites : Obligations.RegisterWrites := by
  refine ⟨fun s p v f reach ready calm owner hf => ?_, fun s p v f reach ready calm there => ⟨fun owner => ?_, ?_⟩,
    fun s p v reach ready calm there => ?_⟩
  · have small := selectableSites_lt hf
    have drops : ∀ {off k o : Nat} {i : Instr} {w : W64}, exec i s = .next (s.writeReg p off 4 w) → pageExists k = true →
        off / 0x1000 = k → off % 0x1000 = o → accessOk off 4 = true → s.pageRule p k o = .holder →
        ∃ u, exec i s = .next u ∧ OnlyEvents s u [pgCmd p] ∧ FaultOn s u (pgCmd p) fLEASE_NOT_HELD off :=
      fun goes page hk ho access rule => ⟨_, goes, by
        rw [State.writeReg_drops reach ready calm page hk ho access rule owner]
        exact ⟨State.recordFault_only _ _ _ _, State.recordFault_on _ _ _ _⟩⟩
    simp only [List.forall_mem_cons, List.not_mem_nil, false_imp_iff, implies_true, and_true]
    refine ⟨?_, ?_, ?_, ?_, ?_⟩
    · exact drops (k := 4) (o := 0x100) rfl rfl rfl rfl rfl rfl
    · exact drops (k := 7) (o := 0x100) rfl rfl rfl rfl rfl rfl
    · refine drops (k := 0x200 + f) (o := 0x100) (w := v.setWidth 64) ?_ ((pageExists_iff _).mpr (by omega))
        (by omega) (by omega)
        (by simp [accessOk]; omega) (s.pageRule_chkSel p hf)
      show execChkSel p f v s = _
      simp [execChkSel, fieldOk, small, State.writeReg32]
    · exact drops (k := 7) (o := 0x104) rfl rfl rfl rfl rfl rfl
    · exact drops (k := 9) (o := 0x10) rfl rfl rfl rfl rfl rfl
  · have writes : ∀ {off k o : Nat} {i : Instr}, exec i s = .next (s.writeReg p off 4 (v.setWidth 64)) → pageExists k = true →
        off / 0x1000 = k → off % 0x1000 = o → accessOk off 4 = true → s.pageRule p k o = .holder → 0x80 ≤ o →
        (s.page k).lost = false → exec i s = .next (s.putBlock p k o v) :=
      fun goes page hk ho access rule block here => by
        rw [goes, State.writeReg_mayPut reach ready calm page hk ho access (.inr ⟨rule, owner⟩), extractLsb'_setWidth,
          State.putWord_block page hk ho block here]
    have reader := writes (k := 7) (o := 0x100) (i := .dumpPeriod p v) rfl rfl rfl rfl rfl rfl (by decide)
      (there 7 (by decide))
    refine ⟨⟨_, writes (k := 4) (o := 0x100) rfl rfl rfl rfl rfl rfl (by decide) (there 4 (by decide)), ?_⟩, fun small => ?_,
      fun great => ?_, fun k hk other => ?_, ?_, fun hf here => ⟨fun valid => ?_, fun invalid => ?_⟩⟩
    · exact State.setTolerance_eq ready v
    · rw [reader]
      simp [State.putBlock, CtrReader.put, small]
    · rw [reader]
      simp [State.putBlock, CtrReader.put, show ¬ v.toNat ≤ 10000 by omega]
    · refine ⟨_, exec_evtEn reach ready calm hk (there k hk) (State.mayPut_evtEn owner other) v, State.writeEvt_only _ _ _,
        fun j hj => ?_, ?_⟩
      · simp [State.page, State.writeEvt_pages (there k hk), hj]
      · simp [State.page, State.writeEvt_pages (there k hk)]
    · rw [writes (k := 7) (o := 0x104) rfl rfl rfl rfl rfl rfl (by decide) (there 7 (by decide))]
      rfl
    all_goals
      have small := selectableSites_lt hf
      have goes : exec (.chkSel p f v) s = .next (s.writeReg p (0x200100 + 0x1000 * f) 4 (v.setWidth 64)) := by
        show execChkSel p f v s = _
        simp [execChkSel, fieldOk, small, State.writeReg32]
      have site := writes (k := 0x200 + f) (o := 0x100) goes ((pageExists_iff _).mpr (by omega)) (by omega) (by omega)
        (by simp [accessOk]; omega) (s.pageRule_chkSel p hf) (by decide) here
      have block : s.putBlock p (0x200 + f) 0x100 v =
          if v.toNat % 4 = 3 then s else s.setSite f { s.site f with chkSel := v.toNat % 4 } := by
        simp (disch := omega) only [State.putBlock, if_neg, if_pos, Nat.add_sub_cancel_left]
      rw [site, block]
    · rw [if_neg valid]
      exact ⟨_, rfl, rfl, State.setSite_site _ _ _, fun g hg => State.setSite_site_ne _ _ _ _ hg⟩
    · rw [if_pos invalid]
  · have here : (s.page (pgCmd p)).lost = false := there _ (by cases p <;> decide)
    have offset : 0x1100 + 0x1000 * p.num = 0x1000 + 0x1000 * p.num + 0x100 := by omega
    rw [offset]
    refine ⟨_, exec_stage4 reach ready calm here rfl rfl _ rfl, s.setPort_eq _ _, ?_, ?_⟩
    · exact State.setPort_port_ne _ _ _ _ (by cases p <;> decide)
    · rw [State.setPort_port, extractLsb'_setWidth]
      rfl
  · have four := fun {o c} (h : staged o = true) (aligned : o % 4 = 0) (hc : _ = c) =>
      exec_stage4 reach ready calm there h aligned v hc
    have eight := fun {o c} (h : staged o = true) (h' : staged (o + 4) = true) (aligned : o % 8 = 0) (hc : _ = c) =>
      exec_stage8 reach ready calm there h h' aligned v hc
    have arg := fun {i : Nat} (hi : i < 8) => CmdPage.put_arg (s.port p).cmd hi v
    intro c lo tab
    rw [List.forall_mem_append, List.forall_mem_append, List.forall_mem_append]
    refine ⟨⟨⟨?_, ?_⟩, ?_⟩, ?_⟩
    · simp only [List.forall_mem_cons, List.not_mem_nil, false_imp_iff, implies_true, and_true]
      refine ⟨four rfl rfl rfl, eight rfl rfl rfl (arg (i := 0) ?_), eight rfl rfl rfl (arg (i := 1) ?_),
        eight rfl rfl rfl (arg (i := 2) ?_), eight rfl rfl rfl (arg (i := 3) ?_), eight rfl rfl rfl (arg (i := 4) ?_),
        eight rfl rfl rfl (arg (i := 5) ?_), eight rfl rfl rfl (arg (i := 6) ?_), eight rfl rfl rfl (arg (i := 7) ?_),
        eight rfl rfl rfl (c.put_feedBase v), four rfl rfl rfl, eight rfl rfl rfl (c.put_feedFill v)⟩ <;> decide
    · refine exec_stageTable (a := 0x1A0) (k := fun t => { c with q1 := t }) (q := c.q1) reach ready calm there v
        (fun t o x ho => ?_) rfl (by decide)
      simp (disch := omega) only [CmdPage.put, if_neg, if_pos, Nat.add_sub_cancel_left]
    · refine exec_stageTable (a := 0x1C0) (k := fun t => { c with q2 := t }) (q := c.q2) reach ready calm there v
        (fun t o x ho => ?_) rfl (by decide)
      simp (disch := omega) only [CmdPage.put, if_neg, if_pos, Nat.add_sub_cancel_left]
    · refine exec_stageTable (a := 0x1E0) (k := fun t => { c with q3 := t }) (q := c.q3) reach ready calm there v
        (fun t o x ho => ?_) rfl (by decide)
      simp (disch := omega) only [CmdPage.put, if_neg, Nat.add_sub_cancel_left]
end

section
/-! PROOFS. The abort of the running command, by what the command has done so far (R432, R439). -/

namespace Sys2Proof.Machine

/-- The end of a command: its results on its port's command page, DONE, and the pages that stay (R436, R438). -/
theorem State.endWith_results {s : State} {r : Running} (hr : s.run = some r) (status r0 r1 : Nat) :
    let u := s.endWith status r0 r1
    (u.port r.port).cmd = { (s.port r.port).cmd with
      resOp := r.op, status := status, ret0 := BitVec.ofNat 64 r0, ret1 := BitVec.ofNat 64 r1, ret2 := 0, ret3 := 0 } ∧
    PagesKeep s u [pgCmd r.port] ∧
    ((s.page (pgCmd r.port)).lost = false → (u.page (pgCmd r.port)).evt.getLsbD 1 = true) ∧
    u = { s with h0 := u.h0, h1 := u.h1, pages := u.pages, fields := u.fields, run := none, train := s.train.idle } := by
  obtain ⟨⟨⟨h0, h1, pages⟩, -⟩, done, -⟩ := endWith_ended r hr status r0 r1
  have train := s.endWith_train status r0 r1
  have eq := s.endWith_eq status r0 r1
  rw [hr, Option.isSome_some, if_pos rfl] at train
  intro u
  refine ⟨?_, fun k hk => ?_, fun lost => ?_, by rw [← train]; exact eq⟩
  · cases hp : r.port <;> rw [hp] at h0 h1
    · exact h0.cmd
    · exact h1.cmd
  · rw [show u.page k = _ from pages k hk, State.modCmd_page]
    rfl
  · rw [show (u.page _).evt = _ from done lost]
    simp

/-- A command without fields of its own leaves the fields as they are (R468). -/
theorem State.endWith_fields {s : State} {r : Running} (hr : s.run = some r) (h4 : r.op ≠ 4) (h5 : r.op ≠ 5)
    (status r0 r1 : Nat) :
    (s.endWith status r0 r1).fields = s.fields :=
  (endWith_ended r hr status r0 r1).2.2.1 h4 h5

theorem State.endService_query (s : State) (q : Nat) : s.endService.query q = { s.query q with served := false } :=
  sget_map ({} : QSlot) s.queries q (f := fun x => { x with served := false }) rfl

/-- What the ports that send LEAVE, and go down when their counter has run out, leave (R382, R414). -/
theorem State.sendLeave_sends (s : State) (reason : Nat) :
    let u := s.sendLeave reason
    u = { s with twin := u.twin, h0 := u.h0, h1 := u.h1, pages := u.pages } ∧
    ∃ ms : List SentMsg, ms.map (fun m => (m.port, m.type)) = s.twin.upPorts.map (fun q => (q, 3)) ∧
      u.twin = { s.twin with ports := u.twin.ports, sent := s.twin.sent ++ ms } := by
  obtain ⟨eq, -, ⟨ms, map, sent⟩, -⟩ := foldl_sendAlive s.twin.upPorts s s.twin.upPorts_nodup 3 (leBytes 2 reason)
  unfold State.sendLeave State.sendAliveAll
  generalize s.twin.upPorts.foldl (fun s p => s.sendAlive p 3 (leBytes 2 reason)) s = v at eq sent
  have offs : ∀ l : List Nat,
      let u := l.foldl (fun s p => if s.twin.runOut p then s.portOff p false else s) v
      u = { v with twin := { v.twin with ports := u.twin.ports }, h0 := u.h0, h1 := u.h1, pages := u.pages } := by
    refine fun l => List.foldlRecOn (motive := fun u : State => u = { v with
      twin := { v.twin with ports := u.twin.ports }, h0 := u.h0, h1 := u.h1, pages := u.pages }) l _ rfl fun t ht p _ => ?_
    split
    · rw [(t.portOff_spec p).1, ht]
    · exact ht
  have off := offs (List.range 4)
  generalize (List.range 4).foldl (fun s p => if s.twin.runOut p then s.portOff p false else s) v = u at off
  refine ⟨by rw [off, eq], ms, map, ?_⟩
  rw [off, sent]

/-- A change of TWIN_STATE leaves the rest of the pair, and but for events the rest of the module (R451). -/
theorem State.setTwin_eq (s : State) (st : Nat) :
    s.setTwin st = { s with twin := { s.twin with st := st }, h0 := (s.setTwin st).h0, h1 := (s.setTwin st).h1
                            pages := (s.setTwin st).pages } := by
  unfold State.setTwin
  split
  · next same => rw [← same]
  · rw [State.setEvt_eq]

/-- The pair once a join has failed: a joiner is unpaired, a holder goes on in simplex (R386, R390). -/
def State.unjoined (s : State) : State :=
  let s : State := { s with twin := { s.twin with join := none } }
  if s.twin.st = 4 then s.setTwin 0 else if s.twin.st = 3 then s.setTwin 2 else s

theorem State.setTwin_only (s : State) (st : Nat) :
    OnlyEvents { s with twin := { s.twin with st := st } } (s.setTwin st) [pgTwin] := by
  unfold State.setTwin
  split
  · next same => rw [← same]; exact .refl s _
  · exact State.setEvt_only _ _ _

theorem State.unjoined_only (s : State) :
    OnlyEvents { s with twin := { s.twin with
      join := none, st := if s.twin.st = 4 then 0 else if s.twin.st = 3 then 2 else s.twin.st } } s.unjoined [pgTwin] := by
  unfold State.unjoined
  dsimp only
  split
  · exact State.setTwin_only _ _
  · split
    · exact State.setTwin_only _ _
    · exact .refl _ _

/-- A failed TWIN_JOIN ends with its code (R386). -/
theorem State.joinFails_eq {s : State} {r : Running} (hr : s.run = some r) (op : r.op = 0x0A) (code info : Nat) :
    s.joinFails code info =
      (State.unjoined (if code = 1 then s else s.recordFault pgTwin code info)).endWith code 0 0 := by
  have ret : ∀ t : State, t.ret0 r = 0 := fun t => by simp [State.ret0, op]
  have still : (State.unjoined (if code = 1 then s else s.recordFault pgTwin code info)).run = some r := by
    rw [(State.unjoined_only _).2]
    split
    · exact hr
    · rw [State.recordFault_eq]
      exact hr
  have fails : s.joinFails code info = State.endJoin (State.unjoined
      (if code = 1 then s else s.recordFault pgTwin code info)) code := rfl
  rw [fails]
  generalize State.unjoined (if code = 1 then s else s.recordFault pgTwin code info) = t at still
  simp only [State.endJoin, still, op, if_true, State.endCommand, ret]

section
variable {s : State} {p : HPort} {v : W32} {r : Running}

/-- A write of 1 by the lease holder aborts the running command (R432, R439). -/
theorem exec_cmdAbort (reach : s.reaches p = true) (owner : s.lease.owner = p.num + 1) (bit : v.getLsbD 0 = true) :
    exec (.cmdAbort p v) s = .next s.abortCommand := by
  show execCmdAbort p v s = _
  simp [execCmdAbort, State.writeAbort, reach, owner, bit]

/-- A run or a query command that has not begun ends with status 1 (R439). -/
theorem State.abort_unbegun (hr : s.run = some r) (op : r.op = 4 ∨ r.op = 5) (begun : r.begun = false) :
    s.abortCommand = s.endWith 1 (s.ret0 r) 0 := by
  simp only [State.abortCommand, hr, op, begun, Bool.not_false, if_true, State.endCommand]

/-- The running command once it is aborted. -/
def State.aborting (s : State) (r : Running) : State := { s with run := some { r with aborting := true } }

/-- The module once phase 1 of an aborted run is discarded. -/
def State.abortPhase1 (s : State) (r : Running) : State :=
  { (s.aborting r).discard 0 with train := { s.train with ph1 := none, feedWait := false }
                                  twin := { s.twin with probe := none } }

theorem State.abortPhase1_eq (s : State) (r : Running) :
    let u := s.abortPhase1 r
    u = { s with run := some { r with aborting := true }, train := { s.train with ph1 := none, feedWait := false }
                 vats := u.vats, sec := u.sec, twin := u.twin, tiles := u.tiles, felt := u.felt, free := u.free } := by
  have drops := (s.aborting r).discard_eq 0
  unfold State.abortPhase1
  generalize (s.aborting r).discard 0 = t at drops
  rw [drops]
  rfl

theorem State.abort_phase1 {a : Phase1} (hr : s.run = some r) (op : r.op = 4) (begun : r.begun = true)
    (ph1 : s.train.ph1 = some a) : s.abortCommand = (s.abortPhase1 r).endService.settleCommand := by
  unfold State.abortCommand
  rw [hr]
  dsimp only
  rw [if_pos (.inl op), if_neg (by simp [begun]), if_pos ⟨op, by rw [ph1]; rfl⟩]
  rfl

/-- With nothing in phase 1, no work is discarded. -/
theorem State.abort_between (hr : s.run = some r) (op : r.op = 4 ∨ r.op = 5) (begun : r.begun = true)
    (ph1 : r.op = 4 → s.train.ph1 = none) :
    s.abortCommand = State.settleCommand (State.endService
      { s.aborting r with train := { s.train with feedWait := false } }) := by
  unfold State.abortCommand
  rw [hr]
  dsimp only
  rw [if_pos op, if_neg (by simp [begun]), if_neg fun ⟨h4, there⟩ => by rw [ph1 h4] at there; cases there]
  rfl

/-- An aborted TWIN_JOIN: a member that copies leaves its partner (R386, R390). -/
theorem State.abort_join (hr : s.run = some r) (op : r.op = 0x0A) :
    s.abortCommand = (State.unjoined (if s.twin.st = 3 ∨ s.twin.st = 4 then s.sendLeave 0 else s)).endWith 1 0 0 := by
  have still : (if s.twin.st = 3 ∨ s.twin.st = 4 then s.sendLeave 0 else s).run = some r := by
    split
    · rw [(s.sendLeave_sends 0).1]
      exact hr
    · exact hr
  have other : ∀ n, n ≠ 0x0A → r.op ≠ n := fun n hn => by rw [op]; exact hn.symm
  have goes := State.joinFails_eq still op 1 0
  rw [if_pos rfl] at goes
  rw [← goes]
  unfold State.abortCommand
  rw [hr]
  dsimp only
  rw [if_neg (by simp [other]), if_neg (by simp [other]), if_pos op]

/-- An aborted run with nothing in flight ends (R439). -/
theorem State.settle_idle (hr : s.run = some r) (op : r.op = 4) (aborting : r.aborting = true) (ending : s.train.ending = none)
    (ph1 : s.train.ph1 = none) (ph2 : s.train.ph2 = none) (unsealed : s.train.sealedStep = none)
    (quiet : ∀ q, 1 ≤ q → q ≤ 3 → (s.query q).run = none) :
    s.settleCommand = s.endService.endWith 1 s.train.committed 0 := by
  have idle : ∀ q, 1 ≤ q → q ≤ 3 → (s.query q).runs = false := fun q h1 h3 => by
    simp only [QSlot.runs, quiet q h1 h3]
  have still : s.endService.run = some r := hr
  have ret : s.endService.ret0 r = s.train.committed := by
    simp only [State.ret0, op, true_or, if_true]
    rfl
  simp [State.settleCommand, hr, op, aborting, ending, ph1, ph2, unsealed, idle, State.endCommand, still, ret]

/-- With phase 2 in progress an aborted run goes on to its end (R439). -/
theorem State.settle_waits {x : SealedStep} (hr : s.run = some r) (op : r.op = 4) (ending : s.train.ending = none)
    (ph2 : s.train.ph2 = some x) : s.settleCommand = s := by
  simp [State.settleCommand, hr, op, ending, ph2]

/-- With a query in progress an aborted RUN_QUERY goes on to its end (R439). -/
theorem State.settle_queries (hr : s.run = some r) (op : r.op = 5) {q : Nat} (h1 : 1 ≤ q) (h3 : q ≤ 3)
    (running : (s.query q).runs = true) : s.settleCommand = s := by
  have busy : ([1, 2, 3].all fun q => !(s.query q).runs) = false := by
    refine List.all_eq_false.mpr ⟨q, ?_, by simp [running]⟩
    simp only [List.mem_cons, List.not_mem_nil, or_false]
    omega
  simp only [State.settleCommand, hr, op, busy, Bool.and_false, Bool.false_eq_true, if_false, if_true]
  rfl

end

end Sys2Proof.Machine

open Sys2Proof Sys2Proof.Machine

/-- Settles O15: the abort is the end of the command (`State.endWith_results`) where nothing it started is in flight, and
otherwise stops what would start next. -/
theorem abortActs : Obligations.AbortActs := by
  intro s p v reach
  refine ⟨fun owner bit r hr op begun => ?_, fun owner bit r a hr op begun ph1 ph2 unsealed ending quiet => ?_,
    fun owner bit r hr op => ⟨fun st => ?_, fun st => ?_⟩, fun owner bit hr => ?_,
    fun owner bit r hr op begun ph2 ending => ?_, fun owner bit r hr op begun q h1 h3 running => ?_, fun owner bit => ?_,
    fun other => ?_⟩
  · obtain ⟨cmd, pages, done, eq⟩ := State.endWith_results hr 1 (s.ret0 r) 0
    have rested := (endWith_ended r hr 1 (s.ret0 r) 0).2.2.2 op
    refine ⟨_, (exec_cmdAbort reach owner bit).trans (congrArg _ (State.abort_unbegun hr op begun)), ?_, ?_, done, pages,
      rested, eq⟩
    · rw [cmd]
    · rw [cmd]
  · have goes := (exec_cmdAbort reach owner bit).trans (congrArg _ (State.abort_phase1 hr op begun ph1))
    have stops := s.abortPhase1_eq r
    generalize s.abortPhase1 r = t at stops goes
    have query : ∀ k, t.endService.query k = { s.query k with served := false } := fun k => by
      rw [State.endService_query, stops]
      rfl
    have trun : t.endService.endService.run = some { r with aborting := true } := by rw [stops]; rfl
    have settles : t.endService.settleCommand = t.endService.endService.endWith 1 s.train.committed 0 := by
      have train : t.endService.train = { s.train with ph1 := none, feedWait := false } := by rw [stops]; rfl
      rw [State.settle_idle (s := t.endService) trun op rfl (by rw [train]; exact ending) (by rw [train])
        (by rw [train]; exact ph2) (by rw [train]; exact unsealed) fun q h1 h3 => by rw [query]; exact quiet q h1 h3, train]
    rw [settles] at goes
    obtain ⟨cmd, pages, done, eq⟩ := State.endWith_results trun 1 s.train.committed 0
    have page : ∀ k, t.endService.endService.page k = s.page k := fun k => by rw [stops]; rfl
    refine ⟨_, goes, by rw [eq], by rw [cmd], by rw [cmd], fun lost => done (by rw [page]; exact lost), fun k hk => ?_, ?_,
      fun k => ?_, ?_, ?_⟩
    · rw [pages k hk, page]
    · rw [eq, stops]
      rfl
    · rw [eq]
      show (t.endService.endService.query k).served = false
      rw [State.endService_query]
    · rw [eq, stops]
      rfl
    · rw [eq, stops]
      rfl
  · have goes := (exec_cmdAbort reach owner bit).trans (congrArg _ (State.abort_join hr op))
    rw [if_neg (by omega)] at goes
    have same : s.unjoined = { s with twin := { s.twin with join := none } } := by
      have st4 : s.twin.st ≠ 4 := by omega
      have st3 : s.twin.st ≠ 3 := by omega
      simp only [State.unjoined, st4, st3, if_false]
    rw [same] at goes
    obtain ⟨cmd, pages, -, eq⟩ := State.endWith_results (s := { s with twin := { s.twin with join := none } }) hr 1 0 0
    have fields := State.endWith_fields (s := { s with twin := { s.twin with join := none } }) hr (by omega) (by omega) 1 0 0
    generalize State.endWith { s with twin := { s.twin with join := none } } 1 0 0 = u at goes cmd pages eq fields
    refine ⟨u, goes, by rw [cmd], pages, ?_⟩
    rw [fields] at eq
    exact eq
  · have goes := (exec_cmdAbort reach owner bit).trans (congrArg _ (State.abort_join hr op))
    rw [if_pos (.inr st)] at goes
    obtain ⟨eq, ms, map, sent⟩ := s.sendLeave_sends 0
    generalize s.sendLeave 0 = t at goes eq sent
    have tst : t.twin.st = 4 := by rw [sent]; exact st
    have out := t.unjoined_only.2
    simp only [tst, if_true] at out
    generalize t.unjoined = w at goes out
    have wrun : w.run = some r := by rw [out, eq]; exact hr
    obtain ⟨cmd, -, -, ends⟩ := State.endWith_results wrun 1 0 0
    generalize w.endWith 1 0 0 = u at goes cmd ends
    have twin : u.twin = { t.twin with join := none, st := 0 } := by rw [ends, out]
    refine ⟨u, ms, goes, by rw [cmd], by rw [ends], by rw [twin], by rw [twin], by rw [twin, sent], map, ?_, ?_, ?_⟩
    · rw [ends, out, eq]
    · rw [ends, out, eq]
    · rw [ends, out, eq]
  · rw [exec_cmdAbort reach owner bit, State.abortCommand, hr]
  · obtain ⟨x, hx⟩ := Option.ne_none_iff_exists'.mp ph2
    have goes := exec_cmdAbort reach owner bit
    obtain ⟨t, aborts, stops⟩ : ∃ t : State, s.abortCommand = t.endService.settleCommand ∧
        t = { s with run := some { r with aborting := true }, train := { s.train with ph1 := none, feedWait := false }
                     vats := t.vats, sec := t.sec, twin := t.twin, tiles := t.tiles, felt := t.felt, free := t.free } := by
      cases ph1 : s.train.ph1 with
      | some a => exact ⟨_, State.abort_phase1 hr op begun ph1, s.abortPhase1_eq r⟩
      | none => exact ⟨_, State.abort_between hr (.inl op) begun fun _ => ph1, by rw [← ph1]; rfl⟩
    have waits : t.endService.settleCommand = t.endService :=
      State.settle_waits (s := t.endService) (r := { r with aborting := true }) (x := x) (by rw [stops]; rfl) op
        (by rw [stops]; exact ending) (by rw [stops]; exact hx)
    rw [aborts, waits] at goes
    have query : ∀ k, t.endService.query k = { s.query k with served := false } := fun k => by
      rw [State.endService_query, stops]
      rfl
    refine ⟨_, goes, ?_, ?_, fun k => by rw [query], fun k => by rw [query], ?_, ?_, ?_, ?_, ?_⟩ <;> rw [stops] <;> rfl
  · have goes := (exec_cmdAbort reach owner bit).trans (congrArg _ (State.abort_between hr (.inr op) begun (by omega)))
    have query : ∀ k, State.query (State.endService { s.aborting r with train := { s.train with feedWait := false } }) k =
        { s.query k with served := false } := fun k => State.endService_query _ k
    rw [State.settle_queries (s := State.endService _) (r := { r with aborting := true }) rfl op h1 h3
      (by rw [query]; exact running)] at goes
    exact ⟨_, goes, fun k => by rw [query], fun k => by rw [query], rfl⟩
  · show execCmdAbort p v s = _
    simp only [execCmdAbort, State.writeAbort, reach, owner, bit, Bool.not_true, ne_eq, not_true_eq_false, Bool.false_eq_true,
      if_false]
  · have goes : exec (.cmdAbort p v) s =
        .next (s.recordFault (pgCmd p) fLEASE_NOT_HELD (0x1150 + 0x1000 * p.num)) := by
      show execCmdAbort p v s = _
      simp [execCmdAbort, State.writeAbort, reach, other]
    have only := s.recordFault_only (pgCmd p) fLEASE_NOT_HELD (0x1150 + 0x1000 * p.num)
    refine ⟨_, goes, only, ?_, s.recordFault_on _ _ _⟩
    cases p
    · exact only.1.1.cmd
    · exact only.1.2.1.cmd
end

section
/-! PROOFS. The resets, link losses and power states of a host port (R421, R422, R424, R434). -/

namespace Sys2Proof.Machine

theorem other_ne (p : HPort) : p.other ≠ p := by cases p <;> decide

/-- A port out of reach of messages keeps all of its record as another page changes. -/
theorem State.modPage_port_perst {s : State} {p : HPort} (reset : (s.port p).perst = true) (k : Nat) (f : Page → Page) :
    (s.modPage k f).port p = s.port p := by
  have silent : ∀ v, (s.port p).send v = s.port p := fun v => by simp only [HostPort.send, reset, Bool.true_or, if_true]
  have group : ∀ (t : State) (g : Nat), t.port p = s.port p → (t.sendGroup g).port p = s.port p := by
    intro t g ht
    cases p
    all_goals
      simp only [State.port] at ht silent ⊢
      unfold State.sendGroup
      rw [ht]
      (repeat' split) <;> simp [silent]
  unfold State.modPage
  dsimp only
  split
  · rfl
  · split
    · exact group _ _ (by cases p <;> rfl)
    · cases p <;> rfl

/-- What a port's new record leaves. -/
theorem State.setPort_leaves (s : State) (p : HPort) (h : HostPort) :
    let u := s.setPort p h
    u = { s with h0 := u.h0, h1 := u.h1, sites := u.sites } ∧ u.port p = h ∧ u.port p.other = s.port p.other ∧
    ∀ g, u.site g = s.site g := by
  refine ⟨?_, State.setPort_port _ _ _, State.setPort_port_ne _ _ _ _ (other_ne p), fun g => ?_⟩
  · cases p <;> rfl
  · cases p <;> rfl

/-- With no command running nothing waits for a port. -/
theorem State.advance_none {s : State} (idle : s.run = none) : s.advance = s := by
  simp only [State.advance, idle]

/-- Both ports but for messages, told by port. -/
theorem EventFrame.port {s u : State} {ks : List Nat} (h : EventFrame s u ks) (p : HPort) : PortKeeps (s.port p) (u.port p) := by
  cases p
  · exact h.1
  · exact h.2.1

/-- A port that loses its host releases the lease that it holds, and no other (R434). -/
theorem State.dropLease_spec (s : State) (p : HPort) :
    let u := s.dropLease p
    u = { s with h0 := u.h0, h1 := u.h1, pages := u.pages, lease := u.lease } ∧ EventFrame s u [pgLease] ∧
    u.lease = (if s.lease.owner = p.num + 1 then { s.lease with owner := 0, remain := 0 } else s.lease) ∧
    (if s.lease.owner = p.num + 1 then EvtOn s u pgLease 2 else u.page pgLease = s.page pgLease) ∧
    (∀ q, (s.port q).perst = true → u.port q = s.port q) ∧ ∀ k, k ≠ pgLease → u.page k = s.page k := by
  unfold State.dropLease
  split
  · generalize ht : ({ s with lease := { s.lease with owner := 0, remain := 0 } } : State) = t
    have port : ∀ q, t.port q = s.port q := fun q => by rw [← ht]; cases q <;> rfl
    have only := t.setEvt_only pgLease 2
    have on := t.setEvt_on pgLease 2
    refine ⟨?_, ?_, ?_, ?_, fun q reset => ?_, fun k hk => ?_⟩
    · rw [only.2, ← ht]
    · rw [← ht] at only ⊢
      exact only.1
    · rw [State.setEvt_lease, ← ht]
    · rw [← ht] at on ⊢
      exact on
    · rw [State.setEvt, State.modPage_port_perst (by rw [port]; exact reset), port]
    · rw [State.setEvt_page_ne _ _ _ _ hk, ← ht]
      rfl
  · exact ⟨rfl, .refl s _, rfl, rfl, fun _ _ => rfl, fun _ _ => rfl⟩

end Sys2Proof.Machine

open Sys2Proof Sys2Proof.Machine

/-- Settles O22: each row sets its port's record, and the lease goes as `State.dropLease_spec` says. -/
theorem portResets : Obligations.PortResets := by
  refine ⟨fun s p => ⟨?_, fun rate width reset idle found wide untrained => ?_, fun rate width reset idle fits found => ?_,
    fun up => ?_⟩, fun s p reach idle => ⟨?_, ?_⟩⟩
  · generalize hh : ({ mem := (s.port p).mem, images := (s.port p).images, msgs := (s.port p).msgs
                       link := if s.portRetired p then 3 else 0 } : HostPort) = h
    generalize ht : ({ s.setPort p h with pages := sput {} (s.setPort p h).pages (pgCmd p) {} } : State) = t
    have goes : exec (.perstAssert p) s = .next (t.dropLease p) := by
      rw [← ht, ← hh]
      rfl
    obtain ⟨eq, frame, lease, evt, silent, pages⟩ := t.dropLease_spec p
    have mine : t.port p = h := by
      rw [← ht]
      exact State.setPort_port s p h
    have other : t.port p.other = s.port p.other := by
      rw [← ht]
      exact State.setPort_port_ne s p _ h (other_ne p)
    have page : ∀ k, t.page k = if k = pgCmd p then {} else s.page k := fun k => by
      rw [← ht]
      show sget {} (sput {} (s.setPort p h).pages (pgCmd p) {}) k = _
      rw [sget_sput, State.setPort_pages]
      rfl
    have apart : pgLease ≠ pgCmd p := by cases p <;> decide
    have same : t.lease = s.lease := by rw [← ht, State.setPort_lease]
    have base : t = { s with h0 := t.h0, h1 := t.h1, pages := t.pages } := by
      rw [← ht, State.setPort_eq]
    have kept := page pgLease
    rw [if_neg apart] at kept
    rw [same] at lease evt
    generalize t.dropLease p = u at goes eq frame lease evt silent pages
    refine ⟨u, goes, by rw [eq, base], ?_, ?_, lease, ?_, ?_, fun k hk => ?_⟩
    · rw [silent p (by rw [mine, ← hh]), mine, ← hh]
      rfl
    · rw [pages _ apart.symm, page, if_pos rfl]
    · unfold EvtOn at evt ⊢
      rw [← kept]
      exact evt
    · rw [← other]
      exact frame.port p.other
    · have hk' : k ≠ pgCmd p ∧ k ≠ pgLease := by simpa using hk
      rw [pages k hk'.2, page, if_neg hk'.1]
  · have narrow : ¬ width < 4 := by omega
    have trains : linkTrains rate width = false := by
      simp only [linkTrains, Bool.and_eq_false_iff, decide_eq_false_iff_not, List.contains_eq_mem]
      obtain zero | fast | odd := untrained
      · exact .inl (.inl (by omega))
      · exact .inl (.inr (by omega))
      · exact .inr odd
    show execPerstRelease p rate width s = _
    simp only [execPerstRelease, reset, State.portRetired, found, narrow, trains, decide_false, Bool.or_self, Bool.not_true,
      Bool.not_false, Bool.false_eq_true, if_false, if_true]
  · by_cases narrow : width < 4
    · have goes : exec (.perstRelease p rate width) s =
          .next (s.setPort p { s.port p with perst := false, link := 3, rate := 0, width := 0 }) := by
        show execPerstRelease p rate width s = _
        simp only [execPerstRelease, reset, narrow, decide_true, Bool.or_true, Bool.not_true, Bool.false_eq_true, if_false,
          if_true]
      generalize hh : ({ s.port p with perst := false, link := 3, rate := 0, width := 0 } : HostPort) = h at goes
      obtain ⟨eq, mine, other, site⟩ := s.setPort_leaves p h
      refine ⟨_, goes, eq, other, fun g _ => site g, ?_⟩
      rw [if_pos narrow]
      exact ⟨mine, site _⟩
    · obtain ⟨low, high, wide⟩ := fits.resolve_left narrow
      have trains : linkTrains rate width = true := by simp [linkTrains, low, high, wide]
      have goes : exec (.perstRelease p rate width) s = .next (State.advance (State.linkUp
          (s.setPort p { s.port p with perst := false, link := 2, rate := rate, width := width }) p)) := by
        show execPerstRelease p rate width s = _
        simp only [execPerstRelease, reset, State.portRetired, found, narrow, trains, decide_false, Bool.or_self,
          Bool.not_true, Bool.false_eq_true, if_false]
      generalize hh : ({ s.port p with perst := false, link := 2, rate := rate, width := width } : HostPort) = h at goes
      obtain ⟨eq, mine, other, site⟩ := s.setPort_leaves p h
      generalize s.setPort p h = t at goes eq mine other site
      have trun : (t.linkUp p).run = none := by
        rw [eq]
        exact idle
      rw [State.advance_none trun] at goes
      have port : ∀ q, (t.linkUp p).port q = t.port q := fun q => by cases q <;> rfl
      refine ⟨_, goes, ?_, ?_, fun g hg => ?_, ?_⟩
      · rw [eq]
        rfl
      · rw [port, other]
      · exact (State.setSite_site_ne _ _ _ _ hg).trans (site g)
      · rw [if_neg narrow, port, mine, ← hh, ← site (hostSite p)]
        exact ⟨rfl, State.setSite_site _ _ _⟩
  · have goes : exec (.pcieLinkDown p) s =
        .next (State.dropLease (s.setPort p { s.port p with link := 0, rate := 0, width := 0 }) p) := by
      show execPcieLinkDown p s = _
      simp only [execPcieLinkDown, up, ne_eq, not_true_eq_false, if_false]
    generalize hh : ({ s.port p with link := 0, rate := 0, width := 0 } : HostPort) = h at goes
    obtain ⟨-, mine, other, -⟩ := s.setPort_leaves p h
    have eq := s.setPort_eq p h
    generalize s.setPort p h = t at goes eq mine other
    obtain ⟨drops, frame, lease, evt, -, pages⟩ := t.dropLease_spec p
    have page : ∀ k, t.page k = s.page k := fun k => by rw [eq]; rfl
    have same : t.lease = s.lease := by rw [eq]
    rw [same] at lease evt
    have mine' := frame.port p
    have other' := frame.port p.other
    rw [mine] at mine'
    rw [other] at other'
    generalize t.dropLease p = u at goes drops mine' other' lease evt pages
    refine ⟨u, goes, by rw [drops, eq], mine', other', lease, ?_, fun k hk => ?_⟩
    · unfold EvtOn at evt ⊢
      rw [page] at evt
      exact evt
    · rw [pages k (by simpa using hk), page]
  · show execD3hot p s = _
    simp only [execD3hot, reach, Bool.not_true, Bool.false_eq_true, if_false]
  · have still : (s.setPort p { s.port p with d3 := false }).run = none := (State.setPort_run _ _ _).trans idle
    show execD0 p s = _
    simp only [execD0, reach, State.advance_none still, Bool.not_true, Bool.false_eq_true, if_false]
end

section
/-! PROOFS. SMBus block transfers and the packets of the service ports (R357 to R362, R486). -/

namespace Sys2Proof.Machine

/-- A Block Write of three bytes sets the offset (R486). -/
theorem exec_smbusBlockWrite (s : State) (x y z : Byte) :
    exec (.smbusBlockWrite [x, y, z]) s = .next { s with svc := { s.svc with
      smbusOff := x.toNat + 256 * y.toNat + 65536 * z.toNat } } := by
  have number : leNat [x, y, z] = x.toNat + 256 * y.toNat + 65536 * z.toNat := by
    simp only [leNat]
    omega
  rw [← number]
  rfl

/-- What a Block Read of four bytes answers: the register at the offset, where the SMBus reads the page (R486). -/
def State.smbusWord (s : State) : W32 :=
  if smbusPage (s.svc.smbusOff / 4 * 4 / 0x1000) then
    BitVec.ofNat 32 ((s.settleRead (s.svc.smbusOff / 4 * 4)).readWord .h0 (s.svc.smbusOff / 4 * 4))
  else 0

/-- A Block Read answers the word, and advances the offset (R486). -/
theorem exec_smbusBlockRead (s : State) :
    ∃ u, exec (.smbusBlockRead 4) s = .next u ∧ PagesKeep s u [] ∧
      u = { s with pages := u.pages, free := u.free, svc := { s.svc with
        smbusOff := (s.svc.smbusOff + 4) % 2 ^ 24, smbusOut := s.svc.smbusOut ++ [s.smbusWord] } } := by
  obtain ⟨pages, eq⟩ := s.settleRead_only (s.svc.smbusOff / 4 * 4)
  by_cases reads : smbusPage (s.svc.smbusOff / 4 * 4 / 0x1000) = true
  · generalize ht : s.settleRead (s.svc.smbusOff / 4 * 4) = t at pages eq
    have word : s.smbusWord = BitVec.ofNat 32 (t.readWord .h0 (s.svc.smbusOff / 4 * 4)) := by
      rw [State.smbusWord, if_pos reads, ht]
    have goes : exec (.smbusBlockRead 4) s = .next { t with free := t.free + 1, svc := { t.svc with
        smbusOff := (t.svc.smbusOff + 4) % 2 ^ 24
        smbusOut := t.svc.smbusOut ++ [BitVec.ofNat 32 (t.readWord .h0 (s.svc.smbusOff / 4 * 4))] } } := by
      show execSmbusBlockRead 4 s = _
      simp only [execSmbusBlockRead, reads, ht, ne_eq, not_true_eq_false, if_false, if_true]
    rw [← word] at goes
    refine ⟨_, goes, fun k hk => pages k hk, ?_⟩
    rw [eq]
  · have word : s.smbusWord = BitVec.ofNat 32 0 := by rw [State.smbusWord, if_neg reads]; rfl
    refine ⟨{ s with free := s.free + 1, svc := { s.svc with
        smbusOff := (s.svc.smbusOff + 4) % 2 ^ 24, smbusOut := s.svc.smbusOut ++ [s.smbusWord] } }, ?_, .refl s [], rfl⟩
    show execSmbusBlockRead 4 s = _
    rw [word]
    simp only [execSmbusBlockRead, reads, ne_eq, not_true_eq_false, if_false]
    rfl

/-- A check that fails is counted with the replay that it asks for (R362). -/
theorem State.checkFailed_spec (s : State) (f : Nat) :
    (s.checkFailed f).1 = decide (9 ≤ (s.site f).fails + 1) ∧
    let u := (s.checkFailed f).2
    u = { s with sites := u.sites, pages := u.pages } ∧ PagesKeep s u [] ∧ (∀ g, g ≠ f → u.site g = s.site g) ∧
    u.site f = { s.site f with
      chkFail := satAdd 32 (s.site f).chkFail 1, replays := satAdd 32 (s.site f).replays 1
      fails := if (s.site f).fails + 1 < 9 then (s.site f).fails + 1 else 0 } := by
  unfold State.checkFailed
  dsimp only
  generalize hx : ({ s.site f with
      chkFail := satAdd 32 (s.site f).chkFail 1, replays := satAdd 32 (s.site f).replays 1
      fails := if (s.site f).fails + 1 < 9 then (s.site f).fails + 1 else 0 } : SiteRegs) = x
  have counts := (Counted.of_bump (s.setSite f x) (pgSite f) 0x31 1).trans (.of_bump _ (pgSite f) 0x32 1)
  generalize State.bump (State.bump (s.setSite f x) (pgSite f) 0x31 1) (pgSite f) 0x32 1 = u at counts
  have site : ∀ g, u.site g = (s.setSite f x).site g := fun g => by rw [counts.eq]; rfl
  refine ⟨rfl, ?_, fun k hk => counts.pages k hk, fun g hg => ?_, ?_⟩
  · rw [counts.eq]
    rfl
  · rw [site]
    exact State.setSite_site_ne _ _ _ _ hg
  · rw [site]
    exact State.setSite_site _ _ _

/-- A service packet whose check fails: the eighth failed replay raises LINK_REPLAY_FAIL (R362). -/
theorem State.serviceFailed_spec (s : State) (f : Nat) :
    let u := s.serviceFailed f
    u = { s with sites := u.sites, h0 := u.h0, h1 := u.h1, pages := u.pages } ∧ EventFrame s u [pgSite f] ∧
    u.site f = { s.site f with
      chkFail := satAdd 32 (s.site f).chkFail 1, replays := satAdd 32 (s.site f).replays 1
      fails := if (s.site f).fails < 8 then (s.site f).fails + 1 else 0 } ∧
    (∀ g, g ≠ f → u.site g = s.site g) ∧
    if (s.site f).fails < 8 then PagesKeep s u [] else FaultOn s u (pgSite f) fLINK_REPLAY_FAIL 0 := by
  obtain ⟨eighth, eq, pages, others, mine⟩ := s.checkFailed_spec f
  unfold State.serviceFailed
  generalize s.checkFailed f = r at eighth eq pages others mine
  obtain ⟨up, t⟩ := r
  dsimp only at *
  have frame : EventFrame s t [] := ⟨by rw [eq]; rfl, by rw [eq]; rfl, pages⟩
  have bound : (s.site f).fails + 1 < 9 ↔ (s.site f).fails < 8 := by omega
  simp only [bound] at mine
  by_cases few : (s.site f).fails < 8
  · have stays : up = false := by
      rw [eighth]
      simp only [decide_eq_false_iff_not]
      omega
    rw [stays, if_neg (by simp)]
    refine ⟨by rw [eq], frame.mono (by simp), mine, others, ?_⟩
    rw [if_pos few]
    exact pages
  · have raises : up = true := by
      rw [eighth]
      simp only [decide_eq_true_eq]
      omega
    have only := t.recordFault_only (pgSite f) fLINK_REPLAY_FAIL 0
    have on := t.recordFault_on (pgSite f) fLINK_REPLAY_FAIL 0
    rw [raises, if_pos rfl]
    generalize t.recordFault (pgSite f) fLINK_REPLAY_FAIL 0 = u at only on
    have site : ∀ g, u.site g = t.site g := fun g => by rw [only.2]; rfl
    refine ⟨by rw [only.2, eq], (frame.mono (by simp)).trans only.1, (site f).trans mine,
      fun g hg => (site g).trans (others g hg), ?_⟩
    rw [if_neg few]
    unfold FaultOn at on ⊢
    have page := pages (pgSite f) (by simp)
    rw [page] at on
    exact on

end Sys2Proof.Machine

open Sys2Proof Sys2Proof.Machine

/-- Settles O21: the two SMBus transfers, and a service packet that is served or counted (`State.serviceFailed_spec`). -/
theorem smbusAndService : Obligations.SmbusAndService := by
  refine ⟨fun s x y z => ⟨exec_smbusBlockWrite s x y z, ?_⟩, fun s f check d hf found => ⟨fun good => ?_, fun bad => ?_⟩⟩
  · obtain ⟨u, goes, pages, eq⟩ := exec_smbusBlockRead s
    refine ⟨u, s.smbusWord, goes, pages, eq, fun unread => ?_, fun reads outside => ?_⟩
    · simp only [State.smbusWord, unread, Bool.false_eq_true, if_false]
    · rw [State.smbusWord, if_pos reads, State.settleRead_outside _ _ outside]
  all_goals
    have service : f = 3 ∨ f = 44 := by simpa using hf
    have ok : fieldOk f = true := by obtain rfl | rfl := service <;> rfl
    have here : ¬ ((f ≠ 3 ∧ f ≠ 44) ∨ s.bind.found.sites.contains f = true) := by
      simp only [found, Bool.false_eq_true, or_false]
      omega
  · refine ⟨State.setSite { s with svc := { s.svc with served := s.svc.served + 1 } } f
      { s.site f with seqRx := ((s.site f).seqRx + 1) % 2 ^ 32, fails := 0 }, ?_, rfl, State.setSite_site _ _ _,
      fun g hg => State.setSite_site_ne _ _ _ _ hg⟩
    show execServicePortPacket f d check s = _
    simp only [execServicePortPacket, ok, here, good, Bool.not_true, Bool.false_eq_true, if_false, if_true]
  · obtain ⟨eq, frame, mine, others, pages⟩ := s.serviceFailed_spec f
    refine ⟨s.serviceFailed f, ?_, eq, frame, mine, others, pages⟩
    show execServicePortPacket f d check s = _
    simp only [execServicePortPacket, ok, here, bad, Bool.not_true, Bool.false_eq_true, if_false]
end

section
/-! PROOFS. The key exchange of a calender port that is down (R383, R413). -/

namespace Sys2Proof.Machine

theorem State.mayTrain_iff (s : State) (p : Nat) :
    s.mayTrain p = true ↔ (s.twin.port p).up = false ∧ (s.twin.port p).retired = false ∧ s.power.pstate ≠ 4 ∧
      s.ident.ready = true ∧ s.sec.scrubBusy = false := by
  simp [State.mayTrain, and_assoc]

/-- A port whose exchange fails stays down without session and frames (R413). -/
theorem State.kxFail_spec (s : State) (p info : Nat) :
    let u := s.kxFail p info
    u = { s with twin := u.twin, h0 := u.h0, h1 := u.h1, pages := u.pages } ∧ EventFrame s u [pgSite (calSite p)] ∧
    FaultOn s u (pgSite (calSite p)) fCALENDER_DEGRADED info ∧
    PortBecomes s u p { s.twin.port p with
      myKx0 := none, peer := none, myKx1 := none, keyOut := none, keyIn := none, hello := none } := by
  unfold State.kxFail
  dsimp only
  generalize ht : ({ s with twin := s.twin.setPort p { s.twin.port p with
    myKx0 := none, peer := none, myKx1 := none, keyOut := none, keyIn := none, hello := none } } : State) = t
  have only := t.recordFault_only (pgSite (calSite p)) fCALENDER_DEGRADED info
  have on := t.recordFault_on (pgSite (calSite p)) fCALENDER_DEGRADED info
  generalize t.recordFault (pgSite (calSite p)) fCALENDER_DEGRADED info = u at only on
  have twin : u.twin = t.twin := by rw [only.2]
  subst ht
  refine ⟨by rw [only.2], only.1, on, ⟨?_, ?_, fun q hq => ?_⟩⟩
  · rw [twin]
    rfl
  · rw [twin]
    exact Twin.setPort_port _ _ _
  · rw [twin]
    exact Twin.setPort_port_ne _ _ _ _ hq

/-- A HELLO leaves by a port that is down, which needs no new key (R382, R383). -/
theorem State.sendHello_down {s : State} {p : Nat} (down : (s.twin.port p).up = false) (role : Nat) :
    let u := s.sendHello p role
    u = { s with twin := u.twin, pages := u.pages } ∧ PagesKeep s u [] ∧
    (∃ m : SentMsg, m.port = p ∧ m.type = 1 ∧ u.twin = { s.twin with ports := u.twin.ports, sent := s.twin.sent ++ [m] }) ∧
    u.twin.port p = { s.twin.port p with
      aliveOut := ((s.twin.port p).aliveOut + 1) % 16, ctrOut := (s.twin.port p).ctrOut + 1 } ∧
    ∀ q, q ≠ p → u.twin.port q = s.twin.port q := by
  have sends := s.sendAlive_spec p 1 (s.helloBody p role)
  have stays : s.sendHello p role = s.sendAlive p 1 (s.helloBody p role) :=
    State.rekey_eq_self fun up => by
      rw [sends.2.2.2.1] at up
      exact absurd (down.symm.trans up) (by simp)
  rw [stays]
  exact sends

end Sys2Proof.Machine

open Sys2Proof Sys2Proof.Machine

/-- Settles O28: the two frames of the exchange, each refused as `State.kxFail_spec` says or answered. -/
theorem keyExchange : Obligations.KeyExchange := by
  intro s p hp trains noKey refused
  obtain ⟨down, -, -, -, calm⟩ := (s.mayTrain_iff p).mp trains
  have ok : calOk p = true := by simpa [calOk] using hp
  have fails : ∀ n, refused (s.kxFail p n) n := fun n => by
    obtain ⟨eq, frame, on, becomes⟩ := s.kxFail_spec p n
    exact ⟨eq, frame, on, becomes.twin, becomes.mine, becomes.others⟩
  refine ⟨fun f n fault => ⟨_, ?_, fails n⟩, fun f good => ?_, fun f peer mine hpeer hmine => ⟨fun bad => ⟨_, ?_, fails 4⟩,
    fun good => ?_⟩⟩
  · show execKx0 p f s = _
    simp only [execKx0, ok, trains, noKey, fault, Bool.not_true, Option.isSome_none, Bool.or_self, Bool.false_eq_true, if_false]
  · generalize hv : ({ s with twin := s.twin.setPort p { s.twin.port p with myKx0 := some (s.myKx0 p) } } : State) = v
    have mine : v.twin.port p = { s.twin.port p with myKx0 := some (s.myKx0 p) } := by
      rw [← hv]
      exact Twin.setPort_port _ _ _
    have text : ∀ ct, v.kx1Text p f ct = s.kx1Text p f ct := fun ct => by
      have frame : v.myKx0 p = s.myKx0 p := by
        unfold State.myKx0
        rw [mine]
        rfl
      have rank : ∀ n, v.rankTo n = s.rankTo n := fun n => by rw [← hv]; rfl
      simp only [State.kx1Text, frame, rank]
    have takes : (!s.mayTrain p || (s.twin.port p).keyIn.isSome) = false := by
      rw [trains, noKey]
      rfl
    have answer : exec (.kx0 p f) s = .next { v with
        sec := { s.sec with drawn := s.sec.drawn + 2 }
        twin := v.twin.setPort p { v.twin.port p with
          peer := some f, encap := s.sec.drawn
          myKx1 := some ⟨(Config.kemEncap (bytesAt f.kemCert 16 1568) s.sec.drawn).1, bytesAt (Config.falconSign
            (s.kx1Text p f (Config.kemEncap (bytesAt f.kemCert 16 1568) s.sec.drawn).1) (s.sec.drawn + 1)) 0 1280⟩ } } := by
      show execKx0 p f s = _
      simp only [execKx0, ok, takes, good, Bool.not_true, Bool.false_eq_true, if_false]
      rw [← text]
      subst hv
      rfl
    refine ⟨_, answer, ?_, ?_, ?_, fun q hq => ?_⟩
    · rw [← hv]
    · rw [← hv]
      rfl
    · exact (Twin.setPort_port _ _ _).trans (by rw [mine])
    · refine (Twin.setPort_port_ne _ _ _ _ hq).trans ?_
      rw [← hv]
      exact Twin.setPort_port_ne _ _ _ _ hq
  · show execKx1 p f s = _
    simp only [execKx1, ok, hpeer, hmine, down, noKey, calm, bad, Bool.not_true, Bool.not_false, Option.isSome_none,
      Bool.or_self, Bool.false_eq_true, if_false, if_true]
  · generalize hc : ({ s.twin.port p with
      keyOut := some (if s.rankTo (certSerial peer.idCert) = 0 then (s.sessionKeys p peer mine (s.twin.port p).encap f).1
        else (s.sessionKeys p peer mine (s.twin.port p).encap f).2)
      keyIn := some (if s.rankTo (certSerial peer.idCert) = 0 then (s.sessionKeys p peer mine (s.twin.port p).encap f).2
        else (s.sessionKeys p peer mine (s.twin.port p).encap f).1)
      ctrOut := 0, ctrIn := 0, dir := s.rankTo (certSerial peer.idCert), aliveIn := none, aliveFails := 0 } : CalPort) = c
    generalize hv : ({ s with twin := s.twin.setPort p c } : State) = v
    have goes : exec (.kx1 p f) s = .next (v.sendHello p v.role) := by
      show execKx1 p f s = _
      simp only [execKx1, ok, hpeer, hmine, down, noKey, calm, good, ← hc, ← hv, Bool.not_true, Option.isSome_none,
        Bool.or_self, Bool.false_eq_true, if_false]
    have port : v.twin.port p = c := by
      rw [← hv]
      exact Twin.setPort_port _ _ _
    have other : ∀ q, q ≠ p → v.twin.port q = s.twin.port q := fun q hq => by
      rw [← hv]
      exact Twin.setPort_port_ne _ _ _ _ hq
    have twin : v.twin = { s.twin with ports := v.twin.ports } := by
      rw [← hv]
      rfl
    have vdown : (v.twin.port p).up = false := by
      rw [port, ← hc]
      exact down
    obtain ⟨eq, pages, ⟨m, at_p, type, sent⟩, mine', others⟩ := State.sendHello_down vdown v.role
    generalize v.sendHello p v.role = u at goes eq pages sent mine' others
    refine ⟨u, m, goes, ?_, fun k hk => ?_, ?_, at_p, type, ?_, ⟨?_, ?_⟩, fun q hq => ?_⟩
    · rw [eq, ← hv]
    · rw [pages k hk, ← hv]
      rfl
    · rw [sent, twin]
    · rw [mine']
      exact vdown
    · rw [mine', port, ← hc]
    · rw [mine', port, ← hc]
    · rw [others q hq, other q hq]
end

section
/-! PROOFS. The BAR2 window and JTAG, sealed and in maintenance mode (R370, R416, R418, R421, R423). -/

namespace Sys2Proof.Machine

/-- The bit that the AER of a port notes an Unsupported Request by (R421). -/
def State.noted (s : State) (p : HPort) : State :=
  s.setPort p { s.port p with fn := { (s.port p).fn with
    aerUncorrectable := (s.port p).fn.aerUncorrectable ||| 0x100000#32 } }

/-- A port's record changes by itself, whatever messages it has sent. -/
theorem PortKeeps.noted {a b : HostPort} (h : PortKeeps a b) :
    PortKeeps { a with fn := { a.fn with aerUncorrectable := a.fn.aerUncorrectable ||| 0x100000#32 } }
      { b with fn := { b.fn with aerUncorrectable := b.fn.aerUncorrectable ||| 0x100000#32 } } := by
  unfold PortKeeps at *
  rw [h]

/-- The note of a request keeps what else has changed by events. -/
theorem EventFrame.noted {s u : State} {ks : List Nat} (h : EventFrame s u ks) (p : HPort) :
    EventFrame (s.noted p) (u.noted p) ks := by
  obtain ⟨h0, h1, pages⟩ := h
  cases p
  · exact ⟨h0.noted, h1, pages⟩
  · exact ⟨h0, h1.noted, pages⟩

/-- A violation is recorded on the security page and counted (R370, R416). -/
theorem State.violation_spec (s : State) :
    let u := s.violation
    FaultOn s u pgSec fSEAL_VIOLATION 0 ∧ EventFrame s u [pgSec] ∧
    u = { s with sec := { s.sec with violCount := satAdd 32 s.sec.violCount 1 }
                 h0 := u.h0, h1 := u.h1, pages := u.pages } := by
  have only := s.recordFault_only pgSec fSEAL_VIOLATION 0
  have on := s.recordFault_on pgSec fSEAL_VIOLATION 0
  unfold State.violation
  generalize s.recordFault pgSec fSEAL_VIOLATION 0 = v at only on
  refine ⟨on, only.1, ?_⟩
  rw [only.2]

section
variable {s : State} {p : HPort} {w : Bool} {a : Nat} {d : List Byte}

/-- A request within the window reaches a module that is not sealed. -/
theorem exec_bar2Access_sealed (locked : s.sec.isSealed = true) (reach : s.reaches p = true) (inside : a + d.length ≤ 2 ^ 36) :
    exec (.bar2Access p w a d) s = .next (s.violation.unsupported p) := by
  have fits : ¬ 2 ^ 36 < a + d.length := by omega
  show execBar2Access p w a d s = _
  simp only [execBar2Access, reach, fits, locked, Bool.not_true, decide_false, Bool.or_self, Bool.false_eq_true, if_false,
    if_true]

theorem exec_bar2Access_scrubs (opened : s.sec.isSealed = false) (scrubs : s.sec.scrubBusy = true) (reach : s.reaches p = true)
    (inside : a + d.length ≤ 2 ^ 36) : exec (.bar2Access p w a d) s = .next (s.unsupported p) := by
  have fits : ¬ 2 ^ 36 < a + d.length := by omega
  show execBar2Access p w a d s = _
  simp only [execBar2Access, reach, fits, opened, scrubs, Bool.not_true, decide_false, Bool.or_self, Bool.false_eq_true,
    if_false, if_true]

end

theorem eraseDups_singleton (n : Nat) : [n].eraseDups = [n] := rfl

/-- One byte lies in one line. -/
theorem byLine_singleton (m : Nat) (b : Byte) : byLine [(m, b)] = [(m / 64 * 64, [(m - m / 64 * 64, [b])])] := by
  simp [byLine, eraseDups_singleton]

/-- A byte written to a memory without errors is read back. -/
theorem EccMem.byte_write_self (m : EccMem) (a : Nat) (b : Byte) (clean : m.errs = []) : (m.write a [b]).byte a = b := by
  have back := m.read_write a [b] clean
  simpa [EccMem.read] using back

section
variable {s : State} {p : HPort} {a : Nat} {b : Byte} (opened : s.sec.isSealed = false) (calm : s.sec.scrubBusy = false)
  (reach : s.reaches p = true) (ready : s.ident.ready = true) (clean : s.vats.mem.errs = []) (inside : a < 2 ^ 36)
include opened calm reach ready clean inside

/-- A byte written through the window lands where the window maps it (R423). -/
theorem exec_bar2Access_writes :
    ∃ u, exec (.bar2Access p true a [b]) s = .next u ∧
      Counted (State.vatWrite { s with bar2Bad := false } (Config.bar2Map a) [b]) u := by
  have fits : ¬ 2 ^ 36 < a + [b].length := by simp; omega
  generalize ht : ({ s with bar2Bad := false } : State) = t
  have tclean : t.vats.mem.errs = [] := by rw [← ht]; exact clean
  have split : Config.bar2Map a / 64 * 64 + (Config.bar2Map a - Config.bar2Map a / 64 * 64) = Config.bar2Map a := by omega
  have counts := t.portWrite_clean tclean (Config.bar2Map a / 64 * 64) (Config.bar2Map a - Config.bar2Map a / 64 * 64) [b]
  rw [split] at counts
  refine ⟨_, ?_, counts⟩
  show execBar2Access p true a [b] s = _
  simp only [execBar2Access, reach, fits, opened, calm, ready, ht, Bool.not_true, decide_false, Bool.or_self,
    Bool.false_eq_true, if_false]
  show Host.Outcome.next (t.vatAccess (List.flatMap (fun l => partWords l.1 l.2) (byLine [(Config.bar2Map a, b)]))
    fun s => (byLine [(Config.bar2Map a, b)]).foldl (fun s l => s.lineWrite l.1 l.2 false) s) = _
  rw [byLine_singleton, State.vatAccess_clean tclean]
  exact congrArg _ (State.vatAccess_clean tclean (partWords (Config.bar2Map a / 64 * 64)
    [(Config.bar2Map a - Config.bar2Map a / 64 * 64, [b])]) fun s => s.lineWrite _ _ false).symm

/-- A byte read through the window is what is stored where the window maps it (R423). -/
theorem exec_bar2Access_reads :
    ∃ u, exec (.bar2Access p false a [b]) s = .next { u with
        readData := BitVec.ofNat 64 (s.vats.mem.byte (Config.bar2Map a)).toNat } ∧ Counted { s with bar2Bad := false } u := by
  have fits : ¬ 2 ^ 36 < a + [b].length := by simp; omega
  generalize ht : ({ s with bar2Bad := false } : State) = t
  have tclean : t.vats.mem.errs = [] := by rw [← ht]; exact clean
  have counts := Counted.of_reads t [(Config.bar2Map a / 64 * 64, 64)]
  refine ⟨_, ?_, counts⟩
  have mem : s.vats.mem.byte (Config.bar2Map a) = (List.foldl (fun s r => s.countLines 0x40 r) t
      [(Config.bar2Map a / 64 * 64, 64)]).vats.mem.byte (Config.bar2Map a) := by
    rw [counts.eq, ← ht]
  rw [mem]
  show execBar2Access p false a [b] s = _
  simp only [execBar2Access, reach, fits, opened, calm, ready, ht, Bool.not_true, Bool.not_false, decide_false, Bool.or_self,
    Bool.false_eq_true, if_false, if_true]
  show Host.Outcome.next (t.vatLines [(Config.bar2Map a / 64 * 64, 64)] fun s =>
    { s with readData := BitVec.ofNat 64 (leNat [s.vats.mem.byte (Config.bar2Map a)]) }) = _
  rw [State.vatLines, State.vatAccess_clean tclean]
  rfl

end

end Sys2Proof.Machine

open Sys2Proof Sys2Proof.Machine

/-- Settles O20: sealed, a request and an instruction are violations (`State.violation_spec`); open, the window reads and
writes the byte that it maps. -/
theorem sealedAndOpen : Obligations.SealedAndOpen := by
  refine ⟨fun s p w a n d => ⟨⟨fun locked reach inside => ?_, fun opened scrubs reach inside => ?_⟩, fun locked ir hir => ?_,
    rfl, rfl⟩, fun s p a b opened calm reach ready clean inside => ⟨?_, ?_⟩⟩
  · obtain ⟨on, frame, eq⟩ := s.violation_spec
    have noted := frame.noted p
    have goes : exec (.bar2Access p w a d) s = .next { s.violation.noted p with bar2Bad := true } :=
      exec_bar2Access_sealed locked reach inside
    have port := State.setPort_eq s.violation p { s.violation.port p with fn := { (s.violation.port p).fn with
      aerUncorrectable := (s.violation.port p).fn.aerUncorrectable ||| 0x100000#32 } }
    generalize s.violation = v at *
    refine ⟨_, goes, fun there => ?_, noted, ?_⟩
    · have page : (v.noted p).page pgSec = v.page pgSec := by cases p <;> rfl
      have := on there
      rw [← page] at this
      exact this
    · rw [show v.noted p = _ from port, eq]
  · exact exec_bar2Access_scrubs opened scrubs reach inside
  · obtain ⟨on, frame, eq⟩ := State.violation_spec { s with svc := { s.svc with jtag := .bypass } }
    refine ⟨_, ?_, on, frame, eq⟩
    obtain rfl | rfl := hir
    · show execJtagInstruction (.standard n) s = _
      simp only [execJtagInstruction, locked, if_true]
    · show execJtagInstruction (.debug n) s = _
      simp only [execJtagInstruction, locked, if_true]
  · obtain ⟨u, goes, counts⟩ := exec_bar2Access_writes (b := b) opened calm reach ready clean inside
    have mem : u.vats.mem = s.vats.mem.write (Config.bar2Map a) [b] := by rw [counts.eq]; rfl
    refine ⟨u, goes, ?_, fun x hx => ?_, fun k hk => counts.pages k hk, ?_⟩
    · rw [mem, EccMem.byte_write_self _ _ _ clean]
    · rw [mem, EccMem.write_outside _ _ _ _ clean]
      simp only [List.length_singleton]
      omega
    · rw [counts.eq]
      rfl
  · obtain ⟨u, goes, counts⟩ := exec_bar2Access_reads (b := b) opened calm reach ready clean inside
    refine ⟨_, goes, fun k hk => counts.pages k hk, ?_⟩
    rw [counts.eq]
end

section
/-! PROOFS. What a joiner does with the messages of its copy, and the end of a join without a partner (R386 to R389). -/

namespace Sys2Proof.Machine

/-- A sequenced message of a port whose counters do not run out is its row's effect on the module that has heard it. -/
theorem State.sequenced_keeps {s : State} {h : CalHdr} (n : Nat) {k : State → State} (up : (s.twin.port h.port).up = true)
    (ok : h.ok = true) (typed : h.typed = true) (seq : h.seq = (s.site (calSite h.port)).seqRx)
    (inward : (s.twin.port h.port).ctrIn + 1 < 2 ^ 32) (outward : (s.twin.port h.port).ctrOut < 2 ^ 32)
    (ports : (k (s.hearsSeq h n)).twin.ports = (s.hearsSeq h n).twin.ports) : s.sequenced h n k = k (s.hearsSeq h n) := by
  rw [State.sequenced_eq n k up ok typed seq]
  refine State.rekey_eq_self fun _ => ?_
  have same : (k (s.hearsSeq h n)).twin.port h.port = (s.hearsSeq h n).twin.port h.port := by
    unfold Twin.port
    rw [ports]
  rw [same, (s.hearsSeq_spec h n).2.2.mine]
  exact ⟨inward, outward⟩

/-- A region's bytes land in vat space while a joiner copies; what it writes is not dirtied (R387, R388). -/
theorem State.vatStore_joining {s : State} {j : JoinState} (join : s.twin.join = some j) (joiner : j.joiner = true) (a : Nat)
    (bs : List Byte) :
    let u := s.vatStore a bs
    u = { s with vats := { s.vats with mem := s.vats.mem.write a bs }, pages := u.pages
                 sec := { s.sec with taintVat := taint s.sec.taintVat a bs.length } } ∧ PagesKeep s u [] := by
  have counts := Counted.of_countLines (s.vatWrite a bs) 0x41 (a, bs.length)
  have writes : s.vatWrite a bs = { s with vats := { s.vats with mem := s.vats.mem.write a bs }
                                           sec := { s.sec with taintVat := taint s.sec.taintVat a bs.length } } := by
    unfold State.vatWrite
    rw [join, Option.map_some, joiner, if_pos rfl, ← join]
  have hu : s.vatStore a bs = State.countLines (s.vatWrite a bs) 0x41 (a, bs.length) := rfl
  rw [hu]
  generalize State.countLines (s.vatWrite a bs) 0x41 (a, bs.length) = u at counts
  refine ⟨?_, fun k hk => (counts.pages k hk).trans ?_⟩
  · rw [counts.eq, writes]
  · rw [writes]
    rfl

/-- The initialised couch changes vats, its taint and a copy's dirty regions (R321). -/
theorem State.initCouch_eq (s : State) (i : Image) (n : Nat) :
    let u := s.initCouch i n
    u = { s with vats := u.vats, sec := u.sec, twin := { s.twin with join := u.twin.join }, pages := u.pages } := by
  unfold State.initCouch
  dsimp only
  generalize ht : ({ s with vats := _, sec := _ } : State) = t
  have counts := Counted.of_countLines (t.vatWrite i.couch (leBytes 8 n ++ leBytes 8 noStep ++ leBytes 8 noStep)) 0x41
    (i.couch, (leBytes 8 n ++ leBytes 8 noStep ++ leBytes 8 noStep).length)
  rw [State.vatStore, counts.eq, ← ht]
  rfl

/-- Lockstep begins, and a TWIN_JOIN that runs ends with the step (R389). -/
theorem State.lockstep_spec (s : State) (first : Nat) :
    let u := s.lockstep first
    u.twin = { s.twin.clear with st := 1, join := none, ignoreLeave := false } ∧
    u = { s with h0 := u.h0, h1 := u.h1, pages := u.pages, run := u.run, train := u.train, twin := u.twin, fields := u.fields } ∧
    u.train.committed = s.train.committed ∧ u.train.invalid = s.train.invalid ∧ u.train.held = false ∧
    ∀ r, s.run = some r → r.op = 0x0A → u.run = none ∧ (u.port r.port).cmd.status = 0 ∧
      (u.port r.port).cmd.ret0 = BitVec.ofNat 64 first := by
  generalize ht : State.setTwin { s with twin := { s.twin.clear with join := none, ignoreLeave := false }
                                         train := { s.train with held := false } } 1 = t
  have begins := State.setTwin_eq { s with twin := { s.twin.clear with join := none, ignoreLeave := false }
                                           train := { s.train with held := false } } 1
  rw [ht] at begins
  have hu : s.lockstep first = match t.run with
      | some r => if r.op = 0x0A then t.endWith 0 first 0 else t
      | none => t := by
    rw [← ht]
    rfl
  have trun : t.run = s.run := by rw [begins]
  intro u
  by_cases ends : ∃ r, s.run = some r ∧ r.op = 0x0A
  · obtain ⟨r, hr, op⟩ := ends
    have hu' : u = t.endWith 0 first 0 := by
      show s.lockstep first = _
      rw [hu, trun, hr]
      exact if_pos op
    obtain ⟨cmd, -, -, eq⟩ := State.endWith_results (trun.trans hr) 0 first 0
    rw [← hu'] at cmd eq
    clear_value u
    refine ⟨by rw [eq, begins], by rw [eq, begins], by rw [eq, begins]; rfl, by rw [eq, begins]; rfl, by rw [eq, begins]; rfl,
      fun r' hr' _ => ?_⟩
    obtain rfl : r = r' := Option.some.inj (hr.symm.trans hr')
    exact ⟨by rw [eq], by rw [cmd], by rw [cmd]⟩
  · have hu' : u = t := by
      show s.lockstep first = _
      rw [hu, trun]
      cases hr : s.run with
      | none => rfl
      | some r => exact if_neg fun op => ends ⟨r, hr, op⟩
    clear_value u
    rw [hu']
    exact ⟨by rw [begins], by rw [begins], by rw [begins], by rw [begins], by rw [begins],
      fun r hr op => absurd ⟨r, hr, op⟩ ends⟩

/-- An event leaves the fault that a page holds. -/
theorem State.setEvt_info (s : State) (k bits j : Nat) : ((s.setEvt k bits).page j).info = (s.page j).info := by
  by_cases h : j = k
  · subst h
    rw [State.setEvt, State.modPage_page]
    split <;> rfl
  · rw [State.setEvt_page_ne _ _ _ _ h]

theorem State.setTwin_fault (s : State) (st k : Nat) :
    ((s.setTwin st).page k).code = (s.page k).code ∧ ((s.setTwin st).page k).info = (s.page k).info := by
  unfold State.setTwin
  split
  · exact ⟨rfl, rfl⟩
  · rw [State.setEvt_code, State.setEvt_info]
    exact ⟨rfl, rfl⟩

theorem State.unjoined_fault (s : State) (k : Nat) :
    (s.unjoined.page k).code = (s.page k).code ∧ (s.unjoined.page k).info = (s.page k).info := by
  unfold State.unjoined
  dsimp only
  split
  · exact State.setTwin_fault _ _ _
  · split
    · exact State.setTwin_fault _ _ _
    · exact ⟨rfl, rfl⟩

section
variable {s : State} {h : CalHdr} {j : JoinState} (hp : h.port < 4) (wire : h.wire = none)
  (up : (s.twin.port h.port).up = true) (ok : h.ok = true) (typed : h.typed = true)
  (seq : h.seq = (s.site (calSite h.port)).seqRx) (inward : (s.twin.port h.port).ctrIn + 1 < 2 ^ 32)
  (outward : (s.twin.port h.port).ctrOut < 2 ^ 32) (st : s.twin.st = 4)
include hp wire up ok typed seq inward outward st

theorem exec_switch_hears {i : Image} (image : s.trainImage = some i) (first : Nat) :
    exec (.switch h first) s =
      .next (State.lockstep { (s.hearsSeq h 8).initCouch i (first - 1) with
        train := { s.train with committed := first - 1, invalid := none } } first) := by
  have port : calOk h.port = true := by simpa [calOk] using hp
  have heard : s.heard h 0x23 = some (h, none) := by simp only [State.heard, wire]
  obtain ⟨eq, -, becomes⟩ := s.hearsSeq_spec h 8
  have image' : (s.hearsSeq h 8).trainImage = some i := by rw [eq]; exact image
  have st' : (s.hearsSeq h 8).twin.st = 4 := by rw [becomes.twin]; exact st
  have couch := (s.hearsSeq h 8).initCouch_eq i (first - 1)
  have train : ((s.hearsSeq h 8).initCouch i (first - 1)).train = s.train := by rw [couch, eq]
  have effect : ∀ k : State → State, k (s.hearsSeq h 8) = State.lockstep { (s.hearsSeq h 8).initCouch i (first - 1) with
      train := { s.train with committed := first - 1, invalid := none } } first → s.sequenced h 8 k = k (s.hearsSeq h 8) := by
    refine fun k hk => State.sequenced_keeps 8 up ok typed seq inward outward ?_
    rw [hk, (State.lockstep_spec _ first).1, couch]
    rfl
  show execSwitch h first s = _
  simp only [execSwitch, port, heard, Bool.not_true, Bool.false_eq_true, if_false, Option.map_none, Option.getD_none]
  rw [effect]
  all_goals simp only [image', st', train, ne_eq, not_true_eq_false, if_false]

variable (join : s.twin.join = some j)
include join

theorem exec_region_hears {body : List Byte} (joiner : j.joiner = true) (small : body.length ≤ 1048576)
    (inside : h.offset + body.length ≤ s.vats.vatEnd) :
    exec (.region h body) s =
      .next (State.modJoin ((s.hearsSeq h body.length).vatStore h.offset body) (·.stands (h.offset / 1048576) h.step)) := by
  have port : calOk h.port = true := by simpa [calOk] using hp
  have heard : s.heard h 0x20 = some (h, none) := by simp only [State.heard, wire]
  obtain ⟨eq, -, becomes⟩ := s.hearsSeq_spec h body.length
  have join' : (s.hearsSeq h body.length).twin.join = some j := by rw [becomes.twin]; exact join
  have st' : (s.hearsSeq h body.length).twin.st = 4 := by rw [becomes.twin]; exact st
  have vats : (s.hearsSeq h body.length).vats = s.vats := by rw [eq]
  have fits : ¬ (1048576 < body.length ∨ s.vats.vatEnd < h.offset + body.length) := by omega
  have effect : ∀ k : State → State, k (s.hearsSeq h body.length) =
      State.modJoin ((s.hearsSeq h body.length).vatStore h.offset body) (·.stands (h.offset / 1048576) h.step) →
      s.sequenced h body.length k = k (s.hearsSeq h body.length) := by
    refine fun k hk => State.sequenced_keeps _ up ok typed seq inward outward ?_
    rw [hk, State.modJoin, (State.vatStore_joining join' joiner h.offset body).1]
  show execRegion h body s = _
  simp only [execRegion, port, heard, Bool.not_true, Bool.false_eq_true, if_false, Option.getD_none]
  rw [effect]
  all_goals simp only [join', st', vats, fits, ne_eq, not_true_eq_false, false_or, if_false]

theorem exec_steplog_hears {i : Image} (image : s.trainImage = some i) {body : List Byte}
    (short : (j.log ++ [(h.offset, body)]).foldl (fun n p => n + p.2.length) 0 < stepLogLen i) :
    exec (.steplog h body) s = .next { s.hearsSeq h body.length with twin := { (s.hearsSeq h body.length).twin with
      join := some { j with log := j.log ++ [(h.offset, body)] } } } := by
  have port : calOk h.port = true := by simpa [calOk] using hp
  have heard : s.heard h 0x21 = some (h, none) := by simp only [State.heard, wire]
  obtain ⟨eq, -, becomes⟩ := s.hearsSeq_spec h body.length
  have join' : (s.hearsSeq h body.length).twin.join = some j := by rw [becomes.twin]; exact join
  have st' : (s.hearsSeq h body.length).twin.st = 4 := by rw [becomes.twin]; exact st
  have image' : (s.hearsSeq h body.length).trainImage = some i := by rw [eq]; exact image
  have effect : ∀ k : State → State, k (s.hearsSeq h body.length) = { s.hearsSeq h body.length with
      twin := { (s.hearsSeq h body.length).twin with join := some { j with log := j.log ++ [(h.offset, body)] } } } →
      s.sequenced h body.length k = k (s.hearsSeq h body.length) := by
    refine fun k hk => State.sequenced_keeps _ up ok typed seq inward outward ?_
    rw [hk]
  show execSteplog h body s = _
  simp only [execSteplog, port, heard, Bool.not_true, Bool.false_eq_true, if_false, Option.getD_none]
  rw [effect]
  all_goals simp only [join', st', image', short, ne_eq, not_true_eq_false, if_false, if_true]

theorem exec_roundEnd_hears {round left : Nat} (hround : round < 2 ^ 32) (hleft : left < 2 ^ 32) :
    exec (.roundEnd h round left) s = .next { s.hearsSeq h 8 with twin := { (s.hearsSeq h 8).twin with
      copyRound := round, copyLeft := left, join := some { j with round := round, left := left } } } := by
  have port : calOk h.port = true := by simpa [calOk] using hp
  have heard : s.heard h 0x22 = some (h, none) := by simp only [State.heard, wire]
  obtain ⟨eq, -, becomes⟩ := s.hearsSeq_spec h 8
  have join' : (s.hearsSeq h 8).twin.join = some j := by rw [becomes.twin]; exact join
  have st' : (s.hearsSeq h 8).twin.st = 4 := by rw [becomes.twin]; exact st
  have effect : ∀ k : State → State, k (s.hearsSeq h 8) = { s.hearsSeq h 8 with twin := { (s.hearsSeq h 8).twin with
      copyRound := round, copyLeft := left, join := some { j with round := round, left := left } } } →
      s.sequenced h 8 k = k (s.hearsSeq h 8) := by
    refine fun k hk => State.sequenced_keeps _ up ok typed seq inward outward ?_
    rw [hk]
  show execRoundEnd h round left s = _
  simp only [execRoundEnd, port, heard, Bool.not_true, Bool.false_eq_true, if_false, Option.map_none, Option.getD_none]
  rw [effect]
  all_goals simp only [join', st', Nat.mod_eq_of_lt hround, Nat.mod_eq_of_lt hleft, ne_eq, not_true_eq_false, if_false]

end

end Sys2Proof.Machine

open Sys2Proof Sys2Proof.Machine

/-- Settles O32: each message of the copy is its row's effect after the port has heard it (`State.sequenced_keeps`), and a
join without a port that is up fails as `State.joinFails_eq` says. -/
theorem joining : Obligations.Joining := by
  intro s h j i hp wire image
  refine ⟨fun up ok typed seq inward outward st join joiner =>
    ⟨fun body clean small inside => ?_, fun body short => ?_, fun round left hround hleft => ?_, fun first => ?_⟩,
    fun r hr op begun alone last => ?_⟩
  · have goes := exec_region_hears hp wire up ok typed seq inward outward st join joiner small inside
    obtain ⟨eq, pages, becomes⟩ := s.hearsSeq_spec h body.length
    generalize s.hearsSeq h body.length = v at goes eq pages becomes
    have join' : v.twin.join = some j := by rw [becomes.twin]; exact join
    obtain ⟨stores, counts⟩ := State.vatStore_joining join' joiner h.offset body
    generalize v.vatStore h.offset body = w at goes stores counts
    have mem : w.vats.mem = s.vats.mem.write h.offset body := by rw [stores, eq]
    refine ⟨_, goes, ?_, fun a ha => ?_, ?_, fun k hk => ?_, ?_⟩
    · show w.vats.mem.read _ _ = _
      rw [mem, EccMem.read_write _ _ _ clean]
    · show w.vats.mem.byte a = _
      rw [mem, EccMem.write_outside _ _ _ _ clean ha]
    · rw [State.modJoin, stores, join', becomes.twin]
      rfl
    · exact (counts k hk).trans (by rw [pages k hk]; rfl)
    · rw [State.modJoin, stores, eq]
  · have goes := exec_steplog_hears hp wire up ok typed seq inward outward st join image short
    obtain ⟨eq, pages, becomes⟩ := s.hearsSeq_spec h body.length
    refine ⟨_, goes, fun k hk => pages k hk, ?_, ?_⟩
    · rw [eq]
    · rw [becomes.twin]
  · have goes := exec_roundEnd_hears hp wire up ok typed seq inward outward st join hround hleft
    obtain ⟨eq, pages, becomes⟩ := s.hearsSeq_spec h 8
    refine ⟨_, goes, fun k hk => pages k hk, ?_, ?_⟩
    · rw [eq]
    · rw [becomes.twin]
  · have goes := exec_switch_hears hp wire up ok typed seq inward outward st image first
    obtain ⟨eq, -, becomes⟩ := s.hearsSeq_spec h 8
    generalize s.hearsSeq h 8 = v at goes eq becomes
    have couch := v.initCouch_eq i (first - 1)
    generalize hw : ({ v.initCouch i (first - 1) with
      train := { s.train with committed := first - 1, invalid := none } } : State) = w at goes
    have base : w = { s with
        h0 := w.h0, h1 := w.h1, pages := w.pages, vats := w.vats, sec := w.sec, twin := w.twin, sites := w.sites
        train := { s.train with committed := first - 1, invalid := none } } := by
      rw [← hw, couch, eq]
    obtain ⟨twin, ends, committed, invalid, held, done⟩ := w.lockstep_spec first
    generalize w.lockstep first = u at goes twin ends committed invalid held done
    refine ⟨u, goes, by rw [twin], by rw [twin], ?_, ?_, held, ?_, ?_, ?_, fun r hr op => ?_⟩
    · rw [committed, base]
    · rw [invalid, base]
    · rw [ends, base]
    · rw [ends, base]
    · rw [ends, base]
    · exact done r (by rw [base]; exact hr) op
  · have goes : exec .joinTimeout s = .next (s.joinFails fPARTNER_LOST 8) := by
      show execJoinTimeout s = _
      simp [execJoinTimeout, hr, op, begun, alone, last]
    rw [State.joinFails_eq hr op, if_neg (by decide)] at goes
    have only := s.recordFault_only pgTwin fPARTNER_LOST 8
    have on := s.recordFault_on pgTwin fPARTNER_LOST 8
    generalize s.recordFault pgTwin fPARTNER_LOST 8 = v at goes only on
    have leaves := v.unjoined_only.2
    have fault := v.unjoined_fault pgTwin
    generalize v.unjoined = w at goes leaves fault
    have wrun : w.run = some r := by rw [leaves, only.2]; exact hr
    obtain ⟨cmd, pages, -, eq⟩ := State.endWith_results wrun fPARTNER_LOST 0 0
    have fields := State.endWith_fields wrun (by omega) (by omega) fPARTNER_LOST 0 0
    generalize w.endWith fPARTNER_LOST 0 0 = u at goes cmd pages eq fields
    have page := pages pgTwin (by cases r.port <;> decide)
    refine ⟨u, goes, by rw [cmd], fun there => ?_, ?_⟩
    · obtain ⟨-, code, info, -⟩ := on there
      rw [page]
      exact ⟨fault.1.trans code, fault.2.trans info⟩
    · rw [eq, fields, leaves, only.2, ← alone]
end

section
/-! PROOFS. TWIN_JOIN, TWIN_LEAVE, RESET_COMPUTE and SCRUB of the lease holder (R380, R385, R386, R390, R417, R440, R477). -/

namespace Sys2Proof.Machine

/-! Commands that begin and end at once -/

/-- A command that begins counts its vote on pages that otherwise stay (R22). -/
theorem State.begun_pages (s : State) (p : HPort) (op : Nat) (a : CmdArgs) : PagesKeep s (s.begun p op a) [] := by
  intro k hk
  rw [(s.begun_frame p op a).2.2 k hk, State.modCmd_page]

/-- A fault recorded in the middle of what otherwise leaves its page. -/
theorem FaultOn.within {s t v u : State} {k code info : Nat} {ks : List Nat} (on : FaultOn t v k code info)
    (before : PagesKeep s t []) (after : PagesKeep v u ks) (hk : k ∉ ks) : FaultOn s u k code info := by
  unfold FaultOn at *
  rw [before k (by simp)] at on
  rw [after k hk]
  exact on

/-- The end of a command that has changed no port and, but for events, none of its own page (R438). -/
theorem begun_endWith {s v : State} {p : HPort} {op : Nat} {a : CmdArgs} {ks : List Nat}
    (frame : EventFrame (s.begun p op a) v ks) (own : pgCmd p ∉ ks)
    (hr : v.run = some { latched s p op a with begun := true }) (h4 : op ≠ 4) (h5 : op ≠ 5) (status r0 r1 : Nat) :
    let u := v.endWith status r0 r1
    Ended s u p op a status r0 r1 ∧ HostFrame s u p (pgCmd p :: ks) ∧ PagesKeep v u [pgCmd p] ∧
    u = { v with h0 := u.h0, h1 := u.h1, pages := u.pages, run := none, train := v.train.idle } := by
  have lost : (v.page (pgCmd p)).lost = (s.page (pgCmd p)).lost := by
    rw [frame.2.2 _ own, ← s.begun_lost p op a]
  obtain ⟨ended, host, eq, fields, -⟩ := endWith_spec (((s.begun_frame p op a).mono (by simp)).trans frame) _ hr rfl rfl lost
    status r0 r1
  obtain ⟨-, pages, -, -⟩ := State.endWith_results hr status r0 r1
  refine ⟨ended, host, pages, ?_⟩
  rw [← fields h4 h5]
  exact eq

section
variable {s : State} {p : HPort} {a : CmdArgs} (h : Accepts s p) (hf : a.flags = 0)
include h hf

theorem exec_twinJoin : exec (.twinJoin p a) s = .next (s.begun p 0x0A a).twinJoin :=
  congrArg Host.Outcome.next (hostCommand_runs h 0x0A a (by simp [argsOk, hf]))

theorem exec_twinLeave : exec (.twinLeave p a) s = .next (s.begun p 0x0B a).twinLeave :=
  congrArg Host.Outcome.next (hostCommand_runs h 0x0B a (by simp [argsOk, hf]))

theorem exec_resetCompute : exec (.resetCompute p a) s = .next (s.begun p 0x0C a).resetCompute :=
  congrArg Host.Outcome.next (hostCommand_runs h 0x0C a (by simp [argsOk, hf]))

theorem exec_scrub : exec (.scrub p a) s = .next (s.begun p 0x0D a).scrubCommand :=
  congrArg Host.Outcome.next (hostCommand_runs h 0x0D a (by simp [argsOk, hf]))

end

/-! TWIN_JOIN -/

/-- HELLO leaves by several ports whose counters do not run out, one by each (R382, R386). -/
theorem foldl_sendHello (ps : List Nat) (s : State) (nodup : ps.Nodup) (role : Nat)
    (counters : ∀ q ∈ ps, (s.twin.port q).ctrIn < 2 ^ 32 ∧ (s.twin.port q).ctrOut + 1 < 2 ^ 32) :
    let u := ps.foldl (fun s p => s.sendHello p role) s
    u = { s with twin := u.twin, pages := u.pages } ∧ PagesKeep s u [] ∧
    (∃ ms : List SentMsg, ms.map (fun m => (m.port, m.type)) = ps.map (fun q => (q, 1)) ∧
      u.twin = { s.twin with ports := u.twin.ports, sent := s.twin.sent ++ ms }) ∧
    ∀ q, u.twin.port q = { s.twin.port q with
      aliveOut := (u.twin.port q).aliveOut, ctrOut := (u.twin.port q).ctrOut } := by
  induction ps generalizing s with
  | nil => exact ⟨rfl, .refl s [], ⟨[], rfl, by simp⟩, fun q => rfl⟩
  | cons p ps ih =>
    obtain ⟨fresh, rest⟩ := List.nodup_cons.mp nodup
    obtain ⟨eq, pages, ⟨m, port, type, sent⟩, mine, others⟩ := s.sendAlive_spec p 1 (s.helloBody p role)
    have sends : s.sendHello p role = s.sendAlive p 1 (s.helloBody p role) := by
      refine State.rekey_eq_self fun _ => ?_
      rw [mine]
      exact counters p (by simp)
    rw [List.foldl_cons, sends]
    generalize s.sendAlive p 1 (s.helloBody p role) = t at *
    obtain ⟨eq', pages', ⟨ms, map, sent'⟩, ports⟩ := ih t rest fun q hq => by
      rw [others q fun e => fresh (e ▸ hq)]
      exact counters q (by simp [hq])
    generalize ps.foldl (fun s p => s.sendHello p role) t = u at *
    refine ⟨by rw [eq', eq], pages.trans pages', ⟨m :: ms, ?_, ?_⟩, fun q => ?_⟩
    · rw [List.map_cons, List.map_cons, map, port, type]
    · rw [sent', sent, List.append_assoc]
      rfl
    · rw [ports q]
      by_cases hq : q = p
      · subst hq
        rw [mine]
      · rw [others q hq]

theorem Twin.upPorts_lt {t : Twin} {q : Nat} (hq : q ∈ t.upPorts) : q < 4 :=
  List.mem_range.mp (List.mem_filter.mp hq).1

/-- A member in no copy only forgets one (R386). -/
theorem State.unjoined_eq {s : State} (st4 : s.twin.st ≠ 4) (st3 : s.twin.st ≠ 3) :
    s.unjoined = { s with twin := { s.twin with join := none } } := by
  simp only [State.unjoined, st4, st3, if_false]

/-- In lockstep TWIN_JOIN has nothing to do (R386). -/
theorem State.twinJoin_lockstep {s : State} {i : Image} (image : s.trainImage = some i) (st : s.twin.st = 1) :
    s.twinJoin = s.endWith 0 ((s.train.sealedStep.map fun x => x.step + 1).getD s.nextStep) 0 := by
  simp only [State.twinJoin, image, st, Option.isNone_some, Bool.false_eq_true, if_false, if_true]
  cases s.train.sealedStep <;> rfl

/-- A member that holds a copy has its partner already (R386). -/
theorem State.twinJoin_holder {s : State} {i : Image} {r : Running} (hr : s.run = some r) (op : r.op = 0x0A)
    (image : s.trainImage = some i) (st : s.twin.st = 3) :
    s.twinJoin = (s.recordFault pgTwin fPAIR_DIVERGENCE 7).endWith fPAIR_DIVERGENCE 0 0 := by
  have still : (s.recordFault pgTwin fPAIR_DIVERGENCE 7).run = some r := by rw [State.recordFault_eq]; exact hr
  have ret : (s.recordFault pgTwin fPAIR_DIVERGENCE 7).ret0 r = 0 := by simp [State.ret0, op]
  simp only [State.twinJoin, image, st, Option.isNone_some, Bool.false_eq_true, if_false, if_true, show ¬ (3 = 1) by decide,
    State.endJoin, still, op, State.endCommand, ret]

/-- Without a training program TWIN_JOIN fails (R386). -/
theorem State.twinJoin_unloaded {s : State} {r : Running} (hr : s.run = some r) (op : r.op = 0x0A) (image : s.trainImage = none)
    (st : s.twin.st = 0 ∨ s.twin.st = 2) :
    s.twinJoin = State.endWith { s.recordFault pgTwin fDESC_INVALID 5 with twin := { s.twin with join := none } }
      fDESC_INVALID 0 0 := by
  have twin : (s.recordFault pgTwin fDESC_INVALID 5).twin = s.twin := by rw [State.recordFault_eq]
  have joins : s.twinJoin = s.joinFails fDESC_INVALID 5 := by
    simp only [State.twinJoin, image, Option.isNone_none, if_true]
  rw [joins, State.joinFails_eq hr op, if_neg (by decide), State.unjoined_eq (by rw [twin]; omega) (by rw [twin]; omega), twin]

/-! TWIN_LEAVE -/

/-- What a fill with free bytes writes is vat space, with the marks of a write (R388, R417). -/
theorem State.freeVat_regions (s : State) (rs : List (Nat × Nat)) :
    (∃ j, (s.freeVat rs).twin = { s.twin with join := j }) ∧
    (∃ l, (s.freeVat rs).sec = { s.sec with taintVat := l }) ∧
    (s.vats.mem.errs = [] → (s.freeVat rs).vats.mem.errs = []) := by
  induction rs generalizing s with
  | nil => exact ⟨⟨_, rfl⟩, ⟨_, rfl⟩, id⟩
  | cons r rs ih =>
    obtain ⟨⟨j, twin⟩, ⟨l, sec⟩, clean⟩ := ih ({ s with free := s.free + r.2 }.vatWrite r.1 (freeBytes s.free r.2))
    exact ⟨⟨j, twin⟩, ⟨l, sec⟩, fun hs => clean (EccMem.write_errs _ _ _ hs)⟩

/-- What a discarded program's work leaves of the felt, the pair and the tainted regions (R177, R388, R417). -/
theorem State.discard_keeps (s : State) (prog : Nat) :
    (∃ mine, (s.discard prog).felt = s.felt.drop prog mine) ∧
    (∃ j, (s.discard prog).twin = { s.twin with join := j }) ∧
    (∃ l, (s.discard prog).sec = { s.sec with taintVat := l }) ∧
    (s.vats.mem.errs = [] → (s.discard prog).vats.mem.errs = []) := by
  have regions := s.freeVat_regions (s.droppedRanges prog)
  have fills := s.freeVat_eq (s.droppedRanges prog)
  unfold State.discard
  dsimp only
  generalize s.freeVat (s.droppedRanges prog) = t at regions fills
  have felt : t.felt = s.felt := by rw [fills]
  rw [State.freeTiles_eq]
  exact ⟨⟨_, congrArg (Felt.drop · prog fun t => s.owner (t / 16) == some prog) felt⟩, regions⟩

/-- A member leaves the pair while no counter runs out (R367, R380). -/
theorem State.leavePair_spec (s : State) (reason : Nat)
    (counters : ∀ q, q < 4 → (s.twin.port q).ctrIn < 2 ^ 32 ∧ (s.twin.port q).ctrOut + 1 < 2 ^ 32) :
    let u := s.leavePair reason
    u = { s with twin := u.twin, h0 := u.h0, h1 := u.h1, pages := u.pages } ∧ EventFrame s u [pgTwin] ∧
    ∃ ms : List SentMsg, ms.map (fun m => (m.port, m.type)) = s.twin.upPorts.map (fun q => (q, 3)) ∧
      u.twin = { s.twin.clear with st := 0, join := none, probe := none, ports := u.twin.ports, sent := s.twin.sent ++ ms } := by
  obtain ⟨eq, pages, -, ms, map, sent⟩ := s.sendLeave_spec reason counters
  unfold State.leavePair
  dsimp only
  generalize s.sendLeave reason = t at *
  have only := State.setTwin_only { t with twin := { t.twin.clear with join := none, probe := none } } 0
  generalize State.setTwin { t with twin := { t.twin.clear with join := none, probe := none } } 0 = u at only
  have frame : EventFrame s t [] := ⟨by rw [eq]; rfl, by rw [eq]; rfl, pages⟩
  refine ⟨by rw [only.2, eq], (frame.mono (by simp)).trans only.1, ms, map, ?_⟩
  rw [only.2, sent]
  rfl

/-- A member in lockstep discards its step in flight, leaves the pair and ends the command (R380, R390). -/
theorem State.twinLeave_lockstep {s : State} (st : s.twin.st = 1) :
    s.twinLeave = State.endWith (State.leavePair { s.discard 0 with
      train := { s.train with ph1 := none, sealedStep := none, held := false } } 0) 0 0 0 := by
  have paired : s.paired = true := by simp [State.paired, st]
  obtain ⟨-, ⟨j, twin⟩, -⟩ := s.discard_keeps 0
  have stays : (s.discard 0).twin.st = 1 := by rw [twin]; exact st
  have train : (s.discard 0).train = s.train := by rw [State.discard_eq]
  have held : ((1 : Nat) == 5) = false := rfl
  simp only [State.twinLeave, paired, st, stays, train, held, show ¬ (1 = 3) by decide, if_false, if_true]

/-- TWIN_LEAVE in no pair has nothing to do (log entry 31). -/
theorem State.twinLeave_alone {s : State} (st : s.twin.st = 0 ∨ s.twin.st = 2) : s.twinLeave = s.endWith 0 0 0 := by
  have paired : s.paired = false := by obtain st | st := st <;> simp [State.paired, st]
  have st3 : s.twin.st ≠ 3 := by omega
  simp only [State.twinLeave, paired, st3, Bool.false_eq_true, if_false]

/-! The commands that end at once, as the port that staged them sees them -/

section
variable {s : State} {p : HPort} {a : CmdArgs}

/-- The state after a command's start, in terms of the one before. -/
structure Starts (s b : State) (p : HPort) (op : Nat) (a : CmdArgs) : Prop where
  eq : b = { s with h0 := b.h0, h1 := b.h1, pages := b.pages, run := some { latched s p op a with begun := true } }
  pages : PagesKeep s b []
  ends : ∀ {v : State} {ks : List Nat}, EventFrame b v ks → pgCmd p ∉ ks → v.run = b.run → ∀ status r0 r1,
    Ended s (v.endWith status r0 r1) p op a status r0 r1 ∧ HostFrame s (v.endWith status r0 r1) p (pgCmd p :: ks) ∧
    PagesKeep v (v.endWith status r0 r1) [pgCmd p] ∧
    v.endWith status r0 r1 = { v with
      h0 := (v.endWith status r0 r1).h0, h1 := (v.endWith status r0 r1).h1, pages := (v.endWith status r0 r1).pages
      run := none, train := v.train.idle }
  frame : ∀ {v : State} {ks : List Nat}, EventFrame b v ks → HostFrame s v p ks

theorem State.begun_starts (s : State) (p : HPort) {op : Nat} (a : CmdArgs) (h4 : op ≠ 4) (h5 : op ≠ 5) :
    Starts s (s.begun p op a) p op a :=
  ⟨s.begun_eq p op a, s.begun_pages p op a,
    fun frame own hr => begun_endWith frame own (hr.trans (by rw [State.begun_eq])) h4 h5,
    fun frame => (hostFrame_of (((s.begun_frame p op a).mono (by simp)).trans frame)).1⟩

theorem pgCmd_ne_pgTwin (p : HPort) : pgCmd p ∉ [pgTwin] := by cases p <;> decide

theorem pgTwin_ne_pgCmd (p : HPort) : pgTwin ∉ [pgCmd p] := by cases p <;> decide

variable (h : Accepts s p) (hf : a.flags = 0)
include h hf

theorem exec_twinJoin_lockstep {i : Image} (image : s.trainImage = some i) (st : s.twin.st = 1) :
    ∃ u, exec (.twinJoin p a) s = .next u ∧
      Ended s u p 0x0A a 0 ((s.train.sealedStep.map fun x => x.step + 1).getD s.nextStep) 0 ∧ HostFrame s u p [pgCmd p] ∧
      u = { s with h0 := u.h0, h1 := u.h1, pages := u.pages, train := s.train.idle } := by
  have goes := exec_twinJoin h hf
  obtain ⟨eq, -, ends, -⟩ := s.begun_starts p (op := 0x0A) a (by decide) (by decide)
  generalize s.begun p 0x0A a = b at goes eq ends
  have image' : b.trainImage = some i := by rw [eq]; exact image
  have train : b.train = s.train := by rw [eq]
  have next : b.nextStep = s.nextStep := by rw [eq]; rfl
  rw [State.twinJoin_lockstep image' (by rw [eq]; exact st), train, next] at goes
  obtain ⟨ended, host, -, eq'⟩ := ends (.refl b []) (by simp) rfl 0
    ((s.train.sealedStep.map fun x => x.step + 1).getD s.nextStep) 0
  generalize b.endWith 0 ((s.train.sealedStep.map fun x => x.step + 1).getD s.nextStep) 0 = u at goes ended host eq'
  exact ⟨u, goes, ended, host, by rw [eq', eq, ← h.run_eq_none]⟩

theorem exec_twinJoin_holder {i : Image} (image : s.trainImage = some i) (st : s.twin.st = 3) :
    ∃ u, exec (.twinJoin p a) s = .next u ∧ Ended s u p 0x0A a fPAIR_DIVERGENCE 0 0 ∧
      FaultOn s u pgTwin fPAIR_DIVERGENCE 7 ∧ HostFrame s u p [pgCmd p, pgTwin] ∧
      u = { s with h0 := u.h0, h1 := u.h1, pages := u.pages, train := s.train.idle } := by
  have goes := exec_twinJoin h hf
  obtain ⟨eq, pages, ends, -⟩ := s.begun_starts p (op := 0x0A) a (by decide) (by decide)
  generalize s.begun p 0x0A a = b at goes eq pages ends
  rw [State.twinJoin_holder (by rw [eq]) rfl (by rw [eq]; exact image) (by rw [eq]; exact st)] at goes
  have only := b.recordFault_only pgTwin fPAIR_DIVERGENCE 7
  have on := b.recordFault_on pgTwin fPAIR_DIVERGENCE 7
  generalize b.recordFault pgTwin fPAIR_DIVERGENCE 7 = v at goes only on
  obtain ⟨ended, host, after, eq'⟩ := ends only.1 (pgCmd_ne_pgTwin p) (by rw [only.2]) fPAIR_DIVERGENCE 0 0
  generalize v.endWith fPAIR_DIVERGENCE 0 0 = u at goes ended host after eq'
  exact ⟨u, goes, ended, on.within pages after (pgTwin_ne_pgCmd p), host, by rw [eq', only.2, eq, ← h.run_eq_none]⟩

theorem exec_twinJoin_hellos {i : Image} (image : s.trainImage = some i) (st1 : s.twin.st ≠ 1) (st3 : s.twin.st ≠ 3)
    (counters : ∀ q, q < 4 → (s.twin.port q).ctrIn < 2 ^ 32 ∧ (s.twin.port q).ctrOut + 1 < 2 ^ 32) :
    ∃ u ms, exec (.twinJoin p a) s = .next u ∧ HostFrame s u p [] ∧
      u = { s with h0 := u.h0, h1 := u.h1, pages := u.pages, run := some { latched s p 0x0A a with begun := true }
                   twin := { s.twin with ports := u.twin.ports, sent := s.twin.sent ++ ms } } ∧
      ms.map (fun m => (m.port, m.type)) = s.twin.upPorts.map (fun q => (q, 1)) ∧
      ∀ q, u.twin.port q = { s.twin.port q with
        aliveOut := (u.twin.port q).aliveOut, ctrOut := (u.twin.port q).ctrOut } := by
  have goes := exec_twinJoin h hf
  obtain ⟨eq, -, -, frame⟩ := s.begun_starts p (op := 0x0A) a (by decide) (by decide)
  generalize s.begun p 0x0A a = b at goes eq frame
  have twin : b.twin = s.twin := by rw [eq]
  have image' : b.trainImage = some i := by rw [eq]; exact image
  have hellos : b.twinJoin = s.twin.upPorts.foldl (fun s p => s.sendHello p 2) b := by
    simp only [State.twinJoin, image', twin, st1, st3, Option.isNone_some, Bool.false_eq_true, if_false]
  rw [hellos] at goes
  obtain ⟨eq', pages, ⟨ms, map, sent⟩, ports⟩ := foldl_sendHello s.twin.upPorts b s.twin.upPorts_nodup 2 fun q hq => by
    rw [twin]
    exact counters q (Twin.upPorts_lt hq)
  generalize s.twin.upPorts.foldl (fun s p => s.sendHello p 2) b = u at goes eq' pages sent ports
  rw [twin] at sent ports
  refine ⟨u, ms, goes, frame ⟨by rw [eq']; rfl, by rw [eq']; rfl, pages⟩, ?_, map, ports⟩
  rw [← sent, eq', eq]

theorem exec_twinJoin_unloaded (image : s.trainImage = none) (st : s.twin.st = 0 ∨ s.twin.st = 2) :
    ∃ u, exec (.twinJoin p a) s = .next u ∧ Ended s u p 0x0A a fDESC_INVALID 0 0 ∧ FaultOn s u pgTwin fDESC_INVALID 5 ∧
      HostFrame s u p [pgCmd p, pgTwin] ∧
      u = { s with h0 := u.h0, h1 := u.h1, pages := u.pages, train := s.train.idle, twin := { s.twin with join := none } } := by
  have goes := exec_twinJoin h hf
  obtain ⟨eq, pages, ends, -⟩ := s.begun_starts p (op := 0x0A) a (by decide) (by decide)
  generalize s.begun p 0x0A a = b at goes eq pages ends
  rw [State.twinJoin_unloaded (by rw [eq]) rfl (by rw [eq]; exact image) (by rw [eq]; exact st)] at goes
  have only := b.recordFault_only pgTwin fDESC_INVALID 5
  have on := b.recordFault_on pgTwin fDESC_INVALID 5
  generalize b.recordFault pgTwin fDESC_INVALID 5 = w at goes only on
  generalize hv : ({ w with twin := { b.twin with join := none } } : State) = v at goes
  have frame : EventFrame b v [pgTwin] := by
    rw [← hv]
    exact only.1
  have fault : FaultOn b v pgTwin fDESC_INVALID 5 := by
    rw [← hv]
    exact on
  obtain ⟨ended, host, after, eq'⟩ := ends frame (pgCmd_ne_pgTwin p) (by rw [← hv, only.2]) fDESC_INVALID 0 0
  generalize v.endWith fDESC_INVALID 0 0 = u at goes ended host after eq'
  exact ⟨u, goes, ended, fault.within pages after (pgTwin_ne_pgCmd p), host,
    by rw [eq', ← hv, only.2, eq, ← h.run_eq_none]⟩

theorem exec_twinLeave_alone (st : s.twin.st = 0 ∨ s.twin.st = 2) :
    ∃ u, exec (.twinLeave p a) s = .next u ∧ Ended s u p 0x0B a 0 0 0 ∧ HostFrame s u p [pgCmd p] ∧
      u = { s with h0 := u.h0, h1 := u.h1, pages := u.pages, train := s.train.idle } := by
  have goes := exec_twinLeave h hf
  obtain ⟨eq, -, ends, -⟩ := s.begun_starts p (op := 0x0B) a (by decide) (by decide)
  generalize s.begun p 0x0B a = b at goes eq ends
  rw [State.twinLeave_alone (by rw [eq]; exact st)] at goes
  obtain ⟨ended, host, -, eq'⟩ := ends (.refl b []) (by simp) rfl 0 0 0
  generalize b.endWith 0 0 0 = u at goes ended host eq'
  exact ⟨u, goes, ended, host, by rw [eq', eq, ← h.run_eq_none]⟩

theorem exec_twinLeave_lockstep (st : s.twin.st = 1)
    (counters : ∀ q, q < 4 → (s.twin.port q).ctrIn < 2 ^ 32 ∧ (s.twin.port q).ctrOut + 1 < 2 ^ 32) :
    ∃ u ms, exec (.twinLeave p a) s = .next u ∧ Ended s u p 0x0B a 0 0 0 ∧ HostFrame s u p [pgCmd p, pgTwin] ∧
      u = { s with h0 := u.h0, h1 := u.h1, pages := u.pages, tiles := u.tiles, felt := u.felt, vats := u.vats
                   sec := u.sec, free := u.free
                   train := { s.train.idle with ph1 := none, sealedStep := none, held := false }
                   twin := { s.twin.clear with st := 0, join := none, probe := none, ports := u.twin.ports
                                               sent := s.twin.sent ++ ms } } ∧
      ms.map (fun m => (m.port, m.type)) = s.twin.upPorts.map (fun q => (q, 3)) ∧
      u.sec = { s.sec with taintVat := u.sec.taintVat } ∧
      ∀ k ∈ u.felt.packets, k ∈ s.felt.packets ∧ ¬(k.prog = 0 ∧ k.ctx = .c0) := by
  have goes := exec_twinLeave h hf
  obtain ⟨eq, -, ends, -⟩ := s.begun_starts p (op := 0x0B) a (by decide) (by decide)
  generalize s.begun p 0x0B a = b at goes eq ends
  rw [State.twinLeave_lockstep (by rw [eq]; exact st)] at goes
  have drops := b.discard_eq 0
  obtain ⟨⟨mine, felt⟩, ⟨j, twin⟩, ⟨l, sec⟩, -⟩ := b.discard_keeps 0
  generalize b.discard 0 = d at goes drops felt twin sec
  generalize ht : ({ d with train := { b.train with ph1 := none, sealedStep := none, held := false } } : State) = t at goes
  have ttwin : t.twin = { s.twin with join := j } := by rw [← ht, twin, eq]
  have frame : EventFrame b t [] := by
    rw [← ht, drops]
    exact ⟨rfl, rfl, .refl b []⟩
  obtain ⟨leaves, after, ms, map, sent⟩ := t.leavePair_spec 0 fun q hq => by
    rw [ttwin]
    exact counters q hq
  generalize t.leavePair 0 = v at goes leaves after sent
  obtain ⟨ended, host, -, eq'⟩ := ends ((frame.mono (by simp)).trans after) (pgCmd_ne_pgTwin p)
    (by rw [leaves, ← ht, drops]) 0 0 0
  generalize v.endWith 0 0 0 = u at goes ended host eq'
  have usec : u.sec = { s.sec with taintVat := l } := by rw [eq', leaves, ← ht, sec, eq]
  have packets : u.felt.packets = s.felt.packets.filter fun k => !(k.prog == 0 && k.ctx == .c0) := by
    rw [eq', leaves, ← ht, felt, eq]
    rfl
  have utwin : u.twin = v.twin := by rw [eq']
  rw [ttwin] at map sent
  refine ⟨u, ms, goes, ended, host, ?_, map, by rw [usec], fun k hk => ?_⟩
  · have base : u = { b with h0 := u.h0, h1 := u.h1, pages := u.pages, tiles := u.tiles, felt := u.felt, vats := u.vats
                             sec := u.sec, free := u.free, run := none, twin := u.twin
                             train := { b.train.idle with ph1 := none, sealedStep := none, held := false } } := by
      rw [eq', leaves, ← ht, drops]
      rfl
    rw [base, utwin, sent, eq, ← h.run_eq_none]
    rfl
  · rw [packets] at hk
    obtain ⟨there, other⟩ := List.mem_filter.mp hk
    refine ⟨there, fun ⟨prog, ctx⟩ => ?_⟩
    simp [prog, ctx] at other

end

/-! RESET_COMPUTE -/

theorem StoresVats.of_counted {s u : State} (h : Counted s u) : StoresVats s u := ⟨by rw [h.eq], h.pages⟩

/-- Phase 2's write into a memory without errors (R286, R388). -/
theorem StoresVats.of_phase2Write {s : State} (clean : s.vats.mem.errs = []) (a : Nat) (bs : List Byte) :
    StoresVats s (s.phase2Write a bs) := by
  have writes : StoresVats s (s.portWrites a bs false) ∧ (s.portWrites a bs false).vats.mem.errs = [] := by
    refine List.foldlRecOn (motive := fun t : State => StoresVats s t ∧ t.vats.mem.errs = []) _ _ ⟨.refl s, clean⟩
      fun t ⟨stores, tclean⟩ l _ => ?_
    obtain ⟨line, o, piece⟩ := l
    have counts := t.portWrite_clean tclean line o piece
    have one : StoresVats t (t.vatWrite (line + o) piece) := ⟨rfl, .refl _ _⟩
    refine ⟨stores.trans (one.trans (.of_counted counts)), ?_⟩
    rw [counts.eq]
    exact EccMem.write_errs _ _ _ tclean
  unfold State.phase2Write
  dsimp only
  split
  · exact writes.1
  · exact ⟨by rw [writes.1.eq], writes.1.pages⟩

/-- With no step in phase 2 there is nothing to roll forward: at most PHASE2 of the couch header is closed (R320). -/
theorem State.rollForward_idle {s : State} (clean : s.vats.mem.errs = []) (ph2 : s.train.ph2 = none) :
    StoresVats s (s.rollForward none) := by
  unfold State.rollForward
  cases s.trainImage with
  | none => exact .refl s
  | some i =>
    dsimp only
    rw [State.phase2Read_clean clean]
    have counts := Counted.of_reads s i.couchRanges
    generalize i.couchRanges.foldl (fun s r => s.countLines 0x40 r) s = t at counts
    have tclean : t.vats.mem.errs = [] := by rw [counts.eq]; exact clean
    have idle : t.train.ph2 = none := by rw [counts.eq]; exact ph2
    have reads : StoresVats s t := .of_counted counts
    rw [idle]
    dsimp only
    split
    · exact reads
    · split
      · exact reads.trans (.of_phase2Write tclean _ _)
      · exact reads

/-- The reload of the tiles writes tiles alone (R471, R477). -/
theorem State.reloadTiles_onlyTiles (s : State) : OnlyTiles s s.reloadTiles := by
  have zeroed : OnlyTiles s { s with tiles := s.tiles.map fun t => (t.1, { t.2 with sram := {} }) } := rfl
  exact zeroed.trans (.foldl (fun t i => t.rebuild_onlyTiles i fun _ => true) _ _)

/-- With no program loaded every tile stays empty (R471, R477). -/
theorem State.reloadTiles_empty {s : State} (tiles : s.tiles = []) (unloaded : ∀ i, i < 4 → s.prog i = none) :
    s.reloadTiles = s := by
  have zeroed : ({ s with tiles := s.tiles.map fun t => (t.1, { t.2 with sram := {} }) } : State) = s := by
    rw [tiles, List.map_nil, ← tiles]
  unfold State.reloadTiles
  dsimp only
  rw [zeroed]
  simp only [List.foldl_cons, List.foldl_nil]
  rw [State.rebuild_empty _ (unloaded 0 (by decide)), State.rebuild_empty _ (unloaded 1 (by decide)),
    State.rebuild_empty _ (unloaded 2 (by decide)), State.rebuild_empty _ (unloaded 3 (by decide))]

theorem State.loaded_eq_nil {s : State} (h : s.loaded = []) {i : Nat} (hi : i < 4) : s.prog i = none := by
  have none_ := List.filter_eq_nil_iff.mp h i (List.mem_range.mpr hi)
  simpa using none_

theorem State.discard_clean {s : State} {prog : Nat} (clean : s.vats.mem.errs = []) : (s.discard prog).vats.mem.errs = [] :=
  (s.discard_keeps prog).2.2.2 clean

/-- The work of every program is discarded (R477). -/
def State.discardAll (s : State) : State := (((s.discard 0).discard 1).discard 2).discard 3

theorem State.discardAll_eq (s : State) :
    let u := s.discardAll
    u = { s with vats := u.vats, sec := u.sec, twin := u.twin, tiles := u.tiles, felt := u.felt, free := u.free } := by
  have step := fun (t : State) (k : Nat) (ht : t = { s with
      vats := t.vats, sec := t.sec, twin := t.twin, tiles := t.tiles, felt := t.felt, free := t.free }) =>
    (show t.discard k = { s with
        vats := (t.discard k).vats, sec := (t.discard k).sec, twin := (t.discard k).twin, tiles := (t.discard k).tiles
        felt := (t.discard k).felt, free := (t.discard k).free } by
      have drops := t.discard_eq k
      generalize t.discard k = d at drops
      rw [drops, ht])
  exact step _ 3 (step _ 2 (step _ 1 (step s 0 rfl)))

theorem State.discardAll_clean {s : State} (clean : s.vats.mem.errs = []) : s.discardAll.vats.mem.errs = [] := by
  unfold State.discardAll
  exact State.discard_clean (State.discard_clean (State.discard_clean (State.discard_clean clean)))

/-- The training run once its work is cleared: a step that a divergence holds stays (R477). -/
def Train.cleared (t : Train) : Train :=
  { t with ph1 := none, sealedStep := if t.held then t.sealedStep else none, running := false, ending := none
           feedWait := false }

/-- The work of a module that has discarded it is cleared (R477). -/
def State.cleared (s : State) : State :=
  { s with
    train := s.train.cleared
    queries := s.queries.map fun q => (q.1, { q.2 with run := none, served := false, next := q.2.completed })
    bind := { s.bind with req := none }
    twin := { s.twin with probe := none }
    tiles := []
    felt := { s.felt with
      packets := [], responses := [], unacked := [], conv := [], rounds := [], done := [], next := [], replays := []
      wave := none } }

/-- What RESET_COMPUTE leaves before it ends (R477). -/
def State.resetWork (s : State) : State := s.discardAll.cleared.reloadTiles.rollForward none

theorem State.resetCompute_eq (s : State) : s.resetCompute = s.resetWork.endWith 0 s.resetWork.train.committed 0 := by
  have train : s.train = s.discardAll.train := by rw [State.discardAll_eq]
  unfold State.resetCompute State.stopAll State.resetWork
  rw [train]
  unfold State.discardAll
  generalize (((s.discard 0).discard 1).discard 2).discard 3 = d
  rfl

/-- What a reset of the computing part leaves, while the memory has no errors and no step is in phase 2 (R477). -/
theorem State.cleared_reloads {s : State} (clean : s.vats.mem.errs = []) (ph2 : s.train.ph2 = none) :
    let u := s.cleared.reloadTiles.rollForward none
    PagesKeep s u [] ∧ (s.loaded = [] → u.tiles = []) ∧
    u = { s.cleared with pages := u.pages, vats := u.vats, sec := u.sec, twin := u.twin, free := u.free, tiles := u.tiles } := by
  have loads : _ = _ := s.cleared.reloadTiles_onlyTiles
  have empty : s.loaded = [] → s.cleared.reloadTiles = s.cleared := fun unloaded =>
    State.reloadTiles_empty rfl fun i hi => State.loaded_eq_nil unloaded hi
  generalize s.cleared.reloadTiles = t at loads empty
  have rolls := State.rollForward_idle (s := t) (by rw [loads]; exact clean) (by rw [loads]; exact ph2)
  generalize t.rollForward none = u at rolls
  refine ⟨fun k hk => (rolls.pages k hk).trans ?_, fun unloaded => ?_, ?_⟩
  · rw [loads]
    rfl
  · rw [rolls.eq, empty unloaded]
    rfl
  · rw [rolls.eq, loads]

section
variable {s : State} {p : HPort} {a : CmdArgs} (h : Accepts s p) (hf : a.flags = 0)
include h hf

theorem exec_resetCompute_ends (ph2 : s.train.ph2 = none) (clean : s.vats.mem.errs = []) :
    ∃ u, exec (.resetCompute p a) s = .next u ∧ Ended s u p 0x0C a 0 s.train.committed 0 ∧ HostFrame s u p [pgCmd p] ∧
      u.train = { s.train.idle with ph1 := none, sealedStep := if s.train.held then s.train.sealedStep else none } ∧
      u.felt.packets = [] ∧ u.felt.responses = [] ∧ u.felt.unacked = [] ∧ u.felt.conv = [] ∧ u.felt.wave = none ∧
      (∀ q, (u.query q).run = none ∧ (u.query q).served = false) ∧ (∀ i, u.prog i = s.prog i) ∧
      (s.loaded = [] → u.tiles = []) ∧ u.lease = s.lease ∧ u.repair = s.repair := by
  have goes := exec_resetCompute h hf
  obtain ⟨eq, -, ends, -⟩ := s.begun_starts p (op := 0x0C) a (by decide) (by decide)
  generalize s.begun p 0x0C a = b at goes eq ends
  have drops := b.discardAll_eq
  have clean' := State.discardAll_clean (s := b) (by rw [eq]; exact clean)
  rw [State.resetCompute_eq, State.resetWork] at goes
  generalize b.discardAll = d at goes drops clean'
  have loaded : d.loaded = s.loaded := by rw [drops, eq]; rfl
  have train : d.train = s.train := by rw [drops, eq]
  have frame : EventFrame b d [] := by
    rw [drops]
    exact ⟨rfl, rfl, .refl b []⟩
  obtain ⟨pages, tiles, works⟩ := State.cleared_reloads clean' (by rw [train]; exact ph2)
  generalize d.cleared.reloadTiles.rollForward none = v at goes pages tiles works
  have vtrain : v.train = s.train.cleared := by rw [works, ← train]; rfl
  rw [vtrain] at goes
  obtain ⟨ended, host, -, eq'⟩ := ends (v := v) (ks := []) (frame.trans ⟨by rw [works]; rfl, by rw [works]; rfl, pages⟩)
    (by simp) (by rw [works, drops]; rfl) 0 s.train.committed 0
  have goes' : exec (.resetCompute p a) s = .next (v.endWith 0 s.train.committed 0) := goes
  generalize v.endWith 0 s.train.committed 0 = u at goes' ended host eq'
  have felt : u.felt = d.cleared.felt := by rw [eq', works]
  have query : ∀ q, u.query q = { s.query q with run := none, served := false, next := (s.query q).completed } := fun q => by
    have same : u.queries = s.queries.map fun q =>
        (q.1, { q.2 with run := none, served := false, next := q.2.completed }) := by
      rw [eq', works, drops, eq]
      rfl
    unfold State.query
    rw [same]
    exact sget_map ({} : QSlot) s.queries q (f := fun x => { x with run := none, served := false, next := x.completed }) rfl
  refine ⟨u, goes', ended, host, ?_, by rw [felt]; rfl, by rw [felt]; rfl, by rw [felt]; rfl, by rw [felt]; rfl,
    by rw [felt]; rfl, fun q => by rw [query]; exact ⟨rfl, rfl⟩, fun i => ?_, fun unloaded => ?_, ?_, ?_⟩
  · rw [eq']
    show v.train.idle = _
    rw [vtrain]
    rfl
  · rw [eq', works, drops, eq]
    rfl
  · rw [eq']
    exact tiles (loaded.trans unloaded)
  · rw [eq', works, drops, eq]
    rfl
  · rw [eq', works, drops, eq]
    rfl

end

/-! SCRUB -/

/-- What stands at a key of a map that a test of the keys has thinned. -/
theorem sget_filter_key {α : Type} (d : α) (m : List (Nat × α)) (test : Nat → Bool) (i : Nat) :
    sget d (m.filter fun e => test e.1) i = if test i then sget d m i else d := by
  induction m with
  | nil => simp [sget]
  | cons e m ih =>
    obtain ⟨k, v⟩ := e
    rw [List.filter_cons]
    by_cases same : i = k
    · subst same
      by_cases keeps : test i = true
      · simp [keeps, sget]
      · simp [keeps, ih]
    · have skips : sget d ((k, v) :: m) i = sget d m i := by simp [sget, same]
      rw [skips, ← ih]
      split
      · simp [sget, same]
      · rfl

/-- A zeroed region of whole words reads 0, and no other byte changes (R355, R417). -/
theorem EccMem.byte_zero (m : EccMem) (r x : Nat) :
    (m.zero (r * 1048576) 1048576).byte x = if x / 1048576 = r then 0 else m.byte x := by
  have none_ : (({} : WordErr).fix.1.getD ({} : WordErr).d) = 0 := by decide
  have cell := sget_filter_key 0 m.cells
    (fun k => !(decide (r * 1048576 ≤ k) && decide (k < r * 1048576 + 1048576))) x
  have err := sget_filter_key {} m.errs (fun k => !wordIn k (r * 1048576, 1048576)) (x / 8 * 8)
  simp only [EccMem.byte, EccMem.zero, sclear, cell, err]
  by_cases inside : x / 1048576 = r
  · have word : wordIn (x / 8 * 8) (r * 1048576, 1048576) = true := by
      simp only [wordIn, decide_eq_true_eq]
      omega
    have low : r * 1048576 ≤ x := by omega
    have high : x < r * 1048576 + 1048576 := by omega
    simp only [inside, word, low, high, decide_true, Bool.and_self, Bool.not_true, Bool.false_eq_true, if_false, if_true, none_,
      Nat.zero_shiftRight]
    rfl
  · have word : wordIn (x / 8 * 8) (r * 1048576, 1048576) = false := by
      simp only [wordIn, decide_eq_false_iff_not]
      omega
    have out : (decide (r * 1048576 ≤ x) && decide (x < r * 1048576 + 1048576)) = false := by
      simp only [Bool.and_eq_false_iff, decide_eq_false_iff_not]
      omega
    simp only [inside, word, out, Bool.not_false, if_true, if_false]

/-- The tainted regions read 0 once they are zeroed, and no other byte changes (R417). -/
theorem foldl_zero_byte (rs : List Nat) (m : EccMem) (x : Nat) :
    (rs.foldl (fun m r => m.zero (r * 1048576) 1048576) m).byte x = if x / 1048576 ∈ rs then 0 else m.byte x := by
  induction rs generalizing m with
  | nil => rfl
  | cons r rs ih =>
    rw [List.foldl_cons, ih, EccMem.byte_zero]
    by_cases first : x / 1048576 = r
    · simp [first]
    · simp [first]

/-- What a scrub leaves in the tiles and in vat space (R417). -/
theorem State.scrub_spec (s : State) :
    (∀ t x, (s.scrub.tile t).sram.byte x = 0) ∧
    ∀ x, s.scrub.vats.mem.byte x = if x / 1048576 ∈ s.sec.taintVat then 0 else s.vats.mem.byte x := by
  refine ⟨fun t x => ?_, fun x => foldl_zero_byte _ _ _⟩
  have tile : s.scrub.tile t = { s.tile t with sram := {} } :=
    sget_map ({} : Tile) s.tiles t (f := fun t => { t with sram := {} }) rfl
  rw [tile]
  exact EccMem.byte_clean _ _ rfl

section
variable {s : State} {p : HPort} {a : CmdArgs} (h : Accepts s p) (hf : a.flags = 0)
include h hf

theorem exec_scrub_unloaded (unloaded : s.loaded = []) :
    ∃ u, exec (.scrub p a) s = .next u ∧ Ended s u p 0x0D a 0 0 0 ∧ HostFrame s u p [pgCmd p] ∧
      u = { s with h0 := u.h0, h1 := u.h1, pages := u.pages, train := s.train.idle, tiles := u.tiles, vats := u.vats
                   sec := { s.sec with taintVat := [], taintSram := false } } ∧
      (∀ t x, (u.tile t).sram.byte x = 0) ∧
      ∀ x, u.vats.mem.byte x = if x / 1048576 ∈ s.sec.taintVat then 0 else s.vats.mem.byte x := by
  have goes := exec_scrub h hf
  obtain ⟨eq, -, ends, -⟩ := s.begun_starts p (op := 0x0D) a (by decide) (by decide)
  generalize s.begun p 0x0D a = b at goes eq ends
  have empty : b.loaded = [] := by rw [eq]; exact unloaded
  have scrubs : b.scrubCommand = b.scrub.endWith 0 0 0 := by
    simp only [State.scrubCommand, empty, List.isEmpty_nil, if_true]
  rw [scrubs] at goes
  obtain ⟨tiles, bytes⟩ := b.scrub_spec
  have works : b.scrub = { b with tiles := b.scrub.tiles, vats := b.scrub.vats
                                  sec := { b.sec with taintVat := [], taintSram := false } } := rfl
  generalize b.scrub = v at goes tiles bytes works
  obtain ⟨ended, host, -, eq'⟩ := ends (v := v) (ks := []) (by rw [works]; exact ⟨rfl, rfl, .refl b []⟩) (by simp)
    (by rw [works]) 0 0 0
  generalize v.endWith 0 0 0 = u at goes ended host eq'
  have tile : ∀ t, u.tile t = v.tile t := fun t => by rw [eq']; rfl
  have vats : u.vats = v.vats := by rw [eq']
  refine ⟨u, goes, ended, host, by rw [eq', works, eq, ← h.run_eq_none], fun t x => by rw [tile, tiles], fun x => ?_⟩
  rw [vats, bytes, eq]

theorem exec_scrub_loaded (loaded : s.loaded ≠ []) :
    ∃ u, exec (.scrub p a) s = .next u ∧ Ended s u p 0x0D a fDESC_INVALID 0 0 ∧ HostFrame s u p [pgCmd p] ∧
      u = { s with h0 := u.h0, h1 := u.h1, pages := u.pages, train := s.train.idle } := by
  have goes := exec_scrub h hf
  have fails : (s.begun p 0x0D a).scrubCommand = (s.begun p 0x0D a).failCommand fDESC_INVALID := by
    have same : (s.begun p 0x0D a).loaded = s.loaded := by rw [State.begun_eq]; rfl
    have some_ : s.loaded.isEmpty = false := by simpa using loaded
    simp only [State.scrubCommand, same, some_, Bool.false_eq_true, if_false]
  rw [fails] at goes
  obtain ⟨ended, host, eq, fields, -⟩ := begun_failCommand (p := p) 0x0D a h.run_eq_none fDESC_INVALID
  refine ⟨_, goes, ended, host, ?_⟩
  rw [← fields (by decide) (by decide)]
  exact eq

end

end Sys2Proof.Machine

open Sys2Proof Sys2Proof.Machine

/-- Settles O13: each command begins, does its work on what has begun, and ends (`Starts`). -/
theorem pairResetScrub : Obligations.PairResetScrub :=
  ⟨fun _ _ _ h hf => ⟨fun _ image st => exec_twinJoin_lockstep h hf image st,
      fun _ image st => exec_twinJoin_holder h hf image st,
      fun _ image st1 st3 counters => exec_twinJoin_hellos h hf image st1 st3 counters,
      fun image st => exec_twinJoin_unloaded h hf image st, fun st counters => exec_twinLeave_lockstep h hf st counters,
      fun st => exec_twinLeave_alone h hf st⟩,
    fun _ _ _ h hf => ⟨fun ph2 clean => exec_resetCompute_ends h hf ph2 clean,
      fun unloaded => exec_scrub_unloaded h hf unloaded, fun loaded => exec_scrub_loaded h hf loaded⟩⟩
end

section
/-! PROOFS. The security counters: every row but five keeps the steady part of the state, and those five lower neither
TAMPER_COUNT nor the minimum security version (R410, R418, R419). -/

namespace Sys2Proof.Machine

/-! Rows that keep the steady part -/

/-- Whatever state an outcome answers has the steady part of `s`. -/
def Steadies (s : State) (o : Out) : Prop := ∀ t, o = .next t → t.steady = s.steady

@[simp] theorem steadies_next {s u : State} : Steadies s (.next u) ↔ u.steady = s.steady :=
  ⟨fun h => h u rfl, fun h _ e => by cases e; exact h⟩

@[simp] theorem steadies_fault (s : State) (f : Fault) : Steadies s (.fault f) := fun _ h => nomatch h

@[simp] theorem steadies_refused (s : State) (r : Refusal) : Steadies s (.refused r) := fun _ h => nomatch h

/-- A row goes on past the check of its unit. -/
theorem steadies_past {s : State} {bad : Prop} [Decidable bad] {f : Fault} {o : Out} (h : Steadies s o) :
    Steadies s (if bad then .fault f else o) := by
  split
  · exact steadies_fault s f
  · exact h

/-- A row that changes nothing on some condition. -/
theorem steadies_unless {s : State} {idle : Prop} [Decidable idle] {o : Out} (h : Steadies s o) :
    Steadies s (if idle then .next s else o) := by
  split
  · exact steadies_next.mpr rfl
  · exact h

theorem seqRow_steadies (s : State) (t : Nat) (c : Ctx) (opc : Nat) {k : Env → State → State}
    (hk : ∀ e u, (k e u).steady = u.steady) : Steadies s (seqRow s t c opc k) := by
  refine steadies_past ?_
  split
  · exact steadies_next.mpr rfl
  · exact steadies_next.mpr (State.tileFault_steady ..)
  · split_ifs
    · exact steadies_next.mpr (by rw [hk, State.tileReads_steady])
    · exact steadies_next.mpr rfl
    · exact steadies_next.mpr (State.invalid_steady ..)

theorem issueRow_steadies (s : State) (t : Nat) (c : Ctx) (opc : Nat) (full : Env → State → Bool)
    {k : Issue → Env → State → State} (hk : ∀ b e u, (k b e u).steady = u.steady) :
    Steadies s (issueRow s t c opc full k) := by
  refine seqRow_steadies s t c opc fun e u => ?_
  split_ifs
  · rfl
  · split
    · exact State.tileFault_steady ..
    · rw [hk, State.tileReads_steady]


/-- A calender message changes what its work changes, once its port takes it (R359, R414). -/
theorem heardAlive_steadies (s : State) (h : CalHdr) (n : Nat) {k : State → State} (hk : ∀ u, (k u).steady = u.steady) :
    Steadies s (.next (s.alive h n k)) :=
  steadies_next.mpr (State.alive_steady s h n k hk)

theorem heardSequenced_steadies (s : State) (h : CalHdr) (n : Nat) {k : State → State} (hk : ∀ u, (k u).steady = u.steady) :
    Steadies s (.next (s.sequenced h n k)) :=
  steadies_next.mpr (State.sequenced_steady s h n k hk)

theorem execHello_steadies (s : State) (h : CalHdr) (b : HelloBody) : Steadies s (execHello h b s) := by
  refine steadies_past ?_
  split
  · exact steadies_next.mpr rfl
  · refine heardAlive_steadies s _ 108 fun u => ?_
    dsimp only
    (repeat' split) <;> simp

theorem execHeartbeat_steadies (s : State) (h : CalHdr) (state phase1 committed : Nat) :
    Steadies s (execHeartbeat h state phase1 committed s) := by
  refine steadies_past ?_
  split
  · exact steadies_next.mpr rfl
  · exact heardAlive_steadies s _ 17 fun u => rfl

theorem execRegion_steadies (s : State) (h : CalHdr) (body : List Byte) : Steadies s (execRegion h body s) := by
  refine steadies_past ?_
  split
  · exact steadies_next.mpr rfl
  · refine heardSequenced_steadies s _ _ fun u => ?_
    (repeat' split) <;> simp

theorem execSteplog_steadies (s : State) (h : CalHdr) (body : List Byte) : Steadies s (execSteplog h body s) := by
  refine steadies_past ?_
  split
  · exact steadies_next.mpr rfl
  · refine heardSequenced_steadies s _ _ fun u => ?_
    (repeat' split) <;> simp

theorem execRoundEnd_steadies (s : State) (h : CalHdr) (round left : Nat) : Steadies s (execRoundEnd h round left s) := by
  refine steadies_past ?_
  split
  · exact steadies_next.mpr rfl
  · refine heardSequenced_steadies s _ 8 fun u => ?_
    (repeat' split) <;> rfl

theorem execSwitch_steadies (s : State) (h : CalHdr) (first : Nat) : Steadies s (execSwitch h first s) := by
  refine steadies_past ?_
  split
  · exact steadies_next.mpr rfl
  · refine heardSequenced_steadies s _ 8 fun u => ?_
    (repeat' split) <;> simp

/-- Every field in P0 (R470, R471). -/
def State.runFields (s : State) : State :=
  (List.range 48).foldl (fun s f => s.setField f ((s.field f).toRun (!s.idleField f))) s

/-- The power state of a module that has woken (R471). -/
def State.awakePower (s : State) : State := { s with power := { s.power with waking := false, pstate := 0 } }

/-- What a wake from power state `p` does once every field is in P0 (R470, R471). -/
def State.wokenFrom (s : State) (p : Nat) (failed : List Nat) : State :=
  let s := if p < 3 then s else s.reloadTiles
  let s := if p < 4 then s else failed.foldl State.retireLink s
  let s := s.setEvt pgPower 2
  if s.rebindDue then s else s.woken

theorem execWakeComplete_eq (failed : List Nat) (s : State) (d : Option Replica) :
    execWakeComplete failed s d =
      if !failed.all linkOk then .fault .noSuchUnit
      else if !s.power.waking then .next s
      else .next (s.voteThen d fun u => u.runFields.awakePower.wokenFrom u.power.pstate failed) := rfl

theorem State.runFields_steady (s : State) : s.runFields.steady = s.steady :=
  foldl_steady _ (fun _ _ => State.setField_steady ..) _ _

theorem State.awakePower_steady (s : State) : s.awakePower.steady = s.steady := rfl

theorem State.wokenFrom_steady (s : State) (p : Nat) (failed : List Nat) : (s.wokenFrom p failed).steady = s.steady := by
  have wakes : ∀ v : State, (if v.rebindDue then v else v.woken).steady = v.steady := fun v => by simp
  refine (wakes _).trans ((State.setEvt_steady ..).trans ?_)
  simp

theorem execWakeComplete_steadies (s : State) (failed : List Nat) (d : Option Replica) :
    Steadies s (execWakeComplete failed s d) := by
  rw [execWakeComplete_eq]
  refine steadies_past (steadies_unless (steadies_next.mpr (State.voteThen_steady s d _ fun u => ?_)))
  rw [State.wokenFrom_steady, State.awakePower_steady, State.runFields_steady]

theorem execPatrol_steadies (s : State) (v : Nat) : Steadies s (execPatrol v s) := by
  refine steadies_past (steadies_unless (steadies_next.mpr ?_))
  refine (foldl_steady _ (fun u w => State.vatUe_steady u w) _ _).trans ?_
  refine (foldl_steady _ ?_ _ _).trans (by simp)
  exact fun _ _ => rfl

theorem execBar2Access_steadies (s : State) (p : HPort) (write : Bool) (addr : Nat) (data : List Byte) :
    Steadies s (execBar2Access p write addr data s) := by
  unfold execBar2Access
  split_ifs
  · exact steadies_next.mpr rfl
  · exact steadies_next.mpr (by simp)
  · exact steadies_next.mpr (by simp)
  · exact steadies_next.mpr rfl
  · refine steadies_next.mpr (State.vatLines_steady _ _ _ fun _ => ?_)
    rfl
  · refine steadies_next.mpr (State.vatAccess_steady _ _ _ fun _ => ?_)
    exact foldl_steady _ (fun _ _ => State.lineWrite_steady ..) _ _

/-- The rows that change the steady part: a start-up, a tamper event, a tick of the life counter, and a retirement that is
applied. -/
def Instr.moves : Instr → Bool
  | .suppliesValid _ | .powerUpWave _ | .tamper | .lifeCounterTick | .bindingApplied _ => true
  | _ => false

/-- Every other row keeps the steady part. -/
theorem exec_steadies (c : Instr) (s : State) (h : Instr.moves c = false) : Steadies s (exec c s) := by
  cases c with
  | suppliesValid | powerUpWave | tamper | lifeCounterTick | bindingApplied => exact nomatch h
  -- rows of the host's command pages and registers
  | bind | unbind | loadProgram | runSteps | runQuery | exportSnapshot | importState | attest | twinJoin | twinLeave
  | resetCompute | scrub => exact steadies_next.mpr (State.hostCommand_steady ..)
  | ownerSet | slotLoad | slotClear | zeroize | unsealMode | sealMode => exact steadies_next.mpr (State.keyRow_steady ..)
  | leaseClaim | leaseRelease | leaseHeartbeat | leaseTimeout | latencyTolerance | dumpPeriod =>
    exact steadies_next.mpr (State.writeReg32_steady ..)
  -- words of the sequencer and of the units (R179)
  | nop | seti | addi | loop | tickWait | stepEnd | ctrSet | ctrWait => exact seqRow_steadies _ _ _ _ (by simp)
  | engIssue | reamOperation | copy | permute | gather | scatter | scatterAdd | vconv | add | sub | mul | fma | max
  | min | scale2 | maxabs | sum | move | vring | adamw | sgdm | logpack | vtopk | vcomp | censusClear | censusStore
  | censusFlags | put | get | radd | rmax | rswap | mcast | convAdd =>
    exact issueRow_steadies _ _ _ _ _ (by simp [engRow, copyRow])
  -- messages whose work is a function of the state that has taken them
  | hello => exact execHello_steadies _ _ _
  | heartbeat => exact execHeartbeat_steadies _ _ _ _ _
  | region => exact execRegion_steadies _ _ _
  | steplog => exact execSteplog_steadies _ _ _
  | roundEnd => exact execRoundEnd_steadies _ _ _ _
  | switch => exact execSwitch_steadies _ _ _
  | wakeComplete => exact execWakeComplete_steadies _ _ _
  | patrol => exact execPatrol_steadies _ _
  | bar2Access => exact execBar2Access_steadies _ _ _ _ _
  -- rows every branch of which is made of operations that keep the steady part
  | cmdAbort | leaseExpiry | evtWrite | counterValueWrite | rcRead | smbusBlockWrite | smbusBlockRead | perstRelease
  | pcieLinkDown | d3hot | busOutOfRange | tamperScrubEnd | pstateEntry | heartbeatSend | watermarkTimeout | leaveWaitEnd
  | joinTimeout | tickWaveLaunch | feedFillPoll | stepBegin | viewEntry | stepSeal | phase2Chunk | commit | counterSnapshot
  | dumpWritten | d0 | firmwareUpdate | busRange | registerWrite | perstAssert | coolantSample | wake | rollForward | refOk
  | jtagInstruction | fuseTrip | refLost | kx0 | kx1 | helloRetry | watermark | digest | copyCompletion | vatResponse
  | vectorCompletion | getResponse | waveArrival | tickArrival | linkRetrainDone | vatLineRequest | qtabFillPoll
  | throttleRepeat | voltageSettled | calenderPortDown | leave | vatWriteBack | queryOutput | snapshotLatch | chkSel
  | servicePortPacket | tempSample | sramWriteBack | engineCompletion | streamEntry | replayRequest | remoteArrival
  | acknowledgement | hostReadCompletion =>
    dsimp only [exec, execCmdAbort, execLeaseExpiry, execEvtWrite, execCounterValueWrite, execRcRead, execSmbusBlockWrite,
      execSmbusBlockRead, execPerstRelease, execPcieLinkDown, execD3hot, execBusOutOfRange, execTamperScrubEnd,
      execPstateEntry, execHeartbeatSend, execWatermarkTimeout, execLeaveWaitEnd, execJoinTimeout, execTickWaveLaunch,
      execFeedFillPoll, execStepBegin, execViewEntry, execStepSeal, execPhase2Chunk, execCommit, execCounterSnapshot,
      execDumpWritten, execD0, execFirmwareUpdate, execBusRange, execRegisterWrite, execPerstAssert, execCoolantSample,
      execWake, execRollForward, execRefOk, execJtagInstruction, execFuseTrip, execRefLost, execKx0, execKx1,
      execHelloRetry, execWatermark, execDigest, execCopyCompletion, execVatResponse, execVectorCompletion,
      execGetResponse, execWaveArrival, execTickArrival, execLinkRetrainDone, execVatLineRequest, execQtabFillPoll,
      execThrottleRepeat, execVoltageSettled, execCalenderPortDown, execLeave, execVatWriteBack, execQueryOutput,
      execSnapshotLatch, execChkSel, execServicePortPacket, execTempSample, execSramWriteBack, execEngineCompletion,
      execStreamEntry, execReplayRequest, execRemoteArrival, execAcknowledgement, execHostReadCompletion]
    (repeat' split) <;> simp [*]

/-! The rows that change the security state -/

/-- Neither counter is lower in `y`, but that TAMPER_COUNT has 16 bits (R410, R419). -/
def Security.atLeast (x y : Security) : Prop := min x.tamperCount 65535 ≤ y.tamperCount ∧ x.svnMin ≤ y.svnMin

theorem Security.atLeast.of_eq {x y : Security} (h : (y.tamperCount, y.svnMin) = (x.tamperCount, x.svnMin)) : x.atLeast y := by
  obtain ⟨count, svn⟩ := Prod.mk.inj h
  exact ⟨count ▸ Nat.min_le_left .., svn.ge⟩

/-- The security counters belong to the steady part. -/
theorem counters_of_steady {s t : State} (h : t.steady = s.steady) :
    (t.sec.tamperCount, t.sec.svnMin) = (s.sec.tamperCount, s.sec.svnMin) :=
  congrArg (fun x => (x.2.2.2.1, x.2.2.2.2.2)) h

theorem atLeast_of_steady {s t : State} (h : t.steady = s.steady) : s.sec.atLeast t.sec :=
  .of_eq (counters_of_steady h)

/-- A saturating count of 16 bits goes on from what it shows (R419). -/
theorem satAdd_count (n : Nat) : min n 65535 ≤ satAdd 16 n 1 := by
  show min n 65535 ≤ min (n + 1) 65535
  omega

/-- What a tamper event leaves before it is counted (R418). -/
def State.tamperStops (s : State) : State := ((s.stopAll.recordFault pgSec fTAMPER 0).endCommand fTAMPER).zeroize

/-- The response to a tamper switch is counted, and the scrub runs (R418, R419). -/
def State.tamperCounts (s : State) : State :=
  { s with sec := { s.sec with tamperLatch := true, scrubBusy := true, tamperCount := satAdd 16 s.sec.tamperCount 1 } }

theorem State.tamperCounts_counters (s : State) :
    s.tamperCounts.sec.tamperCount = satAdd 16 s.sec.tamperCount 1 ∧ s.tamperCounts.sec.svnMin = s.sec.svnMin :=
  ⟨rfl, rfl⟩

theorem State.tampered_eq (s : State) : s.tampered = s.tamperStops.tamperCounts.unpair := rfl

theorem State.tamperStops_steady (s : State) : s.tamperStops.steady = s.steady := by simp [State.tamperStops]

/-- A tamper event counts in TAMPER_COUNT, which saturates (R418, R419). -/
theorem State.tampered_atLeast (s : State) : s.sec.atLeast s.tampered.sec := by
  obtain ⟨count, svn⟩ := Prod.mk.inj (counters_of_steady s.tamperStops_steady)
  obtain ⟨counted, kept⟩ := Prod.mk.inj (counters_of_steady s.tamperStops.tamperCounts.unpair_steady)
  obtain ⟨adds, leaves⟩ := s.tamperStops.tamperCounts_counters
  rw [State.tampered_eq]
  refine ⟨?_, (kept.trans (leaves.trans svn)).ge⟩
  rw [counted, adds, count]
  exact satAdd_count _

/-- The image that a start-up activates never lowers the minimum (R410). -/
theorem Security.activate_atLeast (x : Security) : x.atLeast x.activate := by
  unfold Security.activate
  split
  · exact .of_eq rfl
  · exact ⟨Nat.min_le_left .., Nat.le_max_left ..⟩

theorem State.boot_atLeast (s : State) : s.sec.atLeast s.boot.sec := by
  unfold State.boot
  split
  · exact .of_eq rfl
  · exact s.sec.activate_atLeast

/-- The state at supplies valid keeps both counters (R397, R419). -/
theorem State.powerOn_sec (s : State) (r : StartupReport) : (s.powerOn r).sec = s.sec.restart := by
  simp only [State.powerOn]

theorem State.waveBegun_atLeast (s : State) : s.sec.atLeast s.waveBegun.sec := by
  unfold State.waveBegun
  split
  · exact s.boot_atLeast
  · exact .of_eq rfl

/-- A start-up keeps both counters, and a switch found operated counts as a tamper event (R397, R418, R419). -/
theorem execSuppliesValid_atLeast {r : StartupReport} {s t : State} (h : execSuppliesValid r s = .next t) :
    s.sec.atLeast t.sec := by
  have powers := s.powerOn_sec r
  unfold execSuppliesValid at h
  generalize s.powerOn r = u at h powers
  split at h
  · exact nomatch h
  · obtain rfl := Host.Outcome.next.inj h
    have tampers := u.tampered_atLeast
    rw [powers] at tampers
    split
    · exact tampers
    · rw [powers]
      exact .of_eq rfl

/-- A wave of power-up activates at most the image of the inactive bank (R410, R473). -/
theorem execPowerUpWave_atLeast {tripped : List Nat} {s t : State} (h : execPowerUpWave tripped s = .next t) :
    s.sec.atLeast t.sec := by
  unfold execPowerUpWave at h
  split at h
  · exact nomatch h
  · split at h
    · obtain rfl := Host.Outcome.next.inj h
      exact .of_eq rfl
    · rename_i r _
      split at h
      · obtain rfl := Host.Outcome.next.inj h
        exact .of_eq (counters_of_steady (State.recordFault_steady ..))
      · extract_lets k at h
        split at h
        · obtain rfl := Host.Outcome.next.inj h
          exact .of_eq rfl
        · have begins := s.waveBegun_atLeast
          have closes := counters_of_steady (s.waveBegun.closeWave_steady k (tripped ++ r.tripped))
          change Host.Outcome.next
            (let w : State := { s.waveBegun.closeWave k (tripped ++ r.tripped) with power := _ }
             if k + 1 < 8 then w else w.stage 2) = _ at h
          generalize s.waveBegun.closeWave k (tripped ++ r.tripped) = w at h closes
          obtain rfl := Host.Outcome.next.inj h
          obtain ⟨count, svn⟩ := Prod.mk.inj closes
          unfold Security.atLeast at begins
          rw [← count, ← svn] at begins
          dsimp only
          split <;> exact begins

/-- A retirement that is applied leaves the security state (R36). -/
theorem State.applyRetire_counters (s : State) :
    (s.applyRetire.sec.tamperCount, s.applyRetire.sec.svnMin) = (s.sec.tamperCount, s.sec.svnMin) := by
  have prepared : s.prepared.steady = s.steady := foldl_steady _ (fun t i => State.prepare_steady t s.target i) _ _
  have retired : s.retired.sec = s.prepared.sec := by simp only [State.retired]
  have rebuilt : s.rebuilt.sec = s.retired.sec := by
    have only : s.rebuilt = _ := s.rebuilt_onlyTiles
    rw [only]
  rw [State.applyRetire_eq, counters_of_steady s.rebuilt.bound_steady, rebuilt, retired, counters_of_steady prepared]

theorem execBindingApplied_atLeast {d : Option Replica} {s t : State} (h : execBindingApplied d s = .next t) :
    s.sec.atLeast t.sec := by
  have votes := counters_of_steady (s.vote_steady d)
  unfold execBindingApplied at h
  dsimp only at h
  generalize (s.vote d).2 = v at h votes
  split_ifs at h <;> obtain rfl := Host.Outcome.next.inj h
  · exact .of_eq rfl
  · exact .of_eq rfl
  · exact .of_eq votes
  · exact .of_eq ((counters_of_steady v.applyReq_steady).trans votes)
  · exact .of_eq (v.applyRetire_counters.trans votes)
  · exact .of_eq ((counters_of_steady v.applyRetire.woken_steady).trans (v.applyRetire_counters.trans votes))

end Sys2Proof.Machine

open Sys2Proof Sys2Proof.Machine

/-- Settles O7, by the rows: those that keep the steady part of the state, and the five that may change it. -/
theorem securityNeverLowers : Obligations.SecurityNeverLowers := by
  intro c s t h
  cases moves : Instr.moves c with
  | false => exact atLeast_of_steady (exec_steadies c s moves t h)
  | true =>
    cases c with
    | suppliesValid r => exact execSuppliesValid_atLeast h
    | powerUpWave tripped => exact execPowerUpWave_atLeast h
    | tamper =>
      obtain rfl := Host.Outcome.next.inj h
      exact s.tampered_atLeast
    | lifeCounterTick =>
      obtain rfl := Host.Outcome.next.inj h
      exact Security.atLeast.of_eq rfl
    | bindingApplied d => exact execBindingApplied_atLeast h
    | _ => exact nomatch moves
end

section
/-! PROOFS. What reset leaves in the registers (R397, R419, R429, R433, R436, R446, R449, R450, R469, R481, R489, R493). -/

namespace Sys2Proof.Machine

/-! The sparse parts hold nothing at reset: each reads as its default. -/

theorem reset_page (k : Nat) : State.reset.page k = {} := rfl

theorem reset_field (f : Nat) : State.reset.field f = {} := rfl

theorem reset_prog (i : Nat) : State.reset.prog i = none := rfl

theorem reset_slot (i : Nat) : State.reset.sec.slot i = none := rfl

/-- Both contexts of every tile idle (R176). -/
theorem reset_ctx (t : Nat) (c : Ctx) : (State.reset.tile t).ctx c = {} := by
  cases c <;> rfl

theorem reset_ctrs (t : Nat) : (State.reset.tile t).ctrs = [] := rfl

/-- An idle context's registers read 0 (log entry 2). -/
theorem idle_reg (i : Nat) : CtxState.reg {} i = 0 := by
  unfold CtxState.reg
  split <;> rfl

end Sys2Proof.Machine

open Sys2Proof Sys2Proof.Machine

/-- Settles O2, by what each sparse part reads when it holds nothing. -/
theorem resetValues : Obligations.ResetValues := by
  refine ⟨rfl, rfl, fun k => ?_, rfl, rfl, rfl, rfl, rfl, rfl, fun f => ?_, rfl, rfl, rfl, rfl, reset_slot, rfl, reset_prog,
    fun t c => ?_⟩
  · rw [reset_page]
    exact ⟨rfl, rfl, rfl, rfl, rfl, fun i => rfl⟩
  · rw [reset_field]
  · rw [reset_ctx, reset_ctrs]
    exact ⟨rfl, rfl, idle_reg, fun i => rfl⟩
end

section
/-! PROOFS. Stopping, zeroizing and scrubbing as equations: what each leaves of the state (R396, R415, R417, R418). -/

namespace Sys2Proof.Machine

/-! Stopping -/

theorem State.discardAll_keeps (s : State) :
    (∃ j, s.discardAll.twin = { s.twin with join := j }) ∧ ∃ l, s.discardAll.sec = { s.sec with taintVat := l } := by
  obtain ⟨-, ⟨j0, t0⟩, ⟨l0, s0⟩, -⟩ := s.discard_keeps 0
  obtain ⟨-, ⟨j1, t1⟩, ⟨l1, s1⟩, -⟩ := (s.discard 0).discard_keeps 1
  obtain ⟨-, ⟨j2, t2⟩, ⟨l2, s2⟩, -⟩ := ((s.discard 0).discard 1).discard_keeps 2
  obtain ⟨-, ⟨j3, t3⟩, ⟨l3, s3⟩, -⟩ := (((s.discard 0).discard 1).discard 2).discard_keeps 3
  refine ⟨⟨j3, ?_⟩, ⟨l3, ?_⟩⟩
  · rw [State.discardAll, t3, t2, t1, t0]
  · rw [State.discardAll, s3, s2, s1, s0]

/-- The training run once all work is discarded (R415, R418). -/
def Train.stopped (t : Train) : Train :=
  { t with ph1 := none, ph2 := none, sealedStep := none, running := false, ending := none, feedWait := false, held := false }

/-- The query slots once all work is discarded. -/
def stoppedQueries (qs : List (Nat × QSlot)) : List (Nat × QSlot) :=
  qs.map fun q => (q.1, { q.2 with run := none, served := false, next := q.2.completed })

/-- The state once all work is discarded (R415, R418). -/
def State.idled (s : State) : State :=
  { s with train := s.train.stopped, queries := stoppedQueries s.queries, bind := { s.bind with req := none }
           felt := { s.felt with wave := none } }

theorem State.stopAll_eq_idled (s : State) : s.stopAll = s.discardAll.idled := by
  unfold State.stopAll State.discardAll
  generalize (((s.discard 0).discard 1).discard 2).discard 3 = d
  rfl

/-- Stopping every program touches neither the ports, the pages, the power sequencing nor the keys (R415, R418). -/
theorem State.stopAll_eq (s : State) :
    let u := s.stopAll
    u = { s with
      vats := u.vats, sec := u.sec, twin := u.twin, tiles := u.tiles, felt := u.felt, free := u.free
      train := s.train.stopped, queries := stoppedQueries s.queries, bind := { s.bind with req := none } } := by
  have drops := s.discardAll_eq
  rw [State.stopAll_eq_idled]
  generalize s.discardAll = d at drops
  rw [drops]
  rfl

theorem State.stopAll_keeps (s : State) :
    (∃ j, s.stopAll.twin = { s.twin with join := j }) ∧ ∃ l, s.stopAll.sec = { s.sec with taintVat := l } := by
  have keeps := s.discardAll_keeps
  rw [State.stopAll_eq_idled]
  generalize s.discardAll = d at keeps
  exact keeps

theorem stoppedQueries_run (qs : List (Nat × QSlot)) (q : Nat) : (sget ({} : QSlot) (stoppedQueries qs) q).run = none := by
  rw [stoppedQueries, sget_map ({} : QSlot) qs q
    (f := fun x => { x with run := none, served := false, next := x.completed }) rfl]

/-! Zeroizing -/

/-- The pages on which the loss of calender ports is recorded. -/
def calPages : List Nat := pgTwin :: (List.range 48).map pgSite

/-- A member that zeroizes outside TWIN_JOIN: what stays, with no sealed step, and in no pair (R384, R396). -/
structure Severed (s u : State) : Prop where
  eq : u = { s with h0 := u.h0, h1 := u.h1, pages := u.pages, twin := u.twin, train := u.train, tiles := u.tiles
                    vats := u.vats, sec := u.sec }
  pages : EventFrame s u calPages
  sec : ∃ l, u.sec = { s.sec with taintVat := l }
  quiet : s.train.sealedStep = none ∨ s.twin.st = 0 ∨ s.twin.st = 2 →
    u.train = s.train ∧ u.tiles = s.tiles ∧ u.vats = s.vats ∧ u.sec = s.sec
  alone : s.twin.st = 0 ∨ s.twin.st = 2 → u.twin = { s.twin with ports := u.twin.ports }

theorem Severed.refl (s : State) : Severed s s :=
  ⟨rfl, .refl s _, ⟨_, rfl⟩, fun _ => ⟨rfl, rfl, rfl, rfl⟩, fun _ => rfl⟩

theorem Severed.trans {s t u : State} (h : Severed s t) (g : Severed t u) : Severed s u := by
  have st : s.twin.st = 0 ∨ s.twin.st = 2 → t.twin.st = 0 ∨ t.twin.st = 2 := fun alone => by
    rw [h.alone alone]
    exact alone
  obtain ⟨l, hl⟩ := h.sec
  obtain ⟨m, hm⟩ := g.sec
  refine ⟨by rw [g.eq, h.eq], h.pages.trans g.pages, ⟨m, by rw [hm, hl]⟩, fun q => ?_, fun alone => ?_⟩
  · obtain ⟨train, tiles, vats, sec⟩ := h.quiet q
    obtain ⟨train', tiles', vats', sec'⟩ := g.quiet (by rw [train]; exact q.imp id st)
    exact ⟨train'.trans train, tiles'.trans tiles, vats'.trans vats, sec'.trans sec⟩
  · rw [g.alone (st alone), h.alone alone]

theorem pgSite_calSite_mem (p : Nat) : pgSite (calSite p) ∈ calPages := by
  have below : calSite p < 48 := by unfold calSite; split <;> decide
  exact List.mem_cons_of_mem _ (List.mem_map.mpr ⟨_, List.mem_range.mpr below, rfl⟩)

theorem Severed.of_portOff (s : State) (p : Nat) : Severed s (s.portOff p false) := by
  obtain ⟨eq, pages, becomes, -⟩ := s.portOff_spec p
  generalize s.portOff p false = u at eq pages becomes
  have listed : ∀ k ∈ [pgSite (calSite p)], k ∈ calPages := fun k hk => by
    rw [List.mem_singleton.mp hk]
    exact pgSite_calSite_mem p
  refine ⟨by rw [eq], pages.mono listed, ⟨s.sec.taintVat, by rw [eq]⟩, fun _ => ?_, fun _ => becomes.twin⟩
  rw [eq]
  exact ⟨rfl, rfl, rfl, rfl⟩

theorem State.vatStore_sec (s : State) (a : Nat) (bs : List Byte) :
    ∃ l, (s.vatStore a bs).sec = { s.sec with taintVat := l } :=
  ⟨taint s.sec.taintVat a bs.length, by
    rw [State.vatStore, (Counted.of_countLines _ _ _).eq]
    rfl⟩

/-- Entering phase 2 writes vat space, whose regions it marks (R319, R417). -/
theorem State.enterPhase2_sec (s : State) : ∃ l, (s.enterPhase2 none).sec = { s.sec with taintVat := l } := by
  have routine : ∀ t : State, t.loadRoutine.sec = t.sec := fun t => by
    rw [show t.loadRoutine = _ from t.loadRoutine_onlyTiles]
  have begins : ∀ t : State, ∃ l, t.beginPhase2.sec = { t.sec with taintVat := l } := fun t => by
    unfold State.beginPhase2
    split
    · obtain ⟨l, hl⟩ := State.vatStore_sec (State.loadRoutine _) _ _
      exact ⟨l, hl.trans (by rw [routine])⟩
    · exact ⟨_, rfl⟩
  unfold State.enterPhase2
  split
  · rw [State.voteThen_none]
    obtain ⟨l, hl⟩ := begins s.decided
    exact ⟨l, by rw [hl, (Counted.of_decided s).eq]⟩
  · exact ⟨_, rfl⟩

theorem Severed.of_toSimplex {s : State} (st : s.twin.st ≠ 0) (st2 : s.twin.st ≠ 2) : Severed s (s.toSimplex none) := by
  have simplex := toSimplex_spec st2
  obtain ⟨-, -, -, eq⟩ := partnerLost_events st2
  have goes : s.toSimplex none = State.enterPhase2 { (s.recordFault pgTwin fPARTNER_LOST 0).setTwin 2 with
    twin := { ((s.recordFault pgTwin fPARTNER_LOST 0).setTwin 2).twin.clear with join := none } } none := rfl
  generalize (s.recordFault pgTwin fPARTNER_LOST 0).setTwin 2 = v at goes eq
  have secV : v.sec = s.sec := by rw [eq]
  have trainV : v.train = s.train := by rw [eq]
  obtain ⟨l, hl⟩ := State.enterPhase2_sec { v with twin := { v.twin.clear with join := none } }
  rw [← goes] at hl
  have unsealed : s.train.sealedStep = none → (s.toSimplex none).sec = s.sec := fun h => by
    rw [goes, State.enterPhase2_none (by exact trainV ▸ h), ← secV]
  refine ⟨simplex.eq, simplex.pages.mono (by simp [calPages]), ⟨l, by rw [hl, ← secV]⟩, fun q => ?_, fun alone => ?_⟩
  · have none_ := q.resolve_right (by omega)
    obtain ⟨train, tiles, vats⟩ := simplex.unsealed none_
    exact ⟨train, tiles, vats, unsealed none_⟩
  · omega

/-- No TWIN_JOIN runs. -/
def State.notJoining (s : State) : Prop := ∀ r, s.run = some r → r.op ≠ 0x0A

theorem State.endJoin_eq_self {s : State} (h : s.notJoining) (code : Nat) : s.endJoin code = s := by
  unfold State.endJoin
  split
  · next r hr => rw [if_neg (h r hr)]
  · rfl

theorem State.joinFails_unjoined {s : State} (h : s.notJoining) {code : Nat} (hc : code ≠ 1) (info : Nat) :
    s.joinFails code info = (s.recordFault pgTwin code info).unjoined := by
  have run : (s.recordFault pgTwin code info).run = s.run := by rw [State.recordFault_eq]
  have fails : s.joinFails code info = (s.recordFault pgTwin code info).unjoined.endJoin code := by
    unfold State.joinFails
    rw [if_neg hc]
    rfl
  have stays : (s.recordFault pgTwin code info).unjoined.run = s.run := by
    rw [(State.unjoined_only _).2]
    exact run
  rw [fails, State.endJoin_eq_self fun r hr => h r (stays ▸ hr)]

theorem Severed.of_partnerLost {s : State} (h : s.notJoining) : Severed s s.partnerLost := by
  unfold State.partnerLost
  split_ifs with lockstep holder joiner
  · exact .of_toSimplex (by omega) (by omega)
  · have simplex := Severed.of_toSimplex (s := s) (by omega) (by omega)
    rw [State.endJoin_eq_self fun r hr => h r (by rw [← hr, simplex.eq])]
    exact simplex
  · rw [State.joinFails_unjoined h (by decide)]
    have only := s.recordFault_only pgTwin fPARTNER_LOST 0
    generalize s.recordFault pgTwin fPARTNER_LOST 0 = v at only
    have only' := v.unjoined_only
    generalize v.unjoined = u at only'
    have eq : u = { s with h0 := u.h0, h1 := u.h1, pages := u.pages, twin := u.twin } := by rw [only'.2, only.2]
    refine ⟨by rw [eq], (only.1.trans only'.1).mono (by simp [calPages]), ⟨s.sec.taintVat, by rw [eq]⟩,
      fun _ => ?_, fun alone => ?_⟩
    · rw [eq]
      exact ⟨rfl, rfl, rfl, rfl⟩
    · omega
  · exact .refl s

theorem Severed.notJoining {s u : State} (h : Severed s u) (n : s.notJoining) : u.notJoining := fun r hr =>
  n r (by rw [← hr, h.eq])

theorem Severed.of_calDown {s : State} (h : s.notJoining) (p : Nat) : Severed s (s.calDown p false) := by
  have off := Severed.of_portOff s p
  unfold State.calDown
  dsimp only
  split
  · exact off.trans (.of_partnerLost (off.notJoining h))
  · exact off

theorem Severed.foldl_calDown (ps : List Nat) {s : State} (h : s.notJoining) :
    Severed s (ps.foldl (fun s p => s.calDown p false) s) := by
  induction ps generalizing s with
  | nil => exact .refl s
  | cons p ps ih =>
    have down := Severed.of_calDown h p
    exact down.trans (ih (down.notJoining h))

/-- The session keys of the four calender ports are zeroized (R396). -/
def Twin.keyless (t : Twin) : Twin :=
  (List.range 4).foldl (fun t p => t.setPort p { t.port p with keyOut := none, keyIn := none }) t

theorem Twin.keyless_ports (t : Twin) : t.keyless = { t with ports := t.keyless.ports } := by
  unfold Twin.keyless
  simp only [List.range_succ, List.range_zero, List.nil_append, List.foldl_append, List.foldl_cons, List.foldl_nil,
    Twin.setPort]

theorem Twin.keyless_none (t : Twin) {c : Nat} (hc : c < 4) :
    (t.keyless.port c).keyOut = none ∧ (t.keyless.port c).keyIn = none := by
  unfold Twin.keyless
  simp only [List.range_succ, List.range_zero, List.nil_append, List.foldl_append, List.foldl_cons, List.foldl_nil,
    Twin.setPort, Twin.port, sget_sput]
  interval_cases c <;> exact ⟨rfl, rfl⟩

/-- Every calender port that is up goes down (R396). -/
def State.severed (s : State) : State := s.twin.upPorts.foldl (fun s p => s.calDown p false) s

theorem State.zeroize_eq (s : State) :
    s.zeroize = { State.severed { s with sec := { s.sec with slots := [] } } with
      twin := (State.severed { s with sec := { s.sec with slots := [] } }).twin.keyless } := rfl

/-- What zeroizing leaves: every slot and every session key is gone (R396, R415, R418). -/
structure Zeroized (s u : State) : Prop where
  eq : u = { s with h0 := u.h0, h1 := u.h1, pages := u.pages, twin := u.twin, train := u.train, tiles := u.tiles
                    vats := u.vats, sec := u.sec }
  pages : EventFrame s u calPages
  sec : ∃ l, u.sec = { s.sec with slots := [], taintVat := l }
  keyless : ∀ c, c < 4 → (u.twin.port c).keyOut = none ∧ (u.twin.port c).keyIn = none
  quiet : s.twin.upPorts = [] ∨ s.train.sealedStep = none ∨ s.twin.st = 0 ∨ s.twin.st = 2 →
    u.train = s.train ∧ u.tiles = s.tiles ∧ u.vats = s.vats ∧ u.sec = { s.sec with slots := [] }
  alone : s.twin.upPorts = [] ∨ s.twin.st = 0 ∨ s.twin.st = 2 → u.twin = { s.twin with ports := u.twin.ports }

theorem State.zeroize_spec {s : State} (h : s.notJoining) : Zeroized s s.zeroize := by
  rw [State.zeroize_eq]
  have severs : Severed { s with sec := { s.sec with slots := [] } }
      (State.severed { s with sec := { s.sec with slots := [] } }) :=
    Severed.foldl_calDown _ h
  have none_ : s.twin.upPorts = [] →
      State.severed { s with sec := { s.sec with slots := [] } } = { s with sec := { s.sec with slots := [] } } := fun up => by
    unfold State.severed
    rw [up, List.foldl_nil]
  generalize State.severed { s with sec := { s.sec with slots := [] } } = v at severs none_
  have keyless := fun c (hc : c < 4) => v.twin.keyless_none hc
  have ports := v.twin.keyless_ports
  generalize v.twin.keyless = k at keyless ports
  obtain ⟨h0, h1, pages⟩ := severs.pages
  refine ⟨by rw [severs.eq], ⟨h0, h1, pages⟩, severs.sec, keyless, fun q => ?_, fun q => ?_⟩
  · obtain up | q := q
    · rw [none_ up]
      exact ⟨rfl, rfl, rfl, rfl⟩
    · exact severs.quiet q
  · show k = _
    rw [ports]
    obtain up | q := q
    · rw [none_ up]
    · rw [severs.alone q]

/-! Leaving the pair -/

theorem State.unpair_only (s : State) :
    OnlyEvents { s with twin := { s.twin.clear with join := none, probe := none, st := 0 } } s.unpair [pgTwin] :=
  State.setTwin_only { s with twin := { s.twin.clear with join := none, probe := none } } 0

end Sys2Proof.Machine
end

section
/-! PROOFS. The tamper response, the end of its scrub, and the check of a firmware image (R396, R410, R417 to R419). -/

namespace Sys2Proof.Machine

theorem pgSec_not_calPages : pgSec ∉ calPages := by decide

/-- The state as a tamper event with no command running leaves it before the keys go (R418). -/
theorem State.tamperStops_eq {s : State} (run : s.run = none) :
    s.tamperStops = (s.stopAll.recordFault pgSec fTAMPER 0).zeroize := by
  have stops := s.stopAll_eq
  have still : (s.stopAll.recordFault pgSec fTAMPER 0).run = none := by
    rw [State.recordFault_eq, stops]
    exact run
  unfold State.tamperStops
  generalize s.stopAll.recordFault pgSec fTAMPER 0 = t at still
  rw [State.endCommand, still]

/-- A tamper event of a module with no calender port up and no command running (R396, R418, R419). -/
theorem State.tampered_spec {s : State} (down : s.twin.upPorts = []) (run : s.run = none) :
    let u := s.tampered
    FaultOn s u pgSec fTAMPER 0 ∧
    u.sec = { s.sec with slots := [], tamperLatch := true, scrubBusy := true, taintVat := u.sec.taintVat
                         tamperCount := satAdd 16 s.sec.tamperCount 1 } ∧
    u.train = s.train.stopped ∧ u.queries = stoppedQueries s.queries ∧ u.repair = s.repair ∧ u.lease = s.lease := by
  have stops := s.stopAll_eq
  obtain ⟨⟨j, twin⟩, ⟨l, sec⟩⟩ := s.stopAll_keeps
  rw [State.tampered_eq, State.tamperStops_eq run]
  generalize s.stopAll = a at stops twin sec
  have only := a.recordFault_only pgSec fTAMPER 0
  have on := a.recordFault_on pgSec fTAMPER 0
  generalize a.recordFault pgSec fTAMPER 0 = b at only on
  have zeroes : Zeroized b b.zeroize := State.zeroize_spec fun r hr => by
    rw [only.2, stops] at hr
    exact nomatch run.symm.trans hr
  obtain ⟨train, -, -, keys⟩ := zeroes.quiet (.inl (by rw [only.2, twin]; exact down))
  generalize b.zeroize = z at zeroes train keys
  have unpairs := z.tamperCounts.unpair_only
  generalize z.tamperCounts.unpair = u at unpairs
  have secU : u.sec = z.tamperCounts.sec := by rw [unpairs.2]
  have before : PagesKeep s a [] := fun k _ => by
    rw [stops]
    rfl
  have after : PagesKeep b u calPages := zeroes.pages.2.2.trans (unpairs.1.2.2.mono (by simp [calPages]))
  refine ⟨on.within before after pgSec_not_calPages, ?_, ?_, ?_, ?_, ?_⟩
  · rw [secU, State.tamperCounts, keys, only.2, sec]
  · rw [unpairs.2]
    exact train.trans (by rw [only.2, stops])
  · rw [unpairs.2, State.tamperCounts, zeroes.eq, only.2, stops]
  · rw [unpairs.2, State.tamperCounts, zeroes.eq, only.2, stops]
  · rw [unpairs.2, State.tamperCounts, zeroes.eq, only.2, stops]

/-- The end of the scrub after a tamper event (R416 to R418). -/
theorem exec_tamperScrubEnd {s : State} (busy : s.sec.scrubBusy = true) :
    exec .tamperScrubEnd s = .next { s.scrub with
      sec := { s.scrub.sec with scrubBusy := false, isSealed := true }
      ctr := if s.sec.isSealed then s.ctr else s.ctr.masked } := by
  show execTamperScrubEnd s = _
  simp only [execTamperScrubEnd, busy, Bool.not_true, Bool.false_eq_true, if_false]

/-- A firmware image arrives at a module that takes one (R410). -/
theorem exec_firmwareUpdate {s : State} {p : HPort} (reaches : s.reaches p = true) (ready : s.ident.ready = true)
    (idle : s.sec.scrubBusy = false) (img : List Byte) (svn raised : Nat) :
    exec (.firmwareUpdate p img svn raised) s =
      if s.fwOk img svn raised then .next { s with sec := { s.sec with inactive := some ⟨img, svn, raised⟩ } }
      else .next ({ s with sec := { s.sec with inactive := none } }.recordFault pgSec fFW_SIG_FAIL 0) := by
  show execFirmwareUpdate p img svn raised s = _
  simp only [execFirmwareUpdate, reaches, ready, idle, Bool.not_true, Bool.or_self, Bool.false_eq_true, if_false]

theorem State.fwOk_iff (s : State) (img : List Byte) (svn raised : Nat) :
    s.fwOk img svn raised = true ↔
      Config.falconVerify Config.authorityKey img [] = true ∧ s.sec.svnMin ≤ svn ∧ svn < 65536 ∧ raised ≤ svn := by
  simp only [State.fwOk, Bool.and_eq_true, decide_eq_true_eq, and_assoc]

end Sys2Proof.Machine

open Sys2Proof Sys2Proof.Machine

/-- Settles O27: the tamper response step by step, the scrub that ends it, and the two outcomes of an image's check. -/
theorem securityEvents : Obligations.SecurityEvents := by
  refine ⟨fun s => ⟨fun _ down run => ?_, fun busy => ?_⟩, fun s p img svn raised reaches ready idle =>
    ⟨fun ok => ?_, fun bad => ?_, ?_⟩⟩
  · obtain ⟨on, sec, train, queries, repair, lease⟩ := s.tampered_spec down run
    refine ⟨s.tampered, rfl, on, sec, by rw [train]; rfl, by rw [train]; rfl, by rw [train]; rfl,
      fun q => ?_, repair, lease⟩
    rw [State.query, queries, stoppedQueries_run]
  · obtain ⟨tiles, bytes⟩ := s.scrub_spec
    exact ⟨_, exec_tamperScrubEnd busy, rfl, tiles, bytes, rfl⟩
  · rw [exec_firmwareUpdate reaches ready idle, if_pos ok]
  · rw [exec_firmwareUpdate reaches ready idle, if_neg (by simp [bad])]
    have only := State.recordFault_only { s with sec := { s.sec with inactive := none } } pgSec fFW_SIG_FAIL 0
    have on := State.recordFault_on { s with sec := { s.sec with inactive := none } } pgSec fFW_SIG_FAIL 0
    exact ⟨_, rfl, on, only.1, only.2⟩
  · exact s.fwOk_iff img svn raised
end

section
/-! PROOFS. UNSEAL in a state that records an upset at an address which is no multiple of 8: the discard of an operation in
flight changes a byte of a region that is not tainted (R215, R415, R417). -/

namespace Sys2Proof.Machine

/-- The last word before address 2^20 is stored with an upset in its last byte, whose check byte has changed with it, and
a further upset is recorded 4 bytes on, across the boundary of two regions. -/
def strayMem : EccMem :=
  { cells := [(0xFFFFF, 3)], errs := [(0xFFFF8, { d := 2 ^ 56, c := checkByte (2 ^ 56) }), (0xFFFFC, {})] }

/-- A vector operation in flight that writes 8 bytes at address 2^20. -/
def strayOp : UnitOp := { op := 0, ctr := 0, cen := false, ctx := .c0, vdst := [(0x100000, 8)] }

/-- A module in the factory state with that memory, that operation in tile 0 of a bound program, and a package of OP 5 in host
memory at 0x2000 (R403). -/
def strayState : State :=
  { h0 := { perst := false, link := 2, mem := [(0x2000, 5), (0x2018, 1)] }
    lease := { owner := 1 }, ident := { stage := 8, ready := true, served := 1200 }
    bind := { progs := [(0, some {
      image := { raw := [], w := 1, h := 1, ticks := 1, period := 4, classPlan := [] }
      measurement := [], bound := some (0, 0) })] }
    tiles := [(0, { vecQ := [strayOp] })], vats := { mem := strayMem } }

/-- The arguments of KEY_INSTALL of the package at 0x2000. -/
def strayArgs : CmdArgs := { a0 := 0x2000, a1 := 4728 }

/-- The package is one of UNSEAL and passes every check: a module without owner asks for no signature (R404). -/
theorem strayState_package : strayState.pkFault (memRead strayState.h0.mem 0x2000 4728) 4728 = none ∧
    pkOp (memRead strayState.h0.mem 0x2000 4728) = 5 := by decide +kernel

theorem strayState_accepts : Accepts strayState .h0 := ⟨rfl, rfl, rfl, rfl, rfl, rfl, rfl, rfl⟩

/-! The mode changes -/

/-- What the discarded operations wrote is free, in regions that are marked (R215, R417). -/
theorem State.discard_fills (s : State) (prog : Nat) :
    (s.discard prog).vats.mem = (s.freeVat (s.droppedRanges prog)).vats.mem ∧
    (s.discard prog).sec = (s.freeVat (s.droppedRanges prog)).sec := by
  unfold State.discard
  dsimp only
  generalize s.freeVat (s.droppedRanges prog) = t
  rw [State.freeTiles_eq]
  exact ⟨rfl, rfl⟩

theorem State.discard_nothing {s : State} {prog : Nat} (h : s.droppedRanges prog = []) :
    (s.discard prog).vats.mem = s.vats.mem ∧ (s.discard prog).sec = s.sec := by
  obtain ⟨mem, sec⟩ := s.discard_fills prog
  rw [h] at mem sec
  exact ⟨mem, sec⟩

/-- The bytes after a change to maintenance mode: those of the regions that are tainted once all work is discarded read 0
(R415, R417). -/
theorem State.changeMode_byte {s : State} (h : s.notJoining) (x : Nat) :
    (s.changeMode false).vats.mem.byte x =
      if x / 1048576 ∈ s.stopAll.sec.taintVat then 0 else s.stopAll.vats.mem.byte x := by
  have stops := s.stopAll_eq
  unfold State.changeMode
  simp only [Bool.false_eq_true, if_false]
  generalize s.stopAll = a at stops
  have zeroes : Zeroized a a.zeroize := State.zeroize_spec fun r hr => h r (by rw [← hr, stops])
  obtain ⟨-, -, vats, sec⟩ := zeroes.quiet (.inr (.inl (by rw [stops]; rfl)))
  have bytes := (a.zeroize.scrub_spec).2 x
  rw [vats, sec] at bytes
  have unpairs := State.unpair_only a.zeroize.scrub.unload
  generalize a.zeroize.scrub.unload.unpair = u at unpairs
  rw [unpairs.2]
  exact bytes

/-- Outside what a write stores, a byte reads as what the write has settled leaves it. -/
theorem EccMem.write_settles (m : EccMem) (a : Nat) (bs : List Byte) (j : Nat) (h : j < a ∨ a + bs.length ≤ j) :
    (m.write a bs).byte j = (if m.errs = [] then m else m.clearFor a bs.length).byte j := by
  simp only [EccMem.write, EccMem.byte, sget_sputs_outside 0 _ a bs j h]

/-- A row of KEY_INSTALL runs for a package of its own OP (R403). -/
theorem State.keyRow_own {s : State} {p : HPort} {a : CmdArgs} {op : Nat}
    (own : leNat (memRead (s.port p).mem a.a0.toNat 2) = op) (d : Option Replica) :
    s.keyRow p op a d = s.hostCommand p 0x08 a d := by
  simp only [State.keyRow, own, ne_eq, not_true_eq_false, false_and, if_false]

/-- A package of OP 5 that passes its checks changes the mode (R403, R404, R415). -/
theorem State.keyInstall_unseals {s : State} {r : Running} (len : r.page.args.a1.toNat = 4728) {k : List Byte}
    (package : (s.dmaTook r.port 1).dmaRead r.port r.page.args.a0.toNat 4728 = k)
    (passes : (s.dmaTook r.port 1).pkFault k 4728 = none) (op : pkOp k = 5) :
    s.keyInstall r = (State.changeMode { s.dmaTook r.port 1 with
      sec := { (s.dmaTook r.port 1).sec with installSeq := leAt k 24 8 } } false).endCommand 0 := by
  have signed : pkPlain k = false := by simp [pkPlain, op]
  simp only [State.keyInstall, len, if_true, package, passes, State.pkApply, signed, op, Bool.false_eq_true, if_false]

/-! That module -/

/-- The module as KEY_INSTALL has read the package (R361, R437). -/
def strayTaken : State := (strayState.begun .h0 0x08 strayArgs).dmaTook .h0 1

/-- The package that it has read. -/
def strayPackage : List Byte := strayTaken.dmaRead .h0 0x2000 4728

/-- The module as UNSEAL begins, with the package's order in force (R404). -/
def strayBegun : State := { strayTaken with sec := { strayTaken.sec with installSeq := leAt strayPackage 24 8 } }

theorem strayState_goes :
    exec (.unsealMode .h0 strayArgs) strayState = .next ((strayBegun.changeMode false).endCommand 0) := by
  have own : leNat (memRead (strayState.port .h0).mem strayArgs.a0.toNat 2) = 5 := by decide +kernel
  have runs : strayState.hostCommand .h0 0x08 strayArgs none =
      (strayState.begun .h0 0x08 strayArgs).keyInstall (latched strayState .h0 0x08 strayArgs) :=
    hostCommand_runs strayState_accepts 0x08 strayArgs rfl
  have passes : strayTaken.pkFault strayPackage 4728 = none := by decide +kernel
  have op : pkOp strayPackage = 5 := by decide +kernel
  have installs : (strayState.begun .h0 0x08 strayArgs).keyInstall (latched strayState .h0 0x08 strayArgs) =
      (strayBegun.changeMode false).endCommand 0 := State.keyInstall_unseals rfl rfl passes op
  exact congrArg Host.Outcome.next ((State.keyRow_own own none).trans (runs.trans installs))

theorem strayBegun_notJoining : strayBegun.notJoining := by
  have run : strayBegun.run = some { latched strayState .h0 0x08 strayArgs with begun := true } := rfl
  intro r hr
  obtain rfl := Option.some.inj (run.symm.trans hr)
  decide

/-- Only the training program has work in flight. -/
theorem strayBegun_drops : strayBegun.droppedRanges 0 = [(0x100000, 8)] ∧ (strayBegun.discard 0).droppedRanges 1 = [] ∧
    ((strayBegun.discard 0).discard 1).droppedRanges 2 = [] ∧
    (((strayBegun.discard 0).discard 1).discard 2).droppedRanges 3 = [] := by decide +kernel

/-- The discard writes at address 2^20, in region 1. -/
theorem strayBegun_stops : ∃ f, strayBegun.stopAll.vats.mem = strayMem.write 0x100000 (freeBytes f 8) ∧
    strayBegun.stopAll.sec.taintVat = [1] := by
  obtain ⟨d0, d1, d2, d3⟩ := strayBegun_drops
  obtain ⟨m0, s0⟩ := strayBegun.discard_fills 0
  obtain ⟨m1, s1⟩ := State.discard_nothing d1
  obtain ⟨m2, s2⟩ := State.discard_nothing d2
  obtain ⟨m3, s3⟩ := State.discard_nothing d3
  rw [d0] at m0 s0
  refine ⟨strayBegun.free, ?_, ?_⟩
  · exact m3.trans (m2.trans (m1.trans m0))
  · rw [show strayBegun.stopAll.sec = _ from s3.trans (s2.trans (s1.trans s0))]
    rfl

/-- The byte before address 2^20 lies in no tainted region, and UNSEAL changes it from 2 to 3. -/
theorem strayState_changes : strayState.vats.mem.byte 0xFFFFF = 2 ∧
    ((strayBegun.changeMode false).endCommand 0).vats.mem.byte 0xFFFFF = 3 := by
  refine ⟨by decide +kernel, ?_⟩
  obtain ⟨f, mem, taint⟩ := strayBegun_stops
  have ends : ((strayBegun.changeMode false).endCommand 0).vats = (strayBegun.changeMode false).vats := by
    rw [State.endCommand_eq_endWith, State.endWith_eq]
  have length : (freeBytes f 8).length = 8 := by simp [freeBytes]
  rw [ends, State.changeMode_byte strayBegun_notJoining, taint, mem, EccMem.write_settles _ _ _ _ (by omega), length]
  decide +kernel

end Sys2Proof.Machine

open Sys2Proof Sys2Proof.Machine

/-- Refutes O14: the statement allows a memory that records an upset at an address which is no multiple of 8. UNSEAL
discards an operation that writes the region after it; before that write the model settles the 8 bytes at the recorded
address, of which the first four lie in a region that is not tainted and belong to a word with an upset of its own. So a
byte there becomes neither 0 nor what it was. -/
theorem not_keyPackages : ¬ Obligations.KeyPackages := by
  intro h
  obtain ⟨passes, op⟩ := strayState_package
  obtain ⟨before, after⟩ := strayState_changes
  obtain ⟨-, -, -, -, unseals, -⟩ := h.2 strayState .h0 strayArgs _ strayState_accepts rfl rfl rfl passes
  obtain ⟨u, goes, -, -, -, -, bytes, -⟩ := unseals op
  obtain rfl := Host.Outcome.next.inj (strayState_goes.symm.trans goes)
  have kept := (bytes 0xFFFFF).2
  rw [after, before] at kept
  exact absurd kept (by decide)
end

section
/-! PROOFS. EXPORT_SNAPSHOT under a key-encryption key of no bytes: what it sends is shorter than the room that the statement
gives an object (R397, R398, R442). -/

namespace Sys2Proof.Machine

/-! The cipher under a key of no bytes -/

/-- The round keys of a key of no bytes are empty, so nothing comes out of the last round. -/
theorem aesEncK_noKey (blk : List Byte) : aesEncK (aesKeys []) blk = [] := by
  have last : nth [] (aesKeys []) 14 = [] := by decide +kernel
  rw [← List.length_eq_zero_iff, aesEncK_length, last]
  rfl

/-- The wrap has replaced its start value and all four parts of the key by what came out of the cipher. -/
theorem kwWrap_noKey (dek : List Byte) : kwWrap [] dek = [] := by
  simp [kwWrap, aesEncK_noKey, chunksOf, List.range, List.range.loop, setNth, xorBytes]

theorem gcmCrypt_length_le (ks : List (List Nat)) (iv d : List Byte) : (gcmCrypt ks iv d).length ≤ d.length := by
  rw [gcmCrypt, xorBytes_length]
  exact Nat.min_le_left _ _

theorem gcmTag_length_le (ks : List (List Nat)) (iv aad ct : List Byte) : (gcmTag ks iv aad ct).length ≤ 16 := by
  rw [gcmTag, xorBytes_length, beBytes, List.length_reverse, leBytes_length]
  exact Nat.min_le_left _ _

/-- Beside the IV, an object under a key of no bytes holds 12 header bytes, the ciphertext and the tag (R398). -/
theorem sealObject_noKey_length (dek iv pt : List Byte) (kind slot rseq : Nat) :
    (sealObject [] dek iv kind slot rseq pt).length ≤ 12 + iv.length + pt.length + 16 := by
  unfold sealObject gcmSeal
  dsimp only
  rw [kwWrap_noKey, List.append_nil]
  generalize hh : leBytes 2 0x5301 ++ leBytes 1 kind ++ leBytes 1 slot ++ leBytes 4 rseq ++ iv ++ leBytes 4 0 = head
  have header : head.length = 12 + iv.length := by
    rw [← hh]
    simp only [List.length_append, leBytes_length]
    omega
  have ct := gcmCrypt_length_le (aesKeys dek) iv pt
  have tag := gcmTag_length_le (aesKeys dek) iv head (gcmCrypt (aesKeys dek) iv pt)
  simp only [List.length_append]
  omega

/-! That module -/

/-- A module in the factory state with a loaded program, whose one persistent record is vat space from 0, and an exportable
key of no bytes in slot 3. -/
def keylessState : State :=
  { h0 := { perst := false, link := 2 }, lease := { owner := 1 }, ident := { stage := 8, ready := true, served := 1200 }
    bind := { progs := [(0, some {
      image := { raw := [], w := 1, h := 1, ticks := 1, period := 4, classPlan := []
                 allocs := [{ vat := true, base := 0, len := 0x80000, persistent := true }] }
      measurement := [], bound := some (0, 0) })] }
    sec := { slots := [(3, some ⟨[], true⟩)] } }

/-- The arguments of an EXPORT_SNAPSHOT of one byte under slot 3 to a buffer of 97 bytes at host address 0x1000. -/
def keylessArgs : CmdArgs := { a0 := 3, a1 := 0x1000, a2 := 97, a4 := 1 }

theorem keylessState_accepts : Accepts keylessState .h0 := ⟨rfl, rfl, rfl, rfl, rfl, rfl, rfl, rfl⟩

theorem keylessState_key : keylessState.sec.exportKey keylessArgs.a0.toNat = .ok [] := rfl

theorem keylessState_range :
    keylessState.persistentRange keylessArgs.a3.toNat keylessArgs.a4.toNat = true := by decide +kernel

/-- An object of one plaintext byte under a key of no bytes, with its trailer, does not fill 97 bytes. -/
theorem keylessObject_short {m : Mem} {dek iv pt : List Byte} {kind slot rseq addr seq site : Nat} {c : Check}
    (hiv : iv.length = 12) (hpt : pt.length = 1) :
    memRead m addr 97 ≠ sealObject [] dek iv kind slot rseq pt ++
      trailer c addr seq site (sealObject [] dek iv kind slot rseq pt) := by
  intro same
  have room := congrArg List.length same
  have short := sealObject_noKey_length dek iv pt kind slot rseq
  simp only [memRead_length, List.length_append, trailer, leBytes_length] at room
  omega

end Sys2Proof.Machine

open Sys2Proof Sys2Proof.Machine

/-- Refutes O12: the statement allows a key slot whose key-encryption key has no bytes. AES under it gives nothing, so the
object has no wrapped key and with its trailer takes at most 57 bytes, where the statement has 97 bytes of host memory hold
exactly these two. -/
theorem not_stateAttested : ¬ Obligations.StateAttested := by
  intro h
  obtain ⟨-, objects, -⟩ := h.1 keylessState .h0 keylessArgs _ keylessState_accepts rfl rfl rfl
  obtain ⟨u, -, -, -, -, -, records⟩ :=
    objects [] keylessState_key (by decide) keylessState_range (by decide) (by decide)
  exact keylessObject_short (bytesAt_length _ _ _) (EccMem.read_length _ _ _) (records 0 (by decide))
end
